-- ==== Sys2Proof/Word.lean ====
section
/-! DEFINITION. The plainest words of the model: bytes, unit numbers and masks of symbol errors. -/

namespace Sys2Proof

/-- One byte of memory, of a descriptor or of a packet. -/
abbrev Byte := BitVec 8

/-- A run of bytes in ascending address order (R11: little-endian values). -/
abbrev Bytes := List Byte

/-- Errors that strike a value: (position, exclusive-or mask) pairs. -/
abbrev Upset := List (Nat × Nat)

/-- Logical core number (R17). -/
abbrev CoreId := Fin 192
/-- Context index (R13). -/
abbrev CtxId := Fin 1024
/-- Fabric port P0 to P7 (R335). -/
abbrev PortId := Fin 8
/-- HBM stack number (R287). -/
abbrev StackId := Fin 20
/-- Gather engine number (R314). -/
abbrev EngineId := Fin 16
/-- Storage target entry (Table 15.28). -/
abbrev TargetId := Fin 32
/-- Storage port number (R407). -/
abbrev EthId := Fin 2
/-- Reticle field number (R16). -/
abbrev FieldId := Fin 4
/-- Stream number of a core (R205). -/
abbrev StreamId := Fin 32
/-- Task slot of a core (R228). -/
abbrev SlotId := Fin 4

end Sys2Proof
end

