-- ==== Sys2Proof/Syntax.lean ====
section
/-! DEFINITION. The commands of the block: one constructor of `Instr` per row of spec/opcode_table.json, and the operands they carry. -/

namespace Sys2Proof

/-- Host function: 0 the PF, 1–31 a VF (R383). -/
abbrev FuncId := Fin 32
/-- Handle index (R131). -/
abbrev HandleId := Fin 256
/-- Sender credit entry (R138). -/
abbrev CreditId := Fin 64
/-- Lane of a fabric port (Table 1.4). -/
abbrev LaneId := Fin 32

/-- Who translates a context's addresses: a core's stream engine, a gather engine, the HIU, a storage port, a fabric port's ingress, the MP (Table 11.9). -/
inductive Translator where
  | se (core : CoreId)
  | ge (engine : EngineId)
  | hiu
  | eth (port : EthId)
  | link (port : PortId)
  | mp
  deriving DecidableEq, Repr

/-- The path by which a register or the mailbox is reached (R494, Table 15.14). -/
inductive Path where
  | pf
  | vf (v : Fin 31)
  | sideband
  | diag
  deriving DecidableEq, Repr

/-- Comparison of two rails (R93): they agree; they differ on the first attempt; they differ on the retry too. -/
inductive Rails where
  | agree
  | transient
  | lasting
  deriving DecidableEq, Repr

/-- Damage a block suffers in flight: on the first fetch and on the one refetch (R96, R170). -/
structure Hit where
  first : Upset
  second : Upset
  deriving DecidableEq, Repr

/-- Symbol errors that strike a memory read: on the first read and on the second (R130, R299). -/
structure Noise where
  first : Upset
  second : Upset
  deriving DecidableEq, Repr

/-- Faults that strike a matrix group: flips of new accumulator values (row × N_form + column, mask) and of converted outputs, on the
first attempt and on the retry; in the integer class also a difference of the two rails (R66, R76, R92). -/
structure GroupHit where
  acc : Upset
  accRetry : Upset
  conv : Upset
  convRetry : Upset
  rails : Rails
  deriving DecidableEq, Repr

/-- A culvert message (Table 8.5); `came` is the port it came in by and the dateline bit there, when it came from the fabric,
and `route` the ROUTE and `deadline` the DEADLINE of its packet then. -/
structure Culvert where
  dstChip : Nat
  dstCore : Nat
  type : Nat
  ctxTag : Nat
  srcChip : Nat
  srcCore : Nat
  gen : Nat
  len : Nat
  arg : Nat
  payload : Bytes
  came : Option (Fin 8 × Bool)
  route : Nat
  deadline : Nat
  deriving DecidableEq, Repr

/-- A fabric packet: header fields (Table 13.5) and body. `zeroOk` says whether its zero fields are zero,
`tagOk` whether its GCM tag authenticates (R353), `vcBit` the dateline bit of the virtual channel it arrived on (R355), `unit` how many bytes of its XTS data
unit precede its data, where that unit is the payload or the tag of a compressed block (log entry 38). -/
structure Packet where
  dstChip : Nat
  srcChip : Nat
  type : Nat
  route : Nat
  ctxTag : Nat
  deadline : Nat
  length : Nat
  status : Nat
  dstUnit : Nat
  offset : Nat
  size : Nat
  txn : Nat
  srcUnit : Nat
  check : Nat
  zeroOk : Bool
  tagOk : Bool
  vcBit : Bool
  unit : Option Nat
  body : Bytes
  deriving DecidableEq, Repr

/-- What strikes the codeword that begins in a received flit: damaged symbols of it, and received pairs of PAM6 symbols, with their logical lanes, that
noise may have made pairs that never occur (R338, R339). -/
structure Line where
  struck : Upset
  pairs : List (Nat × Nat × Nat)
  deriving DecidableEq, Repr

/-- A received flit: the fields of Table 13.2, its CRC field, and what strikes the codeword that begins in it, when one does. Whether it is a data or a
control flit is the command's to say; the payload of a control flit is its content, from byte 12. -/
structure Flit where
  seq : Nat
  vc : Nat
  ack : Nat
  nak : Bool
  credA : Nat
  credB : Nat
  start : Nat
  fill : Nat
  payload : Bytes
  crc : Nat
  line : Line
  deriving DecidableEq, Repr

/-- A flit of zeros that nothing strikes. -/
def Flit.blank : Flit := ⟨0, 0, 0, false, 0, 0, 0, 0, [], 0, ⟨[], []⟩⟩

/-- A request queued at an HSC: one sector of a DPA, read or write, the leaf's mirror bit, the context, and what strikes it (R296–R301): errors that stand
in the sector, errors of the request's own reads, and errors that only the next read of the sector meets; and the virtual address that a context's access was
translated from. -/
structure HscReq where
  dpa : Nat
  ctxTag : Nat
  write : Bool
  off : Nat
  data : Bytes
  mirror : Bool
  strike : Upset
  noise : Noise
  mirrorNoise : Noise
  passing : Upset
  va : Nat
  deriving DecidableEq, Repr

/-- Endpoint that carries an SPDM message (R414, R415, R446). -/
inductive SpdmEp where
  | pcie
  | sideband
  | diag
  deriving DecidableEq, Repr

/-- A reset domain (Table 16.1). -/
inductive Domain where
  | core (c : CoreId)
  | port (p : PortId)
  | stack (s : StackId)
  | func (f : FuncId)
  | device
  | context (c : CtxId)
  deriving DecidableEq, Repr

/-- A response packet with the port it came in by; none for a row that this chip serves. -/
abbrev Reply := Option (PortId × Packet)

/-- Readings the weir takes (R465): input current, voltage, the draw asked for. -/
structure WeirSample where
  iin : Nat
  vin : Nat
  demand : Nat
  other : Nat := 0
  coolIn : Nat := 0
  coolOut : Nat := 0
  pcieRef : Bool := false
  rackRef : Bool := false
  deriving DecidableEq, Repr

/-- A reference input (Table 18.6). -/
inductive RefInput where
  | board
  | pcie
  | rack
  deriving DecidableEq, Repr


/-- A command to the block: one constructor per row of the table of operations and events. -/
inductive Instr where
  /-- SQ_TAIL (R389). -/
  | sqTail (ctx : CtxId) (func : FuncId) (v : BitVec 32)
  /-- CQ_HEAD (R389). -/
  | cqHead (ctx : CtxId) (func : FuncId) (v : BitVec 32)
  /-- AUDIT_HEAD (R389). -/
  | auditHead (ctx : CtxId) (func : FuncId) (v : BitVec 32)
  /-- DESCRIPTOR_FETCH (R391). -/
  | descriptorFetch (ctx : CtxId) (ds : List Bytes)
  /-- INVOKE (R24). -/
  | invoke (ctx : CtxId)
  /-- INVOKE_BIND (R230): the program image is copied to cores; `hits` strike the copies. -/
  | invokeBind (ctx : CtxId) (hits : List (CoreId × Hit) := [])
  /-- INVOKE_END (R28). -/
  | invokeEnd (ctx : CtxId)
  /-- COPY_IN (R394). -/
  | copyIn (ctx : CtxId) (sd : Bytes)
  /-- COPY_OUT (R394). -/
  | copyOut (ctx : CtxId) (sd : Bytes)
  /-- COPY_BLOCK (R394). -/
  | copyBlock (ctx : CtxId) (host : Bytes) (hit : Upset)
  /-- LOAD_SHARD (R282). -/
  | loadShard (ctx : CtxId) (manifest : Bytes) (headers : List Bytes)
  /-- SHARD_OBJECT_ARRIVED (R282). -/
  | shardObjectArrived (ctx : CtxId) (i : Nat) (obj : Bytes) (hit : Hit := ⟨[], []⟩)
  /-- TIDE_SWITCH (R284). -/
  | tideSwitch (ctx : CtxId)
  /-- CHECKPOINT (R413). -/
  | checkpoint (ctx : CtxId) (list : Bytes) (hits : List (Nat × Hit) := [])
  /-- CHECKPOINT_OBJECT_DONE (R413). -/
  | checkpointObjectDone (ctx : CtxId) (i : Nat) (hits : List (Nat × Hit) := [])
  /-- FENCE (R391). -/
  | fence (ctx : CtxId)
  /-- LEDGER_CLOSE (R397). -/
  | ledgerClose (ctx : CtxId)
  /-- CANCEL (R396). -/
  | cancel (ctx : CtxId)
  /-- CANCEL_STREAMS_STOPPED (R233). -/
  | cancelStreamsStopped (ctx : CtxId)
  /-- NOP (R395). -/
  | nop (ctx : CtxId)
  /-- CONTEXT_ENABLE (R387). -/
  | contextEnable (ctx : CtxId) (func : FuncId) (w : BitVec 64)
  /-- CONTEXT_TEARDOWN (R423). -/
  | contextTeardown (ctx : CtxId)
  /-- TEARDOWN_COMPLETE (R423). -/
  | teardownComplete (ctx : CtxId)
  /-- TEARDOWN_TIMEOUT (R424). -/
  | teardownTimeout (ctx : CtxId)
  /-- RESUME (R422). -/
  | resume (ctx : CtxId)
  /-- VF_RANGE_WRITE (R386). -/
  | vfRangeWrite (vf : Fin 31) (w : BitVec 32)
  /-- PT_INVAL (R309). -/
  | ptInval (ctx : CtxId)
  /-- PT_INVAL_ALL (R309). -/
  | ptInvalAll
  /-- PT_INVAL_DONE (R309). -/
  | ptInvalDone
  /-- WINDOW_READ (R385). -/
  | windowRead (off : Nat) (len : Nat) (noise : Noise)
  /-- WINDOW_WRITE (R385). -/
  | windowWrite (off : Nat) (data : Bytes) (noise : Noise)
  /-- REGISTER_WRITE (R491). -/
  | registerWrite (path : Path) (off : Nat) (size : Nat) (v : Nat) (reads : List (Nat × Nat) := [])
  /-- GET_INFO (R405). -/
  | getInfo (path : Path)
  /-- LOAD_PLAN (R370). -/
  | loadPlan (path : Path) (plan : Bytes)
  /-- FW_UPDATE (R442). -/
  | fwUpdate (path : Path) (image : Bytes)
  /-- FW_ACTIVATE (R442). -/
  | fwActivate (path : Path) (arg : Byte)
  /-- HBM_RETRAIN (R404). -/
  | hbmRetrain (path : Path) (arg : Byte)
  /-- HBM_TEST (R404). -/
  | hbmTest (path : Path) (arg : Byte) (pattern : Byte)
  /-- FUSE_READ (R406). -/
  | fuseRead (path : Path)
  /-- EXPERT_ENABLE (R458). -/
  | expertEnable (path : Path) (token : Bytes)
  /-- POWER_CAP (R470). -/
  | powerCap (path : Path) (watts : BitVec 32)
  /-- SERVICE_HOLD (R481). -/
  | serviceHold (path : Path) (arg : Byte)
  /-- DUMP_FETCH (R435). -/
  | dumpFetch (path : Path) (off : BitVec 64) (len : BitVec 64)
  /-- SELF_TEST (R404). -/
  | selfTest (path : Path) (arg : Byte)
  /-- MAILBOX_RESERVED (R404). -/
  | mailboxReserved (path : Path) (code : Byte)
  /-- MAILBOX_BUSY_WRITE (R403). -/
  | mailboxBusyWrite (path : Path)
  /-- MAILBOX_COMPLETE (R403). -/
  | mailboxComplete
  /-- CONTROL_NOP (R253). -/
  | controlNop (core : CoreId)
  /-- END (R231). -/
  | endTask (core : CoreId)
  /-- LOOP (R239). -/
  | loop (core : CoreId)
  /-- PSET (R241). -/
  | pset (core : CoreId)
  /-- MATRIX (R60). -/
  | matrix (core : CoreId)
  /-- ME_SWAP (R63). -/
  | meSwap (core : CoreId) (feed : Nat)
  /-- ME_GROUP_DRAIN (R66). -/
  | meGroupDrain (core : CoreId) (drain : Nat) (hit : GroupHit)
  /-- VECTOR (R176). -/
  | vector (core : CoreId)
  /-- VECTOR_BATCH (R94). -/
  | vectorBatch (core : CoreId) (rails : Rails)
  /-- SFU (R185). -/
  | sfu (core : CoreId)
  /-- MICRO (R190). -/
  | micro (core : CoreId)
  /-- ULOAD (R191). -/
  | uload (core : CoreId)
  /-- MOMENTS_UPDATE (R196); like the five operations after it, it begins at once when the vector unit is empty, and `rails` meets its first batch. -/
  | momentsUpdate (core : CoreId) (rails : Rails)
  /-- MOMENTS_MERGE (R197). -/
  | momentsMerge (core : CoreId) (rails : Rails)
  /-- MOMENTS_FINAL (R199). -/
  | momentsFinal (core : CoreId) (rails : Rails)
  /-- SOFTMAX_UPDATE (R200). -/
  | softmaxUpdate (core : CoreId) (rails : Rails)
  /-- SOFTMAX_MERGE (R201). -/
  | softmaxMerge (core : CoreId) (rails : Rails)
  /-- SOFTMAX_FINAL (R202). -/
  | softmaxFinal (core : CoreId) (rails : Rails)
  /-- STREAM_ARM (R208). -/
  | streamArm (core : CoreId)
  /-- STREAM_BLOCK_ISSUE (R212). -/
  | streamBlockIssue (core : CoreId) (strm : StreamId)
  /-- STREAM_BLOCK_WRITE (R212). -/
  | streamBlockWrite (core : CoreId) (strm : StreamId) (ext : Bytes) (hit : Upset)
  /-- STREAM_RUN_END (R216). -/
  | streamRunEnd (core : CoreId) (strm : StreamId)
  /-- TABLE_LOAD (R163): `ext` is a table record that host memory gives. -/
  | tableLoad (core : CoreId) (strm : StreamId) (ext : Bytes := [])
  /-- TABLE_BUILD_DONE (R160). -/
  | tableBuildDone (core : CoreId) (strm : StreamId)
  /-- EXPAND_BLOCK (R166). -/
  | expandBlock (core : CoreId) (strm : StreamId) (hit : Upset)
  /-- BARRIER_WAIT (R227). -/
  | barrierWait (core : CoreId)
  /-- BARRIER_ARRIVE (R252). -/
  | barrierArrive (core : CoreId)
  /-- BARRIER_TARGET (R227). -/
  | barrierTarget (core : CoreId)
  /-- BARRIER_TEST (R252). -/
  | barrierTest (core : CoreId)
  /-- PHASE_MOVE (R225). -/
  | phaseMove (core : CoreId)
  /-- PHASE_COMPUTE (R225). -/
  | phaseCompute (core : CoreId)
  /-- HANDLE_ALLOC (R133). -/
  | handleAlloc (core : CoreId)
  /-- HANDLE_FREE (R135). -/
  | handleFree (core : CoreId)
  /-- HANDLE_RELEASE (R214). -/
  | handleRelease (core : CoreId)
  /-- CHECK_SETTLE (R253). -/
  | checkSettle (core : CoreId)
  /-- SLOT_FREE (R231). -/
  | slotFree (core : CoreId) (slot : SlotId)
  /-- DREDGER_READ (R142). -/
  | dredgerRead (core : CoreId) (noise : Noise) (strike : Upset) (passing : Upset)
  /-- DREDGER_ZERO_GRANULE (R135). -/
  | dredgerZeroGranule (core : CoreId)
  /-- ARRIVE (R227). -/
  | arrive (core : CoreId) (m : Culvert)
  /-- PUT (R221). -/
  | put (core : CoreId) (m : Culvert)
  /-- GRANT (R140). -/
  | grant (core : CoreId) (m : Culvert)
  /-- RETURN (R139). -/
  | returnCredit (core : CoreId) (m : Culvert)
  /-- CLOSE (R139). -/
  | close (core : CoreId) (m : Culvert)
  /-- CULVERT_ALLOC (R137). -/
  | culvertAlloc (core : CoreId) (m : Culvert)
  /-- CULVERT_FREE (R137). -/
  | culvertFree (core : CoreId) (m : Culvert)
  /-- REPLY (R137). -/
  | reply (core : CoreId) (m : Culvert)
  /-- STALE (R139). -/
  | stale (core : CoreId) (m : Culvert)
  /-- TASK (R231). -/
  | task (core : CoreId) (m : Culvert)
  /-- CULVERT_RESERVED (R221). -/
  | culvertReserved (core : CoreId) (m : Culvert)
  /-- LAND (R269). -/
  | land (core : CoreId) (m : Culvert)
  /-- RESEND (R270). -/
  | resend (core : CoreId) (m : Culvert)
  /-- PREPARE (R284). -/
  | prepare (m : Culvert)
  /-- PREPARED (R284). -/
  | prepared (m : Culvert)
  /-- COMMIT (R284). -/
  | commit (m : Culvert)
  /-- ABORT (R284). -/
  | abort (m : Culvert)
  /-- WITHDRAW (R285). -/
  | withdraw (m : Culvert)
  /-- BREAK (R274). -/
  | breakRing (m : Culvert)
  /-- HALT (R275). -/
  | halt (m : Culvert)
  /-- BLOCK (R139). -/
  | block (core : CoreId) (came : Option PortId) (p : Packet) (hit : Hit)
  /-- BLOCK_FORWARD (R268). -/
  | blockForward (core : CoreId) (handle : HandleId)
  /-- LAND_TIMER (R269). -/
  | landTimer (core : CoreId) (handle : HandleId)
  /-- READ (R351). -/
  | read (port : PortId) (p : Packet)
  /-- WRITE (R351). -/
  | write (port : PortId) (p : Packet)
  /-- READ_DATA (R352). -/
  | readData (port : PortId) (p : Packet)
  /-- WRITE_ACK (R351). -/
  | writeAck (port : PortId) (p : Packet)
  /-- GATHER (R332). -/
  | gather (port : PortId) (p : Packet)
  /-- GATHER_DATA (R329). -/
  | gatherData (e : EngineId) (k : Nat) (reply : Reply) (hit : Upset) (pool : Hit) (rails : Rails)
  /-- MGMT (R351). -/
  | mgmt (port : PortId) (p : Packet)
  /-- PAGE_WALK (R308). -/
  | pageWalk (unit : Translator) (ctx : CtxId) (va : Nat) (write : Bool) (noise : Noise)
  /-- HSC_REQUEST (R296). -/
  | hscRequest (stack : StackId) (r : HscReq)
  /-- MEMORY_REFETCH_DONE (R299). -/
  | memoryRefetchDone (ctx : CtxId) (obj : Bytes)
  /-- SCRUB_READ (R302). -/
  | scrubRead (stack : StackId) (noise : Noise)
  /-- HBM_TEMP_CHANGE (R295). -/
  | hbmTempChange (stack : StackId) (temp : Nat)
  /-- HBM_TRAINING_LOSS (R429). -/
  | hbmTrainingLoss (stack : StackId) (parity : Nat) (dataTimeout : Bool)
  /-- GATHER_RUN_START (R323). -/
  | gatherRunStart (e : EngineId)
  /-- SEAL (R319). -/
  | seal (e : EngineId) (rails : Rails)
  /-- DATA_FLIT (R342). -/
  | dataFlit (port : PortId) (f : Flit)
  /-- IDLE (R341). -/
  | idle (port : PortId) (f : Flit)
  /-- LINK_TRANSMIT (R348). -/
  | linkTransmit (port : PortId)
  /-- REPLAY_TIMEOUT (R342). -/
  | replayTimeout (port : PortId)
  /-- LANE_FAIL (R344). -/
  | laneFail (port : PortId) (lane : LaneId)
  /-- LANE_ERROR_WINDOW (R344): `more` are symbols corrected on lanes in the window in flits for which no command came. -/
  | laneErrorWindow (port : PortId) (more : List (LaneId × Nat))
  /-- PORT_RETRAIN_DONE (R345). -/
  | portRetrainDone (port : PortId) (ok : Bool) (peerFailed : BitVec 32)
  /-- LANE_LOCK (R373). -/
  | laneLock (port : PortId) (peerFailed : BitVec 32)
  /-- IDENT (R375). -/
  | ident (port : PortId) (f : Flit)
  /-- VERDICT (R373). -/
  | verdict (port : PortId) (f : Flit)
  /-- IDENT_TIMEOUT (R373). -/
  | identTimeout (port : PortId)
  /-- IDENT_RETRY_TIMER (R373). -/
  | identRetryTimer (port : PortId)
  /-- LINK_KEY_EXCHANGE (R448): a fragment of `len` bytes, and whether it is a message's last. -/
  | linkKeyExchange (port : PortId) (f : Flit) (last : Bool) (len : Nat := 300) (n : Nat := 0)
  /-- KEYX_TIMEOUT (R451). -/
  | keyxTimeout (port : PortId)
  /-- KEY_ROTATION_DUE (R450). -/
  | keyRotationDue (port : PortId)
  /-- KEY_UPDATE (R450). -/
  | keyUpdate (port : PortId) (f : Flit)
  /-- KEY_ACK (R450). -/
  | keyAck (port : PortId) (f : Flit)
  /-- TIME_EXCHANGE_TIMER (R360): `reach` are the ports whose neighbour has a path to the time root. -/
  | timeExchangeTimer (reach : BitVec 8 := BitVec.allOnes 8)
  /-- TIME_REQ (R360). -/
  | timeReq (port : PortId) (f : Flit := Flit.blank)
  /-- TIME_RSP (R360): the flit's first byte crossed the timestamp point `late` ns ago. -/
  | timeRsp (port : PortId) (f : Flit) (late : Nat)
  /-- RACK_SYNC_EDGE (R364). -/
  | rackSyncEdge
  /-- RACK_SYNC_MISSING (R364). -/
  | rackSyncMissing
  /-- RESYNC (R363). -/
  | resync (path : Path)
  /-- RESYNC_STEP (R363). -/
  | resyncStep (path : Path)
  /-- KEY_LOCK (R369). -/
  | keyLock (path : Path)
  /-- OWNER_LOCK (R460). -/
  | ownerLock (path : Path)
  /-- TGT_KEY_WRITE (R453). -/
  | tgtKeyWrite (path : Path) (t : TargetId) (key : Bytes)
  /-- TGT_CONNECT (R408). -/
  | tgtConnect (path : Path) (t : TargetId) (w : BitVec 512)
  /-- RDMA_TRANSPORT_ERROR (R408). -/
  | rdmaTransportError (t : TargetId) (remoteAccess : Bool)
  /-- RDMA_INBOUND_REQUEST (R408). -/
  | rdmaInboundRequest (eth : EthId) (req : Bytes)
  /-- DIAG_SESSION (R414). -/
  | diagSession (eth : EthId) (keyDigest : Bytes) (tcp : Nat := 7810) (relays : List (PortId × Bytes) := [])
  /-- GET_VERSION (R446). -/
  | getVersion (ep : SpdmEp) (msg : Bytes)
  /-- GET_CAPABILITIES (R446). -/
  | getCapabilities (ep : SpdmEp) (msg : Bytes)
  /-- NEGOTIATE_ALGORITHMS (R446). -/
  | negotiateAlgorithms (ep : SpdmEp) (msg : Bytes)
  /-- GET_DIGESTS (R446). -/
  | getDigests (ep : SpdmEp) (msg : Bytes)
  /-- GET_CERTIFICATE (R446). -/
  | getCertificate (ep : SpdmEp) (msg : Bytes)
  /-- CHALLENGE (R446). -/
  | challenge (ep : SpdmEp) (msg : Bytes)
  /-- GET_MEASUREMENTS (R447). -/
  | getMeasurements (ep : SpdmEp) (msg : Bytes)
  /-- KEY_EXCHANGE (R446). -/
  | keyExchange (ep : SpdmEp) (msg : Bytes)
  /-- FINISH (R446). -/
  | finish (ep : SpdmEp) (msg : Bytes)
  /-- END_SESSION (R446). -/
  | endSession (ep : SpdmEp) (msg : Bytes)
  /-- IDE_KM (R452). -/
  | ideKm (ep : SpdmEp) (msg : Bytes)
  /-- PLDM_MONITOR (R415). -/
  | pldmMonitor (req : Bytes)
  /-- DEBUG_TOKEN (R459). -/
  | debugToken (token : Bytes)
  /-- DBG_SPM_SEL (R503). -/
  | dbgSpmSel (path : Path) (w : BitVec 32)
  /-- DBG_SPM_ROW (R503). -/
  | dbgSpmRow (path : Path) (row : Bytes)
  /-- HB_EN (R427). -/
  | hbEn (path : Path)
  /-- CONTEXT_PROGRESS_TIMEOUT (R427). -/
  | contextProgressTimeout (ctx : CtxId)
  /-- SEQUENCER_TIMEOUT (R427). -/
  | sequencerTimeout (core : CoreId)
  /-- BARRIER_WAIT_TIMEOUT (R427). -/
  | barrierWaitTimeout (core : CoreId) (slot : SlotId)
  /-- SLUICE_CREDIT_TIMEOUT (R141). -/
  | sluiceCreditTimeout (core : CoreId) (credit : CreditId)
  /-- TIDE_BREAK_TIMEOUT (R274). -/
  | tideBreakTimeout (ctx : CtxId)
  /-- LINK_RESPONSE_TIMEOUT (R427). -/
  | linkResponseTimeout (txn : BitVec 16)
  /-- HEARTBEAT_TIMEOUT (R427). -/
  | heartbeatTimeout
  /-- TIDE_SWITCH_DEADLINE (R284). -/
  | tideSwitchDeadline (ctx : CtxId)
  /-- TIDE_SWITCH_MEMBER_TIMEOUT (R285). -/
  | tideSwitchMemberTimeout (ctx : CtxId)
  /-- CLOSING_SLUICE_TIMEOUT (R139). -/
  | closingSluiceTimeout (core : CoreId) (handle : HandleId)
  /-- CORE_RESET (R417). -/
  | coreReset (path : Path) (core : CoreId)
  /-- PORT_RESET (R346). -/
  | portReset (path : Path) (port : PortId)
  /-- STACK_RESET (R420). -/
  | stackReset (path : Path) (stack : StackId)
  /-- FUNCTION_LEVEL_RESET (R420). -/
  | functionLevelReset (func : FuncId)
  /-- DIKE_DRAINED (R418). -/
  | dikeDrained (d : Domain)
  /-- DIKE_TIMEOUT (R418). -/
  | dikeTimeout (d : Domain)
  /-- DIKE_LIFTED (R418). -/
  | dikeLifted (d : Domain)
  /-- ESCALATION_TIMEOUT (R429). -/
  | escalationTimeout (d : Domain)
  /-- MP_WATCHDOG_EXPIRY (R430). -/
  | mpWatchdogExpiry
  /-- WARM_RESET (R431). -/
  | warmReset (path : Path)
  /-- WARM_RESET_DUMP (R432). -/
  | warmResetDump (path : Path)
  /-- WARM_RESET_DONE (R431). -/
  | warmResetDone
  /-- COLD_RESET (R291). -/
  | coldReset
  /-- SOFT_START (R462). -/
  | softStart
  /-- PRESENCE_OPEN (R463). -/
  | presenceOpen
  /-- INPUT_BELOW_30V (R478). -/
  | inputBelow30V
  /-- SUPPLY_OVERVOLTAGE (R464). -/
  | supplyOvervoltage
  /-- SUPPLY_COLLAPSE (R464). -/
  | supplyCollapse
  /-- SUPPLY_DROP (R471). -/
  | supplyDrop (mv : Nat)
  /-- SUPPLY_RECOVER (R471). -/
  | supplyRecover
  /-- SUPPLY_EVENT_CLOSE (R472). -/
  | supplyEventClose
  /-- WEIR_SAMPLE (R465). -/
  | weirSample (sample : WeirSample)
  /-- DROOP_DETECT (R474). -/
  | droopDetect (f : FieldId)
  /-- DROOP_RECOVER (R474). -/
  | droopRecover (f : FieldId)
  /-- THERMAL_THROTTLE (R477). -/
  | thermalThrottle (f : FieldId) (temp : Nat)
  /-- THERMAL_STEP_TIMER (R477). -/
  | thermalStepTimer (f : FieldId) (temp : Nat)
  /-- THERMAL_SHUTDOWN (R478). -/
  | thermalShutdown
  /-- REFERENCE_LOSS (R475). -/
  | referenceLoss (r : RefInput)
  /-- ATTN_BUTTON_RELEASE (R480). -/
  | attnButtonRelease (ms : Nat)
  /-- ATTN_BUTTON_HELD (R482). -/
  | attnButtonHeld
  /-- SERVICE_HOLD_HELD (R481). -/
  | serviceHoldHeld
  /-- CABLE_REMOVED (R484). -/
  | cableRemoved (port : PortId)
  /-- CABLE_INSERTED (R484). -/
  | cableInserted (port : PortId)
  /-- HEALTH_TEST_FAIL (R445). -/
  | healthTestFail
  /-- DRAW_HELD_TIMEOUT (R445). -/
  | drawHeldTimeout
  /-- STORAGE_LINK_CHANGE (R416). -/
  | storageLinkChange (eth : EthId) (st : Fin 4)
  /-- TRANSPORT_RETRANSMIT (R408). -/
  | transportRetransmit (t : TargetId)
  /-- AUDIT_RECORDS_WRITTEN (R402). -/
  | auditRecordsWritten (ctx : CtxId) (n : Nat)
  deriving DecidableEq, Repr

end Sys2Proof
end

