-- ==== Sys2Proof/Config.lean ====
section
/-! DEFINITION. What one module fixes (fuses, image, part) and the values the manual leaves open, as constants without a body.
Nothing in Lean can evaluate one of them; a statement about one holds for every value of it. Log entries 6, 7, 9, 10 and 11. -/

namespace Sys2Proof.Config

/-- True for BMS-DX1-1280-B, false for BMS-DX1-1280-A (R1). -/
opaque partB : Bool
/-- Device serial number (Table 19.4, a fuse). -/
opaque serial : Nat
/-- Die revision (Table 19.3, a fuse). -/
opaque dieRev : Nat
/-- Physical cube row 0–8 disabled at test on each core, 9 where none is (R79, R80). -/
opaque rowOut : Nat → Fin 10
/-- CORE_ME_ROWMAP.DIS_ROW of a core: the row, or 0xF where none is disabled (Table 3.11). -/
def disRow (core : Nat) : Nat := if (rowOut core).val = 9 then 0xF else (rowOut core).val
/-- MAC address of each storage port (Table 15.27, a fuse). -/
opaque mac : Nat → Nat
/-- The debug-disable fuse is blown (Table 17.9). -/
opaque dbgFused : Bool
/-- The four sites of each field disabled at test, as places among the sites still left: of 52, of 51, of 50 and of 49 (R16). -/
opaque sitesOut : Nat → Fin 52 × Fin 51 × Fin 50 × Fin 49
/-- The 48 sites of a field enabled at test, by index within the field (R16). -/
def sitesOn (f : Nat) : List Nat :=
  let o := sitesOut f
  ((((List.range 52).eraseIdx o.1.val).eraseIdx o.2.1.val).eraseIdx o.2.2.1.val).eraseIdx o.2.2.2.val
/-- Vendor ID and PF device ID of the PCI Express endpoint (Table 15.1). -/
def pciId : Nat × Nat := (0x1F3B, 0xD100)
/-- Device ID of each VF (Table 15.1). -/
def vfDeviceId : Nat := 0xD101
/-- Class code: processing accelerator (Table 15.1). -/
def classCode : Nat := 0x120000
/-- MSI-X vectors of a function: 2,048 on the PF, 64 on each VF (Table 15.1). -/
def msixVectors (func : Nat) : Nat := if func = 0 then 2048 else 64
/-- IDE streams: one link stream and up to 8 selective ones (Table 15.1). -/
def ideStreams : Nat := 9
/-- Firmware version word of the image in a flash slot at manufacture (Table 17.2). -/
opaque imageVersion : Nat
/-- Security version of that image (Table 17.2), 0–64. -/
opaque imageSvn : Nat
/-- SHAKE256 digests of the four components of that image (Table 17.2). -/
opaque imageDigest : Nat → Bytes
/-- Digest of the fused firmware key, and of the fused debug authority (R439, R459). -/
opaque fwKeyDigest : Bytes
/-- Digest of the debug authority of Brodso (R459). -/
opaque debugAuthority : Bytes
/-- Keyed hash h of R290, by draw of the interleave key: 24 bits to 16 bits (R293). -/
opaque interleaveH : Nat → Nat → BitVec 16
/-- Keyed hash q of R290, by draw of the interleave key: 22 bits to 3 bits (R293). -/
opaque interleaveQ : Nat → Nat → BitVec 3
/-- A draw of the true random number generator, or another value the manual leaves open, numbered by State.free. -/
opaque freeValue : Nat → BitVec 64
/-- Degree-2 coefficients c0, c1, c2 of exp2 in a segment, scaled by 2^62 (R181); the manual does not list them. -/
opaque exp2Coef : Fin 64 → Fin 3 → Nat
/-- Degree-3 coefficients of log2 in a segment, scaled by 2^62 (R182); the manual does not list them. -/
opaque log2Coef : Fin 64 → Fin 4 → Int
/-- Rising curve of a shipped program that Table 7.7 states monotone, from the place of its input among the FP32 numbers to that of its result. -/
opaque libraryCurve : Nat → (Nat →o Nat)
/-- Micro-operation words of the shipped library (Table 7.7), by store entry 0–255; the manual does not list them. -/
opaque libraryWord : Nat → BitVec 64
/-- First store entry of each shipped program (R193 gives lengths only). -/
opaque libraryBase : Nat → Fin 256
/-- ML-DSA-65 verification (FIPS 204): public key, context string, message, signature. -/
opaque mldsaVerify : Bytes → String → Bytes → Bytes → Bool
/-- ML-DSA-65 signature in the hedged form (FIPS 204): key draw, context string, message, randomness draw. -/
opaque mldsaSign : Nat → String → Bytes → Nat → Bytes
/-- Public key of the ML-DSA-65 key pair made from a seed draw (R443, R444). -/
opaque mldsaPublic : Nat → Bytes
/-- ML-KEM-768 encapsulation key made from a seed draw (FIPS 203, R448). -/
opaque mlkemPublic : Nat → Bytes
/-- ML-KEM-768 ciphertext for a key and a draw. -/
opaque mlkemEncaps : Bytes → Nat → Bytes
/-- ML-KEM-768 shared secret of an encapsulation key's ciphertext. -/
opaque mlkemSecret : Bytes → Bytes
/-- The fused seed, which only SEC reads (R443). -/
opaque fusedSeed : Bytes
/-- ML-DSA.KeyGen_internal of FIPS 204: the public key of the pair that a seed of 32 bytes gives (R443). -/
opaque mldsaKeyGen : Bytes → Bytes
/-- ML-DSA-65 signature in the hedged form with the private key that a seed of 32 bytes gives: seed, context string, message, randomness draw (R443). -/
opaque mldsaSignSeed : Bytes → String → Bytes → Nat → Bytes
/-- Certificates from the root's to the identity certificate, as the flash holds them from manufacture on (Table 17.1, R444). -/
opaque identityChain : Bytes
/-- The signed part of an X.509 v3 certificate: public key, start and end of its validity, the DRUHAL-ALIAS record of its extension (R444). -/
opaque aliasBody : Bytes → String → String → Bytes → Bytes
/-- A certificate of a signed part and its signature (R444). -/
opaque certificate : Bytes → Bytes → Bytes
/-- A peer's certificate chain validates to the root named by a digest and carries the serial number. -/
opaque chainValid : Bytes → Bytes → Nat → Bool
/-- AES-256-XTS: key draw, tweak of the data unit, number of the 16-byte block in the unit; a permutation of the block's values (R455). -/
opaque xts : Nat → Nat → Nat → Equiv.Perm (BitVec 128)
/-- The report of SELF_TEST for a scope (Table 15.14): 256 bytes. -/
opaque selfTestReport : Nat → Nat → Byte
/-- The failure summary of HBM_TEST for a stack and pattern set (Table 15.14): 64 bytes. -/
opaque hbmTestSummary : Nat → Nat → Nat → Byte
/-- The queue pair number the DX1 assigns to a target entry (Table 15.28). -/
opaque localQpn : Nat → Nat
/-- An SPDM response message (DMTF SPDM 1.4), by request code and request bytes. -/
opaque spdmResponse : Nat → Bytes → Bytes
/-- A NEGOTIATE_ALGORITHMS request offers an algorithm, by its name (R446). -/
opaque spdmOffers : Bytes → String → Bool
/-- A FINISH request proves its sender under mutual authentication, with a chain that ends at the key of a digest (R414, R446). -/
opaque spdmProves : Bytes → Bytes → Bool
/-- Omgopin major and minor version of this device (Table 14.6). -/
opaque omgVersion : Nat × Nat

/-- Step of the core clock, 0–100 above 500 MHz in steps of 25 MHz, at which a demand in mA stays within the current the weir allows (R466, R470). -/
opaque weirStep : Nat → Nat → Fin 101
/-- At the lowest clock step the draw of a demand in mA would still leave the current the weir allows, so it throttles phases too (R466). -/
opaque phasesHeld : Nat → Nat → Bool
/-- Digest of Brodso's root, to which every DX1's chain validates (R448). -/
opaque brodsoRoot : Bytes
/-- A signature under the identity key of a certificate chain, with context string DRUHAL-LINK, verifies over a message (R449). -/
opaque chainVerify : Bytes → Bytes → Bytes → Bool
/-- AES-256-GCM (R353, R409): key stream of a key and a nonce, by byte number. -/
opaque gcmStream : Bytes → Bytes → Nat → Byte
/-- AES-256-GCM: tag of a key, a nonce, additional data and a ciphertext; its first 16 bytes count. -/
opaque gcmTag : Bytes → Bytes → Bytes → Bytes → Bytes

end Sys2Proof.Config
end

