-- ==== Sys2Proof/Machine/Bits.lean ====
section
/-! DEFINITION. Bit fields, little-endian bytes, CRC-32C, sparse tables and sparse memory. -/

namespace Sys2Proof.Machine

/-- Bits [hi:lo] of a value (R11). -/
def bits (v hi lo : Nat) : Nat := (v >>> lo) % 2 ^ (hi + 1 - lo)

/-- One bit of a value. -/
def bit (v i : Nat) : Bool := v.testBit i

/-- The value with bits [hi:lo] replaced by `x`. -/
def setBits (v hi lo x : Nat) : Nat :=
  v - (bits v hi lo) * 2 ^ lo + (x % 2 ^ (hi + 1 - lo)) * 2 ^ lo

/-- A Bool as the bit it is in a field. -/
def b2n (b : Bool) : Nat := if b then 1 else 0

/-- Signed reading of the low `w` bits (two's complement). -/
def signed (w v : Nat) : Int :=
  let x := v % 2 ^ w
  if x < 2 ^ (w - 1) then (x : Int) else (x : Int) - (2 ^ w : Nat)

/-- Two's complement code in `w` bits of an integer. -/
def unsigned (w : Nat) (i : Int) : Nat := (i % (2 ^ w : Nat)).toNat

/-- The integer held to [−2^(w−1), 2^(w−1) − 1] (IADD with SAT, R176; R43). -/
def clampSigned (w : Nat) (i : Int) : Int :=
  let top : Int := (2 ^ (w - 1) : Nat)
  if i < -top then -top else if i > top - 1 then top - 1 else i

/-- A count plus `n` that stops at the largest value of `w` bits. -/
def satAdd (w v n : Nat) : Nat := min (v + n) (2 ^ w - 1)

/-- Round up to a multiple. -/
def roundUp (v m : Nat) : Nat := (v + m - 1) / m * m

/-- ⌈v / m⌉. -/
def ceilDiv (v m : Nat) : Nat := (v + m - 1) / m

/-! ### Bytes -/

/-- Little-endian value of bytes (R11). -/
def leNat : Bytes → Nat
  | [] => 0
  | b :: bs => b.toNat + 256 * leNat bs

/-- `n` little-endian bytes of a value (R11). -/
def natLe : Nat → Nat → Bytes
  | 0, _ => []
  | n + 1, v => BitVec.ofNat 8 v :: natLe n (v / 256)

/-- `n` bytes from offset `off`, zero beyond the end. -/
def slice (bs : Bytes) (off n : Nat) : Bytes :=
  let t := (bs.drop off).take n
  t ++ List.replicate (n - t.length) 0

/-- Little-endian field of `n` bytes at offset `off` of a layout table. -/
def field (bs : Bytes) (off n : Nat) : Nat := leNat (slice bs off n)

/-- Every byte of [off, off + n) is zero. -/
def zeroAt (bs : Bytes) (off n : Nat) : Bool := field bs off n == 0

/-- `n` zero bytes. -/
def zeros (n : Nat) : Bytes := List.replicate n 0

/-- The bytes with `xs` laid over offset `off`. -/
def overlay (bs : Bytes) (off : Nat) (xs : Bytes) : Bytes :=
  bs.take off ++ xs ++ bs.drop (off + xs.length)

/-- The bytes with an error mask applied: (position, mask) pairs. -/
def upsetBytes (bs : Bytes) : Upset → Bytes
  | [] => bs
  | (i, m) :: us => upsetBytes (bs.modify i (fun b => b ^^^ BitVec.ofNat 8 m)) us

/-- Whether an error mask changes any bit. -/
def Upset.strikes (u : Upset) : Bool := u.any (fun p => p.2 % 256 != 0)

/-- Cut bytes into runs of `n`, with fuel. -/
def chunksFuel (n : Nat) : Nat → Bytes → List Bytes
  | 0, _ => []
  | fuel + 1, bs => if bs.isEmpty then [] else bs.take n :: chunksFuel n fuel (bs.drop n)

/-- Cut bytes into runs of `n`. -/
def chunks (n : Nat) (bs : Bytes) : List Bytes := chunksFuel n (bs.length + 1) bs

/-! ### CRC-32C (R95) -/

/-- One bit of the reflected CRC-32C register. -/
def crcBit (c : BitVec 32) : BitVec 32 :=
  if c.getLsbD 0 then (c >>> 1) ^^^ 0x82F63B78 else c >>> 1

/-- One byte of CRC-32C. -/
def crcByte (c : BitVec 32) (b : Byte) : BitVec 32 :=
  Nat.repeat crcBit 8 (c ^^^ b.zeroExtend 32)

/-- The CRC register after bytes, from a running register (before the final exclusive-or). -/
def crcRun (c : BitVec 32) (bs : Bytes) : BitVec 32 := bs.foldl crcByte c

/-- CRC-32C of a block (R95). -/
def crc32c (bs : Bytes) : Nat := (crcRun 0xFFFFFFFF bs ^^^ 0xFFFFFFFF).toNat

/-! ### Sparse tables: units, contexts, entries by number -/

/-- A sparse table: (key, value) pairs in rising key order; a key not listed holds the unit's reset value. -/
abbrev Table (α : Type) := List (Nat × α)

/-- The value held under a key. -/
def Table.get {α : Type} (t : Table α) (d : α) (k : Nat) : α :=
  match t with
  | [] => d
  | (j, v) :: r => if j = k then v else Table.get r d k

/-- The value listed under a key, if any. -/
def Table.find {α : Type} (t : Table α) (k : Nat) : Option α :=
  match t with
  | [] => none
  | (j, v) :: r => if j = k then some v else Table.find r k

/-- The table with a key set. -/
def Table.put {α : Type} (t : Table α) (k : Nat) (v : α) : Table α :=
  match t with
  | [] => [(k, v)]
  | (j, w) :: r => if j = k then (k, v) :: r else if k < j then (k, v) :: (j, w) :: r else (j, w) :: Table.put r k v

/-- The table with a key removed. -/
def Table.del {α : Type} (t : Table α) (k : Nat) : Table α := t.filter (fun p => p.1 != k)

/-! ### Sparse memory: (address, byte) pairs, rising addresses, no zero byte listed -/

/-- Byte memory in canonical form; an address not listed reads 0 (R291, Table 16.8). -/
abbrev Mem := List (Nat × Byte)

/-- What an unlisted address reads as. -/
def Mem.blank : Byte := 0

/-- Read one byte. -/
def Mem.read (m : Mem) (a : Nat) : Byte :=
  match m with
  | [] => Mem.blank
  | (b, v) :: r => if b = a then v else Mem.read r a

/-- Write one byte, keeping the canonical form. -/
def Mem.write (m : Mem) (a : Nat) (v : Byte) : Mem :=
  match m with
  | [] => if v = Mem.blank then [] else [(a, v)]
  | (b, w) :: r =>
    if b = a then (if v = Mem.blank then r else (a, v) :: r)
    else if a < b then (if v = Mem.blank then (b, w) :: r else (a, v) :: (b, w) :: r)
    else (b, w) :: Mem.write r a v

/-- Read `n` bytes in address order. -/
def Mem.readN (m : Mem) (a : Nat) : Nat → Bytes
  | 0 => []
  | n + 1 => Mem.read m a :: Mem.readN m (a + 1) n

/-- Write bytes in address order. -/
def Mem.writeN (m : Mem) (a : Nat) : Bytes → Mem
  | [] => m
  | b :: bs => Mem.writeN (Mem.write m a b) (a + 1) bs

/-- Zero a range of addresses. -/
def Mem.clear (m : Mem) (a n : Nat) : Mem := m.filter (fun c => !(decide (a ≤ c.1) && decide (c.1 < a + n)))

/-- Addresses rise strictly from `lo` and no listed byte is the blank. -/
def Mem.wfFrom (lo : Nat) : Mem → Bool
  | [] => true
  | (a, v) :: r => decide (lo ≤ a) && (v != Mem.blank) && Mem.wfFrom (a + 1) r

/-- The canonical form. -/
def Mem.wf (m : Mem) : Bool := Mem.wfFrom 0 m

end Sys2Proof.Machine
end

