-- ==== Sys2Proof/Machine/Codes.lean ====
section
/-! DEFINITION. The Reed–Solomon codes of the scratchpad (R127, R128) and of HBM sectors (R297, R298), and SHAKE256. -/

namespace Sys2Proof.Machine

/-! ### The field of R127: GF(2^8) with polynomial 0x11D, α = 2 -/

/-- α times a symbol. -/
def gfX (a : Nat) : Nat := if a < 128 then 2 * a else (2 * a) ^^^ 0x11D

/-- Product of two symbols: fold over the bits of the second factor. -/
def gfMulAux : Nat → Nat → Nat → Nat
  | 0, _, _ => 0
  | k + 1, a, b => (if b % 2 = 1 then a else 0) ^^^ gfMulAux k (gfX a) (b / 2)

/-- Product of two symbols. -/
def gfMul (a b : Nat) : Nat := gfMulAux 8 (a % 256) (b % 256)

/-- α to a power. -/
def gfPow (k : Nat) : Nat := Nat.repeat gfX k 1

/-- Inverse of a symbol (the 254th power). -/
def gfInv (a : Nat) : Nat :=
  let a2 := gfMul a a
  let a4 := gfMul a2 a2
  let a8 := gfMul a4 a4
  let a16 := gfMul a8 a8
  let a32 := gfMul a16 a16
  let a64 := gfMul a32 a32
  let a128 := gfMul a64 a64
  gfMul a2 (gfMul a4 (gfMul a8 (gfMul a16 (gfMul a32 (gfMul a64 a128)))))

/-- Error pattern merged to one mask per position, zero masks dropped. -/
def mergeUpset (u : Upset) : Upset :=
  let ps := (u.map (·.1)).eraseDups
  (ps.map (fun p => (p, (u.filter (·.1 == p)).foldl (fun m q => m ^^^ q.2 % 256) 0))).filter (·.2 != 0)

/-- Syndrome j of an error pattern in a codeword of `n` symbols; position i is the coefficient of x^(n−1−i). -/
def syndrome (n j : Nat) (u : Upset) : Nat :=
  u.foldl (fun s p => s ^^^ gfMul p.2 (gfPow (j * (n - 1 - p.1)))) 0

/-- What a decoder makes of a codeword: the errors left in what it returns, and how many symbols it corrected. -/
inductive Decoded where
  | data (left : Upset) (fixed : Nat)
  | uncorrectable
  deriving DecidableEq, Repr

/-- The position whose single error explains syndromes s0, s1 and the others. -/
def findOne (n : Nat) (s : List Nat) : Option (Nat × Nat) :=
  let s0 := s.headD 0
  if s0 = 0 then none else
  ((List.range n).find? (fun p => s.zipIdx.all (fun (sj, j) => gfMul s0 (gfPow (j * (n - 1 - p))) == sj))).map (fun p => (p, s0))

/-- Two positions and values that explain four syndromes. -/
def findTwo (n : Nat) (s : List Nat) : Option ((Nat × Nat) × (Nat × Nat)) :=
  let s0 := s.getD 0 0; let s1 := s.getD 1 0; let s2 := s.getD 2 0; let s3 := s.getD 3 0
  (List.range n).findSome? (fun p => (List.range p).findSome? (fun q =>
    let x := gfPow (n - 1 - p); let y := gfPow (n - 1 - q)
    let v := gfMul (s1 ^^^ gfMul s0 y) (gfInv (x ^^^ y))
    let w := s0 ^^^ v
    if v = 0 ∨ w = 0 then none else
    let x2 := gfMul x x; let y2 := gfMul y y
    if (gfMul v x2 ^^^ gfMul w y2) == s2 && (gfMul v (gfMul x2 x) ^^^ gfMul w (gfMul y2 y)) == s3
    then some ((p, v), (q, w)) else none))

/-- Decode a codeword of `n` symbols with `r` check bytes, correcting up to `t` symbols. -/
def rsDecode (n r t : Nat) (u : Upset) : Decoded :=
  let u := mergeUpset u
  let s := (List.range r).map (fun j => syndrome n j u)
  if s.all (· == 0) then .data u 0 else
  match findOne n s with
  | some e => .data (mergeUpset (e :: u)) 1
  | none =>
    if t < 2 then .uncorrectable else
    match findTwo n s with
    | some (e, f) => .data (mergeUpset (e :: f :: u)) 2
    | none => .uncorrectable

/-- Decode a scratchpad codeword (Table 5.4): class W corrects two symbols, class A one. -/
def spmDecode (classW : Bool) (u : Upset) : Decoded := rsDecode 36 4 (if classW then 2 else 1) u

/-- Decode an HBM sector (R298). -/
def hbmDecode (u : Upset) : Decoded := rsDecode 34 2 1 u

/-- Check bytes of data by division: remainder of data(x)·x^r by the generator with roots α^0 … α^(r−1). -/
def rsCheck (r : Nat) (data : Bytes) : List Nat :=
  let gen := (List.range r).foldl (fun (g : List Nat) j =>
    let a := gfPow j
    -- g(x) · (x + α^j), most significant coefficient first
    List.zipWith (· ^^^ ·) (g ++ [0]) (0 :: g.map (gfMul a))) [1]
  data.foldl (fun (reg : List Nat) b =>
    let f := b.toNat ^^^ reg.headD 0
    List.zipWith (· ^^^ ·) (reg.drop 1 ++ [0]) (gen.drop 1 |>.map (gfMul f))) (List.replicate r 0)

/-! ### AES-256-GCM of packets (R353, R409) -/

/-- Turn a text into its ciphertext, or back. -/
def gcmText (key nonce text : Bytes) : Bytes := text.zipIdx.map (fun (b, i) => b ^^^ Config.gcmStream key nonce i)

/-- The 16-byte tag of a ciphertext. -/
def gcmTag (key nonce aad text : Bytes) : Bytes := slice (Config.gcmTag key nonce aad text) 0 16

/-- The ciphertext of a text, and its tag. -/
def gcmSeal (key nonce aad text : Bytes) : Bytes :=
  let c := gcmText key nonce text
  c ++ gcmTag key nonce aad c

/-- The text of a ciphertext with its tag; none when it fails authentication. -/
def gcmOpen (key nonce aad sealed : Bytes) : Option Bytes :=
  let c := sealed.take (sealed.length - 16)
  if 16 ≤ sealed.length ∧ gcmTag key nonce aad c = sealed.drop c.length then some (gcmText key nonce c) else none

/-! ### SHAKE256 (FIPS 202; PRESUMED, log entry 8) -/

/-- A lane of the Keccak state. -/
abbrev Lane := BitVec 64

/-- The bit stream of FIPS 202 that gives the round constants: state of its 8-bit register, by x^8 + x^6 + x^5 + x^4 + 1. -/
def keccakBits (t : Nat) : Nat := Nat.repeat (fun r => if r < 128 then 2 * r else (2 * r) ^^^ 0x171) t 1

/-- Constant of a round: bit 2^j − 1 is the stream's bit j + 7·round, for j from 0 to 6. -/
def keccakConst (round : Nat) : Lane :=
  (List.range 7).foldl (fun c j => if bit (keccakBits (j + 7 * round)) 0 then c ||| BitVec.ofNat 64 (2 ^ (2 ^ j - 1)) else c) 0

/-- A place on the walk that turns and moves the lanes: the lane it stands at, and the lanes written so far. -/
structure KeccakWalk where
  x : Nat
  y : Nat
  out : List Lane
  deriving DecidableEq, Repr

/-- Steps ρ and π as one walk from lane (1, 0): step t writes the lane it stands at, turned by 1 + 2 + … + (t + 1), at (y, 2x + 3y) and goes there. -/
def keccakTurn (a : List Lane) : List Lane :=
  ((List.range 24).foldl (fun (w : KeccakWalk) t =>
    let y := (2 * w.x + 3 * w.y) % 5
    ⟨w.y, y, w.out.set (w.y + 5 * y) ((a.getD (w.x + 5 * w.y) 0).rotateLeft ((t + 1) * (t + 2) / 2 % 64))⟩) (⟨1, 0, a⟩ : KeccakWalk)).out

/-- Step θ: every lane takes in the parity of the column before it and, turned by one, of the column after it. -/
def keccakMix (a : List Lane) : List Lane :=
  let col := fun x => ((List.range 5).map (fun y => a.getD (x % 5 + 5 * y) 0)).foldl (· ^^^ ·) 0
  let add := (List.range 5).map (fun x => col (x + 4) ^^^ (col (x + 1)).rotateLeft 1)
  a.zipIdx.map (fun (l, i) => l ^^^ add.getD (i % 5) 0)

/-- Step χ, plane by plane. -/
def keccakNonlinear (a : List Lane) : List Lane :=
  a.zipIdx.map (fun (l, i) =>
    let at' := fun d => a.getD (i / 5 * 5 + (i + d) % 5) 0
    l ^^^ (at' 2 &&& ~~~ at' 1))

/-- The permutation Keccak-f[1600]. -/
def keccakF (a : List Lane) : List Lane :=
  (List.range 24).foldl (fun a r => (keccakNonlinear (keccakTurn (keccakMix a))).modify 0 (· ^^^ keccakConst r)) a

/-- Absorb one 136-byte block. -/
def keccakAbsorb (a : List Lane) (blk : Bytes) : List Lane :=
  keccakF (a.zipIdx.map (fun (l, i) => if i < 17 then l ^^^ BitVec.ofNat 64 (leNat (slice blk (8 * i) 8)) else l))

/-- SHAKE256 with at most 136 bytes of output. -/
def shakeN (msg : Bytes) (n : Nat) : Bytes :=
  let padLen := 136 - msg.length % 136
  let pad : Bytes := if padLen = 1 then [0x9F] else 0x1F :: (List.replicate (padLen - 2) 0 ++ [0x80])
  let st := (chunks 136 (msg ++ pad)).foldl keccakAbsorb (List.replicate 25 0)
  slice ((st.take 17).map (fun l => natLe 8 l.toNat)).flatten 0 n

/-- SHAKE256 with 64 bytes of output. -/
def shake256 (msg : Bytes) : Bytes := shakeN msg 64

end Sys2Proof.Machine
end

