-- ==== Sys2Proof/Machine/Fec.lean ====
section
/-! DEFINITION. Signalling and forward error correction of a fabric port: PAM6 symbols, the Reed–Solomon codewords of R339, superframes, and the bytes
of a flit (R338 to R341). Log entry 45. -/

namespace Sys2Proof.Machine

/-! ### PAM6 (R338) -/

/-- The two symbols of a value of five bits: the first is sent first. -/
def pam6 (v : Nat) : Nat × Nat := (v / 6, v % 6)

/-- The level of a symbol. -/
def pam6Level (k : Nat) : Int := 2 * (k : Int) - 5

/-- The value of a received pair; none for the pairs (5, 2) to (5, 5), which never occur. -/
def pam6Read (a b : Nat) : Option Nat := if a < 6 ∧ b < 6 ∧ 6 * a + b < 32 then some (6 * a + b) else none

/-- A value of so many bits, most significant bit first. -/
def bitsFirst (w v : Nat) : List Bool := (List.range w).map (fun i => v.testBit (w - 1 - i))

/-- The value of bits, most significant first. -/
def bitsValue (l : List Bool) : Nat := l.foldl (fun v b => 2 * v + b2n b) 0

/-- Levels a lane sends for a run of bits, five at a time, and the bits left over, with fuel. -/
def pam6Levels : Nat → List Bool → List Int × List Bool
  | 0, l => ([], l)
  | k + 1, l =>
    if l.length < 5 then ([], l) else
    let (a, b) := pam6 (bitsValue (l.take 5))
    let (rest, left) := pam6Levels k (l.drop 5)
    (pam6Level a :: pam6Level b :: rest, left)

/-! ### The field of R339: GF(2^16) with polynomial 0x1100B, α = 2 -/

/-- α times a symbol. -/
def fecX (a : Nat) : Nat := if a < 2 ^ 15 then 2 * a else (2 * a) ^^^ 0x1100B

/-- Product of two symbols, bit by bit of the second. -/
def fecMul (a b : Nat) : Nat :=
  ((List.range 16).foldl (fun (acc : Nat × Nat) i => (if b.testBit i then acc.1 ^^^ acc.2 else acc.1, fecX acc.2)) (0, a)).1

/-- Coefficients of (x − α^0)(x − α^1) … (x − α^31), highest power first. -/
def fecGenerator : List Nat :=
  ((List.range 32).foldl (fun (acc : List Nat × Nat) _ =>
    (List.zipWith (· ^^^ ·) (acc.1 ++ [0]) (0 :: acc.1.map (fecMul acc.2)), fecX acc.2)) ([1], 1)).1

/-- Check symbols that make a codeword of the data symbols divisible by the generator. -/
def fecCheck (data : List Nat) : List Nat :=
  let gen := fecGenerator.drop 1
  data.foldl (fun (reg : List Nat) d =>
    let f := d ^^^ reg.headD 0
    List.zipWith (· ^^^ ·) (reg.drop 1 ++ [0]) (gen.map (fecMul f))) (List.replicate 32 0)

/-- The codeword of 960 bytes: 480 data symbols, then 32 check symbols (log entry 45). -/
def fecCodeword (bs : Bytes) : List Nat :=
  let data := (List.range 480).map (fun i => field bs (2 * i) 2)
  data ++ fecCheck data

/-- Symbols of a codeword that errors damage. -/
def fecStruck (u : Upset) : List Nat :=
  ((u.map (·.1)).eraseDups).filter (fun j => decide (j < 512) && (u.filter (·.1 == j)).foldl (fun m q => m ^^^ q.2 % 65536) 0 != 0)

/-- Symbols that the receiver corrects; none when more than 16 are damaged, and the codeword does not decode. -/
def fecDecode (u : Upset) : Option (List Nat) := if (fecStruck u).length ≤ 16 then some (fecStruck u) else none

/-- Levels that a codeword puts on each of `w` logical lanes, given the bits each lane still holds, and the bits it holds then: symbol j travels on lane
j mod w. -/
def fecLanes (w : Nat) (held : List (List Bool)) (word : List Nat) : List (List Int × List Bool) :=
  (List.range w).map (fun l =>
    pam6Levels 260 (held.getD l [] ++ (((word.zipIdx).filter (fun c => c.2 % w == l)).map (fun c => bitsFirst 16 c.1)).flatten))

/-! ### Superframes (R339, R340) -/

/-- A codeword begins in flit `k` of a superframe: seven codewords of 960 data bytes carry 20 flits of 336. -/
def fecBegins (k : Nat) : Bool := 336 * k % 960 == 0 || 336 * k / 960 != (336 * k + 335) / 960

/-- Flit `k` of a superframe starts inside a codeword that an earlier flit began. -/
def fecInside (k : Nat) : Bool := 336 * k % 960 != 0

/-! ### The bytes of a flit (Table 13.2) -/

/-- A credit field: virtual channel and flits returned. -/
def creditField : Option (Nat × Nat) → Nat
  | none => 0
  | some (v, k) => v % 8 + 8 + k % 4096 * 16

/-- Bytes 0 to 331 of a flit. -/
def flitBody (seq vc : Nat) (ctrl : Bool) (ack : Nat) (nak : Bool) (credA credB start fill : Nat) (payload : Bytes) : Bytes :=
  natLe 2 (seq % 4096 + vc % 8 * 4096 + b2n ctrl * 32768) ++ natLe 2 (ack % 4096 + b2n nak * 4096) ++ natLe 2 credA ++ natLe 2 credB ++
  natLe 1 (start % 32) ++ natLe 1 (fill % 32) ++ zeros 2 ++ slice payload 0 320

/-- A flit with its CRC. -/
def flitBytes (seq vc : Nat) (ctrl : Bool) (ack : Nat) (nak : Bool) (credits : List (Nat × Nat)) (start fill : Nat) (payload : Bytes) : Bytes :=
  let b := flitBody seq vc ctrl ack nak (creditField credits[0]?) (creditField credits[1]?) start fill payload
  b ++ natLe 4 (crc32c b)

/-- Bytes of a received flit. -/
def flitText (f : Flit) (ctrl : Bool) : Bytes := flitBody f.seq f.vc ctrl f.ack f.nak f.credA f.credB f.start f.fill f.payload ++ natLe 4 f.crc

/-- The CRC of a received flit, data or control, matches its bytes (R341, R342). -/
def flitIntact (ctrl : Bool) (f : Flit) : Bool := crc32c (flitBody f.seq f.vc ctrl f.ack f.nak f.credA f.credB f.start f.fill f.payload) == f.crc

end Sys2Proof.Machine
end

