-- ==== Sys2Proof/Machine/RegMap.lean ====
section
/-! DEFINITION. The set-up register map: every register of chapter 19 with its page, offset, width and fields, as the tables of the chapters list them. -/

namespace Sys2Proof.Machine

/-- Access types of Table 0.4. -/
inductive Acc where
  | rw | ro | w1c | w1s | wo | rwx
  deriving DecidableEq, Repr

/-- Register pages (Table 19.1). -/
inductive Page where
  | glb | mbx | mp | pwr | weir | clk | svc | lnkd | topo | eth | dbg | cku | cxs | tide | hscd | sec | hiu | lnkp | ge | hscs | core | seCfg
  deriving DecidableEq, Repr

/-- A set-up register (R497). -/
inductive Reg where
  | coreReset
  | coreMeRowmap
  | coreMeStatus
  | coreMeFrzFeed
  | coreMeFrzDrain
  | coreMePasses
  | spmStatus
  | spmAllocFail
  | spmCorr
  | spmEvents
  | spmEscalate
  | spmDredge
  | vuStatus
  | vuBatches
  | tideCoreFwd
  | tideCoreResend
  | tideCoreHeld
  | sfuUdir
  | seCmpCoded
  | seCmpRaw
  | seCmpZero
  | seCmpDamage
  | seTslot
  | seStrm
  | seqSlot
  | seqSwitches
  | seqEvents
  | seqBar
  | spmHt
  | ckuTransient
  | ckuLasting
  | ckuAuditStall
  | ckuSuspect
  | ckuCtxCfg
  | seCmpCtxCfg
  | cxsCtxCfg
  | cxsCtxState
  | tmoDike
  | tmoSluice
  | tmoTideBreak
  | tmoProgress
  | tmoSeq
  | tmoBarrier
  | tmoLinkRsp
  | tmoHb
  | cxsWdog
  | tideCtx
  | tideCommit
  | hscPtRoot
  | hscPtInval
  | hscPtFault
  | hscScrub
  | hscStackStatus
  | hscStackCorr
  | hscStackBad
  | hscStackCtl
  | geStatus
  | geRows
  | geRemote
  | geBags
  | geEvents
  | lnkStatus
  | lnkCtl
  | lnkLanes
  | lnkFec
  | lnkReplay
  | lnkDrop
  | lnkTimeNow
  | lnkTimeCtl
  | lnkTimeOffset
  | lnkTimeNext
  | topoPlanStatus
  | topoPlanSeq
  | topoEdgeDrop
  | topoUnreach
  | topoPlanKey
  | topoPort
  | topoCtxBlock
  | hiuCtxCtl
  | hiuSqBase
  | hiuCqBase
  | hiuAuditBase
  | hiuAuditWb
  | hiuCtxState
  | hiuCtxAudit
  | hiuWinBase
  | hiuEvents
  | hiuVfRange
  | mbxCmd
  | mbxBuf
  | mbxLen
  | mbxStatus
  | mbxDiscard
  | mbxVec
  | mbxDumpBuf
  | ethPort
  | ethTgt
  | ethDiag
  | ethDiagKey
  | mpReset
  | mpDumpStatus
  | secStatus
  | secChallenge
  | secOwnerKey
  | secSwitchRoot
  | secKeyx
  | secTgtKey
  | secCtxCfg
  | pwrInput
  | pwrCap
  | pwrSupply
  | pwrTherm
  | weirSlew
  | weirCtl
  | weirStatus
  | weirUnheld
  | clkCore
  | clkRef
  | clkField
  | svcStatus
  | svcCtl
  | svcPort
  | glbId
  | glbSerial
  | glbFwVersion
  | glbStatus
  | glbExpert
  | glbAccess
  | glbScratch
  | dbgStatus
  | dbgSpmSel
  | dbgSpmRow
  deriving DecidableEq, Repr

/-- Where a page lies: base, instances, stride between instances and size (Table 19.1). -/
def Page.place : Page → Nat × Nat × Nat × Nat
  | .glb => (0x0, 1, 0x0, 0x1000)
  | .mbx => (0x1000, 1, 0x0, 0x1000)
  | .mp => (0x2000, 1, 0x0, 0x1000)
  | .pwr => (0x3000, 1, 0x0, 0x1000)
  | .weir => (0x4000, 1, 0x0, 0x1000)
  | .clk => (0x5000, 1, 0x0, 0x1000)
  | .svc => (0x6000, 1, 0x0, 0x1000)
  | .lnkd => (0x7000, 1, 0x0, 0x1000)
  | .topo => (0x8000, 1, 0x0, 0x2000)
  | .eth => (0xA000, 1, 0x0, 0x2000)
  | .dbg => (0xC000, 1, 0x0, 0x4000)
  | .cku => (0x10000, 1, 0x0, 0x2000)
  | .cxs => (0x14000, 1, 0x0, 0x4000)
  | .tide => (0x18000, 1, 0x0, 0x4000)
  | .hscd => (0x20000, 1, 0x0, 0x4000)
  | .sec => (0x24000, 1, 0x0, 0x4000)
  | .hiu => (0x40000, 1, 0x0, 0x20000)
  | .lnkp => (0x80000, 8, 0x1000, 0x1000)
  | .ge => (0x90000, 16, 0x1000, 0x1000)
  | .hscs => (0xA0000, 20, 0x1000, 0x1000)
  | .core => (0x100000, 192, 0x4000, 0x4000)
  | .seCfg => (0x1C000, 1, 0x0, 0x4000)

/-- Every page. -/
def Page.all : List Page := [.glb, .mbx, .mp, .pwr, .weir, .clk, .svc, .lnkd, .topo, .eth, .dbg, .cku, .cxs, .tide, .hscd, .sec, .hiu, .lnkp, .ge, .hscs, .core, .seCfg]

/-- Number, page, offset in the page, entries, stride between entries and width of a register. -/
structure RInfo where
  num : Nat
  page : Page
  off : Nat
  entries : Nat
  stride : Nat
  width : Nat
  deriving DecidableEq, Repr

/-- The register list (Table 19.2 on). -/
def Reg.info : Reg → RInfo
  | .coreReset => ⟨0, .core, 0x0, 1, 0, 32⟩
  | .coreMeRowmap => ⟨1, .core, 0x200, 1, 0, 32⟩
  | .coreMeStatus => ⟨2, .core, 0x204, 1, 0, 32⟩
  | .coreMeFrzFeed => ⟨3, .core, 0x208, 1, 0, 32⟩
  | .coreMeFrzDrain => ⟨4, .core, 0x20C, 1, 0, 32⟩
  | .coreMePasses => ⟨5, .core, 0x210, 1, 0, 32⟩
  | .spmStatus => ⟨6, .core, 0x300, 1, 0, 32⟩
  | .spmAllocFail => ⟨7, .core, 0x304, 1, 0, 32⟩
  | .spmCorr => ⟨8, .core, 0x308, 1, 0, 32⟩
  | .spmEvents => ⟨9, .core, 0x30C, 1, 0, 32⟩
  | .spmEscalate => ⟨10, .core, 0x310, 1, 0, 32⟩
  | .spmDredge => ⟨11, .core, 0x314, 1, 0, 32⟩
  | .vuStatus => ⟨12, .core, 0x400, 1, 0, 32⟩
  | .vuBatches => ⟨13, .core, 0x404, 1, 0, 32⟩
  | .tideCoreFwd => ⟨14, .core, 0x500, 1, 0, 32⟩
  | .tideCoreResend => ⟨15, .core, 0x504, 1, 0, 32⟩
  | .tideCoreHeld => ⟨16, .core, 0x508, 1, 0, 32⟩
  | .sfuUdir => ⟨17, .core, 0x600, 64, 8, 64⟩
  | .seCmpCoded => ⟨18, .core, 0x800, 1, 0, 32⟩
  | .seCmpRaw => ⟨19, .core, 0x804, 1, 0, 32⟩
  | .seCmpZero => ⟨20, .core, 0x808, 1, 0, 32⟩
  | .seCmpDamage => ⟨21, .core, 0x80C, 1, 0, 32⟩
  | .seTslot => ⟨22, .core, 0xA00, 64, 8, 64⟩
  | .seStrm => ⟨23, .core, 0xC00, 32, 8, 64⟩
  | .seqSlot => ⟨24, .core, 0xD00, 4, 8, 64⟩
  | .seqSwitches => ⟨25, .core, 0xD20, 1, 0, 32⟩
  | .seqEvents => ⟨26, .core, 0xD24, 1, 0, 32⟩
  | .seqBar => ⟨27, .core, 0xE00, 64, 8, 64⟩
  | .spmHt => ⟨28, .core, 0x1000, 256, 16, 128⟩
  | .ckuTransient => ⟨29, .cku, 0x0, 1, 0, 32⟩
  | .ckuLasting => ⟨30, .cku, 0x4, 1, 0, 32⟩
  | .ckuAuditStall => ⟨31, .cku, 0x8, 1, 0, 32⟩
  | .ckuSuspect => ⟨32, .cku, 0x10, 6, 4, 32⟩
  | .ckuCtxCfg => ⟨33, .cku, 0x1000, 1024, 4, 32⟩
  | .seCmpCtxCfg => ⟨34, .seCfg, 0x2000, 1024, 4, 32⟩
  | .cxsCtxCfg => ⟨35, .cxs, 0x0, 1024, 4, 32⟩
  | .cxsCtxState => ⟨36, .cxs, 0x1000, 1024, 4, 32⟩
  | .tmoDike => ⟨37, .cxs, 0x2000, 1, 0, 32⟩
  | .tmoSluice => ⟨38, .cxs, 0x2004, 1, 0, 32⟩
  | .tmoTideBreak => ⟨39, .cxs, 0x2008, 1, 0, 32⟩
  | .tmoProgress => ⟨40, .cxs, 0x200C, 1, 0, 32⟩
  | .tmoSeq => ⟨41, .cxs, 0x2010, 1, 0, 32⟩
  | .tmoBarrier => ⟨42, .cxs, 0x2014, 1, 0, 32⟩
  | .tmoLinkRsp => ⟨43, .cxs, 0x2018, 1, 0, 32⟩
  | .tmoHb => ⟨44, .cxs, 0x201C, 1, 0, 32⟩
  | .cxsWdog => ⟨45, .cxs, 0x2020, 1, 0, 32⟩
  | .tideCtx => ⟨46, .tide, 0x0, 1024, 8, 64⟩
  | .tideCommit => ⟨47, .tide, 0x2000, 1024, 4, 32⟩
  | .hscPtRoot => ⟨48, .hscd, 0x0, 1024, 8, 64⟩
  | .hscPtInval => ⟨49, .hscd, 0x2000, 1, 0, 32⟩
  | .hscPtFault => ⟨50, .hscd, 0x2008, 1, 0, 64⟩
  | .hscScrub => ⟨51, .hscd, 0x2010, 1, 0, 32⟩
  | .hscStackStatus => ⟨52, .hscs, 0x0, 1, 0, 32⟩
  | .hscStackCorr => ⟨53, .hscs, 0x8, 1, 0, 32⟩
  | .hscStackBad => ⟨54, .hscs, 0x10, 1, 0, 64⟩
  | .hscStackCtl => ⟨55, .hscs, 0x18, 1, 0, 32⟩
  | .geStatus => ⟨56, .ge, 0x0, 1, 0, 32⟩
  | .geRows => ⟨57, .ge, 0x4, 1, 0, 32⟩
  | .geRemote => ⟨58, .ge, 0x8, 1, 0, 32⟩
  | .geBags => ⟨59, .ge, 0xC, 1, 0, 32⟩
  | .geEvents => ⟨60, .ge, 0x10, 1, 0, 32⟩
  | .lnkStatus => ⟨61, .lnkp, 0x0, 1, 0, 32⟩
  | .lnkCtl => ⟨62, .lnkp, 0x4, 1, 0, 32⟩
  | .lnkLanes => ⟨63, .lnkp, 0x8, 1, 0, 128⟩
  | .lnkFec => ⟨64, .lnkp, 0x18, 1, 0, 64⟩
  | .lnkReplay => ⟨65, .lnkp, 0x20, 1, 0, 32⟩
  | .lnkDrop => ⟨66, .lnkp, 0x24, 1, 0, 32⟩
  | .lnkTimeNow => ⟨67, .lnkd, 0x0, 1, 0, 64⟩
  | .lnkTimeCtl => ⟨68, .lnkd, 0x8, 1, 0, 32⟩
  | .lnkTimeOffset => ⟨69, .lnkd, 0x10, 1, 0, 64⟩
  | .lnkTimeNext => ⟨70, .lnkd, 0x18, 1, 0, 64⟩
  | .topoPlanStatus => ⟨71, .topo, 0x0, 1, 0, 32⟩
  | .topoPlanSeq => ⟨72, .topo, 0x8, 1, 0, 64⟩
  | .topoEdgeDrop => ⟨73, .topo, 0x10, 1, 0, 32⟩
  | .topoUnreach => ⟨74, .topo, 0x14, 1, 0, 32⟩
  | .topoPlanKey => ⟨75, .topo, 0x40, 8, 8, 64⟩
  | .topoPort => ⟨76, .topo, 0x100, 8, 32, 256⟩
  | .topoCtxBlock => ⟨77, .topo, 0x1000, 1024, 4, 32⟩
  | .hiuCtxCtl => ⟨78, .hiu, 0x10000, 1024, 64, 64⟩
  | .hiuSqBase => ⟨79, .hiu, 0x10008, 1024, 64, 64⟩
  | .hiuCqBase => ⟨80, .hiu, 0x10010, 1024, 64, 64⟩
  | .hiuAuditBase => ⟨81, .hiu, 0x10018, 1024, 64, 64⟩
  | .hiuAuditWb => ⟨82, .hiu, 0x10020, 1024, 64, 64⟩
  | .hiuCtxState => ⟨83, .hiu, 0x10028, 1024, 64, 64⟩
  | .hiuCtxAudit => ⟨84, .hiu, 0x10030, 1024, 64, 64⟩
  | .hiuWinBase => ⟨85, .hiu, 0x0, 1, 0, 64⟩
  | .hiuEvents => ⟨86, .hiu, 0x8, 1, 0, 32⟩
  | .hiuVfRange => ⟨87, .hiu, 0x100, 31, 4, 32⟩
  | .mbxCmd => ⟨88, .mbx, 0x0, 1, 0, 32⟩
  | .mbxBuf => ⟨89, .mbx, 0x8, 1, 0, 64⟩
  | .mbxLen => ⟨90, .mbx, 0x10, 1, 0, 32⟩
  | .mbxStatus => ⟨91, .mbx, 0x18, 1, 0, 32⟩
  | .mbxDiscard => ⟨92, .mbx, 0x20, 1, 0, 32⟩
  | .mbxVec => ⟨93, .mbx, 0x28, 1, 0, 32⟩
  | .mbxDumpBuf => ⟨94, .mbx, 0x30, 1, 0, 64⟩
  | .ethPort => ⟨95, .eth, 0x0, 2, 64, 256⟩
  | .ethTgt => ⟨96, .eth, 0x1000, 32, 64, 512⟩
  | .ethDiag => ⟨97, .eth, 0x800, 1, 0, 32⟩
  | .ethDiagKey => ⟨98, .eth, 0x840, 8, 8, 64⟩
  | .mpReset => ⟨99, .mp, 0x0, 1, 0, 32⟩
  | .mpDumpStatus => ⟨100, .mp, 0x8, 1, 0, 64⟩
  | .secStatus => ⟨101, .sec, 0x0, 1, 0, 32⟩
  | .secChallenge => ⟨102, .sec, 0x20, 4, 8, 64⟩
  | .secOwnerKey => ⟨103, .sec, 0x40, 8, 8, 64⟩
  | .secSwitchRoot => ⟨104, .sec, 0x80, 8, 8, 64⟩
  | .secKeyx => ⟨105, .sec, 0xC0, 1, 0, 32⟩
  | .secTgtKey => ⟨106, .sec, 0x1000, 32, 64, 512⟩
  | .secCtxCfg => ⟨107, .sec, 0x2000, 1024, 4, 32⟩
  | .pwrInput => ⟨108, .pwr, 0x0, 1, 0, 64⟩
  | .pwrCap => ⟨109, .pwr, 0x8, 1, 0, 32⟩
  | .pwrSupply => ⟨110, .pwr, 0x10, 1, 0, 32⟩
  | .pwrTherm => ⟨111, .pwr, 0x18, 1, 0, 64⟩
  | .weirSlew => ⟨112, .weir, 0x0, 1, 0, 32⟩
  | .weirCtl => ⟨113, .weir, 0x4, 1, 0, 32⟩
  | .weirStatus => ⟨114, .weir, 0x8, 1, 0, 32⟩
  | .weirUnheld => ⟨115, .weir, 0xC, 1, 0, 32⟩
  | .clkCore => ⟨116, .clk, 0x0, 1, 0, 32⟩
  | .clkRef => ⟨117, .clk, 0x8, 1, 0, 32⟩
  | .clkField => ⟨118, .clk, 0x10, 4, 4, 32⟩
  | .svcStatus => ⟨119, .svc, 0x0, 1, 0, 32⟩
  | .svcCtl => ⟨120, .svc, 0x4, 1, 0, 32⟩
  | .svcPort => ⟨121, .svc, 0x8, 1, 0, 32⟩
  | .glbId => ⟨122, .glb, 0x0, 1, 0, 64⟩
  | .glbSerial => ⟨123, .glb, 0x8, 1, 0, 64⟩
  | .glbFwVersion => ⟨124, .glb, 0x10, 1, 0, 32⟩
  | .glbStatus => ⟨125, .glb, 0x18, 1, 0, 32⟩
  | .glbExpert => ⟨126, .glb, 0x20, 1, 0, 32⟩
  | .glbAccess => ⟨127, .glb, 0x28, 1, 0, 32⟩
  | .glbScratch => ⟨128, .glb, 0x30, 1, 0, 64⟩
  | .dbgStatus => ⟨129, .dbg, 0x0, 1, 0, 32⟩
  | .dbgSpmSel => ⟨130, .dbg, 0x8, 1, 0, 32⟩
  | .dbgSpmRow => ⟨131, .dbg, 0x100, 1, 0, 2304⟩

/-- Every register. -/
def Reg.all : List Reg := [
  .coreReset, .coreMeRowmap, .coreMeStatus, .coreMeFrzFeed, .coreMeFrzDrain, .coreMePasses, .spmStatus, .spmAllocFail,
  .spmCorr, .spmEvents, .spmEscalate, .spmDredge, .vuStatus, .vuBatches, .tideCoreFwd, .tideCoreResend,
  .tideCoreHeld, .sfuUdir, .seCmpCoded, .seCmpRaw, .seCmpZero, .seCmpDamage, .seTslot, .seStrm,
  .seqSlot, .seqSwitches, .seqEvents, .seqBar, .spmHt, .ckuTransient, .ckuLasting, .ckuAuditStall,
  .ckuSuspect, .ckuCtxCfg, .seCmpCtxCfg, .cxsCtxCfg, .cxsCtxState, .tmoDike, .tmoSluice, .tmoTideBreak,
  .tmoProgress, .tmoSeq, .tmoBarrier, .tmoLinkRsp, .tmoHb, .cxsWdog, .tideCtx, .tideCommit,
  .hscPtRoot, .hscPtInval, .hscPtFault, .hscScrub, .hscStackStatus, .hscStackCorr, .hscStackBad, .hscStackCtl,
  .geStatus, .geRows, .geRemote, .geBags, .geEvents, .lnkStatus, .lnkCtl, .lnkLanes,
  .lnkFec, .lnkReplay, .lnkDrop, .lnkTimeNow, .lnkTimeCtl, .lnkTimeOffset, .lnkTimeNext, .topoPlanStatus,
  .topoPlanSeq, .topoEdgeDrop, .topoUnreach, .topoPlanKey, .topoPort, .topoCtxBlock, .hiuCtxCtl, .hiuSqBase,
  .hiuCqBase, .hiuAuditBase, .hiuAuditWb, .hiuCtxState, .hiuCtxAudit, .hiuWinBase, .hiuEvents, .hiuVfRange,
  .mbxCmd, .mbxBuf, .mbxLen, .mbxStatus, .mbxDiscard, .mbxVec, .mbxDumpBuf, .ethPort,
  .ethTgt, .ethDiag, .ethDiagKey, .mpReset, .mpDumpStatus, .secStatus, .secChallenge, .secOwnerKey,
  .secSwitchRoot, .secKeyx, .secTgtKey, .secCtxCfg, .pwrInput, .pwrCap, .pwrSupply, .pwrTherm,
  .weirSlew, .weirCtl, .weirStatus, .weirUnheld, .clkCore, .clkRef, .clkField, .svcStatus,
  .svcCtl, .svcPort, .glbId, .glbSerial, .glbFwVersion, .glbStatus, .glbExpert, .glbAccess,
  .glbScratch, .dbgStatus, .dbgSpmSel, .dbgSpmRow]

/-- A register field: bits, access, reset value, whether its count saturates, whether its level is Expert. -/
structure Fld where
  reg : Reg
  hi : Nat
  lo : Nat
  acc : Acc
  reset : Nat
  sat : Bool
  expert : Bool
  deriving DecidableEq, Repr

namespace F

/-- CORE_RESET.RESET [31:31], R436. -/
def coreResetReset : Fld := ⟨.coreReset, 31, 31, .w1s, 0, false, false⟩
/-- CORE_RESET.STATE [18:16], R436. -/
def coreResetState : Fld := ⟨.coreReset, 18, 16, .ro, 0, false, false⟩
/-- CORE_RESET.COUNT [15:0], R436. -/
def coreResetCount : Fld := ⟨.coreReset, 15, 0, .rw, 0, true, false⟩
/-- CORE_ME_ROWMAP.DIS_ROW [3:0], R82; reset Fuse, see `liveField`. -/
def coreMeRowmapDisRow : Fld := ⟨.coreMeRowmap, 3, 0, .ro, 0, false, false⟩
/-- CORE_ME_STATUS.FILLER [3:3], R82. -/
def coreMeStatusFiller : Fld := ⟨.coreMeStatus, 3, 3, .ro, 0, false, false⟩
/-- CORE_ME_STATUS.BUSY [2:2], R82. -/
def coreMeStatusBusy : Fld := ⟨.coreMeStatus, 2, 2, .ro, 0, false, false⟩
/-- CORE_ME_STATUS.FORM [1:0], R82. -/
def coreMeStatusForm : Fld := ⟨.coreMeStatus, 1, 0, .ro, 0, false, false⟩
/-- CORE_ME_FRZ_FEED.COUNT [31:0], R82. -/
def coreMeFrzFeedCount : Fld := ⟨.coreMeFrzFeed, 31, 0, .rw, 0, false, false⟩
/-- CORE_ME_FRZ_DRAIN.COUNT [31:0], R82. -/
def coreMeFrzDrainCount : Fld := ⟨.coreMeFrzDrain, 31, 0, .rw, 0, false, false⟩
/-- CORE_ME_PASSES.COUNT [31:0], R82. -/
def coreMePassesCount : Fld := ⟨.coreMePasses, 31, 0, .rw, 0, false, false⟩
/-- SPM_STATUS.RUNS [25:18], R144. -/
def spmStatusRuns : Fld := ⟨.spmStatus, 25, 18, .ro, 1, true, false⟩
/-- SPM_STATUS.FREE_GRAN [17:9], R144. -/
def spmStatusFreeGran : Fld := ⟨.spmStatus, 17, 9, .ro, 384, false, false⟩
/-- SPM_STATUS.LARGEST [8:0], R144. -/
def spmStatusLargest : Fld := ⟨.spmStatus, 8, 0, .ro, 384, false, false⟩
/-- SPM_ALLOC_FAIL.VALID [31:31], R144. -/
def spmAllocFailValid : Fld := ⟨.spmAllocFail, 31, 31, .w1c, 0, false, false⟩
/-- SPM_ALLOC_FAIL.REASON [30:28], R144. -/
def spmAllocFailReason : Fld := ⟨.spmAllocFail, 30, 28, .ro, 0, false, false⟩
/-- SPM_ALLOC_FAIL.HANDLE [16:9], R144. -/
def spmAllocFailHandle : Fld := ⟨.spmAllocFail, 16, 9, .ro, 0, false, false⟩
/-- SPM_ALLOC_FAIL.LENGTH [8:0], R144. -/
def spmAllocFailLength : Fld := ⟨.spmAllocFail, 8, 0, .ro, 0, false, false⟩
/-- SPM_CORR.TWO_SYM [31:16], R144. -/
def spmCorrTwoSym : Fld := ⟨.spmCorr, 31, 16, .rw, 0, true, false⟩
/-- SPM_CORR.ONE_SYM [15:0], R144. -/
def spmCorrOneSym : Fld := ⟨.spmCorr, 15, 0, .rw, 0, true, false⟩
/-- SPM_EVENTS.UNCORR [31:24], R144. -/
def spmEventsUncorr : Fld := ⟨.spmEvents, 31, 24, .rw, 0, true, false⟩
/-- SPM_EVENTS.OVERRUN [23:16], R144. -/
def spmEventsOverrun : Fld := ⟨.spmEvents, 23, 16, .rw, 0, true, false⟩
/-- SPM_EVENTS.STALE [15:8], R144. -/
def spmEventsStale : Fld := ⟨.spmEvents, 15, 8, .rw, 0, true, false⟩
/-- SPM_EVENTS.FREE_UNCORR [7:0], R144. -/
def spmEventsFreeUncorr : Fld := ⟨.spmEvents, 7, 0, .rw, 0, true, false⟩
/-- SPM_ESCALATE.COUNT [31:0], R144. -/
def spmEscalateCount : Fld := ⟨.spmEscalate, 31, 0, .rw, 0, false, false⟩
/-- SPM_DREDGE.SWEEPS [31:16], R144. -/
def spmDredgeSweeps : Fld := ⟨.spmDredge, 31, 16, .ro, 0, false, false⟩
/-- SPM_DREDGE.INTERVAL [15:0], R144. -/
def spmDredgeInterval : Fld := ⟨.spmDredge, 15, 0, .rwx, 64, false, true⟩
/-- VU_STATUS.RSU_BUSY [2:2], R204. -/
def vuStatusRsuBusy : Fld := ⟨.vuStatus, 2, 2, .ro, 0, false, false⟩
/-- VU_STATUS.MICRO_BUSY [1:1], R204. -/
def vuStatusMicroBusy : Fld := ⟨.vuStatus, 1, 1, .ro, 0, false, false⟩
/-- VU_STATUS.BUSY [0:0], R204. -/
def vuStatusBusy : Fld := ⟨.vuStatus, 0, 0, .ro, 0, false, false⟩
/-- VU_BATCHES.COUNT [31:0], R204. -/
def vuBatchesCount : Fld := ⟨.vuBatches, 31, 0, .rw, 0, false, false⟩
/-- TIDE_CORE_FWD.COUNT [31:0], R286. -/
def tideCoreFwdCount : Fld := ⟨.tideCoreFwd, 31, 0, .rw, 0, false, false⟩
/-- TIDE_CORE_RESEND.LASTING [31:16], R286. -/
def tideCoreResendLasting : Fld := ⟨.tideCoreResend, 31, 16, .rw, 0, true, false⟩
/-- TIDE_CORE_RESEND.COUNT [15:0], R286. -/
def tideCoreResendCount : Fld := ⟨.tideCoreResend, 15, 0, .rw, 0, true, false⟩
/-- TIDE_CORE_HELD.BLOCKS [10:0], R286. -/
def tideCoreHeldBlocks : Fld := ⟨.tideCoreHeld, 10, 0, .ro, 0, false, false⟩
/-- SFU_UDIR.OWNER [63:48], R204. -/
def sfuUdirOwner : Fld := ⟨.sfuUdir, 63, 48, .ro, 0, false, false⟩
/-- SFU_UDIR.BASE [41:32], R204. -/
def sfuUdirBase : Fld := ⟨.sfuUdir, 41, 32, .ro, 0, false, false⟩
/-- SFU_UDIR.LENGTH [26:21], R204. -/
def sfuUdirLength : Fld := ⟨.sfuUdir, 26, 21, .ro, 0, false, false⟩
/-- SFU_UDIR.LIB [1:1], R204. -/
def sfuUdirLib : Fld := ⟨.sfuUdir, 1, 1, .ro, 0, false, false⟩
/-- SFU_UDIR.VALID [0:0], R204. -/
def sfuUdirValid : Fld := ⟨.sfuUdir, 0, 0, .ro, 0, false, false⟩
/-- SE_CMP_CODED.COUNT [31:0], R173. -/
def seCmpCodedCount : Fld := ⟨.seCmpCoded, 31, 0, .rw, 0, false, false⟩
/-- SE_CMP_RAW.COUNT [31:0], R173. -/
def seCmpRawCount : Fld := ⟨.seCmpRaw, 31, 0, .rw, 0, false, false⟩
/-- SE_CMP_ZERO.COUNT [31:0], R173. -/
def seCmpZeroCount : Fld := ⟨.seCmpZero, 31, 0, .rw, 0, false, false⟩
/-- SE_CMP_DAMAGE.VALID [31:31], R173. -/
def seCmpDamageValid : Fld := ⟨.seCmpDamage, 31, 31, .w1c, 0, false, false⟩
/-- SE_CMP_DAMAGE.EXPANDER [30:30], R173. -/
def seCmpDamageExpander : Fld := ⟨.seCmpDamage, 30, 30, .ro, 0, false, false⟩
/-- SE_CMP_DAMAGE.CAUSE [27:24], R173. -/
def seCmpDamageCause : Fld := ⟨.seCmpDamage, 27, 24, .ro, 0, false, false⟩
/-- SE_CMP_DAMAGE.LASTING [23:16], R173. -/
def seCmpDamageLasting : Fld := ⟨.seCmpDamage, 23, 16, .rw, 0, true, false⟩
/-- SE_CMP_DAMAGE.COUNT [15:0], R173. -/
def seCmpDamageCount : Fld := ⟨.seCmpDamage, 15, 0, .rw, 0, true, false⟩
/-- SE_TSLOT.OWNER [63:48], R173. -/
def seTslotOwner : Fld := ⟨.seTslot, 63, 48, .ro, 0, false, false⟩
/-- SE_TSLOT.TABLE_ID [47:32], R173. -/
def seTslotTableId : Fld := ⟨.seTslot, 47, 32, .ro, 0, false, false⟩
/-- SE_TSLOT.VALID [0:0], R173. -/
def seTslotValid : Fld := ⟨.seTslot, 0, 0, .ro, 0, false, false⟩
/-- SE_STRM.OWNER [63:48], R234. -/
def seStrmOwner : Fld := ⟨.seStrm, 63, 48, .ro, 0, false, false⟩
/-- SE_STRM.STATUS [47:40], R234. -/
def seStrmStatus : Fld := ⟨.seStrm, 47, 40, .ro, 0, false, false⟩
/-- SE_STRM.STATE [31:30], R234. -/
def seStrmState : Fld := ⟨.seStrm, 31, 30, .ro, 0, false, false⟩
/-- SE_STRM.HELD [29:29], R234. -/
def seStrmHeld : Fld := ⟨.seStrm, 29, 29, .ro, 0, false, false⟩
/-- SE_STRM.CREDIT [21:11], R234. -/
def seStrmCredit : Fld := ⟨.seStrm, 21, 11, .ro, 0, false, false⟩
/-- SE_STRM.NEXT_SLOT [10:0], R234. -/
def seStrmNextSlot : Fld := ⟨.seStrm, 10, 0, .ro, 0, false, false⟩
/-- SEQ_SLOT.CTX_TAG [63:48], R234. -/
def seqSlotCtxTag : Fld := ⟨.seqSlot, 63, 48, .ro, 0, false, false⟩
/-- SEQ_SLOT.TASK [47:32], R234. -/
def seqSlotTask : Fld := ⟨.seqSlot, 47, 32, .ro, 0, false, false⟩
/-- SEQ_SLOT.WAIT_CTR [13:8], R234. -/
def seqSlotWaitCtr : Fld := ⟨.seqSlot, 13, 8, .ro, 0, false, false⟩
/-- SEQ_SLOT.ENDING [3:3], R234. -/
def seqSlotEnding : Fld := ⟨.seqSlot, 3, 3, .ro, 0, false, false⟩
/-- SEQ_SLOT.PHASE [2:2], R234. -/
def seqSlotPhase : Fld := ⟨.seqSlot, 2, 2, .ro, 0, false, false⟩
/-- SEQ_SLOT.STATE [1:0], R234. -/
def seqSlotState : Fld := ⟨.seqSlot, 1, 0, .ro, 0, false, false⟩
/-- SEQ_SWITCHES.COUNT [31:0], R234. -/
def seqSwitchesCount : Fld := ⟨.seqSwitches, 31, 0, .rw, 0, false, false⟩
/-- SEQ_EVENTS.GATED [31:16], R234. -/
def seqEventsGated : Fld := ⟨.seqEvents, 31, 16, .rw, 0, true, false⟩
/-- SEQ_EVENTS.BAR_DROP [15:8], R234. -/
def seqEventsBarDrop : Fld := ⟨.seqEvents, 15, 8, .rw, 0, true, false⟩
/-- SEQ_EVENTS.CULV_DROP [7:0], R234. -/
def seqEventsCulvDrop : Fld := ⟨.seqEvents, 7, 0, .rw, 0, true, false⟩
/-- SEQ_BAR.OWNER [63:48], R234. -/
def seqBarOwner : Fld := ⟨.seqBar, 63, 48, .ro, 0, false, false⟩
/-- SEQ_BAR.BOUND [47:47], R234. -/
def seqBarBound : Fld := ⟨.seqBar, 47, 47, .ro, 0, false, false⟩
/-- SEQ_BAR.WAITING [46:46], R234. -/
def seqBarWaiting : Fld := ⟨.seqBar, 46, 46, .ro, 0, false, false⟩
/-- SEQ_BAR.COUNT [45:23], R234. -/
def seqBarCount : Fld := ⟨.seqBar, 45, 23, .ro, 0, false, false⟩
/-- SEQ_BAR.TARGET [22:0], R234. -/
def seqBarTarget : Fld := ⟨.seqBar, 22, 0, .ro, 0, false, false⟩
/-- SPM_HT.PEER_CHIP [127:114], R131. -/
def spmHtPeerChip : Fld := ⟨.spmHt, 127, 114, .ro, 0, false, false⟩
/-- SPM_HT.PEER_CORE [113:106], R131. -/
def spmHtPeerCore : Fld := ⟨.spmHt, 113, 106, .ro, 0, false, false⟩
/-- SPM_HT.PEER_CREDIT [105:100], R131. -/
def spmHtPeerCredit : Fld := ⟨.spmHt, 105, 100, .ro, 0, false, false⟩
/-- SPM_HT.CREDIT [99:89], R131. -/
def spmHtCredit : Fld := ⟨.spmHt, 99, 89, .ro, 0, false, false⟩
/-- SPM_HT.NEXT_SLOT [88:78], R131. -/
def spmHtNextSlot : Fld := ⟨.spmHt, 88, 78, .ro, 0, false, false⟩
/-- SPM_HT.OWNER [63:48], R131. -/
def spmHtOwner : Fld := ⟨.spmHt, 63, 48, .ro, 0, false, false⟩
/-- SPM_HT.GEN [47:42], R131. -/
def spmHtGen : Fld := ⟨.spmHt, 47, 42, .ro, 0, false, false⟩
/-- SPM_HT.VALID [41:41], R131. -/
def spmHtValid : Fld := ⟨.spmHt, 41, 41, .ro, 0, false, false⟩
/-- SPM_HT.RESIDENT [40:40], R131. -/
def spmHtResident : Fld := ⟨.spmHt, 40, 40, .ro, 0, false, false⟩
/-- SPM_HT.COMPRESSED [39:39], R131. -/
def spmHtCompressed : Fld := ⟨.spmHt, 39, 39, .ro, 0, false, false⟩
/-- SPM_HT.SLUICE [38:38], R131. -/
def spmHtSluice : Fld := ⟨.spmHt, 38, 38, .ro, 0, false, false⟩
/-- SPM_HT.ACCUM [37:37], R131. -/
def spmHtAccum : Fld := ⟨.spmHt, 37, 37, .ro, 0, false, false⟩
/-- SPM_HT.CODE [36:36], R131. -/
def spmHtCode : Fld := ⟨.spmHt, 36, 36, .ro, 0, false, false⟩
/-- SPM_HT.CLASS [35:35], R131. -/
def spmHtClass : Fld := ⟨.spmHt, 35, 35, .ro, 0, false, false⟩
/-- SPM_HT.SLUICE_STATE [34:33], R131. -/
def spmHtSluiceState : Fld := ⟨.spmHt, 34, 33, .ro, 0, false, false⟩
/-- SPM_HT.LENGTH [32:24], R131. -/
def spmHtLength : Fld := ⟨.spmHt, 32, 24, .ro, 0, false, false⟩
/-- SPM_HT.BASE [23:15], R131. -/
def spmHtBase : Fld := ⟨.spmHt, 23, 15, .ro, 0, false, false⟩
/-- CKU_TRANSIENT.COUNT [31:0], R115. -/
def ckuTransientCount : Fld := ⟨.ckuTransient, 31, 0, .rw, 0, false, false⟩
/-- CKU_LASTING.COUNT [31:0], R115. -/
def ckuLastingCount : Fld := ⟨.ckuLasting, 31, 0, .rw, 0, false, false⟩
/-- CKU_AUDIT_STALL.COUNT [31:0], R115. -/
def ckuAuditStallCount : Fld := ⟨.ckuAuditStall, 31, 0, .rw, 0, false, false⟩
/-- CKU_SUSPECT.CORES [31:0], R115. -/
def ckuSuspectCores : Fld := ⟨.ckuSuspect, 31, 0, .ro, 0, false, false⟩
/-- CKU_CTX_CFG.AUDIT_SHIFT [23:20], R115. -/
def ckuCtxCfgAuditShift : Fld := ⟨.ckuCtxCfg, 23, 20, .rwx, 0, false, true⟩
/-- CKU_CTX_CFG.AUDIT_SAMPLE [19:19], R115. -/
def ckuCtxCfgAuditSample : Fld := ⟨.ckuCtxCfg, 19, 19, .rwx, 0, false, true⟩
/-- CKU_CTX_CFG.AUDIT [18:18], R115. -/
def ckuCtxCfgAudit : Fld := ⟨.ckuCtxCfg, 18, 18, .rw, 0, false, false⟩
/-- CKU_CTX_CFG.DRAIN_CHK [17:14], R115. -/
def ckuCtxCfgDrainChk : Fld := ⟨.ckuCtxCfg, 17, 14, .rwx, 0, false, true⟩
/-- CKU_CTX_CFG.KAPPA [13:7], R115. -/
def ckuCtxCfgKappa : Fld := ⟨.ckuCtxCfg, 13, 7, .rwx, 4, false, true⟩
/-- SE_CMP_CTX_CFG.SAMPLE [29:16], R173. -/
def seCmpCtxCfgSample : Fld := ⟨.seCmpCtxCfg, 29, 16, .rwx, 0, false, true⟩
/-- SE_CMP_CTX_CFG.TABLE_REUSE [1:1], R173. -/
def seCmpCtxCfgTableReuse : Fld := ⟨.seCmpCtxCfg, 1, 1, .rwx, 0, false, true⟩
/-- SE_CMP_CTX_CFG.ENABLE [0:0], R173. -/
def seCmpCtxCfgEnable : Fld := ⟨.seCmpCtxCfg, 0, 0, .rw, 1, false, false⟩
/-- CXS_CTX_CFG.PRIORITY [2:0], R234. -/
def cxsCtxCfgPriority : Fld := ⟨.cxsCtxCfg, 2, 0, .rw, 0, false, false⟩
/-- CXS_CTX_STATE.RESUME [31:31], R436. -/
def cxsCtxStateResume : Fld := ⟨.cxsCtxState, 31, 31, .w1s, 0, false, false⟩
/-- CXS_CTX_STATE.STATE [10:8], R436. -/
def cxsCtxStateState : Fld := ⟨.cxsCtxState, 10, 8, .ro, 0, false, false⟩
/-- CXS_CTX_STATE.STATUS [7:0], R436. -/
def cxsCtxStateStatus : Fld := ⟨.cxsCtxState, 7, 0, .ro, 0, false, false⟩
/-- TMO_DIKE.DIKE_MS [15:0], R436. -/
def tmoDikeDikeMs : Fld := ⟨.tmoDike, 15, 0, .rwx, 10, false, true⟩
/-- TMO_SLUICE.SLUICE_MS [15:0], R436. -/
def tmoSluiceSluiceMs : Fld := ⟨.tmoSluice, 15, 0, .rwx, 50, false, true⟩
/-- TMO_TIDE_BREAK.TIDE_BREAK_US [19:0], R436. -/
def tmoTideBreakTideBreakUs : Fld := ⟨.tmoTideBreak, 19, 0, .rwx, 2000, false, true⟩
/-- TMO_PROGRESS.PROGRESS_MS [15:0], R436. -/
def tmoProgressProgressMs : Fld := ⟨.tmoProgress, 15, 0, .rwx, 200, false, true⟩
/-- TMO_SEQ.SEQ_MS [15:0], R436. -/
def tmoSeqSeqMs : Fld := ⟨.tmoSeq, 15, 0, .rwx, 10, false, true⟩
/-- TMO_BARRIER.BARRIER_MS [15:0], R436. -/
def tmoBarrierBarrierMs : Fld := ⟨.tmoBarrier, 15, 0, .rwx, 100, false, true⟩
/-- TMO_LINK_RSP.LINK_RSP_MS [15:0], R436. -/
def tmoLinkRspLinkRspMs : Fld := ⟨.tmoLinkRsp, 15, 0, .rwx, 20, false, true⟩
/-- TMO_HB.HB_EN [31:31], R436. -/
def tmoHbHbEn : Fld := ⟨.tmoHb, 31, 31, .rw, 0, false, false⟩
/-- TMO_HB.HB_S [9:0], R436. -/
def tmoHbHbS : Fld := ⟨.tmoHb, 9, 0, .rwx, 5, false, true⟩
/-- CXS_WDOG.PROGRESS [31:24], R436. -/
def cxsWdogProgress : Fld := ⟨.cxsWdog, 31, 24, .rw, 0, true, false⟩
/-- CXS_WDOG.BARRIER [23:16], R436. -/
def cxsWdogBarrier : Fld := ⟨.cxsWdog, 23, 16, .rw, 0, true, false⟩
/-- CXS_WDOG.SEQ [15:8], R436. -/
def cxsWdogSeq : Fld := ⟨.cxsWdog, 15, 8, .rw, 0, true, false⟩
/-- CXS_WDOG.HEARTBEAT [7:0], R436. -/
def cxsWdogHeartbeat : Fld := ⟨.cxsWdog, 7, 0, .rw, 0, true, false⟩
/-- TIDE_CTX.STEP [63:32], R286. -/
def tideCtxStep : Fld := ⟨.tideCtx, 63, 32, .ro, 0, false, false⟩
/-- TIDE_CTX.SWITCH [7:5], R286. -/
def tideCtxSwitch : Fld := ⟨.tideCtx, 7, 5, .ro, 0, false, false⟩
/-- TIDE_CTX.BANK [4:4], R286. -/
def tideCtxBank : Fld := ⟨.tideCtx, 4, 4, .ro, 0, false, false⟩
/-- TIDE_CTX.MAPPED [3:3], R286. -/
def tideCtxMapped : Fld := ⟨.tideCtx, 3, 3, .ro, 0, false, false⟩
/-- TIDE_CTX.MIRROR [2:2], R286. -/
def tideCtxMirror : Fld := ⟨.tideCtx, 2, 2, .ro, 1, false, false⟩
/-- TIDE_CTX.RINGS [1:0], R286. -/
def tideCtxRings : Fld := ⟨.tideCtx, 1, 0, .ro, 0, false, false⟩
/-- TIDE_COMMIT.STEP [31:0], R286. -/
def tideCommitStep : Fld := ⟨.tideCommit, 31, 0, .ro, 0, false, false⟩
/-- HSC_PT_ROOT.ROOT [40:12], R313. -/
def hscPtRootRoot : Fld := ⟨.hscPtRoot, 40, 12, .rw, 0, false, false⟩
/-- HSC_PT_ROOT.ENABLE [0:0], R313. -/
def hscPtRootEnable : Fld := ⟨.hscPtRoot, 0, 0, .rw, 0, false, false⟩
/-- HSC_PT_INVAL.BUSY [31:31], R313. -/
def hscPtInvalBusy : Fld := ⟨.hscPtInval, 31, 31, .ro, 0, false, false⟩
/-- HSC_PT_INVAL.ALL [10:10], R313. -/
def hscPtInvalAll : Fld := ⟨.hscPtInval, 10, 10, .wo, 0, false, false⟩
/-- HSC_PT_INVAL.CTX [9:0], R313. -/
def hscPtInvalCtx : Fld := ⟨.hscPtInval, 9, 0, .wo, 0, false, false⟩
/-- HSC_PT_FAULT.VALID [63:63], R313. -/
def hscPtFaultValid : Fld := ⟨.hscPtFault, 63, 63, .w1c, 0, false, false⟩
/-- HSC_PT_FAULT.REASON [62:59], R313. -/
def hscPtFaultReason : Fld := ⟨.hscPtFault, 62, 59, .ro, 0, false, false⟩
/-- HSC_PT_FAULT.CTX_TAG [58:43], R313. -/
def hscPtFaultCtxTag : Fld := ⟨.hscPtFault, 58, 43, .ro, 0, false, false⟩
/-- HSC_PT_FAULT.VPAGE [26:0], R313. -/
def hscPtFaultVpage : Fld := ⟨.hscPtFault, 26, 0, .ro, 0, false, false⟩
/-- HSC_SCRUB.SWEEPS [31:16], R313. -/
def hscScrubSweeps : Fld := ⟨.hscScrub, 31, 16, .ro, 0, false, false⟩
/-- HSC_SCRUB.PERIOD [7:0], R313. -/
def hscScrubPeriod : Fld := ⟨.hscScrub, 7, 0, .rwx, 24, false, true⟩
/-- HSC_STACK_STATUS.TEMP [31:24], R313. -/
def hscStackStatusTemp : Fld := ⟨.hscStackStatus, 31, 24, .ro, 0, false, false⟩
/-- HSC_STACK_STATUS.THROTTLE [2:2], R313. -/
def hscStackStatusThrottle : Fld := ⟨.hscStackStatus, 2, 2, .ro, 0, false, false⟩
/-- HSC_STACK_STATUS.STATE [1:0], R313. -/
def hscStackStatusState : Fld := ⟨.hscStackStatus, 1, 0, .ro, 0, false, false⟩
/-- HSC_STACK_CORR.REPAIRED [31:24], R313. -/
def hscStackCorrRepaired : Fld := ⟨.hscStackCorr, 31, 24, .rw, 0, true, false⟩
/-- HSC_STACK_CORR.UNCORR [23:16], R313. -/
def hscStackCorrUncorr : Fld := ⟨.hscStackCorr, 23, 16, .rw, 0, true, false⟩
/-- HSC_STACK_CORR.CORR [15:0], R313. -/
def hscStackCorrCorr : Fld := ⟨.hscStackCorr, 15, 0, .rw, 0, true, false⟩
/-- HSC_STACK_BAD.VALID [63:63], R313. -/
def hscStackBadValid : Fld := ⟨.hscStackBad, 63, 63, .w1c, 0, false, false⟩
/-- HSC_STACK_BAD.SCRUB [62:62], R313. -/
def hscStackBadScrub : Fld := ⟨.hscStackBad, 62, 62, .ro, 0, false, false⟩
/-- HSC_STACK_BAD.SECTOR [40:5], R313. -/
def hscStackBadSector : Fld := ⟨.hscStackBad, 40, 5, .ro, 0, false, false⟩
/-- HSC_STACK_CTL.RESET [31:31], R436. -/
def hscStackCtlReset : Fld := ⟨.hscStackCtl, 31, 31, .w1s, 0, false, false⟩
/-- HSC_STACK_CTL.COUNT [15:0], R436. -/
def hscStackCtlCount : Fld := ⟨.hscStackCtl, 15, 0, .rw, 0, true, false⟩
/-- GE_STATUS.ENTRIES [7:3], R334. -/
def geStatusEntries : Fld := ⟨.geStatus, 7, 3, .ro, 0, false, false⟩
/-- GE_STATUS.SUSPECT [2:2], R334. -/
def geStatusSuspect : Fld := ⟨.geStatus, 2, 2, .ro, 0, false, false⟩
/-- GE_STATUS.SEALING [1:1], R334. -/
def geStatusSealing : Fld := ⟨.geStatus, 1, 1, .ro, 0, false, false⟩
/-- GE_STATUS.BUSY [0:0], R334. -/
def geStatusBusy : Fld := ⟨.geStatus, 0, 0, .ro, 0, false, false⟩
/-- GE_ROWS.COUNT [31:0], R334. -/
def geRowsCount : Fld := ⟨.geRows, 31, 0, .rw, 0, false, false⟩
/-- GE_REMOTE.COUNT [31:0], R334. -/
def geRemoteCount : Fld := ⟨.geRemote, 31, 0, .rw, 0, false, false⟩
/-- GE_BAGS.COUNT [31:0], R334. -/
def geBagsCount : Fld := ⟨.geBags, 31, 0, .rw, 0, false, false⟩
/-- GE_EVENTS.REFETCH [31:16], R334. -/
def geEventsRefetch : Fld := ⟨.geEvents, 31, 16, .rw, 0, true, false⟩
/-- GE_EVENTS.LASTING [15:8], R334. -/
def geEventsLasting : Fld := ⟨.geEvents, 15, 8, .rw, 0, true, false⟩
/-- GE_EVENTS.UNCHECKED [7:0], R334. -/
def geEventsUnchecked : Fld := ⟨.geEvents, 7, 0, .rw, 0, true, false⟩
/-- LNK_STATUS.WIDTH [15:10], R366. -/
def lnkStatusWidth : Fld := ⟨.lnkStatus, 15, 10, .ro, 0, false, false⟩
/-- LNK_STATUS.ROLE [7:4], R366. -/
def lnkStatusRole : Fld := ⟨.lnkStatus, 7, 4, .ro, 15, false, false⟩
/-- LNK_STATUS.PRESENT [3:3], R366. -/
def lnkStatusPresent : Fld := ⟨.lnkStatus, 3, 3, .ro, 0, false, false⟩
/-- LNK_STATUS.STATE [2:0], R366. -/
def lnkStatusState : Fld := ⟨.lnkStatus, 2, 0, .ro, 0, false, false⟩
/-- LNK_CTL.LANE_LIMIT [31:16], R366. -/
def lnkCtlLaneLimit : Fld := ⟨.lnkCtl, 31, 16, .rwx, 2800, false, true⟩
/-- LNK_CTL.FORCE_WIDTH [2:1], R366. -/
def lnkCtlForceWidth : Fld := ⟨.lnkCtl, 2, 1, .rwx, 0, false, true⟩
/-- LNK_CTL.RESET [0:0], R366. -/
def lnkCtlReset : Fld := ⟨.lnkCtl, 0, 0, .w1s, 0, false, false⟩
/-- LNK_LANES.FORCE_LANES [95:64], R366. -/
def lnkLanesForceLanes : Fld := ⟨.lnkLanes, 95, 64, .rwx, 0, false, true⟩
/-- LNK_LANES.ACTIVE [63:32], R366. -/
def lnkLanesActive : Fld := ⟨.lnkLanes, 63, 32, .ro, 0, false, false⟩
/-- LNK_LANES.FAILED [31:0], R366. -/
def lnkLanesFailed : Fld := ⟨.lnkLanes, 31, 0, .ro, 0, false, false⟩
/-- LNK_FEC.CORR_SYM [63:32], R366. -/
def lnkFecCorrSym : Fld := ⟨.lnkFec, 63, 32, .rw, 0, false, false⟩
/-- LNK_FEC.UNCORR_CW [31:0], R366. -/
def lnkFecUncorrCw : Fld := ⟨.lnkFec, 31, 0, .rw, 0, false, false⟩
/-- LNK_REPLAY.DEGRADES [31:16], R366. -/
def lnkReplayDegrades : Fld := ⟨.lnkReplay, 31, 16, .rw, 0, true, false⟩
/-- LNK_REPLAY.COUNT [15:0], R366. -/
def lnkReplayCount : Fld := ⟨.lnkReplay, 15, 0, .rw, 0, true, false⟩
/-- LNK_DROP.MALFORMED [31:24], R366. -/
def lnkDropMalformed : Fld := ⟨.lnkDrop, 31, 24, .rw, 0, true, false⟩
/-- LNK_DROP.AUTH [23:16], R366. -/
def lnkDropAuth : Fld := ⟨.lnkDrop, 23, 16, .rw, 0, true, false⟩
/-- LNK_DROP.DIKED [15:0], R366. -/
def lnkDropDiked : Fld := ⟨.lnkDrop, 15, 0, .rw, 0, true, false⟩
/-- LNK_TIME_NOW.TIME [63:0], R366. -/
def lnkTimeNowTime : Fld := ⟨.lnkTimeNow, 63, 0, .ro, 0, false, false⟩
/-- LNK_TIME_CTL.ROOT [29:16], R366. -/
def lnkTimeCtlRoot : Fld := ⟨.lnkTimeCtl, 29, 16, .ro, 0, false, false⟩
/-- LNK_TIME_CTL.STEP [7:7], R366. -/
def lnkTimeCtlStep : Fld := ⟨.lnkTimeCtl, 7, 7, .w1s, 0, false, false⟩
/-- LNK_TIME_CTL.RESYNC [6:6], R366. -/
def lnkTimeCtlResync : Fld := ⟨.lnkTimeCtl, 6, 6, .w1s, 0, false, false⟩
/-- LNK_TIME_CTL.UNLOCKED_REF [3:3], R366. -/
def lnkTimeCtlUnlockedRef : Fld := ⟨.lnkTimeCtl, 3, 3, .ro, 0, false, false⟩
/-- LNK_TIME_CTL.FREE_RUN [2:2], R366. -/
def lnkTimeCtlFreeRun : Fld := ⟨.lnkTimeCtl, 2, 2, .ro, 0, false, false⟩
/-- LNK_TIME_CTL.LOCKED [1:1], R366. -/
def lnkTimeCtlLocked : Fld := ⟨.lnkTimeCtl, 1, 1, .ro, 0, false, false⟩
/-- LNK_TIME_CTL.MODE [0:0], R366. -/
def lnkTimeCtlMode : Fld := ⟨.lnkTimeCtl, 0, 0, .ro, 0, false, false⟩
/-- LNK_TIME_OFFSET.OFFSET [63:0], R366. -/
def lnkTimeOffsetOffset : Fld := ⟨.lnkTimeOffset, 63, 0, .ro, 0, false, false⟩
/-- LNK_TIME_NEXT.NEXT [63:0], R366. -/
def lnkTimeNextNext : Fld := ⟨.lnkTimeNext, 63, 0, .rw, 0, false, false⟩
/-- TOPO_PLAN_STATUS.ERROR [31:28], R382. -/
def topoPlanStatusError : Fld := ⟨.topoPlanStatus, 31, 28, .ro, 0, false, false⟩
/-- TOPO_PLAN_STATUS.LOADED [27:27], R382. -/
def topoPlanStatusLoaded : Fld := ⟨.topoPlanStatus, 27, 27, .ro, 0, false, false⟩
/-- TOPO_PLAN_STATUS.MODE [26:26], R382. -/
def topoPlanStatusMode : Fld := ⟨.topoPlanStatus, 26, 26, .ro, 0, false, false⟩
/-- TOPO_PLAN_STATUS.ROUTING_ONLY [25:25], R382. -/
def topoPlanStatusRoutingOnly : Fld := ⟨.topoPlanStatus, 25, 25, .ro, 0, false, false⟩
/-- TOPO_PLAN_STATUS.KEY_LOCK [24:24], R382. -/
def topoPlanStatusKeyLock : Fld := ⟨.topoPlanStatus, 24, 24, .w1s, 0, false, false⟩
/-- TOPO_PLAN_STATUS.CHIP [13:0], R382. -/
def topoPlanStatusChip : Fld := ⟨.topoPlanStatus, 13, 0, .ro, 0, false, false⟩
/-- TOPO_PLAN_SEQ.SEQUENCE [63:0], R382. -/
def topoPlanSeqSequence : Fld := ⟨.topoPlanSeq, 63, 0, .ro, 0, false, false⟩
/-- TOPO_EDGE_DROP.BLOCKED [31:16], R382. -/
def topoEdgeDropBlocked : Fld := ⟨.topoEdgeDrop, 31, 16, .rw, 0, true, false⟩
/-- TOPO_EDGE_DROP.INGRESS [15:0], R382. -/
def topoEdgeDropIngress : Fld := ⟨.topoEdgeDrop, 15, 0, .rw, 0, true, false⟩
/-- TOPO_UNREACH.COUNT [31:0], R382. -/
def topoUnreachCount : Fld := ⟨.topoUnreach, 31, 0, .rw, 0, false, false⟩
/-- TOPO_PLAN_KEY.DIGEST [63:0], R382. -/
def topoPlanKeyDigest : Fld := ⟨.topoPlanKey, 63, 0, .rw, 0, false, false⟩
/-- TOPO_PORT.ACT_SERIAL [255:192], R382. -/
def topoPortActSerial : Fld := ⟨.topoPort, 255, 192, .ro, 0, false, false⟩
/-- TOPO_PORT.ACT_CHIP [191:178], R382. -/
def topoPortActChip : Fld := ⟨.topoPort, 191, 178, .ro, 0, false, false⟩
/-- TOPO_PORT.ACT_PORT [177:170], R382. -/
def topoPortActPort : Fld := ⟨.topoPort, 177, 170, .ro, 0, false, false⟩
/-- TOPO_PORT.ACT_KIND [169:168], R382. -/
def topoPortActKind : Fld := ⟨.topoPort, 169, 168, .ro, 0, false, false⟩
/-- TOPO_PORT.EXP_CHIP [167:154], R382. -/
def topoPortExpChip : Fld := ⟨.topoPort, 167, 154, .ro, 0, false, false⟩
/-- TOPO_PORT.EXP_PORT [153:146], R382. -/
def topoPortExpPort : Fld := ⟨.topoPort, 153, 146, .ro, 0, false, false⟩
/-- TOPO_PORT.EXP_KIND [145:144], R382. -/
def topoPortExpKind : Fld := ⟨.topoPort, 145, 144, .ro, 0, false, false⟩
/-- TOPO_PORT.ACT_FW [143:112], R382. -/
def topoPortActFw : Fld := ⟨.topoPort, 143, 112, .ro, 0, false, false⟩
/-- TOPO_PORT.ACT_OMG [111:104], R382. -/
def topoPortActOmg : Fld := ⟨.topoPort, 111, 104, .ro, 0, false, false⟩
/-- TOPO_PORT.NEG_OMG [103:96], R382. -/
def topoPortNegOmg : Fld := ⟨.topoPort, 103, 96, .ro, 0, false, false⟩
/-- TOPO_PORT.ID_TIMEOUTS [47:32], R382. -/
def topoPortIdTimeouts : Fld := ⟨.topoPort, 47, 32, .rw, 0, true, false⟩
/-- TOPO_PORT.PEER_VERDICT [7:4], R382. -/
def topoPortPeerVerdict : Fld := ⟨.topoPort, 7, 4, .ro, 0, false, false⟩
/-- TOPO_PORT.OUTCOME [3:0], R382. -/
def topoPortOutcome : Fld := ⟨.topoPort, 3, 0, .ro, 0, false, false⟩
/-- TOPO_CTX_BLOCK.VALID [31:31], R382. -/
def topoCtxBlockValid : Fld := ⟨.topoCtxBlock, 31, 31, .rw, 0, false, false⟩
/-- TOPO_CTX_BLOCK.EZ [11:10], R382. -/
def topoCtxBlockEz : Fld := ⟨.topoCtxBlock, 11, 10, .rw, 0, false, false⟩
/-- TOPO_CTX_BLOCK.EY [9:8], R382. -/
def topoCtxBlockEy : Fld := ⟨.topoCtxBlock, 9, 8, .rw, 0, false, false⟩
/-- TOPO_CTX_BLOCK.EX [7:6], R382. -/
def topoCtxBlockEx : Fld := ⟨.topoCtxBlock, 7, 6, .rw, 0, false, false⟩
/-- TOPO_CTX_BLOCK.OZ [5:4], R382. -/
def topoCtxBlockOz : Fld := ⟨.topoCtxBlock, 5, 4, .rw, 0, false, false⟩
/-- TOPO_CTX_BLOCK.OY [3:2], R382. -/
def topoCtxBlockOy : Fld := ⟨.topoCtxBlock, 3, 2, .rw, 0, false, false⟩
/-- TOPO_CTX_BLOCK.OX [1:0], R382. -/
def topoCtxBlockOx : Fld := ⟨.topoCtxBlock, 1, 0, .rw, 0, false, false⟩
/-- HIU_CTX_CTL.ENABLE [63:63], R416. -/
def hiuCtxCtlEnable : Fld := ⟨.hiuCtxCtl, 63, 63, .rw, 0, false, false⟩
/-- HIU_CTX_CTL.GEN [62:57], R416. -/
def hiuCtxCtlGen : Fld := ⟨.hiuCtxCtl, 62, 57, .ro, 0, false, false⟩
/-- HIU_CTX_CTL.FUNC [56:52], R416. -/
def hiuCtxCtlFunc : Fld := ⟨.hiuCtxCtl, 56, 52, .ro, 0, false, false⟩
/-- HIU_CTX_CTL.SQ_LOG2 [51:47], R416. -/
def hiuCtxCtlSqLog2 : Fld := ⟨.hiuCtxCtl, 51, 47, .rw, 6, false, false⟩
/-- HIU_CTX_CTL.CQ_LOG2 [46:42], R416. -/
def hiuCtxCtlCqLog2 : Fld := ⟨.hiuCtxCtl, 46, 42, .rw, 6, false, false⟩
/-- HIU_CTX_CTL.AUDIT_LOG2 [41:37], R416. -/
def hiuCtxCtlAuditLog2 : Fld := ⟨.hiuCtxCtl, 41, 37, .rw, 0, false, false⟩
/-- HIU_CTX_CTL.MASK [36:36], R416. -/
def hiuCtxCtlMask : Fld := ⟨.hiuCtxCtl, 36, 36, .rw, 0, false, false⟩
/-- HIU_CTX_CTL.VECTOR [35:25], R416. -/
def hiuCtxCtlVector : Fld := ⟨.hiuCtxCtl, 35, 25, .rw, 0, false, false⟩
/-- HIU_SQ_BASE.SQ_BASE [63:0], R416. -/
def hiuSqBaseSqBase : Fld := ⟨.hiuSqBase, 63, 0, .rw, 0, false, false⟩
/-- HIU_CQ_BASE.CQ_BASE [63:0], R416. -/
def hiuCqBaseCqBase : Fld := ⟨.hiuCqBase, 63, 0, .rw, 0, false, false⟩
/-- HIU_AUDIT_BASE.AUDIT_BASE [63:0], R416. -/
def hiuAuditBaseAuditBase : Fld := ⟨.hiuAuditBase, 63, 0, .rw, 0, false, false⟩
/-- HIU_AUDIT_WB.AUDIT_WB [63:0], R416. -/
def hiuAuditWbAuditWb : Fld := ⟨.hiuAuditWb, 63, 0, .rw, 0, false, false⟩
/-- HIU_CTX_STATE.SQ_HEAD [63:48], R416. -/
def hiuCtxStateSqHead : Fld := ⟨.hiuCtxState, 63, 48, .ro, 0, false, false⟩
/-- HIU_CTX_STATE.SQ_TAIL [47:32], R416. -/
def hiuCtxStateSqTail : Fld := ⟨.hiuCtxState, 47, 32, .ro, 0, false, false⟩
/-- HIU_CTX_STATE.CQ_TAIL [31:16], R416. -/
def hiuCtxStateCqTail : Fld := ⟨.hiuCtxState, 31, 16, .ro, 0, false, false⟩
/-- HIU_CTX_STATE.CQ_HEAD [15:0], R416. -/
def hiuCtxStateCqHead : Fld := ⟨.hiuCtxState, 15, 0, .ro, 0, false, false⟩
/-- HIU_CTX_AUDIT.AUDIT_TAIL [47:24], R416. -/
def hiuCtxAuditAuditTail : Fld := ⟨.hiuCtxAudit, 47, 24, .ro, 0, false, false⟩
/-- HIU_CTX_AUDIT.AUDIT_HEAD [23:0], R416. -/
def hiuCtxAuditAuditHead : Fld := ⟨.hiuCtxAudit, 23, 0, .ro, 0, false, false⟩
/-- HIU_WIN_BASE.BASE [40:0], R416. -/
def hiuWinBaseBase : Fld := ⟨.hiuWinBase, 40, 0, .rw, 0, false, false⟩
/-- HIU_EVENTS.BAD_DOORBELL [31:24], R416. -/
def hiuEventsBadDoorbell : Fld := ⟨.hiuEvents, 31, 24, .rw, 0, true, false⟩
/-- HIU_EVENTS.WIN_REFUSED [23:16], R416. -/
def hiuEventsWinRefused : Fld := ⟨.hiuEvents, 23, 16, .rw, 0, true, false⟩
/-- HIU_EVENTS.WIN_UNCORR [15:8], R416. -/
def hiuEventsWinUncorr : Fld := ⟨.hiuEvents, 15, 8, .rw, 0, true, false⟩
/-- HIU_EVENTS.VF_REJECT [7:0], R416. -/
def hiuEventsVfReject : Fld := ⟨.hiuEvents, 7, 0, .rw, 0, true, false⟩
/-- HIU_VF_RANGE.FIRST [25:16], R416. -/
def hiuVfRangeFirst : Fld := ⟨.hiuVfRange, 25, 16, .rw, 0, false, false⟩
/-- HIU_VF_RANGE.COUNT [6:0], R416. -/
def hiuVfRangeCount : Fld := ⟨.hiuVfRange, 6, 0, .rw, 0, false, false⟩
/-- MBX_CMD.CODE [7:0], R416. -/
def mbxCmdCode : Fld := ⟨.mbxCmd, 7, 0, .wo, 0, false, false⟩
/-- MBX_BUF.MBX_BUF [63:0], R416. -/
def mbxBufMbxBuf : Fld := ⟨.mbxBuf, 63, 0, .rw, 0, false, false⟩
/-- MBX_LEN.MBX_LEN [31:0], R416. -/
def mbxLenMbxLen : Fld := ⟨.mbxLen, 31, 0, .rw, 0, false, false⟩
/-- MBX_STATUS.BUSY [31:31], R416. -/
def mbxStatusBusy : Fld := ⟨.mbxStatus, 31, 31, .ro, 0, false, false⟩
/-- MBX_STATUS.DUMP [30:30], R416. -/
def mbxStatusDump : Fld := ⟨.mbxStatus, 30, 30, .ro, 0, false, false⟩
/-- MBX_STATUS.LAST [23:16], R416. -/
def mbxStatusLast : Fld := ⟨.mbxStatus, 23, 16, .ro, 0, false, false⟩
/-- MBX_STATUS.STATUS [15:8], R416. -/
def mbxStatusStatus : Fld := ⟨.mbxStatus, 15, 8, .ro, 0, false, false⟩
/-- MBX_STATUS.PROGRESS [7:0], R416. -/
def mbxStatusProgress : Fld := ⟨.mbxStatus, 7, 0, .ro, 0, false, false⟩
/-- MBX_DISCARD.MBX_DISCARD [31:0], R416. -/
def mbxDiscardMbxDiscard : Fld := ⟨.mbxDiscard, 31, 0, .rw, 0, false, false⟩
/-- MBX_VEC.DUMP_VECTOR [26:16], R416. -/
def mbxVecDumpVector : Fld := ⟨.mbxVec, 26, 16, .rw, 0, false, false⟩
/-- MBX_VEC.DONE_VECTOR [10:0], R416. -/
def mbxVecDoneVector : Fld := ⟨.mbxVec, 10, 0, .rw, 0, false, false⟩
/-- MBX_DUMP_BUF.MBX_DUMP_BUF [63:0], R416. -/
def mbxDumpBufMbxDumpBuf : Fld := ⟨.mbxDumpBuf, 63, 0, .rw, 0, false, false⟩
/-- ETH_PORT.IP [255:128], R416. -/
def ethPortIp : Fld := ⟨.ethPort, 255, 128, .rw, 0, false, false⟩
/-- ETH_PORT.MAC [127:80], R416; reset Fuse, see `liveField`. -/
def ethPortMac : Fld := ⟨.ethPort, 127, 80, .ro, 0, false, false⟩
/-- ETH_PORT.PHY [2:2], R416. -/
def ethPortPhy : Fld := ⟨.ethPort, 2, 2, .rw, 0, false, false⟩
/-- ETH_PORT.STATE [1:0], R416. -/
def ethPortState : Fld := ⟨.ethPort, 1, 0, .ro, 0, false, false⟩
/-- ETH_TGT.IP [511:384], R416. -/
def ethTgtIp : Fld := ⟨.ethTgt, 511, 384, .rw, 0, false, false⟩
/-- ETH_TGT.NEXT_HOP [383:336], R416. -/
def ethTgtNextHop : Fld := ⟨.ethTgt, 383, 336, .rw, 0, false, false⟩
/-- ETH_TGT.REMOTE_QPN [335:312], R416. -/
def ethTgtRemoteQpn : Fld := ⟨.ethTgt, 335, 312, .rw, 0, false, false⟩
/-- ETH_TGT.SEND_PSN [311:288], R416. -/
def ethTgtSendPsn : Fld := ⟨.ethTgt, 311, 288, .rw, 0, false, false⟩
/-- ETH_TGT.RECV_PSN [287:264], R416. -/
def ethTgtRecvPsn : Fld := ⟨.ethTgt, 287, 264, .rw, 0, false, false⟩
/-- ETH_TGT.LOCAL_QPN [263:240], R416. -/
def ethTgtLocalQpn : Fld := ⟨.ethTgt, 263, 240, .ro, 0, false, false⟩
/-- ETH_TGT.VLAN [239:228], R416. -/
def ethTgtVlan : Fld := ⟨.ethTgt, 239, 228, .rw, 0, false, false⟩
/-- ETH_TGT.PCP [227:225], R416. -/
def ethTgtPcp : Fld := ⟨.ethTgt, 227, 225, .rw, 0, false, false⟩
/-- ETH_TGT.DSCP [224:219], R416. -/
def ethTgtDscp : Fld := ⟨.ethTgt, 224, 219, .rw, 0, false, false⟩
/-- ETH_TGT.PORT [218:218], R416. -/
def ethTgtPort : Fld := ⟨.ethTgt, 218, 218, .rw, 0, false, false⟩
/-- ETH_TGT.ENCRYPT [217:217], R416. -/
def ethTgtEncrypt : Fld := ⟨.ethTgt, 217, 217, .rw, 0, false, false⟩
/-- ETH_TGT.STATE [216:215], R416. -/
def ethTgtState : Fld := ⟨.ethTgt, 216, 215, .ro, 0, false, false⟩
/-- ETH_TGT.VALID [214:214], R416. -/
def ethTgtValid : Fld := ⟨.ethTgt, 214, 214, .rw, 0, false, false⟩
/-- ETH_DIAG.TCP_PORT [31:16], R416. -/
def ethDiagTcpPort : Fld := ⟨.ethDiag, 31, 16, .rw, 7810, false, false⟩
/-- ETH_DIAG.ENABLE [0:0], R416. -/
def ethDiagEnable : Fld := ⟨.ethDiag, 0, 0, .rw, 1, false, false⟩
/-- ETH_DIAG_KEY.DIGEST [63:0], R416. -/
def ethDiagKeyDigest : Fld := ⟨.ethDiagKey, 63, 0, .rw, 0, false, false⟩
/-- MP_RESET.WARM [31:31], R436. -/
def mpResetWarm : Fld := ⟨.mpReset, 31, 31, .w1s, 0, false, false⟩
/-- MP_RESET.DUMP [30:30], R436. -/
def mpResetDump : Fld := ⟨.mpReset, 30, 30, .w1s, 0, false, false⟩
/-- MP_RESET.LAST_CAUSE [7:0], R436. -/
def mpResetLastCause : Fld := ⟨.mpReset, 7, 0, .ro, 0, false, false⟩
/-- MP_DUMP_STATUS.VALID [63:63], R436. -/
def mpDumpStatusValid : Fld := ⟨.mpDumpStatus, 63, 63, .ro, 0, false, false⟩
/-- MP_DUMP_STATUS.PLACE [62:62], R436. -/
def mpDumpStatusPlace : Fld := ⟨.mpDumpStatus, 62, 62, .ro, 0, false, false⟩
/-- MP_DUMP_STATUS.COMPLETE [61:61], R436. -/
def mpDumpStatusComplete : Fld := ⟨.mpDumpStatus, 61, 61, .ro, 0, false, false⟩
/-- MP_DUMP_STATUS.CAUSE [55:48], R436. -/
def mpDumpStatusCause : Fld := ⟨.mpDumpStatus, 55, 48, .ro, 0, false, false⟩
/-- MP_DUMP_STATUS.COUNT [47:40], R436. -/
def mpDumpStatusCount : Fld := ⟨.mpDumpStatus, 47, 40, .ro, 0, true, false⟩
/-- MP_DUMP_STATUS.LENGTH [39:0], R436. -/
def mpDumpStatusLength : Fld := ⟨.mpDumpStatus, 39, 0, .ro, 0, false, false⟩
/-- SEC_STATUS.JTAG_ALLOW [6:6], R460. -/
def secStatusJtagAllow : Fld := ⟨.secStatus, 6, 6, .rw, 0, false, false⟩
/-- SEC_STATUS.DEBUG [5:5], R460. -/
def secStatusDebug : Fld := ⟨.secStatus, 5, 5, .ro, 0, false, false⟩
/-- SEC_STATUS.ARMED [4:4], R460. -/
def secStatusArmed : Fld := ⟨.secStatus, 4, 4, .ro, 0, false, false⟩
/-- SEC_STATUS.OWNER_LOCK [3:3], R460. -/
def secStatusOwnerLock : Fld := ⟨.secStatus, 3, 3, .w1s, 0, false, false⟩
/-- SEC_STATUS.DBG_FUSED [2:2], R460; reset Fuse, see `liveField`. -/
def secStatusDbgFused : Fld := ⟨.secStatus, 2, 2, .ro, 0, false, false⟩
/-- SEC_STATUS.SLOT [1:0], R460. -/
def secStatusSlot : Fld := ⟨.secStatus, 1, 0, .ro, 0, false, false⟩
/-- SEC_CHALLENGE.CHALLENGE [63:0], R460; reset TRNG, see `liveField`. -/
def secChallengeChallenge : Fld := ⟨.secChallenge, 63, 0, .ro, 0, false, false⟩
/-- SEC_OWNER_KEY.DIGEST [63:0], R460. -/
def secOwnerKeyDigest : Fld := ⟨.secOwnerKey, 63, 0, .rw, 0, false, false⟩
/-- SEC_SWITCH_ROOT.DIGEST [63:0], R460. -/
def secSwitchRootDigest : Fld := ⟨.secSwitchRoot, 63, 0, .rw, 0, false, false⟩
/-- SEC_KEYX.AUTH_FAIL [31:16], R460. -/
def secKeyxAuthFail : Fld := ⟨.secKeyx, 31, 16, .rw, 0, true, false⟩
/-- SEC_KEYX.TIMEOUTS [15:0], R460. -/
def secKeyxTimeouts : Fld := ⟨.secKeyx, 15, 0, .rw, 0, true, false⟩
/-- SEC_TGT_KEY.SALT [287:256], R460. -/
def secTgtKeySalt : Fld := ⟨.secTgtKey, 287, 256, .wo, 0, false, false⟩
/-- SEC_TGT_KEY.KEY [255:0], R460. -/
def secTgtKeyKey : Fld := ⟨.secTgtKey, 255, 0, .wo, 0, false, false⟩
/-- SEC_CTX_CFG.HBM_ENC [0:0], R460. -/
def secCtxCfgHbmEnc : Fld := ⟨.secCtxCfg, 0, 0, .rw, 0, false, false⟩
/-- PWR_INPUT.PIN [63:48], R489. -/
def pwrInputPin : Fld := ⟨.pwrInput, 63, 48, .ro, 0, false, false⟩
/-- PWR_INPUT.IIN [47:32], R489. -/
def pwrInputIin : Fld := ⟨.pwrInput, 47, 32, .ro, 0, false, false⟩
/-- PWR_INPUT.VIN [31:16], R489. -/
def pwrInputVin : Fld := ⟨.pwrInput, 31, 16, .ro, 0, false, false⟩
/-- PWR_INPUT.VIN_MIN [15:0], R489. -/
def pwrInputVinMin : Fld := ⟨.pwrInput, 15, 0, .rw, 65535, false, false⟩
/-- PWR_CAP.MAX_W [31:16], R489; reset Part, see `liveField`. -/
def pwrCapMaxW : Fld := ⟨.pwrCap, 31, 16, .ro, 0, false, false⟩
/-- PWR_CAP.CAP_W [15:0], R489; reset Part, see `liveField`. -/
def pwrCapCapW : Fld := ⟨.pwrCap, 15, 0, .ro, 0, false, false⟩
/-- PWR_SUPPLY.STATE [31:30], R489. -/
def pwrSupplyState : Fld := ⟨.pwrSupply, 31, 30, .ro, 0, false, false⟩
/-- PWR_SUPPLY.EVENTS [15:0], R489. -/
def pwrSupplyEvents : Fld := ⟨.pwrSupply, 15, 0, .rw, 0, true, false⟩
/-- PWR_THERM.DIE_MAX [63:56], R489. -/
def pwrThermDieMax : Fld := ⟨.pwrTherm, 63, 56, .ro, 0, false, false⟩
/-- PWR_THERM.STACK_MAX [55:48], R489. -/
def pwrThermStackMax : Fld := ⟨.pwrTherm, 55, 48, .ro, 0, false, false⟩
/-- PWR_THERM.COOL_IN [47:40], R489. -/
def pwrThermCoolIn : Fld := ⟨.pwrTherm, 47, 40, .ro, 0, false, false⟩
/-- PWR_THERM.COOL_OUT [39:32], R489. -/
def pwrThermCoolOut : Fld := ⟨.pwrTherm, 39, 32, .ro, 0, false, false⟩
/-- PWR_THERM.THROTTLES [15:8], R489. -/
def pwrThermThrottles : Fld := ⟨.pwrTherm, 15, 8, .rw, 0, true, false⟩
/-- PWR_THERM.STAGE [1:0], R489. -/
def pwrThermStage : Fld := ⟨.pwrTherm, 1, 0, .ro, 0, false, false⟩
/-- WEIR_SLEW.SLEW [15:0], R489. -/
def weirSlewSlew : Fld := ⟨.weirSlew, 15, 0, .rwx, 100, false, true⟩
/-- WEIR_CTL.FILL_HBM [1:1], R489. -/
def weirCtlFillHbm : Fld := ⟨.weirCtl, 1, 1, .rwx, 1, false, true⟩
/-- WEIR_CTL.FILL_ME [0:0], R489. -/
def weirCtlFillMe : Fld := ⟨.weirCtl, 0, 0, .rwx, 1, false, true⟩
/-- WEIR_STATUS.FILLER [7:7], R489. -/
def weirStatusFiller : Fld := ⟨.weirStatus, 7, 7, .ro, 0, false, false⟩
/-- WEIR_STATUS.SUPPLY [6:6], R489. -/
def weirStatusSupply : Fld := ⟨.weirStatus, 6, 6, .ro, 0, false, false⟩
/-- WEIR_STATUS.THERMAL [5:5], R489. -/
def weirStatusThermal : Fld := ⟨.weirStatus, 5, 5, .ro, 0, false, false⟩
/-- WEIR_STATUS.CAP [4:4], R489. -/
def weirStatusCap : Fld := ⟨.weirStatus, 4, 4, .ro, 0, false, false⟩
/-- WEIR_STATUS.RISE [3:3], R489. -/
def weirStatusRise : Fld := ⟨.weirStatus, 3, 3, .ro, 0, false, false⟩
/-- WEIR_UNHELD.COUNT [31:0], R489. -/
def weirUnheldCount : Fld := ⟨.weirUnheld, 31, 0, .rw, 0, false, false⟩
/-- CLK_CORE.FIX [31:31], R489. -/
def clkCoreFix : Fld := ⟨.clkCore, 31, 31, .rwx, 0, false, true⟩
/-- CLK_CORE.FIX_MHZ [11:0], R489; reset Part, see `liveField`. -/
def clkCoreFixMhz : Fld := ⟨.clkCore, 11, 0, .rwx, 0, false, true⟩
/-- CLK_REF.SYNC_SEEN [3:3], R489. -/
def clkRefSyncSeen : Fld := ⟨.clkRef, 3, 3, .ro, 0, false, false⟩
/-- CLK_REF.RACK_LOCK [2:2], R489. -/
def clkRefRackLock : Fld := ⟨.clkRef, 2, 2, .ro, 0, false, false⟩
/-- CLK_REF.PCIE_LOCK [1:1], R489. -/
def clkRefPcieLock : Fld := ⟨.clkRef, 1, 1, .ro, 0, false, false⟩
/-- CLK_REF.BOARD_LOCK [0:0], R489. -/
def clkRefBoardLock : Fld := ⟨.clkRef, 0, 0, .ro, 0, false, false⟩
/-- CLK_FIELD.DROOP [31:16], R489. -/
def clkFieldDroop : Fld := ⟨.clkField, 31, 16, .rw, 0, true, false⟩
/-- CLK_FIELD.MHZ [11:0], R489. -/
def clkFieldMhz : Fld := ⟨.clkField, 11, 0, .ro, 0, false, false⟩
/-- SVC_STATUS.IGNORED [23:16], R489. -/
def svcStatusIgnored : Fld := ⟨.svcStatus, 23, 16, .rw, 0, true, false⟩
/-- SVC_STATUS.LAMP [5:3], R489. -/
def svcStatusLamp : Fld := ⟨.svcStatus, 5, 3, .ro, 5, false, false⟩
/-- SVC_STATUS.HOLD [2:0], R489. -/
def svcStatusHold : Fld := ⟨.svcStatus, 2, 0, .ro, 0, false, false⟩
/-- SVC_CTL.LAMP_TEST [17:17], R489. -/
def svcCtlLampTest : Fld := ⟨.svcCtl, 17, 17, .rw, 0, false, false⟩
/-- SVC_CTL.MASK [16:16], R489. -/
def svcCtlMask : Fld := ⟨.svcCtl, 16, 16, .rw, 0, false, false⟩
/-- SVC_CTL.VECTOR [10:0], R489. -/
def svcCtlVector : Fld := ⟨.svcCtl, 10, 0, .rw, 0, false, false⟩
/-- SVC_PORT.LOCATE [23:16], R489. -/
def svcPortLocate : Fld := ⟨.svcPort, 23, 16, .rw, 0, false, false⟩
/-- SVC_PORT.PULLED [15:8], R489. -/
def svcPortPulled : Fld := ⟨.svcPort, 15, 8, .w1c, 0, false, false⟩
/-- SVC_PORT.LOST [7:0], R489. -/
def svcPortLost : Fld := ⟨.svcPort, 7, 0, .w1c, 0, false, false⟩
/-- GLB_ID.VENDOR [63:48], R499. -/
def glbIdVendor : Fld := ⟨.glbId, 63, 48, .ro, 7995, false, false⟩
/-- GLB_ID.DEVICE [47:32], R499. -/
def glbIdDevice : Fld := ⟨.glbId, 47, 32, .ro, 53504, false, false⟩
/-- GLB_ID.PART [31:24], R499; reset Fuse, see `liveField`. -/
def glbIdPart : Fld := ⟨.glbId, 31, 24, .ro, 0, false, false⟩
/-- GLB_ID.MAP_MAJOR [23:16], R499. -/
def glbIdMapMajor : Fld := ⟨.glbId, 23, 16, .ro, 1, false, false⟩
/-- GLB_ID.MAP_MINOR [15:8], R499. -/
def glbIdMapMinor : Fld := ⟨.glbId, 15, 8, .ro, 0, false, false⟩
/-- GLB_ID.DIE_REV [7:0], R499; reset Fuse, see `liveField`. -/
def glbIdDieRev : Fld := ⟨.glbId, 7, 0, .ro, 0, false, false⟩
/-- GLB_SERIAL.SERIAL [63:0], R499; reset Fuse, see `liveField`. -/
def glbSerialSerial : Fld := ⟨.glbSerial, 63, 0, .ro, 0, false, false⟩
/-- GLB_FW_VERSION.MAJOR [31:24], R499; reset Image, see `liveField`. -/
def glbFwVersionMajor : Fld := ⟨.glbFwVersion, 31, 24, .ro, 0, false, false⟩
/-- GLB_FW_VERSION.MINOR [23:16], R499; reset Image, see `liveField`. -/
def glbFwVersionMinor : Fld := ⟨.glbFwVersion, 23, 16, .ro, 0, false, false⟩
/-- GLB_FW_VERSION.PATCH [15:0], R499; reset Image, see `liveField`. -/
def glbFwVersionPatch : Fld := ⟨.glbFwVersion, 15, 0, .ro, 0, false, false⟩
/-- GLB_STATUS.BOOTS [31:16], R499. -/
def glbStatusBoots : Fld := ⟨.glbStatus, 31, 16, .ro, 0, true, false⟩
/-- GLB_STATUS.DEBUG [5:5], R499. -/
def glbStatusDebug : Fld := ⟨.glbStatus, 5, 5, .ro, 0, false, false⟩
/-- GLB_STATUS.LOCKED [4:4], R499. -/
def glbStatusLocked : Fld := ⟨.glbStatus, 4, 4, .ro, 0, false, false⟩
/-- GLB_STATUS.PLAN [3:3], R499. -/
def glbStatusPlan : Fld := ⟨.glbStatus, 3, 3, .ro, 0, false, false⟩
/-- GLB_STATUS.STATE [2:0], R499. -/
def glbStatusState : Fld := ⟨.glbStatus, 2, 0, .ro, 0, false, false⟩
/-- GLB_EXPERT.EXPERT [31:31], R499. -/
def glbExpertExpert : Fld := ⟨.glbExpert, 31, 31, .ro, 0, false, false⟩
/-- GLB_EXPERT.SINCE_RESET [30:30], R499. -/
def glbExpertSinceReset : Fld := ⟨.glbExpert, 30, 30, .ro, 0, false, false⟩
/-- GLB_EXPERT.DENIED [15:0], R499. -/
def glbExpertDenied : Fld := ⟨.glbExpert, 15, 0, .rw, 0, true, false⟩
/-- GLB_ACCESS.DIKED [31:24], R499. -/
def glbAccessDiked : Fld := ⟨.glbAccess, 31, 24, .rw, 0, true, false⟩
/-- GLB_ACCESS.VF_OWNED [23:16], R499. -/
def glbAccessVfOwned : Fld := ⟨.glbAccess, 23, 16, .rw, 0, true, false⟩
/-- GLB_ACCESS.UNMAPPED [15:8], R499. -/
def glbAccessUnmapped : Fld := ⟨.glbAccess, 15, 8, .rw, 0, true, false⟩
/-- GLB_ACCESS.BAD_WIDTH [7:0], R499. -/
def glbAccessBadWidth : Fld := ⟨.glbAccess, 7, 0, .rw, 0, true, false⟩
/-- GLB_SCRATCH.VALUE [63:0], R499. -/
def glbScratchValue : Fld := ⟨.glbScratch, 63, 0, .rw, 0, false, false⟩
/-- DBG_STATUS.SCOPE [2:0], R503. -/
def dbgStatusScope : Fld := ⟨.dbgStatus, 2, 0, .ro, 0, false, false⟩
/-- DBG_SPM_SEL.BUSY [31:31], R503. -/
def dbgSpmSelBusy : Fld := ⟨.dbgSpmSel, 31, 31, .ro, 0, false, false⟩
/-- DBG_SPM_SEL.CORE [23:16], R503. -/
def dbgSpmSelCore : Fld := ⟨.dbgSpmSel, 23, 16, .rw, 0, false, false⟩
/-- DBG_SPM_SEL.ROW [13:0], R503. -/
def dbgSpmSelRow : Fld := ⟨.dbgSpmSel, 13, 0, .rw, 0, false, false⟩
/-- DBG_SPM_ROW.ROW_RAW [2303:0], R503. -/
def dbgSpmRowRowRaw : Fld := ⟨.dbgSpmRow, 2303, 0, .rw, 0, false, false⟩

end F

/-- The fields of a register. -/
def Reg.fields : Reg → List Fld
  | .coreReset => [F.coreResetReset, F.coreResetState, F.coreResetCount]
  | .coreMeRowmap => [F.coreMeRowmapDisRow]
  | .coreMeStatus => [F.coreMeStatusFiller, F.coreMeStatusBusy, F.coreMeStatusForm]
  | .coreMeFrzFeed => [F.coreMeFrzFeedCount]
  | .coreMeFrzDrain => [F.coreMeFrzDrainCount]
  | .coreMePasses => [F.coreMePassesCount]
  | .spmStatus => [F.spmStatusRuns, F.spmStatusFreeGran, F.spmStatusLargest]
  | .spmAllocFail => [F.spmAllocFailValid, F.spmAllocFailReason, F.spmAllocFailHandle, F.spmAllocFailLength]
  | .spmCorr => [F.spmCorrTwoSym, F.spmCorrOneSym]
  | .spmEvents => [F.spmEventsUncorr, F.spmEventsOverrun, F.spmEventsStale, F.spmEventsFreeUncorr]
  | .spmEscalate => [F.spmEscalateCount]
  | .spmDredge => [F.spmDredgeSweeps, F.spmDredgeInterval]
  | .vuStatus => [F.vuStatusRsuBusy, F.vuStatusMicroBusy, F.vuStatusBusy]
  | .vuBatches => [F.vuBatchesCount]
  | .tideCoreFwd => [F.tideCoreFwdCount]
  | .tideCoreResend => [F.tideCoreResendLasting, F.tideCoreResendCount]
  | .tideCoreHeld => [F.tideCoreHeldBlocks]
  | .sfuUdir => [F.sfuUdirOwner, F.sfuUdirBase, F.sfuUdirLength, F.sfuUdirLib, F.sfuUdirValid]
  | .seCmpCoded => [F.seCmpCodedCount]
  | .seCmpRaw => [F.seCmpRawCount]
  | .seCmpZero => [F.seCmpZeroCount]
  | .seCmpDamage => [F.seCmpDamageValid, F.seCmpDamageExpander, F.seCmpDamageCause, F.seCmpDamageLasting, F.seCmpDamageCount]
  | .seTslot => [F.seTslotOwner, F.seTslotTableId, F.seTslotValid]
  | .seStrm => [F.seStrmOwner, F.seStrmStatus, F.seStrmState, F.seStrmHeld, F.seStrmCredit, F.seStrmNextSlot]
  | .seqSlot => [F.seqSlotCtxTag, F.seqSlotTask, F.seqSlotWaitCtr, F.seqSlotEnding, F.seqSlotPhase, F.seqSlotState]
  | .seqSwitches => [F.seqSwitchesCount]
  | .seqEvents => [F.seqEventsGated, F.seqEventsBarDrop, F.seqEventsCulvDrop]
  | .seqBar => [F.seqBarOwner, F.seqBarBound, F.seqBarWaiting, F.seqBarCount, F.seqBarTarget]
  | .spmHt => [F.spmHtPeerChip, F.spmHtPeerCore, F.spmHtPeerCredit, F.spmHtCredit, F.spmHtNextSlot, F.spmHtOwner, F.spmHtGen, F.spmHtValid, F.spmHtResident, F.spmHtCompressed, F.spmHtSluice, F.spmHtAccum, F.spmHtCode, F.spmHtClass, F.spmHtSluiceState, F.spmHtLength, F.spmHtBase]
  | .ckuTransient => [F.ckuTransientCount]
  | .ckuLasting => [F.ckuLastingCount]
  | .ckuAuditStall => [F.ckuAuditStallCount]
  | .ckuSuspect => [F.ckuSuspectCores]
  | .ckuCtxCfg => [F.ckuCtxCfgAuditShift, F.ckuCtxCfgAuditSample, F.ckuCtxCfgAudit, F.ckuCtxCfgDrainChk, F.ckuCtxCfgKappa]
  | .seCmpCtxCfg => [F.seCmpCtxCfgSample, F.seCmpCtxCfgTableReuse, F.seCmpCtxCfgEnable]
  | .cxsCtxCfg => [F.cxsCtxCfgPriority]
  | .cxsCtxState => [F.cxsCtxStateResume, F.cxsCtxStateState, F.cxsCtxStateStatus]
  | .tmoDike => [F.tmoDikeDikeMs]
  | .tmoSluice => [F.tmoSluiceSluiceMs]
  | .tmoTideBreak => [F.tmoTideBreakTideBreakUs]
  | .tmoProgress => [F.tmoProgressProgressMs]
  | .tmoSeq => [F.tmoSeqSeqMs]
  | .tmoBarrier => [F.tmoBarrierBarrierMs]
  | .tmoLinkRsp => [F.tmoLinkRspLinkRspMs]
  | .tmoHb => [F.tmoHbHbEn, F.tmoHbHbS]
  | .cxsWdog => [F.cxsWdogProgress, F.cxsWdogBarrier, F.cxsWdogSeq, F.cxsWdogHeartbeat]
  | .tideCtx => [F.tideCtxStep, F.tideCtxSwitch, F.tideCtxBank, F.tideCtxMapped, F.tideCtxMirror, F.tideCtxRings]
  | .tideCommit => [F.tideCommitStep]
  | .hscPtRoot => [F.hscPtRootRoot, F.hscPtRootEnable]
  | .hscPtInval => [F.hscPtInvalBusy, F.hscPtInvalAll, F.hscPtInvalCtx]
  | .hscPtFault => [F.hscPtFaultValid, F.hscPtFaultReason, F.hscPtFaultCtxTag, F.hscPtFaultVpage]
  | .hscScrub => [F.hscScrubSweeps, F.hscScrubPeriod]
  | .hscStackStatus => [F.hscStackStatusTemp, F.hscStackStatusThrottle, F.hscStackStatusState]
  | .hscStackCorr => [F.hscStackCorrRepaired, F.hscStackCorrUncorr, F.hscStackCorrCorr]
  | .hscStackBad => [F.hscStackBadValid, F.hscStackBadScrub, F.hscStackBadSector]
  | .hscStackCtl => [F.hscStackCtlReset, F.hscStackCtlCount]
  | .geStatus => [F.geStatusEntries, F.geStatusSuspect, F.geStatusSealing, F.geStatusBusy]
  | .geRows => [F.geRowsCount]
  | .geRemote => [F.geRemoteCount]
  | .geBags => [F.geBagsCount]
  | .geEvents => [F.geEventsRefetch, F.geEventsLasting, F.geEventsUnchecked]
  | .lnkStatus => [F.lnkStatusWidth, F.lnkStatusRole, F.lnkStatusPresent, F.lnkStatusState]
  | .lnkCtl => [F.lnkCtlLaneLimit, F.lnkCtlForceWidth, F.lnkCtlReset]
  | .lnkLanes => [F.lnkLanesForceLanes, F.lnkLanesActive, F.lnkLanesFailed]
  | .lnkFec => [F.lnkFecCorrSym, F.lnkFecUncorrCw]
  | .lnkReplay => [F.lnkReplayDegrades, F.lnkReplayCount]
  | .lnkDrop => [F.lnkDropMalformed, F.lnkDropAuth, F.lnkDropDiked]
  | .lnkTimeNow => [F.lnkTimeNowTime]
  | .lnkTimeCtl => [F.lnkTimeCtlRoot, F.lnkTimeCtlStep, F.lnkTimeCtlResync, F.lnkTimeCtlUnlockedRef, F.lnkTimeCtlFreeRun, F.lnkTimeCtlLocked, F.lnkTimeCtlMode]
  | .lnkTimeOffset => [F.lnkTimeOffsetOffset]
  | .lnkTimeNext => [F.lnkTimeNextNext]
  | .topoPlanStatus => [F.topoPlanStatusError, F.topoPlanStatusLoaded, F.topoPlanStatusMode, F.topoPlanStatusRoutingOnly, F.topoPlanStatusKeyLock, F.topoPlanStatusChip]
  | .topoPlanSeq => [F.topoPlanSeqSequence]
  | .topoEdgeDrop => [F.topoEdgeDropBlocked, F.topoEdgeDropIngress]
  | .topoUnreach => [F.topoUnreachCount]
  | .topoPlanKey => [F.topoPlanKeyDigest]
  | .topoPort => [F.topoPortActSerial, F.topoPortActChip, F.topoPortActPort, F.topoPortActKind, F.topoPortExpChip, F.topoPortExpPort, F.topoPortExpKind, F.topoPortActFw, F.topoPortActOmg, F.topoPortNegOmg, F.topoPortIdTimeouts, F.topoPortPeerVerdict, F.topoPortOutcome]
  | .topoCtxBlock => [F.topoCtxBlockValid, F.topoCtxBlockEz, F.topoCtxBlockEy, F.topoCtxBlockEx, F.topoCtxBlockOz, F.topoCtxBlockOy, F.topoCtxBlockOx]
  | .hiuCtxCtl => [F.hiuCtxCtlEnable, F.hiuCtxCtlGen, F.hiuCtxCtlFunc, F.hiuCtxCtlSqLog2, F.hiuCtxCtlCqLog2, F.hiuCtxCtlAuditLog2, F.hiuCtxCtlMask, F.hiuCtxCtlVector]
  | .hiuSqBase => [F.hiuSqBaseSqBase]
  | .hiuCqBase => [F.hiuCqBaseCqBase]
  | .hiuAuditBase => [F.hiuAuditBaseAuditBase]
  | .hiuAuditWb => [F.hiuAuditWbAuditWb]
  | .hiuCtxState => [F.hiuCtxStateSqHead, F.hiuCtxStateSqTail, F.hiuCtxStateCqTail, F.hiuCtxStateCqHead]
  | .hiuCtxAudit => [F.hiuCtxAuditAuditTail, F.hiuCtxAuditAuditHead]
  | .hiuWinBase => [F.hiuWinBaseBase]
  | .hiuEvents => [F.hiuEventsBadDoorbell, F.hiuEventsWinRefused, F.hiuEventsWinUncorr, F.hiuEventsVfReject]
  | .hiuVfRange => [F.hiuVfRangeFirst, F.hiuVfRangeCount]
  | .mbxCmd => [F.mbxCmdCode]
  | .mbxBuf => [F.mbxBufMbxBuf]
  | .mbxLen => [F.mbxLenMbxLen]
  | .mbxStatus => [F.mbxStatusBusy, F.mbxStatusDump, F.mbxStatusLast, F.mbxStatusStatus, F.mbxStatusProgress]
  | .mbxDiscard => [F.mbxDiscardMbxDiscard]
  | .mbxVec => [F.mbxVecDumpVector, F.mbxVecDoneVector]
  | .mbxDumpBuf => [F.mbxDumpBufMbxDumpBuf]
  | .ethPort => [F.ethPortIp, F.ethPortMac, F.ethPortPhy, F.ethPortState]
  | .ethTgt => [F.ethTgtIp, F.ethTgtNextHop, F.ethTgtRemoteQpn, F.ethTgtSendPsn, F.ethTgtRecvPsn, F.ethTgtLocalQpn, F.ethTgtVlan, F.ethTgtPcp, F.ethTgtDscp, F.ethTgtPort, F.ethTgtEncrypt, F.ethTgtState, F.ethTgtValid]
  | .ethDiag => [F.ethDiagTcpPort, F.ethDiagEnable]
  | .ethDiagKey => [F.ethDiagKeyDigest]
  | .mpReset => [F.mpResetWarm, F.mpResetDump, F.mpResetLastCause]
  | .mpDumpStatus => [F.mpDumpStatusValid, F.mpDumpStatusPlace, F.mpDumpStatusComplete, F.mpDumpStatusCause, F.mpDumpStatusCount, F.mpDumpStatusLength]
  | .secStatus => [F.secStatusJtagAllow, F.secStatusDebug, F.secStatusArmed, F.secStatusOwnerLock, F.secStatusDbgFused, F.secStatusSlot]
  | .secChallenge => [F.secChallengeChallenge]
  | .secOwnerKey => [F.secOwnerKeyDigest]
  | .secSwitchRoot => [F.secSwitchRootDigest]
  | .secKeyx => [F.secKeyxAuthFail, F.secKeyxTimeouts]
  | .secTgtKey => [F.secTgtKeySalt, F.secTgtKeyKey]
  | .secCtxCfg => [F.secCtxCfgHbmEnc]
  | .pwrInput => [F.pwrInputPin, F.pwrInputIin, F.pwrInputVin, F.pwrInputVinMin]
  | .pwrCap => [F.pwrCapMaxW, F.pwrCapCapW]
  | .pwrSupply => [F.pwrSupplyState, F.pwrSupplyEvents]
  | .pwrTherm => [F.pwrThermDieMax, F.pwrThermStackMax, F.pwrThermCoolIn, F.pwrThermCoolOut, F.pwrThermThrottles, F.pwrThermStage]
  | .weirSlew => [F.weirSlewSlew]
  | .weirCtl => [F.weirCtlFillHbm, F.weirCtlFillMe]
  | .weirStatus => [F.weirStatusFiller, F.weirStatusSupply, F.weirStatusThermal, F.weirStatusCap, F.weirStatusRise]
  | .weirUnheld => [F.weirUnheldCount]
  | .clkCore => [F.clkCoreFix, F.clkCoreFixMhz]
  | .clkRef => [F.clkRefSyncSeen, F.clkRefRackLock, F.clkRefPcieLock, F.clkRefBoardLock]
  | .clkField => [F.clkFieldDroop, F.clkFieldMhz]
  | .svcStatus => [F.svcStatusIgnored, F.svcStatusLamp, F.svcStatusHold]
  | .svcCtl => [F.svcCtlLampTest, F.svcCtlMask, F.svcCtlVector]
  | .svcPort => [F.svcPortLocate, F.svcPortPulled, F.svcPortLost]
  | .glbId => [F.glbIdVendor, F.glbIdDevice, F.glbIdPart, F.glbIdMapMajor, F.glbIdMapMinor, F.glbIdDieRev]
  | .glbSerial => [F.glbSerialSerial]
  | .glbFwVersion => [F.glbFwVersionMajor, F.glbFwVersionMinor, F.glbFwVersionPatch]
  | .glbStatus => [F.glbStatusBoots, F.glbStatusDebug, F.glbStatusLocked, F.glbStatusPlan, F.glbStatusState]
  | .glbExpert => [F.glbExpertExpert, F.glbExpertSinceReset, F.glbExpertDenied]
  | .glbAccess => [F.glbAccessDiked, F.glbAccessVfOwned, F.glbAccessUnmapped, F.glbAccessBadWidth]
  | .glbScratch => [F.glbScratchValue]
  | .dbgStatus => [F.dbgStatusScope]
  | .dbgSpmSel => [F.dbgSpmSelBusy, F.dbgSpmSelCore, F.dbgSpmSelRow]
  | .dbgSpmRow => [F.dbgSpmRowRowRaw]

/-- Value of a register at reset: its fields' reset values. -/
def Reg.resetValue (r : Reg) : Nat := r.fields.foldl (fun v f => v + f.reset * 2 ^ f.lo) 0

/-- Key of entry `i` of a register in the register store. No register has 2^20 entries. -/
def Reg.key (r : Reg) (i : Nat) : Nat := r.info.num * 2 ^ 20 + i % 2 ^ 20

end Sys2Proof.Machine
end

