-- ==== Sys2Proof/Machine/Flags.lean ====
section
/-! DEFINITION. Number formats, exact arithmetic, roundings, conversions and every freeboard (chapters 2, 4 and 7). -/

namespace Sys2Proof.Machine

/-! ### Exact numbers -/

/-- A dyadic number m × 2^e. -/
structure Dy where
  m : Int
  e : Int
  deriving DecidableEq, Repr

/-- Zero. -/
def Dy.zero : Dy := ⟨0, 0⟩
/-- An integer as a dyadic. -/
def Dy.ofInt (i : Int) : Dy := ⟨i, 0⟩
/-- Exact sum. -/
def Dy.add (a b : Dy) : Dy :=
  if a.m = 0 then b else if b.m = 0 then a else
  let e := min a.e b.e
  ⟨a.m * 2 ^ (a.e - e).toNat + b.m * 2 ^ (b.e - e).toNat, e⟩
/-- Exact product. -/
def Dy.mul (a b : Dy) : Dy := ⟨a.m * b.m, a.e + b.e⟩
/-- Negation. -/
def Dy.neg (a : Dy) : Dy := ⟨-a.m, a.e⟩
/-- Exact difference. -/
def Dy.sub (a b : Dy) : Dy := a.add b.neg
/-- Magnitude. -/
def Dy.abs (a : Dy) : Dy := ⟨a.m.natAbs, a.e⟩
/-- Scaling by a power of two. -/
def Dy.scale (a : Dy) (k : Int) : Dy := ⟨a.m, a.e + k⟩
/-- a < b. -/
def Dy.lt (a b : Dy) : Bool := decide ((a.sub b).m < 0)
/-- Exact sum of a list. -/
def Dy.sum (l : List Dy) : Dy := l.foldl Dy.add Dy.zero
/-- ⌊a⌋. -/
def Dy.floor (a : Dy) : Int := if 0 ≤ a.e then a.m * 2 ^ a.e.toNat else a.m / (2 ^ (-a.e).toNat : Nat)

/-- A value of a floating-point format: finite with its sign, infinite, or NaN (R32). -/
inductive FV where
  | fin (neg : Bool) (m : Nat) (e : Int)
  | inf (neg : Bool)
  | nan
  deriving DecidableEq, Repr

/-- The exact value of a finite number (zero for the others). -/
def FV.dy : FV → Dy
  | .fin n m e => ⟨if n then -(m : Int) else m, e⟩
  | _ => Dy.zero
/-- Finite. -/
def FV.isFin : FV → Bool
  | .fin .. => true
  | _ => false
/-- Sign of the value. -/
def FV.sign : FV → Bool
  | .fin n _ _ => n
  | .inf n => n
  | .nan => false
/-- A number of the given exact value; zero takes the sign given. -/
def FV.ofDy (d : Dy) (zeroNeg : Bool := false) : FV :=
  if d.m = 0 then .fin zeroNeg 0 0 else .fin (decide (d.m < 0)) d.m.natAbs d.e
/-- Magnitude. -/
def FV.abs : FV → FV
  | .fin _ m e => .fin false m e
  | .inf _ => .inf false
  | .nan => .nan
/-- Negation. -/
def FV.neg : FV → FV
  | .fin n m e => .fin (!n) m e
  | .inf n => .inf (!n)
  | .nan => .nan
/-- Zero of either sign. -/
def FV.isZero : FV → Bool
  | .fin _ m _ => m == 0
  | _ => false

/-- Exact sum with IEEE special values; an exact zero is +0 but for −0 + −0 (R177). -/
def FV.add (a b : FV) : FV :=
  match a, b with
  | .nan, _ => .nan
  | _, .nan => .nan
  | .inf s, .inf t => if s = t then .inf s else .nan
  | .inf s, _ => .inf s
  | _, .inf t => .inf t
  | a, b => .ofDy (a.dy.add b.dy) (a.sign && b.sign)

/-- Exact product with IEEE special values. -/
def FV.mul (a b : FV) : FV :=
  match a, b with
  | .nan, _ => .nan
  | _, .nan => .nan
  | .inf s, b => if b.isZero then .nan else .inf (s != b.sign)
  | a, .inf t => if a.isZero then .nan else .inf (a.sign != t)
  | .fin s m e, .fin t n f => .fin (s != t) (m * n) (e + f)

/-- Exact a × b + c (R176 FMA, R185). -/
def FV.fma (a b c : FV) : FV := (a.mul b).add c

/-- Exact sum of a list; the empty sum is +0. -/
def FV.sum (l : List FV) : FV :=
  match l with
  | [] => .fin false 0 0
  | x :: xs => xs.foldl FV.add x

/-- Numeric comparison of two numbers that are not NaN; the two zeros are equal. -/
def FV.lt (a b : FV) : Bool :=
  match a, b with
  | .nan, _ => false
  | _, .nan => false
  | .inf true, .inf true => false
  | .inf true, _ => true
  | _, .inf true => false
  | .inf false, _ => false
  | _, .inf false => true
  | a, b => a.dy.lt b.dy

/-- Numeric equality; NaN equals nothing. -/
def FV.eq (a b : FV) : Bool :=
  match a, b with
  | .nan, _ => false
  | _, .nan => false
  | a, b => !(a.lt b) && !(b.lt a)

/-- Order of values used by MIN and MAX: numeric, with −0 below +0 (Table 7.2). -/
def FV.below (a b : FV) : Bool := a.lt b || (a.eq b && a.sign && !b.sign)

/-! ### Roundings -/

/-- Rounding of a magnitude. -/
inductive RMode where
  | nearest            -- ties to the even code
  | zero               -- truncate
  | away               -- round up
  | stoch (r : Nat)    -- R45, with the 16-bit value drawn
  deriving DecidableEq, Repr

/-- ⌊log2 (num / den)⌋ for positive num and den. -/
def floorLog2 (num den : Nat) : Int :=
  let l : Int := (Nat.log2 num : Int) - (Nat.log2 den : Int)
  let ge : Bool := if 0 ≤ l then decide (den * 2 ^ l.toNat ≤ num) else decide (den ≤ num * 2 ^ (-l).toNat)
  if ge then l else l - 1

/-- The multiple of 2^q that (num / den) × 2^e rounds to, as a count of 2^q. -/
def roundTo (mode : RMode) (num den : Nat) (e q : Int) : Nat :=
  let d := e - q
  let n := if 0 ≤ d then num * 2 ^ d.toNat else num
  let k := if 0 ≤ d then den else den * 2 ^ (-d).toNat
  let t := n / k
  let r := n % k
  match mode with
  | .nearest => if 2 * r > k || (2 * r == k && t % 2 == 1) then t + 1 else t
  | .zero => t
  | .away => if r = 0 then t else t + 1
  | .stoch s => (n * 65536 + s % 65536 * k) / (k * 65536)

/-- The quantum of a `p`-bit significand at the value (num / den) × 2^e, no finer than 2^minQ. -/
def quantum (p : Nat) (minQ : Option Int) (num den : Nat) (e : Int) : Int :=
  let q := floorLog2 num den + e - ((p : Int) - 1)
  match minQ with
  | none => q
  | some m => max q m

/-- A floating-point format of Table 2.1. -/
structure Fmt where
  ebits : Nat
  mbits : Nat
  bias : Nat
  inf : Bool
  nan : Option Nat
  maxCode : Nat
  deriving DecidableEq, Repr

/-- Width of a code. -/
def Fmt.width (f : Fmt) : Nat := f.ebits + f.mbits + 1
/-- Exponent of the finest quantum. -/
def Fmt.minQ (f : Fmt) : Int := 1 - (f.bias : Int) - f.mbits

/-- FP32. -/
def fp32 : Fmt := ⟨8, 23, 127, true, some 0x7FC00000, 0x7F7FFFFF⟩
/-- BF16. -/
def bf16 : Fmt := ⟨8, 7, 127, true, some 0x7FC0, 0x7F7F⟩
/-- FP16. -/
def fp16 : Fmt := ⟨5, 10, 15, true, some 0x7E00, 0x7BFF⟩
/-- FP8 E5M2. -/
def e5m2 : Fmt := ⟨5, 2, 15, true, some 0x7E, 0x7B⟩
/-- FP8 E4M3. -/
def e4m3 : Fmt := ⟨4, 3, 7, false, some 0x7F, 0x7E⟩
/-- FP6 E3M2. -/
def e3m2 : Fmt := ⟨3, 2, 3, false, none, 0x1F⟩
/-- FP6 E2M3. -/
def e2m3 : Fmt := ⟨2, 3, 1, false, none, 0x1F⟩
/-- FP4 E2M1. -/
def e2m1 : Fmt := ⟨2, 1, 1, false, none, 0x7⟩

/-- The value a code stands for (R32). -/
def Fmt.decode (f : Fmt) (code : Nat) : FV :=
  let s := bit code (f.ebits + f.mbits)
  let mag := code % 2 ^ (f.ebits + f.mbits)
  let ex := mag / 2 ^ f.mbits
  let mn := mag % 2 ^ f.mbits
  if f.inf && ex == 2 ^ f.ebits - 1 then (if mn = 0 then .inf s else .nan)
  else if !f.inf && f.nan.isSome && mag == 2 ^ (f.ebits + f.mbits) - 1 then .nan
  else if ex = 0 then .fin s mn f.minQ
  else .fin s (2 ^ f.mbits + mn) ((ex : Int) - 1 + f.minQ)

/-- Code of the rounded magnitude (num / den) × 2^e before the overflow test; denormals kept (R46). -/
def Fmt.magCode (f : Fmt) (mode : RMode) (num den : Nat) (e : Int) : Nat :=
  if num = 0 then 0 else
  let q := quantum (f.mbits + 1) (some f.minQ) num den e
  (q - f.minQ).toNat * 2 ^ f.mbits + roundTo mode num den e q

/-- The sign bit of a code. -/
def Fmt.signBit (f : Fmt) (neg : Bool) : Nat := if neg then 2 ^ (f.ebits + f.mbits) else 0

/-- Overflow as Table 2.4 states, for the saturate option. -/
def Fmt.overflow (f : Fmt) (sat : Bool) : Nat :=
  if f.inf && !sat then (2 ^ f.ebits - 1) * 2 ^ f.mbits else f.maxCode

/-- A signed quotient (num / den) × 2^e rounded to the format. -/
def Fmt.encodeRatio (f : Fmt) (mode : RMode) (sat neg : Bool) (num den : Nat) (e : Int) : Nat :=
  let c := f.magCode mode num den e
  f.signBit neg + (if c > f.maxCode then f.overflow sat else c)

/-- Conversion of a value to the format under R45, R46 and Table 2.4. -/
def Fmt.convert (f : Fmt) (mode : RMode) (sat : Bool) (x : FV) : Nat :=
  match x with
  | .nan => f.nan.getD 0
  | .inf s => f.signBit s + f.overflow sat
  | .fin s m e => f.encodeRatio mode sat s m 1 e

/-- Round-to-nearest-even to the format, overflow to infinity: the VU's and RSU's rounding (R176, R195). -/
def Fmt.encode (f : Fmt) (x : FV) : Nat := f.convert .nearest false x

/-- Rounding to FP32 and back to a value. -/
def r32 (x : FV) : FV := fp32.decode (fp32.encode x)
/-- Rounding upward to FP32 of a non-negative value (R86). -/
def r32up (x : FV) : FV := fp32.decode (fp32.convert .away false x)
/-- A non-negative quotient rounded upward to FP32. -/
def ratio32up (num den : Nat) (e : Int) : FV := fp32.decode (fp32.encodeRatio .away false false num den e)
/-- A quotient of an exact number by a positive integer, rounded to nearest even (R196, R197, R199). -/
def div32 (x : Dy) (den : Nat) : FV :=
  fp32.decode (fp32.encodeRatio .nearest false (decide (x.m < 0)) x.m.natAbs den x.e)

/-- One rounding of the matrix engine (R40): 24-bit significand, results below 2^−126 flushed to a signed zero. -/
def roundME (x : FV) : FV :=
  match x with
  | .fin s m e =>
    if m = 0 then .fin false 0 0 else
    let q := quantum 24 none m 1 e
    let t := roundTo .nearest m 1 e q
    let v : Dy := ⟨t, q⟩
    if v.lt ⟨1, -126⟩ then .fin s 0 0
    else if (⟨2 ^ 24 - 1, 104⟩ : Dy).lt v then .inf s
    else .fin s t q
  | .inf s => .inf s
  | .nan => .nan

/-- Code of an FP32 value already rounded. -/
def code32 (x : FV) : Nat := fp32.encode x

/-! ### Integers (Table 2.4, R178) -/

/-- Integer nearest to a value, ties to even. -/
def nearestInt (d : Dy) : Int :=
  let t := roundTo .nearest d.m.natAbs 1 d.e 0
  if d.m < 0 then -(t : Int) else t

/-- Integer of a value under a conversion rounding mode. -/
def roundInt (mode : RMode) (d : Dy) : Int :=
  let t := roundTo mode d.m.natAbs 1 d.e 0
  if d.m < 0 then -(t : Int) else t

/-- Conversion to INT8 (Table 2.4). -/
def toInt8 (mode : RMode) (x : FV) : Nat :=
  match x with
  | .nan => 0
  | .inf s => if s then 0x80 else 0x7F
  | x => unsigned 8 (clampSigned 8 (roundInt mode x.dy))

/-- FP32 to INT32, nearest even or floor, saturating (R178). -/
def toInt32 (floor : Bool) (x : FV) : Nat :=
  match x with
  | .nan => 0
  | .inf s => if s then 0x80000000 else 0x7FFFFFFF
  | x => unsigned 32 (clampSigned 32 (if floor then x.dy.floor else nearestInt x.dy))

/-- INT32 to an exact value. -/
def ofInt32 (code : Nat) : FV := .ofDy (.ofInt (signed 32 code))

/-! ### MX scales (R34, R47) -/

/-- The value of an element under a block scale; 0xFF makes it NaN. -/
def mxValue (scale : Nat) (x : FV) : FV :=
  if scale = 0xFF then .nan else
  match x with
  | .fin s m e => .fin s m (e + (scale : Int) - 127)
  | x => x

/-- emax of an element format (R47). -/
def emax (f : Fmt) : Int :=
  if f = e4m3 then 8 else if f = e5m2 then 15 else if f = e3m2 then 4 else 2

/-- Block scale of a block of values (R47). -/
def mxScale (f : Fmt) (xs : List FV) : Nat :=
  if xs.any (· == .nan) then 0xFF
  else if xs.any (fun x => !x.isFin) then 254
  else
    let top := xs.foldl (fun (b : Dy) x => if b.lt x.dy.abs then x.dy.abs else b) Dy.zero
    if top.m = 0 then 0
    else (max 0 (min 254 (floorLog2 top.m.natAbs 1 + top.e - emax f + 127))).toNat

/-- Scale and element codes of a block converted to an MX format (R47); `mode i` is the rounding of element i. -/
def mxConvert (f : Fmt) (mode : Nat → RMode) (xs : List FV) : Nat × List Nat :=
  let sc := mxScale f xs
  (sc, xs.zipIdx.map (fun (x, i) =>
    match x with
    | .fin s m e => f.convert (mode i) true (.fin s m (e - ((sc : Int) - 127)))
    | x => f.convert (mode i) true x))

/-! ### The rounding generator (R48) -/

/-- One draw: the next state and 64 bits of output. -/
def next64 (st : BitVec 64) : BitVec 64 × BitVec 64 :=
  let s := st + 0x9E3779B97F4A7C15
  let z := (s ^^^ (s >>> 30)) * 0xBF58476D1CE4E5B9
  let z := (z ^^^ (z >>> 27)) * 0x94D049BB133111EB
  (s, z ^^^ (z >>> 31))

/-- State of a core's generator at the start of an INVOKE (R48). -/
def rngInit (seed : BitVec 64) (core : Nat) (invocation : BitVec 64) : BitVec 64 :=
  (next64 (seed ^^^ (BitVec.ofNat 64 core <<< 54) ^^^ invocation)).1

/-- The generator kept per core: state and 16-bit values drawn and not yet used (R48). -/
structure Rng where
  state : BitVec 64
  ready : List Nat
  deriving DecidableEq, Repr

/-- The next 16-bit value. -/
def Rng.next (r : Rng) : Nat × Rng :=
  match r.ready with
  | v :: vs => (v, ⟨r.state, vs⟩)
  | [] =>
    let (s, z) := next64 r.state
    let z := z.toNat
    (z % 65536, ⟨s, [z / 65536 % 65536, z / 2 ^ 32 % 65536, z / 2 ^ 48 % 65536]⟩)

/-- The next `n` values in order. -/
def Rng.take (r : Rng) : Nat → List Nat × Rng
  | 0 => ([], r)
  | n + 1 =>
    let (v, r) := r.next
    let (vs, r) := Rng.take r n
    (v :: vs, r)

/-! ### Freeboards -/

/-- Freeboard of a matrix row (R84, R86): κ, N_form, divisor d, elements k, and the running sum a. -/
def freeboardMatrix (kappa nForm d k : Nat) (a : FV) : FV :=
  let rho := ceilDiv k d
  let c := kappa * (rho + 1)
  let f1 := match a with
    | .fin _ m e => ratio32up (c * m) 1 (e - 23)
    | .inf _ => .inf false
    | .nan => .nan
  let f2 := ratio32up ((nForm + 1) * (rho + 1)) 1 (-126)
  r32up (f1.add f2)

/-- Freeboard of a landed ebb shard (R98). -/
def freeboardEbb (kappa h : Nat) (a : FV) : FV :=
  match a with
  | .fin _ m e => ratio32up (kappa * (3 * h + 1) * m) 1 (e - 24)
  | .inf _ => .inf false
  | .nan => .nan

/-- Freeboard of a pooled bag (R100): L rows of E elements, W already rounded upward. -/
def freeboardGather (kappa l e : Nat) (w : FV) : FV :=
  let f1 := match w with
    | .fin _ m x => ratio32up (kappa * (l + 1) * m) 1 (x - 23)
    | .inf _ => .inf false
    | .nan => .nan
  let f2 := ratio32up ((e + 1) * (l + 1)) 1 (-149)
  r32up (f1.add f2)

/-- Constants u_f and δ_f of an output format (Table 4.5), as powers of two. -/
def convConst (f : Fmt) : Int × Int :=
  if f = bf16 then (-8, -133) else if f = fp16 then (-11, -24) else if f = e5m2 then (-3, -16) else (-4, -9)

/-- Conversion freeboard F_c (R92 item 3) over the magnitudes of the elements left in. -/
def freeboardConv (kappa : Nat) (f : Fmt) (cs : List Dy) : FV :=
  let (u, d) := convConst f
  let s := (Dy.sum (cs.map Dy.abs)).mul ⟨kappa, u⟩
  r32up (.ofDy (s.add ⟨cs.length, d⟩))

/-- |r| / F rounded upward to FP16, for MAX_RATIO (R86); zero for a zero residual. -/
def ratioFp16 (r f : FV) : Nat :=
  match r, f with
  | .fin _ m e, .fin _ n g => if m = 0 ∨ n = 0 then 0 else fp16.encodeRatio .away false false m n (e - g)
  | _, _ => 0

end Sys2Proof.Machine
end

