-- ==== Sys2Proof/Machine/Units.lean ====
section
/-! DEFINITION. What the units of the die hold: cores, contexts, invocations, gather engines. Plain data. -/

namespace Sys2Proof.Machine

/-- Status codes (Table 15.13). -/
inductive Status where
  | ok | okRetried | okSupplyEvent
  | descInvalid | accessViolation | pageFault | staleContext
  | breachLasting | damagedBlock | uncorrectable
  | fenced | fencedAbort | partitioned | noCreditTimeout | timeout | cancelled
  deriving DecidableEq, Repr

/-- The 8-bit code of a status (Table 15.13). -/
def Status.code : Status → Nat
  | .ok => 0x00 | .okRetried => 0x01 | .okSupplyEvent => 0x02
  | .descInvalid => 0x10 | .accessViolation => 0x11 | .pageFault => 0x12 | .staleContext => 0x13
  | .breachLasting => 0x20 | .damagedBlock => 0x21 | .uncorrectable => 0x22
  | .fenced => 0x30 | .fencedAbort => 0x31 | .partitioned => 0x32 | .noCreditTimeout => 0x33 | .timeout => 0x34
  | .cancelled => 0x3F

/-- Status of a code; a reserved code reads as CANCELLED only where no rule can produce it. -/
def Status.ofCode (c : Nat) : Option Status :=
  [Status.ok, .okRetried, .okSupplyEvent, .descInvalid, .accessViolation, .pageFault, .staleContext, .breachLasting,
   .damagedBlock, .uncorrectable, .fenced, .fencedAbort, .partitioned, .noCreditTimeout, .timeout, .cancelled].find? (fun s => s.code == c)

/-- A completion without error (R27). -/
def Status.good : Status → Bool
  | .ok => true
  | .okRetried => true
  | .okSupplyEvent => true
  | _ => false

/-- A lasting status of Table 4.1. -/
def Status.isLasting : Status → Bool
  | .breachLasting => true
  | .damagedBlock => true
  | .uncorrectable => true
  | _ => false

/-- The context tag word: index [9:0], generation [15:10] (R13). -/
def tagOf (index gen : Nat) : Nat := index % 1024 + (gen % 64) * 1024
/-- Index of a tag. -/
def tagIndex (t : Nat) : Nat := t % 1024
/-- Generation of a tag. -/
def tagGen (t : Nat) : Nat := t / 1024 % 64

/-! ### A core -/

/-- A block that has landed in a slot and holds it (R265, R269, R271); `sentAs` is the credit entry and SEQ it was forwarded with. -/
structure Landed where
  slot : Nat
  seq : Nat
  header : Bytes
  checked : Bool
  failed : Bool
  forwarded : Bool
  covered : Bool
  released : Bool
  sentAs : Option (Nat × Nat)
  deriving DecidableEq, Repr

/-- A handle table entry (Table 5.5) with the landed blocks it still holds (R265). -/
structure Polder where
  valid : Bool
  resident : Bool
  compressed : Bool
  sluice : Bool
  accum : Bool
  code : Bool
  classW : Bool
  sluiceState : Nat
  length : Nat
  base : Nat
  gen : Nat
  owner : Nat
  peerChip : Nat
  peerCore : Nat
  peerCredit : Nat
  credit : Nat
  nextSlot : Nat
  closeAt : Option Nat
  armedBy : Option Nat
  landed : List Landed
  landedCount : Nat
  ackedCount : Nat
  firstUnacked : Option Nat
  deriving DecidableEq, Repr

/-- An entry that names no polder. -/
def Polder.empty : Polder :=
  ⟨false, false, false, false, false, false, false, 0, 0, 0, 0, 0, 0, 0, 0, 0, 0, none, none, [], 0, 0, none⟩

/-- A block held until a LAND covers it (R270), with the stream and block that it is, if one sent it, and the deadline and class of its issue (R223, R224). -/
structure Held where
  strm : Option (Nat × Nat)
  seq : Nat
  slot : Nat
  bytes : Bytes
  deadline : Nat
  service : Bool
  deriving DecidableEq, Repr

/-- A sender credit entry (R138 to R141). -/
structure Credit where
  state : Nat
  owner : Nat
  chip : Nat
  core : Nat
  handle : Nat
  gen : Nat
  addr : Nat
  slots : Nat
  nextSlot : Nat
  credit : Nat
  timer : Option Nat
  sent : Nat
  held : List Held
  deriving DecidableEq, Repr

/-- The Idle entry. -/
def Credit.idle : Credit := ⟨0, 0, 0, 0, 0, 0, 0, 0, 0, 0, none, 0, []⟩

/-- Who waits on a barrier counter: a task slot or a gather engine entry (R227, R323). -/
inductive Waiter where
  | slot (i : Nat)
  | engine (e : Nat)
  deriving DecidableEq, Repr

/-- A barrier counter (R227). -/
structure Bar where
  bound : Bool
  owner : Nat
  count : Nat
  target : Nat
  waiter : Option Waiter
  deriving DecidableEq, Repr

/-- An unbound counter. -/
def Bar.free : Bar := ⟨false, 0, 0, 0, none⟩

/-- A running hardware loop: counter, first word of the body, word after it, passes (R239). -/
structure Loop where
  lc : Nat
  start : Nat
  stop : Nat
  count : Nat
  deriving DecidableEq, Repr

/-- A task slot (R228); `state` and `ending` as SEQ_SLOT (Table 8.12). -/
structure Slot where
  state : Nat
  ending : Bool
  tag : Nat
  task : Nat
  codeHandle : Nat
  pc : Nat
  lcs : List Nat
  lasts : List Nat
  loops : List Loop
  preds : List Bool
  compute : Bool
  waitCtr : Nat
  waitSince : Nat
  prio : Nat
  deriving DecidableEq, Repr

/-- The empty slot. -/
def Slot.empty : Slot :=
  ⟨0, false, 0, 0, 0, 0, List.replicate 8 0, List.replicate 8 0, [], List.replicate 4 false, false, 0, 0, 0⟩

/-- A stationary tile with the scales of its K blocks and its check vectors Ye and |Y|e (R63, R72). -/
structure MeTile where
  data : Bytes
  scales : Bytes
  ye : List FV
  ya : List FV
  deriving DecidableEq, Repr

/-- No tile. -/
def MeTile.none : MeTile := ⟨[], [], [], []⟩

/-- What a fill of the shadow came to: the tile, or the status that reading it ended with (R63). -/
structure MeShadow where
  tile : MeTile
  error : Option Status
  deriving DecidableEq, Repr

/-- A MATRIX operation in the ME (R60, R61): its decoded fields, the place of its operands, its progress and its event so far.
`tile` is the active tile, `shadow` a filled shadow block, `buffer` the last two expanded blocks of a compressed moving operand; `supply` and `convSupply` say
that a breach of it, or of its conversion, met a supply event (R106). -/
structure MeOp where
  slot : Nat
  tag : Nat
  opIndex : Nat
  form : Nat
  start : Bool
  final : Bool
  mfmt : Nat
  sfmt : Nat
  ofmt : Nat
  stoch : Bool
  sat : Bool
  m : Nat
  k : Nat
  n : Nat
  st : Nat
  mv : Nat
  ac : Nat
  ck : Nat
  out : Nat
  sc : Nat
  handles : List Nat
  accs : List Nat
  active : Bool
  pass : Nat
  group : Nat
  tile : MeTile
  shadow : Option MeShadow
  buffer : List (Nat × Bytes)
  retrying : Bool
  retries : Nat
  passes : Nat
  maxRatio : Nat
  unchecked : Nat
  saturated : Bool
  convRetries : Nat
  convRows : Nat
  convRatio : Nat
  supply : Bool
  convSupply : Bool
  deriving DecidableEq, Repr

/-- The kind of an operation in the VU. -/
inductive VuKind where
  | vector | sfu | micro | rowstat
  deriving DecidableEq, Repr

/-- Element codes that a batch writes: handle, byte offset of the region, element width, first element, codes. -/
structure VuWrite where
  h : Nat
  off : Nat
  width : Nat
  first : Nat
  codes : List Nat
  deriving DecidableEq, Repr

/-- What the rows under way in a ROWSTAT operation have come to: codes of the probabilities still to write batch by batch, and what the last of their
batches writes (R200, R203). -/
structure RowPart where
  probs : List Nat
  rest : List VuWrite
  deriving DecidableEq, Repr

/-- An operation in the VU: its two words, the byte offsets of operands A to D, and its progress (R174, R176, R185, R190). `uses` are the handles its operands
name, `second` says that a MICRO names a source B, `contrib` are the codes of an ebb contribution added so far (R97), `row` the rows of a ROWSTAT under way,
`supply` that a breach met a supply event (R106). -/
structure VuOp where
  kind : VuKind
  slot : Nat
  tag : Nat
  opIndex : Nat
  word : Nat
  a : Nat
  b : Nat
  c : Nat
  d : Nat
  handles : List Nat
  dHandle : Nat
  uses : List Nat
  batch : Nat
  retries : Nat
  second : Bool
  program : List Nat
  ebb : Option Nat
  contrib : List Nat
  row : Option RowPart
  supply : Bool
  deriving DecidableEq, Repr

/-- A stream descriptor in force (Table 8.1), with the offsets of its ARM added. -/
structure StreamDesc where
  src : Nat
  dst : Nat
  srcTag : Nat
  dstTag : Nat
  table : Nat
  ctrl : Nat
  srcHandle : Nat
  dstHandle : Nat
  digestIndex : Nat
  zero47 : Nat
  elem : Nat
  rate : Nat
  counts : List Nat
  strides : List Int
  arrive : Nat
  crcDst : Nat
  zeroTail : Bool
  deriving DecidableEq, Repr

/-- A block of a stream in flight: its index, the bytes read, its tag, its uncompressed bytes once an expander has passed it, what the read ended with,
requests still out, whether all its reads have been issued, and whether it is fetched again (R170, R212). -/
structure StrmBlock where
  index : Nat
  slot : Nat
  data : Bytes
  tag : Bytes
  plain : Bytes
  status : Status
  waiting : Nat
  deadline : Nat
  asked : Bool
  again : Bool
  deriving DecidableEq, Repr

/-- A stream run (R208 to R218). `acks` are the blocks whose writes await acknowledgement, one entry a write; `table` is a table record asked of another
chip, empty until it has arrived; `supply` says that a breach since the last event met a supply event (R106). -/
structure Run where
  desc : StreamDesc
  descIndex : Nat
  total : Nat
  issued : Nat
  written : Nat
  flight : List StrmBlock
  acks : List Nat
  crc : BitVec 32
  digest : Bytes
  status : Status
  retries : Nat
  breaches : Nat
  events : Nat
  pass : Nat
  hist : List Nat
  tableSlot : Option Nat
  loaded : Bool
  table : Option Bytes
  expanded : Nat
  supply : Bool
  deriving DecidableEq, Repr

/-- A stream of a core (R205, Table 8.11). -/
structure Strm where
  owner : Nat
  bound : Bool
  status : Nat
  run : Option Run
  held : Option (StreamDesc × Nat)
  ring : Option Nat
  ringSlots : Nat
  credit : Nat
  nextSlot : Nat
  deriving DecidableEq, Repr

/-- An unbound stream. -/
def Strm.free : Strm := ⟨0, false, 0, none, none, none, 0, 0, 0⟩

/-- A stream as its INVOKE leaves it: unbound, the status of its last run still shown (Table 8.11). -/
def Strm.unbound (x : Strm) : Strm := { Strm.free with status := x.status }

/-- A table slot (R163): owner tag, TABLE_ID, the 272 code lengths. -/
structure TSlot where
  valid : Bool
  owner : Nat
  id : Nat
  lens : List Nat
  deriving DecidableEq, Repr

/-- A clear table slot. -/
def TSlot.clear : TSlot := ⟨false, 0, 0, []⟩

/-- A directory entry of the micro-program store (Table 7.11). -/
structure UProg where
  valid : Bool
  lib : Bool
  owner : Nat
  base : Nat
  length : Nat
  deriving DecidableEq, Repr

/-- A program number that names nothing. -/
def UProg.empty : UProg := ⟨false, false, 0, 0, 0⟩

/-- What a core knows of an inner ring it belongs to (Tables 10.2, 10.3), bound for an INVOKE. -/
structure TideBind where
  tag : Nat
  index : Nat
  ring : Nat
  kv : Bool
  compressed : Bool
  bank : Nat
  dirDown : Bool
  tideH : Nat
  originH : Nat
  ebbH : Option Nat
  tideCr : Nat
  ebbCr : Nat
  kvTokens : Nat
  round : Nat
  len : Nat
  pos : Nat
  members : Nat
  me : Nat
  single : Bool
  fwdCore : Nat
  fwdChip : Nat
  backCore : Nat
  backChip : Nat
  admitted : Nat
  origins : Nat
  ebbs : Nat
  ebbTrail : Nat
  startTrail : Nat
  deriving DecidableEq, Repr

/-- An ALLOC that waits for granules still being zeroed (R135): handle, granules left, and where its REPLY goes when a culvert message asked for it;
none for the running task's own ALLOC. -/
structure PendAlloc where
  handle : Nat
  granules : List Nat
  reply : Option Culvert
  deriving DecidableEq, Repr

/-- A task the CXS has still to load on a core (R231): context tag, priority, index in the core's list, first word, code handle. -/
structure Waiting where
  tag : Nat
  prio : Nat
  task : Nat
  pc : Nat
  codeHandle : Nat
  slot : Option Nat
  deriving DecidableEq, Repr

/-- A core (Table 1.2). `rst` is CORE_RESET.STATE; `frees` are culvert FREEs that have not completed (R137, R219). -/
structure CoreSt where
  rst : Nat
  spm : Mem
  spmErr : Table Upset
  spmPassing : Table Upset
  ht : Table Polder
  zeroing : List Nat
  dredgeRow : Nat
  slots : Table Slot
  running : Option Nat
  lastRan : Nat
  gated : Bool
  bars : Table Bar
  strms : Table Strm
  creds : Table Credit
  tslots : Table TSlot
  ustore : Table Nat
  udir : Table UProg
  me : List MeOp
  meForm : Nat
  filler : Bool
  vu : List VuOp
  rngs : Table Rng
  trailers : Table Bytes
  trailerOwner : Table Nat
  tides : List TideBind
  progressAt : Nat
  allocs : List PendAlloc
  queue : List Waiting
  lastCtx : Nat
  dikeAt : Option Nat
  frees : List Culvert
  dikeFor : Nat
  deriving DecidableEq, Repr

/-- A core with nothing in it. -/
def CoreSt.idle : CoreSt :=
  ⟨0, [], [], [], [], [], 0, [], none, 0, true, [], [], [], [], [], [], [], 0, false, [], [], [], [], [], 0, [], [], 1023, none, [], 0⟩

/-! ### Contexts and invocations -/

/-- The counters of a per-invocation summary (Table 4.9). -/
structure Tally where
  tiles : Nat
  batches : Nat
  blocks : Nat
  bags : Nat
  shards : Nat
  convRows : Nat
  retries : Nat
  breaches : Nat
  lasting : Nat
  unchecked : Nat
  maxRatio : Nat
  maxType : Nat
  records : Nat
  events : Nat
  deriving DecidableEq, Repr

/-- The empty summary. -/
def Tally.zero : Tally := ⟨0, 0, 0, 0, 0, 0, 0, 0, 0, 0, 0, 0, 0, 0⟩

/-- A fetched descriptor with its place in the order of fetches, its ring index, the submission head after its fetch (R398), and the number of the
doorbell write that submitted it, which orders submissions across contexts (R230, log entry 41). -/
structure Desc where
  bytes : Bytes
  seq : Nat
  index : Nat
  head : Nat
  order : Nat
  deriving DecidableEq, Repr

/-- A running INVOKE (Table 1.6): what it read at its start, what it waits for, and its summary. `breaks` are its ring links that are out of the up state,
each with the time it left (R274). `haltSent` says that it has told its ring members of its
end, `halted` which of them have told it of theirs (R275). -/
structure Invoke where
  desc : Desc
  bound : Bool
  id : Nat
  seed : Nat
  seedDrawn : Bool
  timeStart : Nat
  kappa : Nat
  drainChk : Nat
  audit : Nat
  cmpCfg : Nat
  prio : Nat
  waits : Bool
  needs : List (Nat × Nat × Nat)
  engineNeeds : List Nat
  trailNeeds : List (Nat × Nat)
  ending : Option Status
  endAt : Option Nat
  stopped : Bool
  tally : Tally
  supply : Nat
  expertSeen : Bool
  suspects : List Nat
  unitSuspect : Bool
  inputs : Nat
  outputs : Nat
  digests : Table Bytes
  manifest : Bytes
  ring : Bool
  members : List Nat
  links : List (Nat × Nat)
  cores : List Nat
  window : Nat × Nat × Nat × Nat
  usesTide : Bool
  breaks : List ((Nat × Nat) × Nat)
  haltSent : Bool
  halted : List Nat
  deriving DecidableEq, Repr

/-- A copy, shard load or checkpoint in progress: what has been asked, done and digested (R394, R282, R413); `again` marks a block fetched again (R96).
`ending` is the status that a CANCEL or a dike gives a job whose retry is still to come to its end (R105). `supplies` are the objects, or 0 for a copy, one of
whose breaches met a supply event (R106). -/
structure Job where
  desc : Desc
  stream : Option StreamDesc
  total : Nat
  done : Nat
  moved : Nat
  whole : Bytes
  digest : Bool
  status : Status
  asked : Bool
  again : Bool
  waiting : Nat
  buffer : Bytes
  acks : Nat
  pass : Nat
  hist : List Nat
  lens : Option (List Nat)
  retries : Nat
  objects : List Bytes
  tried : List Nat
  finished : List Nat
  manifest : Bytes
  ending : Option Status
  supplies : List Nat
  deriving DecidableEq, Repr

/-- A job that has just begun. -/
def Job.start (d : Desc) (sd : Option StreamDesc) (total : Nat) : Job :=
  ⟨d, sd, total, 0, 0, [], false, .ok, false, false, 0, [], 0, 1, [], none, 0, [], [], [], [], none, []⟩

/-- The window of a LEDGER_CLOSE (R397). -/
structure Window where
  start : Nat
  tally : Tally
  inDigests : List Bytes
  outDigests : List Bytes
  error : Option Status
  expertSeen : Bool
  suspects : List Nat
  unitSuspect : Bool
  supply : Nat
  deriving DecidableEq, Repr

/-- An empty window that begins at a time. -/
def Window.at (t : Nat) : Window := ⟨t, Tally.zero, [], [], none, false, [], false, 0⟩

/-- A pending TIDE_SWITCH (R284, R285). -/
structure Switch where
  desc : Desc
  bank : Nat
  deadline : Nat
  prepareSeen : Bool
  preparedSent : Bool
  answers : List (Nat × Nat)
  commit : Option Nat
  deriving DecidableEq, Repr

/-- A shard bank: digest of the bound manifest, base, size, the manifest itself, and whether a failed load has partly written it (R282, R299). -/
structure Bank where
  digest : Option Bytes
  base : Nat
  size : Nat
  manifest : Bytes
  broken : Bool
  deriving DecidableEq, Repr

/-- A bank with nothing bound. -/
def Bank.empty : Bank := ⟨none, 0, 0, [], false⟩

/-- What the HIU and CXS hold for a context beside its registers. `heldCpl` are completions held because their ring is full (R399), without the phase, which
their place sets. `rung` are the doorbell writes whose descriptors are still to be fetched: how many descriptors they submit up to, and the number of the
write. `members` are those of the last tide map bound; `prepared` is the bank of a PREPARE
that came before the member's own TIDE_SWITCH; `tearFor` is the dike timeout in ns when its teardown began (R418). `faultOf` is the ring index of the
descriptor whose ending faulted the context, all ones for none (R422). `halted` are INVOCATION_ID and DESC_INDEX of the INVOKE that a fatal error ended, for
the dump (Table 16.11). `freed` says that its teardown has come past its INVOKE and its jobs (Table 16.4). -/
structure CtxSt where
  phase : Bool
  fetches : Nat
  rung : List (Nat × Nat)
  inflight : Nat
  fetched : List Desc
  work : List Desc
  loadq : List Desc
  control : List Desc
  fence : Option Desc
  heldCpl : List Bytes
  inv : Option Invoke
  copy : Option Job
  load : Option Job
  ckpt : Option Job
  window : Window
  bank0 : Bank
  bank1 : Bank
  sw : Option Switch
  members : List Nat
  prepared : Option Nat
  tearAt : Option Nat
  stuck : Bool
  progressAt : Nat
  auditCount : Nat
  hbmKey : Option Nat
  canceling : Option (Desc × Nat)
  lastBody : Bytes
  tearFor : Nat
  faultOf : Nat
  halted : Nat × Nat
  freed : Bool
  deriving DecidableEq, Repr

/-- A context that has done nothing. -/
def CtxSt.fresh : CtxSt :=
  ⟨true, 0, [], 0, [], [], [], [], none, [], none, none, none, none, Window.at 0, .empty, .empty, none, [], none, none, false, 0, 0, none, none, [], 0,
   0xFFFFFFFF, (0, 0), false⟩

/-! ### Gather engines (chapter 12) -/

/-- A gather descriptor loaded into an entry (R322): its place in the list, runs begun, and the times at which the triggers of the runs
that are due were met (R323). -/
structure GEntry where
  desc : Bytes
  tag : Nat
  prio : Nat
  order : Nat
  runs : Nat
  met : List Nat
  deriving DecidableEq, Repr

/-- A row fetch in flight or in the row buffer: bag, place in the bag's list, chip, offsets, weight, and whether it was refetched (R329). -/
structure RowFetch where
  bag : Nat
  chip : Nat
  row : Nat
  tag : Nat
  weight : Nat
  txn : Option Nat
  again : Bool
  deriving DecidableEq, Repr

/-- A row that has arrived and is held for its bag. -/
structure RowHeld where
  bag : Nat
  data : Bytes
  sum : Nat
  weight : Nat
  deriving DecidableEq, Repr

/-- The run an engine works on, or a seal, whose `rowCount` are the rows sealed: `fetches` in flight, `rows` in the buffer by arrival, `bags` under way with their row counts, `todo` fetches not yet issued;
`rowSupply` and `bagSupply` say that a breach of a row or of a bag met a supply event (R106). -/
structure GRun where
  entry : GEntry
  r : Nat
  nextBag : Nat
  todo : List RowFetch
  fetches : List RowFetch
  rows : List RowHeld
  bags : List (Nat × Nat)
  rowCount : Nat
  rowRetries : Nat
  bagRetries : Nat
  bagCount : Nat
  unchecked : Bool
  emptyBag : Bool
  maxRatio : Nat
  stopped : Bool
  rowLasting : Option Status
  bagLasting : Option Status
  rowSupply : Bool
  bagSupply : Bool
  failed : Bool
  deriving DecidableEq, Repr

/-- Run `r` of an entry at its start. -/
def GRun.fresh (y : GEntry) (r : Nat) : GRun :=
  { entry := y, r := r, nextBag := 0, todo := [], fetches := [], rows := [], bags := [], rowCount := 0, rowRetries := 0, bagRetries := 0, bagCount := 0
    unchecked := false, emptyBag := false, maxRatio := 0, stopped := false, rowLasting := none, bagLasting := none, rowSupply := false, bagSupply := false
    failed := false }

/-- A gather engine (R314). -/
structure GeSt where
  entries : List GEntry
  run : Option GRun
  deriving DecidableEq, Repr

/-- An idle engine. -/
def GeSt.idle : GeSt := ⟨[], none⟩

/-! ### HBM stacks, translation, fabric requests -/

/-- A stack's controller (R294 to R302). `state` is HSC_STACK_STATUS.STATE; `dikeFor` is the dike timeout in ns when
its dike began (R418), `resetAt` the end of the dike's drain, from which its recovery counts (R417). `filler` says
that it issues filler reads in its idle cycles (R467). -/
structure StackSt where
  state : Nat
  temp : Nat
  throttle : Bool
  scrubAt : Nat
  sweeps : Nat
  dikeAt : Option Nat
  dikeFor : Nat
  resetAt : Option Nat
  filler : Bool
  deriving DecidableEq, Repr

/-- A stack that is up. -/
def StackSt.up : StackSt := ⟨0, 0, false, 0, 0, none, 0, none, false⟩

/-- A cached leaf translation (R311): full tag, va[47:21], leaf entry. -/
structure Tlb where
  tag : Nat
  vpage : Nat
  leaf : Nat
  deriving DecidableEq, Repr

/-- A cached level 1 or level 2 entry (R311): context index, DPA of the entry, entry. -/
structure NodeEntry where
  ctx : Nat
  dpa : Nat
  entry : Nat
  deriving DecidableEq, Repr

/-- Who issued a fabric request and what its answer goes to. -/
inductive Requester where
  | stream (core strm block : Nat)
  | streamWrite (core strm block : Nat)
  | table (core strm : Nat)
  | gather (engine bag : Nat)
  | copy (ctx block : Nat)
  deriving DecidableEq, Repr

/-- A fabric request waiting for its response (R427): transaction, context tag, requester, when it was sent, offset in the block, the packet, and the status
it has ended with while the event that this makes still waits for room in the collector's buffer (R110). -/
structure Request where
  txn : Nat
  tag : Nat
  who : Requester
  sentAt : Nat
  piece : Nat
  again : Bool
  packet : Packet
  ended : Option Status
  deriving DecidableEq, Repr

/-- A sector under repair from storage (R299 step 3): context, sector, the address it was read by, whether its events belong to the window, and whether
the second source has failed, and whether its first read met a supply event (R106). -/
structure Refetch where
  ctx : Nat
  sector : Nat
  va : Nat
  win : Bool
  failed : Bool
  supply : Bool
  deriving DecidableEq, Repr

/-- An RDMA READ that waits for its data: target, remote key and address, length, whether it has been sent, and then the number of its first packet since the
queue pair connected (R408, R453). -/
structure Asked where
  target : Nat
  rkey : Nat
  addr : Nat
  len : Nat
  sent : Bool
  psn : Nat
  deriving DecidableEq, Repr

/-- A gauge record waiting in the collector's buffer (R110). -/
structure Record where
  ctx : Nat
  bytes : Bytes
  deriving DecidableEq, Repr

/-! ### The fabric: plan and ports (chapters 13 and 14) -/

/-- A port record of a plan (Table 14.3). -/
structure PortRec where
  kind : Nat
  peerPort : Nat
  peerChip : Nat
  peerSerial : Nat
  deriving DecidableEq, Repr

/-- A chip entry of a plan (Table 14.2). -/
structure ChipEntry where
  serial : Nat
  chip : Nat
  x : Nat
  y : Nat
  z : Nat
  routingOnly : Bool
  ports : List PortRec
  deriving DecidableEq, Repr

/-- The plan in force (R370, R371). -/
structure Plan where
  mode : Nat
  seq : Nat
  digest : Bytes
  entries : List ChipEntry
  deriving DecidableEq, Repr

/-- A packet that waits at a port's output: its virtual channel and its order of arrival there (R348). -/
structure QPkt where
  p : Packet
  vc : Nat
  order : Nat
  deriving DecidableEq, Repr

/-- A packet that has started on its virtual channel: the bytes still to go (R348). -/
structure Started where
  vc : Nat
  rest : Bytes
  p : Packet
  order : Nat
  deriving DecidableEq, Repr

/-- A data flit as it is sent and held for replay (Table 13.2, R342), with the packets that have bytes in it and their order of arrival at the port. -/
structure SentFlit where
  seq : Nat
  vc : Nat
  start : Nat
  fill : Nat
  payload : Bytes
  parts : List (Nat × Packet)
  deriving DecidableEq, Repr

/-- A port's link key exchange and keys, with the fragments of the message that comes in and the number of its last one, the message that the peer has not yet
answered, the packets sent and received on each virtual channel since training, the numbers of the first packets under the sending key, and the switch
points of both directions (Table 17.6, R448 to R450). -/
structure LinkKeys where
  step : Nat
  since : Nat
  draw : Nat
  partsIn : Table Bytes
  lastIn : Option Nat
  msg : Bytes
  encaps : Bytes
  ciphertext : Bytes
  peerChain : Bytes
  keyTx : Bytes
  keyRx : Bytes
  saltTx : Bytes
  saltRx : Bytes
  sent : List Nat
  got : List Nat
  switchTx : Option (List Nat)
  nextRx : Option (List Nat)
  lastRx : List Nat
  firstTx : List Nat
  deriving DecidableEq, Repr

/-- No keys. -/
def LinkKeys.none : LinkKeys := ⟨0, 0, 0, [], .none, [], [], [], [], [], [], [], [], List.replicate 8 0, List.replicate 8 0, .none, .none, [], List.replicate 8 0⟩

/-- A fabric port (Table 1.4): its transmit queues, replay state, credits, the progress of its training, its place in the superframes of both directions,
and the flits that its receive buffers hold, each with the bytes of packets still in it. `dikeFor` is the dike timeout in ns when its dike began (R418);
`overdue` says that this has passed without the port coming up, and `late` that the port then trains on (R379). `identTx` and `identRx` are the last IDENT
flits of both directions (R449). -/
structure PortSt where
  queue : List QPkt
  started : List Started
  order : Nat
  credit : List Nat
  owed : List Nat
  seqTx : Nat
  held : List SentFlit
  resend : List SentFlit
  ackAt : Nat
  replays : Nat
  seqRx : Nat
  nak : Bool
  grants : Nat
  locked : Option Nat
  degrade : Bool
  quarantined : Bool
  dikeAt : Option Nat
  trainAt : Option Nat
  ident : Bytes
  seen : Bool
  keys : LinkKeys
  timeReq : Option Nat
  resetBy : Bool
  rxPos : Nat
  rxBad : Bool
  rxHeld : List (Nat × Nat)
  laneErr : List Nat
  txData : Bytes
  laneBits : List (List Bool)
  identAt : Option Nat
  ctlAt : Option Nat
  dikeFor : Nat
  overdue : Bool
  late : Bool
  identTx : Bytes
  identRx : Bytes
  deriving DecidableEq, Repr

/-- Receive buffers of the eight virtual channels, in flits (Table 13.4). -/
def vcBuffers : List Nat := [1024, 1024, 256, 256, 512, 512, 128, 128]

/-- The port's dike refuses what comes: its timeout has not passed (R379). -/
def PortSt.diked (x : PortSt) : Bool := x.dikeAt.isSome && !x.overdue

/-- A port that has done nothing. -/
def PortSt.off : PortSt :=
  ⟨[], [], 0, vcBuffers, List.replicate 8 0, 0, [], [], 0, 0, 0, false, 0, none, false, false, none, none, [], false, .none, none, false,
   0, false, [], List.replicate 32 0, [], [], none, none, 0, false, false, [], []⟩

/-- How an open-drain output is driven: not at all, steadily, or blinking at a rate in Hz (R485, R486). -/
inductive Drive where
  | off
  | steady
  | blink (hz : Nat)
  deriving DecidableEq, Repr

/-! ### Management (chapters 15, 17) -/

/-- A firmware image as the boot chain finds it in its slot: version word, security version, digests of its four components, whether each component matches
its digest, whether the digest of SIGNER is the fused one, and whether SIGNATURE verifies (Table 17.2, steps 2, 4 and 6 of Table 17.3). -/
structure Image where
  version : Nat
  svn : Nat
  digests : List Bytes
  intact : List Bool
  signer : Bool := true
  signature : Bool := true
  deriving DecidableEq, Repr

/-- One copy of the slot selection in the boot record, with its CRC-32C (Table 17.1). -/
structure SlotRecord where
  body : Bytes
  crc : Nat
  deriving DecidableEq, Repr

/-- The record that selects a slot: its number in byte 0 of 32 (log entry 29). -/
def SlotRecord.of (n : Nat) : SlotRecord := ⟨natLe 32 n, crc32c (natLe 32 n)⟩

/-- A copy holds its CRC and names a slot. -/
def SlotRecord.valid (r : SlotRecord) : Bool := r.body.length == 32 && crc32c r.body == r.crc && decide (leNat r.body < 2)

/-- What the boot chain and SEC hold: image slots, the two copies of the boot record, the running slot, the anti-rollback value, warm resets since cold reset,
the draws of the alias key and of the challenge, the armed and the unlocked debug scope, ROM recovery, the lock of the fused seed (R437 to R444, R457, R459). -/
structure Boot where
  slotA : Option Image
  slotB : Option Image
  records : List SlotRecord
  running : Nat
  rollback : Nat
  boots : Nat
  aliasAt : Nat
  bootRollback : Nat
  challengeAt : Nat
  armed : Option Nat
  dbgScope : Option Nat
  rom : Bool
  seedLocked : Bool
  deriving DecidableEq, Repr

/-- A mailbox command under way: its code, the path it came by, what it will answer, an argument its completion acts on, whether its work is done, and
the image an FW_UPDATE has verified (R403, R442). -/
structure Mbx where
  code : Nat
  path : Path
  status : Status
  result : Bytes
  arg : Nat
  ready : Bool
  image : Option Image
  deriving DecidableEq, Repr

/-- An IDE stream of the PCI Express link: its keys by key sub-stream, and whether it is on (R452). -/
structure IdeStream where
  keys : Table Bytes
  on : Bool
  deriving DecidableEq, Repr

/-- An SPDM endpoint: how far its negotiation has come, a key exchange under way, a session open (R446). -/
structure Spdm where
  stage : Nat
  exchange : Bool
  session : Bool
  deriving DecidableEq, Repr

/-! ### Power and service (chapter 18) -/

/-- Whether the module has power (R462 to R464, R478). -/
inductive Power where
  | on
  | off
  | tripped
  deriving DecidableEq, Repr

/-- A supply event: when it opened, and the lowest input in mV (R472). -/
structure Supply where
  since : Nat
  lowest : Nat
  deriving DecidableEq, Repr

/-- A reticle field: its hottest reading, the thermal steps its clock is lowered by, its thermal stage, and a droop in progress (R474, R477). -/
structure FieldSt where
  temp : Nat
  steps : Nat
  stage : Nat
  droop : Bool
  deriving DecidableEq, Repr

/-- A cool field. -/
def FieldSt.cool : FieldSt := ⟨0, 0, 0, false⟩

end Sys2Proof.Machine
end

