-- ==== Sys2Proof/Machine/State.lean ====
section
/-! DEFINITION. The state of the block, its faults and refusals, and the state after reset. -/

namespace Sys2Proof.Machine

/-- What the block puts on its interfaces, in the order it does so (log entry 5). -/
inductive Out where
  /-- A write to host memory by the HIU. -/
  | hostWrite (addr : Nat) (data : Bytes)
  /-- An MSI-X message of a function. -/
  | msix (func vector : Nat)
  /-- The answer of a read of BAR0 by a path (R490, R491). -/
  | registerData (path : Path) (off size v : Nat)
  /-- The answer of a window read: data, or Completer Abort. -/
  | windowData (data : Option Bytes)
  /-- A culvert message handed to the on-chip network or the fabric. -/
  | culvert (m : Culvert)
  /-- A tide, ebb or stream block handed to a core of this chip, as its packet. -/
  | block (core : Nat) (p : Packet)
  /-- A data flit of a port: acknowledgement and NAK, returned credits, the flit (Table 13.2). -/
  | flit (port ack : Nat) (nak : Bool) (credits : List (Nat × Nat)) (f : SentFlit)
  /-- A control flit of a port: SEQ of the next data flit, acknowledgement and NAK, returned credits, content from byte 12, which its kind begins (R341). -/
  | ctrl (port seq ack : Nat) (nak : Bool) (credits : List (Nat × Nat)) (content : Bytes)
  /-- A codeword on a port's lanes: the PAM6 levels of each logical lane, in order (R338, R339). -/
  | line (port : Nat) (lanes : List (List Int))
  /-- A management packet delivered to the management processor: source chip and content. -/
  | mgmt (src : Nat) (body : Bytes)
  /-- An RDMA READ asked of a storage target: remote key, remote address, length. -/
  | rdmaRead (target rkey addr len : Nat)
  /-- An RDMA WRITE to a storage target: the payloads of its packets, one after another, each with its tag under ENCRYPT (R409). -/
  | rdmaWrite (target rkey addr : Nat) (data : Bytes)
  /-- The remote access error that answers an inbound RoCEv2 request. -/
  | rdmaRefuse (eth : Nat) (req : Bytes)
  /-- A queue pair sends its unacknowledged requests again. -/
  | retransmit (target : Nat)
  /-- An SPDM response on an endpoint. -/
  | spdm (ep : SpdmEp) (msg : Bytes)
  /-- A PLDM response on the sideband. -/
  | pldm (msg : Bytes)
  /-- The answer of a mailbox command to the sideband or the diagnostic endpoint. -/
  | answer (path : Path) (status : Nat) (result : Bytes)
  /-- A mailbox request of the sideband or the diagnostic endpoint answered as busy. -/
  | busy (path : Path)
  /-- A fetch of descriptors asked of host memory: context, first index, the host address of each (R388). -/
  | fetch (ctx first : Nat) (addrs : List Nat)
  deriving DecidableEq, Repr

/-- Ways a step could stop as a fault. No command of this model raises one: every stop the manual describes is a state of the block. -/
inductive Fault where
  /-- Raised by no definition; kept so that the type names what a fault would be. Safe. -/
  | none
  deriving DecidableEq, Repr

/-- Commands without a meaning. -/
inductive Refusal where
  /-- Raised by Dispatch for a command not yet modelled, by its mnemonic. Safe: the block does nothing where the hardware acts. -/
  | notModelled (mnemonic : String)
  deriving DecidableEq, Repr

/-- The state of the block. Tables list what differs from the reset value of the unit. -/
structure State where
  /-- Commands that wait, first in first out. -/
  pending : List Instr
  /-- Fabric time in ns (R358). -/
  time : Nat
  /-- Number of the next value the manual leaves open (log entry 6): the model's own. -/
  free : Nat
  /-- Stored words of the set-up registers, by key (R497). -/
  regs : Table Nat
  /-- Lower halves of 8-byte writes that wait for the upper half: path, offset, value (R491). -/
  halves : List (Path × Nat × Nat)
  /-- Upper halves that a 4-byte read has latched: path, offset of the upper half, value (R491). -/
  latch : List (Path × Nat × Nat)
  /-- Bytes of a multi-word register written so far. -/
  staged : List (Nat × Nat × Nat)
  /-- Device memory, by DPA (R286). -/
  hbm : Mem
  /-- Standing symbol errors of device memory, by sector (R298). -/
  hbmErr : Table Upset
  /-- Errors that only the next read of a sector meets (log entry 6). -/
  hbmPassing : Table Upset
  /-- The 192 cores (Table 1.2). -/
  cores : Table CoreSt
  /-- The 1,024 contexts (R13). -/
  ctxs : Table CtxSt
  /-- Doorbell writes that have submitted descriptors (R230, log entry 41): the model's own count. -/
  doorbells : Nat
  /-- The 16 gather engines (R314). -/
  engines : Table GeSt
  /-- The 20 stack controllers (R294). -/
  hscs : Table StackSt
  /-- Leaf translations that each translator holds, oldest first (Table 11.9). -/
  tlb : Table (List Tlb)
  /-- The four slices of the device translation cache, one a field, oldest first (R311). -/
  slices : Table (List Tlb)
  /-- The node caches of the four walkers, one a field, oldest first (R311). -/
  nodes : Table (List NodeEntry)
  /-- A table invalidation under way: of one context, or of all (R309). -/
  inval : Option (Option Nat)
  /-- Draw of the interleave key (R293). -/
  key : Nat
  /-- Sectors being repaired from storage (R299). -/
  refetch : List Refetch
  /-- The weir holds tasks back from COMPUTE (R466). -/
  phaseHold : Bool
  /-- Fabric requests that wait for an answer (R427). -/
  requests : List Request
  /-- Transaction number of the next one (Table 13.5). -/
  nextTxn : Nat
  /-- Requests of other chips that wait for memory under repair or for room in the collector's buffer, with the port each came in by. -/
  parked : List (PortId × Packet)
  /-- The eight fabric ports (R335). -/
  ports : Table PortSt
  /-- The plan in force (R370). -/
  plan : Option Plan
  /-- Gauge records that wait for the host (R110). -/
  collector : List Record
  /-- RoCEv2 packets numbered on each target's queue pair since it connected (R453). -/
  psn : Table Nat
  /-- RDMA READs that wait for their data (R408). -/
  asked : List Asked
  /-- RoCEv2 packets of each target that failed authentication (R409). -/
  ethAuth : Table Nat
  /-- When the units that wait for room in the collector's buffer first froze (R110). -/
  stallAt : Option Nat
  /-- Hash engines in use: core, stream, context (R217). -/
  hashBusy : List (Nat × Nat × Nat)
  /-- Firmware slots, anti-rollback value, debug state (R437 to R443). -/
  boot : Boot
  /-- Dumps written since the device cold reset (R433). -/
  dumps : Nat
  /-- A mailbox command under way (R403). -/
  mbx : Option Mbx
  /-- The device has failed (R430). -/
  failed : Bool
  /-- When a warm reset began (R431). -/
  warmAt : Option Nat
  /-- Host functions that are diked (R420). -/
  funcDikes : Table Bool
  /-- When the host heartbeat watchdog was last restarted (R427). -/
  hbAt : Option Nat
  /-- SR-IOV VF Enable (R386). -/
  vfEnable : Bool
  /-- Size of BAR4 in bytes, 1 GiB to 2 TiB (Table 15.2); the configuration space of PCI Express sets it. -/
  bar4 : Nat
  /-- Power of the module (R462). -/
  power : Power
  /-- An open supply event (R472). -/
  supply : Option Supply
  /-- The draw the weir lets the module take, in mA (R466). -/
  trajectory : Nat
  /-- Draw in mA of the blocks other than the matrix engines and HBM at the last sample (R468). -/
  otherMa : Nat
  /-- The bleeder discharges the input capacitance (R463). -/
  bleeder : Bool
  /-- The four reticle fields (R474). -/
  fields : Table FieldSt
  /-- When a service hold was asked for (R481). -/
  holdAt : Nat
  /-- When the random number generator failed its health test (R445). -/
  healthAt : Option Nat
  /-- When the first of the draws that wait for the generator was held (R445). -/
  heldDraw : Option Nat
  /-- Fabric time has lost its lock (R361). -/
  unlocked : Bool
  /-- Correction of fabric time still to be slewed, in ns (R360). -/
  slew : Int
  /-- Ticks that fabric time still stands still for, while it is slewed back. -/
  holdNs : Nat
  /-- A step of fabric time that RESYNC still has to take (R363). -/
  stepDue : Bool
  /-- Ticks of the reference: the model's own count. -/
  ticks : Nat
  /-- A diagnostic session is open (R414). -/
  diag : Bool
  /-- SPDM endpoints (R446). -/
  spdm : Table Spdm
  /-- IDE streams that IDE_KM has given keys, by stream number: 0 the link stream, 1 to 8 the selective ones (R452, log entry 32). -/
  ide : Table IdeStream
  /-- The event ring, oldest first (R434). -/
  events : List Bytes
  /-- What the block has put on its interfaces, in order (log entry 5). -/
  out : List Out
  deriving DecidableEq, Repr

/-- The block right after reset (log entries 1, 10, 12). -/
def State.reset : State where
  pending := []
  time := 0
  free := 6
  regs := []
  halves := []
  latch := []
  staged := []
  hbm := []
  hbmErr := []
  hbmPassing := []
  cores := []
  ctxs := []
  doorbells := 0
  engines := []
  hscs := []
  tlb := []
  slices := []
  nodes := []
  inval := none
  key := 0
  refetch := []
  phaseHold := false
  requests := []
  nextTxn := 0
  parked := []
  ports := []
  plan := none
  collector := []
  psn := []
  asked := []
  ethAuth := []
  stallAt := none
  hashBusy := []
  boot := ⟨some ⟨Config.imageVersion, Config.imageSvn, (List.range 4).map Config.imageDigest, [true, true, true, true], true, true⟩, none, [.of 0, .of 0], 0, 0, 0, 4, 0, 0, none, none, false, true⟩
  dumps := 0
  mbx := none
  failed := false
  warmAt := none
  funcDikes := []
  hbAt := none
  vfEnable := false
  bar4 := 2 ^ 34
  power := .on
  supply := none
  trajectory := 0
  otherMa := 0
  bleeder := false
  fields := []
  holdAt := 0
  healthAt := none
  heldDraw := none
  unlocked := false
  slew := 0
  holdNs := 0
  stepDue := false
  ticks := 0
  diag := false
  spdm := []
  ide := []
  events := []
  out := []

end Sys2Proof.Machine
end

