-- ==== Sys2Proof/Machine/Ops.lean ====
section
/-! DEFINITION. The named operations over the state: registers, units, outputs, free values, events, completions, gauge records, context faults. -/

namespace Sys2Proof.Machine

/-! ### Registers -/

/-- The stored word of entry `i` of a register. -/
def State.reg (s : State) (r : Reg) (i : Nat) : Nat :=
  match s.regs.find (r.key i) with
  | some v => v
  | none => r.resetValue

/-- The state with entry `i` of a register holding a word. -/
def State.setReg (s : State) (r : Reg) (i v : Nat) : State := { s with regs := s.regs.put (r.key i) v }

/-- A field of entry `i` of its register. -/
def State.getF (s : State) (f : Fld) (i : Nat := 0) : Nat := bits (s.reg f.reg i) f.hi f.lo

/-- A one-bit field. -/
def State.flag (s : State) (f : Fld) (i : Nat := 0) : Bool := s.getF f i == 1

/-- The state with a field set. -/
def State.setF (s : State) (f : Fld) (v : Nat) (i : Nat := 0) : State :=
  s.setReg f.reg i (setBits (s.reg f.reg i) f.hi f.lo v)

/-- A count field plus `n`, saturating or wrapping as the field's own table says. -/
def State.bump (s : State) (f : Fld) (i : Nat := 0) (n : Nat := 1) : State :=
  let v := s.getF f i + n
  let top := 2 ^ (f.hi + 1 - f.lo) - 1
  s.setF f (if f.sat then min v top else v) i

/-! ### Units -/

/-- Core `c`. -/
def State.core (s : State) (c : Nat) : CoreSt := s.cores.get .idle c
/-- The state with core `c` replaced. -/
def State.setCore (s : State) (c : Nat) (x : CoreSt) : State := { s with cores := s.cores.put c x }
/-- Context `i`. -/
def State.ctx (s : State) (i : Nat) : CtxSt := s.ctxs.get .fresh i
/-- The state with context `i` replaced. -/
def State.setCtx (s : State) (i : Nat) (x : CtxSt) : State := { s with ctxs := s.ctxs.put i x }
/-- Gather engine `e`. -/
def State.engine (s : State) (e : Nat) : GeSt := s.engines.get .idle e
/-- The state with an engine replaced. -/
def State.setEngine (s : State) (e : Nat) (x : GeSt) : State := { s with engines := s.engines.put e x }
/-- Stack controller `k`. -/
def State.hsc (s : State) (k : Nat) : StackSt := s.hscs.get .up k
/-- The state with a stack controller replaced. -/
def State.setHsc (s : State) (k : Nat) (x : StackSt) : State := { s with hscs := s.hscs.put k x }
/-- The state with something put on an interface. -/
def State.emit (s : State) (o : Out) : State := { s with out := s.out ++ [o] }
/-- A value the manual leaves open (log entry 6): opaque, a fresh one each time. -/
def State.draw (s : State) : BitVec 64 × State := (Config.freeValue s.free, { s with free := s.free + 1 })
/-- A draw is asked for while a health test has failed: SEC holds it, and the first one held starts the 10 ms (R445). -/
def State.holdDraw (s : State) : State := { s with heldDraw := some (s.heldDraw.getD s.time) }

/-- A handle's entry on a core. -/
def CoreSt.polder (c : CoreSt) (h : Nat) : Polder := c.ht.get .empty h
/-- The core with a handle's entry replaced. -/
def CoreSt.setPolder (c : CoreSt) (h : Nat) (p : Polder) : CoreSt := { c with ht := c.ht.put h p }
/-- A task slot. -/
def CoreSt.slot (c : CoreSt) (i : Nat) : Slot := c.slots.get .empty i
/-- The core with a task slot replaced. -/
def CoreSt.setSlot (c : CoreSt) (i : Nat) (x : Slot) : CoreSt := { c with slots := c.slots.put i x }
/-- A barrier counter. -/
def CoreSt.bar (c : CoreSt) (i : Nat) : Bar := c.bars.get .free i
/-- The core with a counter replaced. -/
def CoreSt.setBar (c : CoreSt) (i : Nat) (x : Bar) : CoreSt := { c with bars := c.bars.put i x }
/-- A stream. -/
def CoreSt.strm (c : CoreSt) (i : Nat) : Strm := c.strms.get .free i
/-- The core with a stream replaced. -/
def CoreSt.setStrm (c : CoreSt) (i : Nat) (x : Strm) : CoreSt := { c with strms := c.strms.put i x }
/-- A sender credit entry. -/
def CoreSt.cred (c : CoreSt) (i : Nat) : Credit := c.creds.get .idle i
/-- The core with a credit entry replaced. -/
def CoreSt.setCred (c : CoreSt) (i : Nat) (x : Credit) : CoreSt := { c with creds := c.creds.put i x }

/-! ### Identity and gates -/

/-- GLB_EXPERT (R8). -/
def State.expert (s : State) : Bool := s.flag F.glbExpertExpert
/-- The context's current tag (R13, HIU_CTX_CTL.GEN). -/
def State.tag (s : State) (i : Nat) : Nat := tagOf i (s.getF F.hiuCtxCtlGen i)
/-- CXS_CTX_STATE.STATE: 0 disabled, 1 enabled, 2 faulted, 3 tearing down. -/
def State.ctxState (s : State) (i : Nat) : Nat := s.getF F.cxsCtxStateState i
/-- This chip's number as records carry it: zero without a plan (R304). -/
def State.chip (s : State) : Nat := if s.flag F.topoPlanStatusLoaded then s.getF F.topoPlanStatusChip else 0
/-- The number that names this chip in an address or a message: its own, or 16,383 without a plan (R304). -/
def State.self (s : State) : Nat := if s.flag F.topoPlanStatusLoaded then s.getF F.topoPlanStatusChip else 16383
/-- Whether a chip number names this chip (R304). -/
def State.isHere (s : State) (n : Nat) : Bool :=
  n == 16383 || (s.flag F.topoPlanStatusLoaded && n == s.getF F.topoPlanStatusChip)
/-- Whether fabric time is locked (R361). -/
def State.locked (s : State) : Bool := !s.unlocked

/-- A device warm reset runs (R431). -/
def State.warming (s : State) : Bool := s.warmAt.isSome

/-- The device takes no work: it runs a warm reset, or has failed (R430, R431), or has no power (R464). -/
def State.stopped (s : State) : Bool := s.warming || s.failed || s.boot.rom || s.power != .on

/-- BAR0 acts on no write: a warm reset runs, the device is in ROM recovery, or it has no power (R431, R441, R464). -/
def State.deaf (s : State) : Bool := s.warming || s.boot.rom || s.power != .on

/-- No further descriptor of a work or load queue may start: the device takes no work, or a service hold is in force (R481). -/
def State.noStart (s : State) : Bool := s.stopped || s.getF F.svcStatusHold != 0

/-- The held stage of a service hold: every context is diked (R481). -/
def State.held (s : State) : Bool := s.getF F.svcStatusHold == 2

/-- A moment plus a span in ns has been reached (R427: every timer counts fabric time). -/
def State.passed (s : State) (since : Option Nat) (ns : Nat) : Bool :=
  match since with
  | some t => decide (t + ns ≤ s.time)
  | none => false

/-- The dike timeout in ns. -/
def State.dikeNs (s : State) : Nat := s.getF F.tmoDikeDikeMs * 1000000

/-! ### The event ring (R434) -/

/-- Kinds of SOURCE (Table 4.7, R434): kind in [15:12], unit in [11:0]. -/
def sourceOf (kind unit : Nat) : Nat := kind * 4096 + unit % 4096

/-- One 32-byte event. -/
def eventBytes (time code source tag status severity : Nat) (arg : Bytes) : Bytes :=
  natLe 8 time ++ natLe 2 code ++ natLe 2 source ++ natLe 2 tag ++ natLe 1 status ++ natLe 1 severity ++ slice arg 0 16

/-- Record an event, keeping the last 65,536. -/
def State.log (s : State) (code source tag : Nat) (st : Status) (severity : Nat) (arg : Bytes := []) : State :=
  let l := s.events ++ [eventBytes s.time code source tag st.code severity arg]
  { s with events := l.drop (l.length - 65536) }

/-! ### Completions (R398 to R401) -/

/-- Opcode of a descriptor. -/
def Desc.opcode (d : Desc) : Nat := field d.bytes 0 1
/-- CTX_TAG of a descriptor. -/
def Desc.ctxTag (d : Desc) : Nat := field d.bytes 2 2
/-- DESC_ID of a descriptor. -/
def Desc.id (d : Desc) : Nat := field d.bytes 4 4

/-- Entries between a head and a tail in a ring of 2^l (R399). -/
def ringUsed (l head tail : Nat) : Nat := (tail + 2 ^ l - head) % 2 ^ l

/-- Entry of Table 15.12 without its PHASE. -/
def completionBytes (d : Desc) (st : Status) (ledger : Bool) (info time : Nat) : Bytes :=
  natLe 4 d.id ++ natLe 1 st.code ++ natLe 1 d.opcode ++ natLe 1 (2 * b2n ledger) ++ natLe 1 0 ++
  natLe 2 d.ctxTag ++ natLe 2 d.index ++ natLe 2 d.head ++ natLe 2 0 ++ natLe 8 info ++ natLe 8 time

/-- Write one entry at the completion tail, then raise the vector unless masked (R398, R401); a vector that the function lacks raises none (Table 15.1). -/
def State.writeCompletion (s : State) (i : Nat) (bs : Bytes) : State :=
  let l := s.getF F.hiuCtxCtlCqLog2 i
  let tail := s.getF F.hiuCtxStateCqTail i
  let c := s.ctx i
  let bs := bs.modify 6 (fun b => b ||| BitVec.ofNat 8 (b2n c.phase))
  let s := s.emit (.hostWrite (s.getF F.hiuCqBaseCqBase i + 32 * tail) bs)
  let next := (tail + 1) % 2 ^ l
  let s := s.setF F.hiuCtxStateCqTail next i
  let s := if next = 0 then s.setCtx i { s.ctx i with phase := !c.phase } else s
  if s.flag F.hiuCtxCtlMask i || decide (Config.msixVectors (s.getF F.hiuCtxCtlFunc i) ≤ s.getF F.hiuCtxCtlVector i) then s
  else s.emit (.msix (s.getF F.hiuCtxCtlFunc i) (s.getF F.hiuCtxCtlVector i))

/-- The completion ring has no room (R399). -/
def State.cqFull (s : State) (i : Nat) : Bool :=
  let l := s.getF F.hiuCtxCtlCqLog2 i
  ringUsed l (s.getF F.hiuCtxStateCqHead i) (s.getF F.hiuCtxStateCqTail i) == 2 ^ l - 1

/-- Write a completion entry, or hold it behind those already held (R399). -/
def State.putCompletion (s : State) (i : Nat) (bs : Bytes) : State :=
  let c := s.ctx i
  if s.cqFull i || !c.heldCpl.isEmpty then s.setCtx i { c with heldCpl := c.heldCpl ++ [bs] }
  else s.writeCompletion i bs

/-- A descriptor that a LEDGER_CLOSE covers has ended: STATUS of the window is the first error status (R397). -/
def State.covered (s : State) (i : Nat) (d : Desc) (st : Status) : State :=
  let c := s.ctx i
  if st.good || !([2, 3, 4, 6].contains d.opcode) then s
  else s.setCtx i { c with window := { c.window with error := c.window.error.or (some st) } }

/-- Complete a descriptor. -/
def State.complete (s : State) (i : Nat) (d : Desc) (st : Status) (ledger : Bool := false) (info : Nat := 0) : State :=
  (s.putCompletion i (completionBytes d st ledger info s.time)).covered i d st

/-- Write held completions while there is room, with fuel (R399). -/
def State.drainHeld (s : State) (i : Nat) : Nat → State
  | 0 => s
  | k + 1 =>
    let c := s.ctx i
    match c.heldCpl with
    | [] => s
    | h :: hs =>
      if s.cqFull i then s
      else ((s.setCtx i { c with heldCpl := hs }).writeCompletion i h).drainHeld i k

/-! ### Gauge events, retries and suspects (R83, R102, R103, R107 to R110) -/

/-- One check event (Table 4.7). `supply` says that a breach of it met a supply event (R106). -/
structure Gauge where
  type : Nat
  source : Nat
  opIndex : Nat
  count : Nat
  retries : Nat
  lasting : Option Status
  unchecked : Bool
  saturated : Bool
  emptyBag : Bool
  maxRatio : Nat
  supply : Bool
  deriving DecidableEq, Repr

/-- An event that passed with nothing to report. -/
def Gauge.plain (type source opIndex count : Nat) : Gauge := ⟨type, source, opIndex, count, 0, none, false, false, false, 0, false⟩

/-- FLAGS of a gauge record (Table 4.7). -/
def Gauge.flags (g : Gauge) (supply sampled window : Bool) : Nat :=
  b2n (g.retries > 0 && g.lasting.isNone) + 2 * b2n g.lasting.isSome + 4 * b2n g.unchecked + 8 * b2n g.saturated +
  16 * b2n (supply || g.supply) + 32 * b2n sampled + 64 * b2n g.emptyBag + 128 * b2n window

/-- Status byte of an event. -/
def Gauge.status (g : Gauge) : Status := g.lasting.getD (if g.retries > 0 then .okRetried else .ok)

/-- The 32-byte gauge record (Table 4.7). -/
def gaugeBytes (tag seq invocation time : Nat) (flags : Nat) (g : Gauge) : Bytes :=
  natLe 2 tag ++ natLe 1 g.type ++ natLe 1 flags ++ natLe 4 seq ++ natLe 4 invocation ++ natLe 2 g.maxRatio ++
  natLe 1 (min g.retries 255) ++ natLe 1 g.status.code ++ natLe 2 g.source ++ natLe 2 g.opIndex ++ natLe 4 g.count ++ natLe 8 time

/-- Largest ratio in FP16: codes of non-negative numbers are ordered as numbers; 0x3800 is 0.5. -/
def halfFp16 : Nat := 0x3800

/-- Whether the event is recorded (Table 4.8): audit word [0] AUDIT, [1] AUDIT_SAMPLE, [7:4] AUDIT_SHIFT. -/
def recorded (audit number flags ratio : Nat) : Bool :=
  bit audit 0 && (!(bit audit 1) || number % 2 ^ (bits audit 7 4) == 0 || flags % 8 != 0 || ratio > halfFp16)

/-- A summary with one event added: its number, its ratio, whether it was recorded (R107, R108). -/
def Tally.event (t : Tally) (g : Gauge) (wr : Bool) : Tally :=
  let t := { t with events := t.events + 1, records := t.records + b2n wr }
  if g.maxRatio > t.maxRatio then { t with maxRatio := g.maxRatio, maxType := g.type } else t

/-- AUDIT, AUDIT_SAMPLE and AUDIT_SHIFT of CKU_CTX_CFG laid as the ledger's AUDIT byte (Table 4.9). -/
def State.auditWord (s : State) (i : Nat) : Nat :=
  s.getF F.ckuCtxCfgAudit i + 2 * s.getF F.ckuCtxCfgAuditSample i + 16 * s.getF F.ckuCtxCfgAuditShift i

/-- A supply event is open: records made during it carry SUPPLY (R473), as do those of breaches that met one (R106). -/
def State.inSupply (s : State) : Bool := s.supply.isSome

/-- The collector's buffer is full for a context with AUDIT set: its units freeze at their next event (R110). -/
def State.auditFull (s : State) (i : Nat) (window : Bool := false) : Bool :=
  let audit := if window then s.auditWord i else ((s.ctx i).inv.map (·.audit)).getD 0
  bit audit 0 && decide (2048 ≤ s.collector.length)

/-- Freeze at a full collector: the stall begins, and nothing else happens (R110). Its cycles are counted when space frees. -/
def State.frozen (s : State) : State := { s with stallAt := some (s.stallAt.getD s.time) }

/-- Cycles of the on-chip network in which units have been frozen since the stall began: two a nanosecond (Table 1.3). -/
def State.stallCycles (s : State) : Nat := match s.stallAt with
  | some t => 2 * (s.time - t)
  | none => 0

/-- Space has freed in the collector's buffer: the stall ends and its cycles are counted (CKU_AUDIT_STALL, R110). -/
def State.thaw (s : State) : State :=
  if s.stallAt.isSome ∧ s.collector.length < 2048 then { s.bump F.ckuAuditStallCount 0 s.stallCycles with stallAt := none } else s

/-- Events counted so far for a context: of its INVOKE, or of its window. -/
def State.eventCount (s : State) (i : Nat) (window : Bool := false) : Nat :=
  if window then (s.ctx i).window.tally.events else ((s.ctx i).inv.map (fun v => v.tally.events)).getD 0

/-- A unit's step would make an event of a context with AUDIT set that the buffer has no room for (R110). -/
def State.overfills (s : State) (i : Nat) (t : State) (window : Bool := false) : Bool :=
  let audit := if window then s.auditWord i else ((s.ctx i).inv.map (·.audit)).getD 0
  bit audit 0 && decide (s.eventCount i window < t.eventCount i window) && (decide (2048 ≤ s.collector.length) || decide (2048 < t.collector.length))

/-- The state after a unit's step, unless the step would make an event the buffer has no room for: then the unit freezes before it (R110). -/
def State.unlessFull (s : State) (i : Nat) (t : State) (window : Bool := false) : State :=
  if s.overfills i t window then s.frozen else t

/-- Number an event, add it to the summary of the INVOKE or of the window, and hand its record to the collector (R107 to R110). -/
def State.gauge (s : State) (i : Nat) (g : Gauge) (window : Bool := false) : State :=
  let c := s.ctx i
  if window then
    let audit := s.auditWord i
    let n := c.window.tally.events
    let fl := g.flags s.inSupply (bit audit 1) true
    let wr := recorded audit n fl g.maxRatio
    let s := if wr then { s with collector := s.collector ++ [⟨i, gaugeBytes (s.tag i) n 0 s.time fl g⟩] } else s
    s.setCtx i { c with window := { c.window with tally := c.window.tally.event g wr } }
  else
    match c.inv with
    | none => s
    | some v =>
      let n := v.tally.events
      let fl := g.flags s.inSupply (bit v.audit 1) false
      let wr := recorded v.audit n fl g.maxRatio
      let s := if wr then { s with collector := s.collector ++ [⟨i, gaugeBytes v.desc.ctxTag n (v.id % 2 ^ 32) s.time fl g⟩] } else s
      s.setCtx i { c with inv := some { v with tally := v.tally.event g wr } }

/-- Change the summary of the INVOKE of a context, or of its window. -/
def State.tally (s : State) (i : Nat) (f : Tally → Tally) (window : Bool := false) : State :=
  let c := s.ctx i
  if window then s.setCtx i { c with window := { c.window with tally := f c.window.tally } }
  else match c.inv with
    | none => s
    | some v => s.setCtx i { c with inv := some { v with tally := f v.tally } }

/-- A first breach and its retry that passed: a transient unit (R102). -/
def State.transient (s : State) (i type source : Nat) (window : Bool := false) : State :=
  let s := s.tally i (fun t => { t with retries := t.retries + 1, breaches := t.breaches + 1 }) window
  (s.bump F.ckuTransientCount).log 0x0031 source (s.tag i) .okRetried 1 (natLe 1 type)

/-- A breach repeated on the retry: a lasting unit (R102, R103). -/
def State.lastingUnit (s : State) (i : Nat) (window : Bool := false) : State :=
  let s := s.tally i (fun t => { t with retries := t.retries + 1, breaches := t.breaches + 2, lasting := t.lasting + 1 }) window
  s.bump F.ckuLastingCount

/-- A block is lasting: it counts among the blocks checked (Table 4.9). -/
def State.lastingBlock (s : State) (i : Nat) (window : Bool := false) : State :=
  (s.lastingUnit i window).tally i (fun t => { t with blocks := t.blocks + 1 }) window

/-- A unit marked suspect shows in the window of every enabled context, and a core among the suspect cores of the window (R397). -/
def State.markWindows (s : State) (core : Option Nat) : State :=
  ((List.range 1024).filter (fun i => s.flag F.hiuCtxCtlEnable i)).foldl (fun s i =>
    let c := s.ctx i
    s.setCtx i { c with window := { c.window with unitSuspect := true, suspects := (c.window.suspects ++ core.toList).eraseDups } }) s

/-- Mark a core suspect (R103, CKU_SUSPECT): in the register, in the INVOKE's ledger, in the event ring. -/
def State.suspectCore (s : State) (i core type : Nat) : State :=
  let j := core / 32
  let s := s.setF F.ckuSuspectCores (s.getF F.ckuSuspectCores j ||| 2 ^ (core % 32)) j
  let c := s.ctx i
  let s := match c.inv with
    | none => s
    | some v => s.setCtx i { c with inv := some { v with suspects := if v.suspects.contains core then v.suspects else v.suspects ++ [core], unitSuspect := true } }
  (s.log 0x0030 (sourceOf 0 core) (s.tag i) .breachLasting 2 (natLe 1 type)).markWindows (some core)

/-- Whether a core is marked suspect. -/
def State.isSuspect (s : State) (core : Nat) : Bool := bit (s.getF F.ckuSuspectCores (core / 32)) (core % 32)

/-! ### Packets and their routes (R350 to R357, R377 to R379) -/

/-- Fabric port `n`. -/
def State.port (s : State) (n : Nat) : PortSt := s.ports.get .off n
/-- The state with a port replaced. -/
def State.setPort (s : State) (n : Nat) (x : PortSt) : State := { s with ports := s.ports.put n x }
/-- LNK_STATUS.STATE: 0 off, 1 down, 2 training, 3 up, 4 quarantined, 5 diked. -/
def State.portState (s : State) (n : Nat) : Nat := s.getF F.lnkStatusState n

/-- Torus coordinates of a chip number on an axis 0 to 2 (R367). -/
def coordOf (chip axis : Nat) : Nat :=
  if axis = 0 then chip % 4 else if axis = 1 then chip / 4 % 4 else chip / 16 % 4
/-- Rack of a chip number. -/
def rackOf (chip : Nat) : Nat := chip / 64

/-- Origin and extent minus 1 of a context's block on an axis (R377). -/
def State.blockAxis (s : State) (i axis : Nat) : Nat × Nat :=
  if axis = 0 then (s.getF F.topoCtxBlockOx i, s.getF F.topoCtxBlockEx i)
  else if axis = 1 then (s.getF F.topoCtxBlockOy i, s.getF F.topoCtxBlockEy i)
  else (s.getF F.topoCtxBlockOz i, s.getF F.topoCtxBlockEz i)

/-- A chip of this rack lies in a context's block (R377). -/
def State.inBlock (s : State) (i chip : Nat) : Bool :=
  (List.range 3).all (fun a => let (o, e) := s.blockAxis i a; decide ((coordOf chip a + 4 - o) % 4 ≤ e))

/-- Direction bit on an axis, 0 plus and 1 minus (R354): the shorter way on a spanned axis or without a block, else the way inside the block. -/
def axisDir (blockOf : Option (Nat × Nat)) (a b : Nat) : Nat :=
  let short := if (b + 4 - a) % 4 ≤ 2 then 0 else 1
  match blockOf with
  | none => short
  | some (o, e) => if e = 3 then short else if (a + 4 - o) % 4 ≤ (b + 4 - o) % 4 then 0 else 1

/-- ROUTE [2:0] from one chip to another of the rack, in the block of a context or by the shorter way (R354). -/
def State.routeBits (s : State) (ctx : Option Nat) (src dst : Nat) : Nat :=
  let d := fun a => axisDir (ctx.map (fun i => s.blockAxis i a)) (coordOf src a) (coordOf dst a)
  d 0 + 2 * d 1 + 4 * d 2

/-- Torus port of the next hop by dimension order (R354); none at the destination. -/
def nextHop (route here dst : Nat) : Option Nat :=
  ((List.range 3).find? (fun a => coordOf here a != coordOf dst a)).map (fun a => 2 * a + b2n (bit route a))

/-- Traffic class of a packet type (Table 13.4). -/
def packetClass (type : Nat) : Nat :=
  if type = 7 then 0 else if type = 1 ∨ type = 2 ∨ type = 5 then 1 else if type = 3 ∨ type = 4 ∨ type = 6 then 2 else 3
/-- READ, WRITE and GATHER are requests. -/
def isRequest (type : Nat) : Bool := packetClass type == 1

/-- Dateline bit on the way out of a port (R355): set on crossing, kept along an axis from the port it came in by. -/
def datelineBit (here out : Nat) (came : Option (Nat × Bool)) : Bool :=
  if 6 ≤ out then false
  else
    let crossing := if out % 2 = 0 then coordOf here (out / 2) == 3 else coordOf here (out / 2) == 0
    let kept := match came with
      | some (inPort, b) => b && inPort / 2 == out / 2 && decide (inPort < 6)
      | none => false
    crossing || kept

/-- Put a packet in a port's queue. -/
def State.enqueue (s : State) (n : Nat) (p : Packet) (dateline : Bool) : State :=
  let x := s.port n
  s.setPort n { x with queue := x.queue ++ [⟨p, 2 * packetClass p.type + b2n dateline, x.order⟩], order := x.order + 1 }

/-- Hand a packet to an output port: the status a request is answered with when the port does not take it (R345, R346, R376, R379). Packets wait through
a lane-degrade retrain; through any other training a port is diked until its dike's timeout, and down after it. -/
def State.egress (s : State) (n : Nat) (p : Packet) (came : Option (Nat × Bool)) : Option Status × State :=
  let st := s.portState n
  let x := s.port n
  if st = 3 ∨ (st = 2 ∧ x.degrade ∧ (!x.quarantined ∨ p.type = 9)) ∨ (st = 4 ∧ p.type = 9) then (none, s.enqueue n p (datelineBit s.chip n came))
  else if (st = 5 ∨ (st = 2 ∧ x.diked)) ∧ !x.quarantined then (some .fenced, if isRequest p.type then s else s.bump F.lnkDropDiked n)
  else (some .partitioned, s.bump F.topoUnreachCount)

/-- The switch port for another rack's packet: by the destination's low bits; the other one while it is down, from the end of its dike timeout (R356). -/
def State.switchPort (s : State) (p : Packet) : Nat :=
  let n := if bit (p.dstChip ^^^ p.dstUnit) 0 then 7 else 6
  let x := s.port n
  if s.portState n = 1 ∨ (s.portState n = 2 ∧ !x.degrade ∧ !x.diked ∧ !x.quarantined) then 13 - n else n

/-- Send a packet from this chip to another: ROUTE set by the source, the block respected (R354, R356, R378, R379).
The answer is the status that stops it, if any. -/
def State.launch (s : State) (p : Packet) : Option Status × State :=
  if !s.flag F.topoPlanStatusLoaded then (some .partitioned, s.bump F.topoUnreachCount) else
  let here := s.chip
  let p := { p with srcChip := here }
  if rackOf p.dstChip ≠ rackOf here then
    let n := s.switchPort p
    s.egress n { p with route := p.route % 128 / 16 * 16 + 8 * (n - 6) } none
  else
    let i := tagIndex p.ctxTag
    if p.type ≠ 9 ∧ !s.inBlock i p.dstChip then (some .accessViolation, s.bump F.topoEdgeDropBlocked) else
    let r := s.routeBits (if p.type = 9 then none else some i) here p.dstChip
    match nextHop r here p.dstChip with
    | none => (none, s)
    | some n => s.egress n { p with route := p.route % 128 / 16 * 16 + r } none

/-- A packet of this chip with zero in every field not given. -/
def packetOf (type dstChip dstUnit tag srcUnit : Nat) (body : Bytes) : Packet :=
  { dstChip := dstChip, srcChip := 0, type := type, route := 0, ctxTag := tag, deadline := 0, length := ceilDiv body.length 16,
    status := 0, dstUnit := dstUnit, offset := 0, size := 0, txn := 0, srcUnit := srcUnit, check := 0, zeroOk := true, tagOk := true,
    vcBit := false, unit := none, body := slice body 0 (16 * ceilDiv body.length 16) }

/-- The 64 bytes of a culvert message (Table 8.5). -/
def culvertBytes (m : Culvert) : Bytes :=
  natLe 2 m.dstChip ++ natLe 1 m.dstCore ++ natLe 1 m.type ++ natLe 2 m.ctxTag ++ natLe 2 m.srcChip ++ natLe 1 m.srcCore ++ natLe 1 m.gen ++
  natLe 2 m.len ++ natLe 4 m.arg ++ slice m.payload 0 48

/-! ### Culvert messages -/

/-- A culvert message from a core or device block of this chip (Table 8.5). -/
def State.message (s : State) (dstChip dstCore type tag srcCore gen arg : Nat) (payload : Bytes := []) : Culvert :=
  { dstChip := dstChip, dstCore := dstCore, type := type, ctxTag := tag, srcChip := s.self, srcCore := srcCore, gen := gen,
    len := payload.length, arg := arg, payload := payload, came := none, route := 0, deadline := 0 }

/-- Send a culvert message: by the on-chip network within this chip, by a CULVERT packet to another (R221, R351). -/
def State.send (s : State) (dstChip dstCore type tag srcCore gen arg : Nat) (payload : Bytes := []) : State :=
  let m := s.message dstChip dstCore type tag srcCore gen arg payload
  if s.isHere dstChip then s.emit (.culvert m)
  else (s.launch (packetOf 8 dstChip dstCore tag srcCore (culvertBytes m))).2

/-- A culvert message to a chip of this rack outside the context's block is never sent (R378). -/
def State.outside (s : State) (tag dstChip : Nat) : Bool :=
  !s.isHere dstChip && s.flag F.topoPlanStatusLoaded && rackOf dstChip == rackOf s.chip && !s.inBlock (tagIndex tag) dstChip

/-- Send a tide control message to every other member of the INVOKE's rings (Table 10.8). -/
def State.sendMembers (s : State) (tag : Nat) (members : List Nat) (type arg : Nat) (payload : Bytes := []) : State :=
  members.foldl (fun s m => if s.isHere m then s else s.send m 0xFF type tag 0xFF 0 arg payload) s

/-! ### Blocks on their way (R96) -/

/-- The first fetch of a block of 2 KiB whose CRC does not hold is refetched once: the bytes that land, whether it was fetched again, and whether the second
fetch failed too. -/
def refetchBlock (bs first second : Bytes) : Bytes × Bool × Bool :=
  if crc32c first = crc32c bs then (first, false, false)
  else if crc32c second = crc32c bs then (second, true, false)
  else ([], true, true)

/-- Bytes moved block by block of 2 KiB: what lands, the blocks fetched again, and whether one was damaged twice, which ends the move. -/
def moveBlocks (bs : Bytes) (h : Hit) : Bytes × Nat × Bool :=
  ((chunks 2048 bs).zip ((chunks 2048 (upsetBytes bs h.first)).zip (chunks 2048 (upsetBytes bs h.second)))).foldl
    (fun (acc : Bytes × Nat × Bool) b =>
      if acc.2.2 then acc else
      let (x, again, lost) := refetchBlock b.1 b.2.1 b.2.2
      (acc.1 ++ x, acc.2.1 + b2n again, lost)) ([], 0, false)

/-- Count the blocks of one event: `passed` of them have landed, `again` were fetched a second time, and with `lost` the last of these failed twice
(R96, R102, R107). `counted` are retries whose units have been counted already; `supply` says that a breach met a supply event (R106). -/
def State.movedBlocks (s : State) (i type source op passed again : Nat) (lost window : Bool) (counted : Nat := 0) (supply : Bool := false) : State :=
  let s := (List.range (again - b2n lost)).foldl (fun (s : State) _ => s.transient i type source window) s
  let s := s.tally i (fun t => { t with blocks := t.blocks + passed }) window
  let s := if lost then s.lastingBlock i window else s
  s.gauge i { Gauge.plain type source op (passed + b2n lost) with
    retries := again + counted, lasting := if lost then some .damagedBlock else none, supply := supply } window

/-! ### Ending descriptors and faulting contexts (R396, R422) -/

/-- The status that stands when a second one arises: the first, but a lasting one replaces CANCELLED and FENCED (R105, R422). -/
def standing (old : Option Status) (new : Status) : Status :=
  match old with
  | none => new
  | some o => if new.isLasting && (o == .cancelled || o == .fenced) then new else o

/-- The running INVOKE of a context is to end with a status; the first stands, but for R105. -/
def State.endInvoke (s : State) (i : Nat) (st : Status) : State :=
  let c := s.ctx i
  match c.inv with
  | none => s
  | some v => s.setCtx i { c with inv := some { v with ending := some (standing v.ending st), endAt := v.endAt.or (some s.time) } }

/-- Complete a list of descriptors with one status. -/
def State.completeAll (s : State) (i : Nat) (st : Status) (ds : List Desc) : State := ds.foldl (fun s d => s.complete i d st) s

/-- The source of a copy is compressed (Table 8.2). -/
def Job.coded (j : Job) : Bool :=
  match j.stream with
  | some d => bit d.ctrl 5
  | none => false

/-- The check event of the blocks a copy moved since the last one (Table 4.1, R107). -/
def State.copyEvent (s : State) (i : Nat) (j : Job) (count : Nat) (lasting : Option Status) : State :=
  s.gauge i { Gauge.plain (if j.coded then 8 else 7) (sourceOf 5 0) j.desc.index count with
    retries := j.retries + b2n lasting.isSome, lasting := lasting, supply := !j.supplies.isEmpty } true

/-- A copy that ends early still makes the event of the blocks it has checked (Table 4.1). -/
def State.copyEarly (s : State) (i : Nat) (j : Job) : State :=
  if j.pass = 0 ∨ j.done % 4096 = 0 then s else s.copyEvent i j (j.done % 4096) none

/-- The leader: the lowest chip number of the rings of the last map bound; this chip when none has been (R284). -/
def State.leader (s : State) (i : Nat) : Nat := ((s.ctx i).members.min?).getD s.self

/-- Members of a context's rings, this chip among them. -/
def State.ringMembers (s : State) (i : Nat) : List Nat := if (s.ctx i).members.isEmpty then [s.self] else (s.ctx i).members

/-- The leader and this chip are the same. -/
def State.leads (s : State) (i : Nat) : Bool := s.isHere (s.leader i)

/-- A pending switch without a COMMIT ends with a status and no switching (step 5 of Table 10.13, R285); a CANCEL fetched after it counts it (R396). -/
def State.endSwitch (s : State) (i : Nat) (st : Status) : State :=
  let c := s.ctx i
  match c.sw with
  | none => s.setCtx i { c with prepared := none }
  | some w =>
    if w.commit.isSome then s else
    let c := { c with sw := none, prepared := none, canceling := c.canceling.map (fun d => (d.1, d.2 + b2n (decide (w.desc.seq < d.1.seq)))) }
    ((s.setCtx i c).setF F.tideCtxSwitch 4 i).complete i w.desc st

/-- A pending switch without a COMMIT is withdrawn: a member sends WITHDRAW, one that has only PREPARE of it too, a leader ABORT (R285). With a status it
ends at once; without one a member waits for the leader's ABORT. -/
def State.withdraw (s : State) (i : Nat) (st : Option Status) : State :=
  match (s.ctx i).sw with
  | none =>
    if (s.ctx i).prepared.isSome && !s.leads i then
      (s.setCtx i { s.ctx i with prepared := none }).send (s.leader i) 0xFF 0x16 (s.tag i) 0xFF 0 0
    else s
  | some w =>
    if w.commit.isSome then s
    else if s.leads i then (s.sendMembers (s.tag i) (s.ringMembers i) 0x15 0).endSwitch i (st.getD .timeout)
    else
      let s := s.send (s.leader i) 0xFF 0x16 (s.tag i) 0xFF 0 0
      match st with
      | some st => s.endSwitch i st
      | none => s

/-- A message of a withdrawal is bound outside the context's block (R378). -/
def State.withdrawOutside (s : State) (i : Nat) : Bool :=
  let c := s.ctx i
  let out := fun (m : Nat) => !s.isHere m && s.flag F.topoPlanStatusLoaded && rackOf m == rackOf s.chip && !s.inBlock i m
  (c.sw.any (fun w => w.commit.isNone) || c.prepared.isSome) && (if s.leads i then c.sw.isSome && (s.ringMembers i).any out else out (s.leader i))

/-- A retry of a copy is under way: its block or a piece of it has been asked for again (R105). -/
def State.copyRetrying (s : State) (i : Nat) (j : Job) : Bool :=
  j.again || s.requests.any (fun r => r.again && (match r.who with | .copy k q => k == i && q == j.desc.seq | _ => false))

/-- A retry of a shard load is under way: an object has been asked for again. -/
def Job.loadRetrying (j : Job) : Bool := j.tried.any (fun k => !j.finished.contains k)

/-! ### RDMA READs (R408) -/

/-- RoCEv2 packets of a message: 4,096 bytes of payload each (Table 15.17). -/
def ethPackets (len : Nat) : Nat := max 1 (ceilDiv len 4096)

/-- An RDMA READ goes out, and takes the packet numbers of its answer. -/
def State.sendRead (s : State) (a : Asked) : State :=
  let n := s.psn.get 0 a.target
  { s.emit (.rdmaRead a.target a.rkey a.addr a.len) with
    psn := s.psn.put a.target (n + ethPackets a.len), asked := s.asked.map (fun x => if x == a then { a with sent := true, psn := n } else x) }

/-- READs of a target that wait are sent, in order, while fewer than 16 are in flight on its queue pair (R408). -/
def State.pumpReads (s : State) (t : Nat) : State :=
  s.asked.foldl (fun (s : State) a =>
    if a.target == t && !a.sent && decide ((s.asked.filter (fun x => x.target == t && x.sent)).length < 16) then s.sendRead a else s) s

/-- The READs of a load that has ended are forgotten. -/
def State.forgetReads (s : State) (j : Job) : State :=
  let mine := fun (a : Asked) => j.objects.any (fun e =>
    a.target == field e 2 1 && a.rkey == field e 4 4 && decide (field e 8 8 ≤ a.addr) && decide (a.addr < field e 8 8 + field e 24 8))
  let ts := ((s.asked.filter mine).map (·.target)).eraseDups
  ts.foldl (fun (s : State) t => s.pumpReads t) { s with asked := s.asked.filter (fun a => !mine a) }

/-- INFO of a job that ends early: objects done, or for a copy the longest prefix of its dense order that has been written, which a write to another chip has
not been before its acknowledgement (R398). -/
def State.jobInfo (s : State) (i : Nat) (j : Job) : Nat :=
  s.requests.foldl (fun n r => match r.who with
    | .copy k q => if k == i && q == j.desc.seq && r.packet.type == 2 then min n r.piece else n
    | _ => n) j.moved

/-- Jobs of a context that run. -/
def CtxSt.jobs (c : CtxSt) : List Job := c.copy.toList ++ c.load.toList ++ c.ckpt.toList

/-- A CANCEL completes once nothing fetched before it is left: its INVOKE has closed its ledger, its switch has ended or has committed, and a job's retry
has come to its end (R105, R285, R396). -/
def State.tryCancel (s : State) (i : Nat) : State :=
  let c := s.ctx i
  match c.canceling with
  | none => s
  | some (d, n) =>
    if c.inv.any (fun v => decide (v.desc.seq < d.seq)) || c.sw.any (fun w => w.commit.isNone && decide (w.desc.seq < d.seq)) ||
      c.jobs.any (fun j => decide (j.desc.seq < d.seq)) then s
    else (s.setCtx i { c with canceling := none }).complete i d .ok false n

/-- Descriptors of a context fetched before `before`, or all, end as Table 15.11 states: those not started, copies, loads and checkpoints complete with
`run`, which is `st` but under an immediate dike, a running INVOKE is told to end with `inv`. A copy or load whose retry is under way ends when the retry has
(R105). A pending switch follows R285: under a CANCEL it ends as the leader's ABORT states, else with `run`. Answers how many it ends, but for a switch. -/
def State.endOthers (s : State) (i : Nat) (st inv : Status) (before : Option Nat) (run : Status := st) : Nat × State :=
  let c := s.ctx i
  let hit := fun (d : Desc) => match before with
    | none => true
    | some q => decide (d.seq < q)
  let keep := fun (l : List Desc) => l.filter (fun d => !hit d)
  let take := fun (l : List Desc) => l.filter hit
  let busyCopy := fun (j : Job) => s.copyRetrying i j
  let job := fun (j : Option Job) (busy : Job → Bool) => (j.filter (fun x => hit x.desc && !busy x)).toList
  let late := fun (j : Option Job) (busy : Job → Bool) => (j.filter (fun x => hit x.desc && busy x && x.ending.isNone)).toList
  let left := fun (j : Option Job) (busy : Job → Bool) =>
    (j.filter (fun x => !hit x.desc || busy x)).map (fun x => if hit x.desc then { x with ending := x.ending.or (some run) } else x)
  let waiting := take (c.work ++ c.loadq ++ c.control ++ c.fence.toList ++ c.fetched ++ (if before.isNone then (c.canceling.map (·.1)).toList else []))
  let jobs := job c.copy busyCopy ++ job c.load Job.loadRetrying ++ job c.ckpt (fun _ => false)
  let slow := late c.copy busyCopy ++ late c.load Job.loadRetrying
  let bad := fun (b : Bank) => { b with digest := none }
  let loading := (c.load.toList.filter (fun j => hit j.desc)).map (fun j => field j.desc.bytes 20 1 % 2)
  let s := s.setCtx i { c with
    work := keep c.work, loadq := keep c.loadq, control := keep c.control, fetched := keep c.fetched
    fence := c.fence.filter (fun d => !hit d), copy := left c.copy busyCopy, load := left c.load Job.loadRetrying, ckpt := left c.ckpt (fun _ => false)
    canceling := if before.isNone then none else c.canceling
    bank0 := if loading.contains 0 then bad c.bank0 else c.bank0
    bank1 := if loading.contains 1 then bad c.bank1 else c.bank1 }
  let s := (job c.copy busyCopy).foldl (fun s j => s.copyEarly i j) s
  let s := jobs.foldl (fun s j => s.complete i j.desc run false (s.jobInfo i j)) s
  let s := (job c.load Job.loadRetrying).foldl (fun s j => s.forgetReads j) s
  let s := s.completeAll i st waiting
  let running := match c.inv with
    | some v => hit v.desc && v.ending.isNone
    | none => false
  let s := if running then s.endInvoke i inv else s
  (waiting.length + jobs.length + slow.length + b2n running, s.withdraw i (if before.isNone then some run else none))

/-- The running INVOKE of a context has told its ring members of its end (R275). -/
def State.setHalted (s : State) (i : Nat) : State :=
  let c := s.ctx i
  s.setCtx i { c with inv := c.inv.map (fun v => { v with haltSent := true }) }

/-- A context faults with a status (R422); `inv` is the status its running INVOKE ends with, the fault's own or CANCELLED. `descIndex` names the descriptor
whose work the status is of: while the context is faulted, a later lasting status of that same descriptor alone replaces the one recorded (R105). -/
def State.faultWith (s : State) (i : Nat) (st inv : Status) (descIndex : Nat := 0xFFFFFFFF) : State :=
  let s := s.endInvoke i inv
  if s.ctxState i = 1 then
    let s := ((s.setF F.cxsCtxStateState 2 i).setF F.cxsCtxStateResume 0 i).setF F.cxsCtxStateStatus st.code i
    let s := s.log 0x0001 (sourceOf 6 0) (s.tag i) st 2 (natLe 4 descIndex)
    let s := { s with ctxs := s.ctxs.put i { s.ctx i with inflight := 0, faultOf := descIndex } }
    let s := (s.endOthers i .cancelled .cancelled none).2
    -- R275: a ring member sends HALT at once, with the status its INVOKE ends with
    match (s.ctx i).inv with
    | some v => if v.ring && !v.haltSent then (s.sendMembers v.desc.ctxTag v.members 0x18 (v.ending.getD inv).code).setHalted i else s
    | none => s
  else if s.ctxState i = 2 ∧ descIndex ≠ 0xFFFFFFFF ∧ (s.ctx i).faultOf = descIndex then
    match Status.ofCode (s.getF F.cxsCtxStateStatus i) with
    | some o => s.setF F.cxsCtxStateStatus (standing (some o) st).code i
    | none => s
  else s

/-- A context faults with the status of its running INVOKE's work. -/
def State.fault (s : State) (i : Nat) (st : Status) : State :=
  let d := match (s.ctx i).inv with
    | some v => v.desc.index
    | none => 0xFFFFFFFF
  s.faultWith i st st d

/-- A context faults outside its INVOKE's work: the INVOKE, if any, ends CANCELLED. -/
def State.faultOther (s : State) (i : Nat) (st : Status) (descIndex : Nat := 0xFFFFFFFF) : State := s.faultWith i st .cancelled descIndex

/-- A context faults through a tag, when the tag is its current one. While a context is torn down, a running INVOKE of the tag before still takes a lasting
status of its own work (R105). -/
def State.faultTag (s : State) (tag : Nat) (st : Status) : State :=
  let i := tagIndex tag
  if s.tag i = tag then s.fault i st
  else if (s.ctx i).inv.any (fun v => v.desc.ctxTag == tag) then s.endInvoke i st
  else s

/-- Send a message that names its own destination; one bound outside the block is discarded and its sender's context faults (R378). -/
def State.sendNamed (s : State) (dstChip dstCore type tag srcCore gen arg : Nat) (payload : Bytes := []) : State :=
  let t := s.send dstChip dstCore type tag srcCore gen arg payload
  if s.outside tag dstChip then t.faultTag tag .accessViolation else t

/-- Send a tide control message to every other member, each as a message that names its own destination (Table 10.8, R378). -/
def State.tellMembers (s : State) (tag : Nat) (members : List Nat) (type arg : Nat) (payload : Bytes := []) : State :=
  members.foldl (fun s m => if s.isHere m then s else s.sendNamed m 0xFF type tag 0xFF 0 arg payload) s

/-- The INVOKE of a tag is bound and runs: its tasks, streams and engines may act (R233). -/
def State.live (s : State) (tag : Nat) : Bool :=
  let i := tagIndex tag
  s.tag i == tag && (match (s.ctx i).inv with | some v => v.bound && v.ending.isNone | none => false)

/-- A progress event of a context: restart its progress watchdog (Table 16.6). -/
def State.progress (s : State) (i : Nat) : State := s.setCtx i { s.ctx i with progressAt := s.time }

end Sys2Proof.Machine
end

