-- ==== Sys2Proof/Machine/Spm.lean ====
section
/-! DEFINITION. The scratchpad: protected reads and writes, access checks, the allocator, sluices and their credit (chapter 5). -/

namespace Sys2Proof.Machine

/-- Bytes of a granule (R116). -/
def granule : Nat := 8192
/-- Bytes of the scratchpad (R118). -/
def spmBytes : Nat := 0x300000

/-- The valid polder that holds a granule, with its handle. -/
def CoreSt.polderAt (c : CoreSt) (g : Nat) : Option (Nat × Polder) :=
  c.ht.find? (fun p => p.2.valid && decide (p.2.base ≤ g) && decide (g < p.2.base + p.2.length))

/-- Decoder class of a codeword: its polder's, class W for a free row (R142). -/
def CoreSt.classOf (c : CoreSt) (cw : Nat) : Bool :=
  match c.polderAt (cw * 32 / granule) with
  | some (_, p) => p.classW
  | none => true

/-- Standing errors of a codeword. -/
def CoreSt.errs (c : CoreSt) (cw : Nat) : Upset := c.spmErr.get [] cw

/-- Errors that the next read of a codeword meets, and no later one. -/
def CoreSt.passing (c : CoreSt) (cw : Nat) : Upset := c.spmPassing.get [] cw

/-- A read of a codeword has met the errors that waited for it. -/
def State.passed1 (s : State) (core cw : Nat) : State :=
  let c := s.core core
  if (c.passing cw).isEmpty then s else s.setCore core { c with spmPassing := c.spmPassing.del cw }

/-- What reading one codeword gives (R128 to R130): the errors left in its data, none when it is uncorrectable twice, and the counts it adds:
single corrections, two-symbol corrections, uncorrectable reads. -/
def readCodeword (classW : Bool) (standing : Upset) (noise : Noise) : Option Upset × Nat × Nat × Nat :=
  match spmDecode classW (standing ++ noise.first) with
  | .data left n => (some left, b2n (n == 1), b2n (n == 2), 0)
  | .uncorrectable =>
    match spmDecode classW (standing ++ noise.second) with
    | .data left n => (some left, b2n (n != 2), b2n (n == 2), 0)
    | .uncorrectable => (none, 0, 0, 1)

/-- No noise. -/
def Noise.none : Noise := ⟨[], []⟩

/-- Codewords of [abs, abs + n) that hold standing errors, with the noise on the first codeword of the access. -/
def CoreSt.damaged (c : CoreSt) (abs n : Nat) (noise : Noise) : List (Nat × Noise) :=
  let first := abs / 32
  let last := (abs + n - 1) / 32
  let l := ((c.spmErr ++ c.spmPassing).filter (fun p => decide (first ≤ p.1) && decide (p.1 ≤ last))).map (·.1)
  let l := l.eraseDups
  let l := if (Upset.strikes noise.first || Upset.strikes noise.second) && !l.contains first then first :: l else l
  l.map (fun k => (k, if k = first then noise else Noise.none))

/-- Read bytes of a core's scratchpad through the class decoder (R128 to R130); none when a codeword is uncorrectable twice. -/
def State.spmRead (s : State) (core abs n : Nat) (noise : Noise := Noise.none) : Option Bytes × State :=
  let c := s.core core
  let raw := c.spm.readN abs n
  if n = 0 then (some raw, s) else
  (c.damaged abs n noise).foldl (fun (acc : Option Bytes × State) (k : Nat × Noise) =>
    let (left, one, two, bad) := readCodeword (c.classOf k.1) (c.errs k.1) ⟨k.2.first ++ c.passing k.1, k.2.second⟩
    let s := acc.2.passed1 core k.1
    let s := if one = 0 then s else s.bump F.spmCorrOneSym core one
    let s := if two = 0 then s else s.bump F.spmCorrTwoSym core two
    let s := if bad = 0 then s else s.bump F.spmEventsUncorr core bad
    match acc.1, left with
    | some bs, some u =>
      (some (u.foldl (fun bs p =>
        let a := k.1 * 32 + p.1
        if p.1 < 32 ∧ abs ≤ a ∧ a < abs + n then bs.modify (a - abs) (fun b => b ^^^ BitVec.ofNat 8 p.2) else bs) bs), s)
    | _, _ => (none, s)) (some raw, s)

/-- Settle a codeword that a write covers in part: its corrected bytes are read for the merge (R123); false when uncorrectable twice. -/
def State.spmSettle (s : State) (core cw : Nat) : Bool × State :=
  let c := s.core core
  if (c.errs cw).isEmpty && (c.passing cw).isEmpty then (true, s) else
  let (bs, s) := s.spmRead core (cw * 32) 32
  match bs with
  | some bs =>
    let c := s.core core
    (true, s.setCore core { c with spm := c.spm.writeN (cw * 32) bs, spmErr := c.spmErr.del cw })
  | none => (false, s)

/-- Write bytes to a core's scratchpad: whole codewords replace, partial ones merge (R123); false when a merge read fails. -/
def State.spmWrite (s : State) (core abs : Nat) (bs : Bytes) : Bool × State :=
  if bs.isEmpty then (true, s) else
  let last := abs + bs.length - 1
  let (ok1, s) := if abs % 32 = 0 ∧ 32 ≤ bs.length then (true, s) else s.spmSettle core (abs / 32)
  let (ok2, s) := if last % 32 = 31 ∨ last / 32 = abs / 32 then (true, s) else s.spmSettle core (last / 32)
  if ok1 && ok2 then
    let c := s.core core
    (true, s.setCore core { c with
      spm := c.spm.writeN abs bs
      spmErr := c.spmErr.filter (fun p => !(decide (abs / 32 ≤ p.1) && decide (p.1 ≤ last / 32))) })
  else (false, s)

/-! ### Access checks (Table 5.6) -/

/-- Check a local access by handle: VALID and OWNER, then CODE, then ACCUM, then the region; none when allowed (R132). -/
def CoreSt.check (c : CoreSt) (tag h off len : Nat) (write : Bool := false) (se : Bool := false) (accum : Bool := false) : Option Status :=
  let p := c.polder h
  if !p.valid || p.owner != tag then some .accessViolation
  else if write && p.code && !se then some .accessViolation
  else if accum && !p.accum then some .descInvalid
  else if off + len > p.length * granule then some .accessViolation
  else none

/-- Absolute byte of an offset in a polder. -/
def CoreSt.abs (c : CoreSt) (h off : Nat) : Nat := (c.polder h).base * granule + off

/-- Granules of the slots of a polder: all, less the tag region of a compressed one (R147). -/
def Polder.slotGranules (p : Polder) : Nat := if p.compressed then p.length - ceilDiv p.length 32 else p.length
/-- Slots of a polder (R138, R147). -/
def Polder.slots (p : Polder) : Nat := 4 * p.slotGranules
/-- Absolute byte of a slot. -/
def Polder.slotAbs (p : Polder) (i : Nat) : Nat := p.base * granule + 2048 * i
/-- Absolute byte of the tag of a slot (R147). -/
def Polder.tagAbs (p : Polder) (i : Nat) : Nat := (p.base + p.slotGranules) * granule + 64 * i

/-! ### The allocator (R133 to R136) -/

/-- Granules in use by valid polders. -/
def CoreSt.used (c : CoreSt) : List (Nat × Nat) :=
  (c.ht.filter (fun p => p.2.valid)).map (fun p => (p.2.base, p.2.length))

/-- Free runs of granules from `g` on, with fuel; `busy g` tells whether a granule is taken. -/
def freeRunsFrom (busy : Nat → Bool) : Nat → Nat → Option Nat → List (Nat × Nat)
  | 0, g, st => match st with
    | some b => [(b, g - b)]
    | none => []
  | k + 1, g, st =>
    if busy g then
      match st with
      | some b => (b, g - b) :: freeRunsFrom busy k (g + 1) none
      | none => freeRunsFrom busy k (g + 1) none
    else freeRunsFrom busy k (g + 1) (some (st.getD g))

/-- Whether a granule lies in one of the runs given. -/
def inRuns (rs : List (Nat × Nat)) (g : Nat) : Bool := rs.any (fun r => decide (r.1 ≤ g) && decide (g < r.1 + r.2))

/-- Free runs as ALLOC searches them: a freed granule counts at once (R135). -/
def CoreSt.freeRuns (c : CoreSt) : List (Nat × Nat) := freeRunsFrom (inRuns c.used) 384 0 none

/-- Free runs as SPM_STATUS counts them: only zeroed granules (R135). -/
def CoreSt.joinedRuns (c : CoreSt) : List (Nat × Nat) :=
  let u := c.used
  freeRunsFrom (fun g => inRuns u g || c.zeroing.contains g) 384 0 none

/-- Best fit: the shortest run that is long enough, the lowest among equals (R133). -/
def bestFit (rs : List (Nat × Nat)) (len : Nat) : Option Nat :=
  let fit := rs.filter (fun r => decide (len ≤ r.2))
  match fit with
  | [] => none
  | r :: t => some (t.foldl (fun b x => if x.2 < b.2 then x else b) r).1

/-- What an ALLOC asks for (R133, Table 9.16). -/
structure AllocReq where
  handle : Nat
  length : Nat
  classW : Bool
  resident : Bool
  compressed : Bool
  sluice : Bool
  accum : Bool
  code : Bool
  peerChip : Nat
  peerCore : Nat
  peerCredit : Nat
  deriving DecidableEq, Repr

/-- Reason an ALLOC fails, in the order of R134. -/
def CoreSt.allocFail (c : CoreSt) (r : AllocReq) : Option Nat :=
  let runs := c.freeRuns
  if (c.polder r.handle).valid then some 0
  else if r.length = 0 ∨ 384 < r.length then some 1
  else if (r.code && (r.sluice || r.accum || r.compressed)) || (r.accum && (r.sluice || r.compressed)) then some 4
  else if r.compressed && r.length == 1 then some 5
  else if (runs.foldl (fun t x => t + x.2) 0) < r.length then some 3
  else if (bestFit runs r.length).isNone then some 2
  else none

/-- The entry ALLOC writes (R133): GEN unchanged; a sluice opens when the ALLOC completes. -/
def CoreSt.place (c : CoreSt) (tag : Nat) (r : AllocReq) : CoreSt :=
  let b := (bestFit c.freeRuns r.length).getD 0
  c.setPolder r.handle { Polder.empty with
    valid := true, resident := r.resident, compressed := r.compressed, sluice := r.sluice, accum := r.accum, code := r.code
    classW := r.classW, length := r.length, base := b, gen := (c.polder r.handle).gen, owner := tag
    peerChip := r.peerChip, peerCore := r.peerCore, peerCredit := r.peerCredit }

/-- Open a sluice when its ALLOC completes: credit, slot, binding GRANT (Table 5.8, R140). -/
def State.openSluice (s : State) (core h : Nat) : State :=
  let c := s.core core
  let p := c.polder h
  if !p.sluice then s else
  let s := s.setCore core (c.setPolder h { p with sluiceState := 1, credit := p.slots, nextSlot := 0 })
  let addr := s.self * 2 ^ 50 + 0x2000000000000 + core * 0x1000000 + p.base * granule
  s.sendNamed p.peerChip p.peerCore 0x03 p.owner core p.gen (p.peerCredit + 64 + p.slots * 256)
    (natLe 8 addr ++ natLe 2 p.slots ++ natLe 1 h ++ zeros 5)

/-- Record an ALLOC failure when SPM_ALLOC_FAIL is clear (R134, Table 5.11). -/
def State.recordAllocFail (s : State) (core reason : Nat) (r : AllocReq) : State :=
  if s.flag F.spmAllocFailValid core then s else
  (((s.setF F.spmAllocFailValid 1 core).setF F.spmAllocFailReason reason core).setF F.spmAllocFailHandle r.handle core).setF F.spmAllocFailLength (r.length % 512) core

/-- The outcome of an ALLOC: a failure reason, or the state with the polder placed and, when no granule is still being zeroed, open.
`reply` is the culvert message to answer, none for a task or the CXS. The Bool says whether it has completed. -/
def State.alloc (s : State) (core tag : Nat) (r : AllocReq) (reply : Option Culvert) : Except Nat (Bool × State) :=
  let c := s.core core
  match c.allocFail r with
  | some reason => .error reason
  | none =>
    let c := c.place tag r
    let p := c.polder r.handle
    let dirty := c.zeroing.filter (fun g => decide (p.base ≤ g) && decide (g < p.base + p.length))
    if dirty.isEmpty then .ok (true, (s.setCore core c).openSluice core r.handle)
    else .ok (false, s.setCore core { c with allocs := c.allocs ++ [⟨r.handle, dirty, reply⟩] })

/-- Answer a culvert ALLOC or FREE: status in ARG [7:0], handle in [15:8], the type answered in [23:16], and the resulting GEN (R137). -/
def State.reply (s : State) (core : Nat) (m : Culvert) (h : Nat) (st : Status) : State :=
  s.sendNamed m.srcChip m.srcCore 0x08 m.ctxTag core ((s.core core).polder h).gen (st.code + 256 * h + 65536 * m.type)

/-- Clear an entry and queue its granules for zeroing (R135): every field but GEN reads zero. A culvert FREE of the handle has completed and is answered.
An ALLOC of it that still waits is forgotten, and no stream keeps a ring in it (R214, log entry 15). -/
def State.release (s : State) (core h : Nat) : State :=
  let c := s.core core
  let p := c.polder h
  if !p.valid then s else
  let gs := (List.range p.length).map (p.base + ·)
  let done := c.frees.filter (fun m => bits m.arg 7 0 == h)
  let s := s.setCore core { c.setPolder h { Polder.empty with gen := (p.gen + 1) % 64 } with
    zeroing := c.zeroing ++ gs.filter (fun g => !c.zeroing.contains g), frees := c.frees.filter (fun m => bits m.arg 7 0 != h)
    allocs := c.allocs.filter (fun a => a.handle != h)
    strms := c.strms.map (fun (q : Nat × Strm) => if q.2.ring == some h then (q.1, { q.2 with ring := none }) else q) }
  done.foldl (fun s m => s.reply core m h .ok) s

/-- Payload of a GRANT or CLOSE that names the handle of its sluice in byte 10 (R140, log entry 13). -/
def sluicePayload (h : Nat) : Bytes := zeros 10 ++ natLe 1 h ++ zeros 5

/-- ALLOCs whose last granule has just been zeroed complete (R135). -/
def State.finishAllocs (s : State) (core : Nat) : State :=
  let done := (s.core core).allocs.filter (fun a => a.granules.isEmpty)
  let c := s.core core
  let s := s.setCore core { c with allocs := c.allocs.filter (fun a => !a.granules.isEmpty) }
  done.foldl (fun s a =>
    let s := s.openSluice core a.handle
    match a.reply with
    | some m => s.reply core m a.handle .ok
    | none => s) s

/-- Freed granules are written with zeros and join the free list (R135). -/
def State.zeroGranules (s : State) (core : Nat) (gs : List Nat) : State :=
  let c := s.core core
  let c := { c with
    zeroing := c.zeroing.filter (fun g => !gs.contains g), spm := gs.foldl (fun (m : Mem) g => m.clear (granule * g) granule) c.spm
    spmErr := c.spmErr.filter (fun p => !gs.contains (p.1 / 256))
    allocs := c.allocs.map (fun a => { a with granules := a.granules.filter (fun g => !gs.contains g) }) }
  (s.setCore core c).finishAllocs core

/-- FREE a polder: at once, or through the closing state of a sluice (R135, Table 5.8). -/
def State.freePolder (s : State) (core h : Nat) : State :=
  let c := s.core core
  let p := c.polder h
  if !p.valid then s
  else if p.sluice && p.sluiceState == 1 then
    let s := s.setCore core (c.setPolder h { p with sluiceState := 2, closeAt := some s.time })
    let s := s.sendNamed p.peerChip p.peerCore 0x05 p.owner core p.gen p.peerCredit (sluicePayload h)
    if p.credit = 0 then s.release core h else s
  else if p.sluice && p.sluiceState == 2 then s
  else s.release core h

/-- A closing sluice whose credit has fallen to zero frees (Table 5.8). -/
def State.settleClosing (s : State) (core h : Nat) : State :=
  let p := (s.core core).polder h
  if p.valid && p.sluice && p.sluiceState == 2 && p.credit == 0 then s.release core h else s

/-- Polders of a tag on a core. -/
def CoreSt.owned (c : CoreSt) (tag : Nat) (residentToo : Bool) : List Nat :=
  (c.ht.filter (fun p => p.2.valid && p.2.owner == tag && (residentToo || !p.2.resident))).map (·.1)

/-- Grant credit for slots freed in an open sluice (Table 5.8). -/
def State.grantBack (s : State) (core h n : Nat) : State :=
  let c := s.core core
  let p := c.polder h
  if n = 0 ∨ p.sluiceState ≠ 1 then s else
  let s := s.setCore core (c.setPolder h { p with credit := p.credit + n })
  s.sendNamed p.peerChip p.peerCore 0x03 p.owner core p.gen (p.peerCredit + n * 256) (sluicePayload h)

end Sys2Proof.Machine
end

