-- ==== Sys2Proof/Machine/Hbm.lean ====
section
/-! DEFINITION. Device memory: interleave, sector code and second sources, page walks and translation, encrypted access (chapter 11, R454, R455). -/

namespace Sys2Proof.Machine

/-- 1,280 GiB (R288). -/
def hbmBytes : Nat := 1280 * 2 ^ 30

/-- Regions of the DPA space (Table 11.2). -/
inductive Region where
  | context | dump | firmware | tables | beyond
  deriving DecidableEq, Repr

/-- Region of a DPA (Table 11.2). -/
def regionOf (dpa : Nat) : Region :=
  if dpa < 0x13C00000000 then .context
  else if dpa < 0x13E00000000 then .dump
  else if dpa < 0x13F00000000 then .firmware
  else if dpa < 0x14000000000 then .tables
  else .beyond

/-- Stack of a DPA under the interleave of key draw `key` (R290). -/
def stackOf (key dpa : Nat) : Nat :=
  let b := dpa / 2048
  let hi := b / 2 ^ 25
  let lo := b % 2 ^ 25
  let g := ((Config.interleaveH key (lo - (if bit lo 10 then 1024 else 0))).toNat * 10) / 65536
  (hi + g + 10 * b2n (bit lo 10)) % 20

/-- Standing errors of a sector. -/
def State.sectorErrs (s : State) (sector : Nat) : Upset := s.hbmErr.get [] sector

/-- Record a bad sector (Table 11.16): the most recent one, with who found it. -/
def State.badSector (s : State) (k dpa : Nat) (scrub : Bool) : State :=
  let s := s.setF F.hscStackBadValid 1 k
  let s := s.setF F.hscStackBadScrub (b2n scrub) k
  s.setF F.hscStackBadSector (dpa / 32) k

/-- Write a sector's data back, free of errors. -/
def State.rewrite (s : State) (sector : Nat) (bs : Bytes) : State :=
  { s with hbm := s.hbm.writeN (sector * 32) bs, hbmErr := s.hbmErr.del sector }

/-- Data of a sector as stored, with the errors a decoder left. -/
def sectorData (m : Mem) (sector : Nat) (left : Upset) : Bytes :=
  upsetBytes (m.readN (sector * 32) 32) (left.filter (fun p => decide (p.1 < 32)))

/-- Errors that the next read of a sector meets, and no later one. -/
def State.passing (s : State) (sector : Nat) : Upset := s.hbmPassing.get [] sector

/-- One read of a sector: its data, whether a symbol was corrected; none when uncorrectable (R298). A correction is counted and written back. -/
def State.readOnce (s : State) (k sector : Nat) (noise : Upset) : Option Bytes × State :=
  let noise := noise ++ s.passing sector
  let s := { s with hbmPassing := s.hbmPassing.del sector }
  match hbmDecode (s.sectorErrs sector ++ noise) with
  | .data left n =>
    let bs := sectorData s.hbm sector left
    if n = 0 then (some bs, s)
    else (some bs, (s.bump F.hscStackCorrCorr k).rewrite sector bs)
  | .uncorrectable => (none, s)

/-- What a protected read ends in. -/
inductive Fetched where
  | data (bs : Bytes)
  | failed (st : Status)
  | wait
  deriving DecidableEq, Repr

/-- Entries of a manifest that a chip loads (Table 15.19). -/
def manifestEntries (m : Bytes) (chip : Nat) : List Bytes := (chunks 128 (m.drop 64)).filter (fun e => e.length == 128 && field e 0 2 == chip)

/-- The entry of a bank's manifest whose object can cover an address: footprints do not overlap, so it is the one placed last at or below (R412). -/
def Bank.covering (b : Bank) (chip va : Nat) : Option Bytes :=
  (manifestEntries b.manifest chip).foldl (fun (best : Option Bytes) e =>
    if decide (b.base + field e 16 8 ≤ va) && best.all (fun x => decide (field x 16 8 ≤ field e 16 8)) then some e else best) none

/-- The shard bank of a context that a virtual address lies in, when a manifest is bound (R299 step 3, R283). -/
def CtxSt.bankAt (c : CtxSt) (va : Nat) : Option Bank :=
  [c.bank0, c.bank1].find? (fun b => b.digest.isSome && decide (b.base ≤ va) && decide (va < b.base + b.size))

/-- Another read of the object that covers an address is being served by a refetch from storage: reads of the object wait (Table 11.3, step 3). -/
def State.objectWaits (s : State) (i va : Nat) : Bool :=
  let object := fun a => ((s.ctx i).bankAt a).bind (fun b => b.covering s.chip a)
  s.refetch.any (fun r => r.ctx == i && !r.failed && (object r.va).isSome && object r.va == object va)

/-! ### Packets to and from storage (R408, R409, R453, log entry 42) -/

/-- Nonce of a packet: the salt, then the direction and the packet's number extended past its 24 bits (R453). -/
def State.ethNonce (s : State) (t n : Nat) (response : Bool) : Bytes :=
  natLe 4 (s.getF F.secTgtKeySalt t) ++ natLe 8 (b2n response * 2 ^ 63 + (s.getF F.ethTgtSendPsn t + n) % 2 ^ 63)

/-- Key of a target. -/
def State.ethKey (s : State) (t : Nat) : Bytes := natLe 32 (s.getF F.secTgtKeyKey t)

/-- Ask a target for bytes: an RDMA READ, which waits while 16 are in flight. -/
def State.askRead (s : State) (t rkey addr len : Nat) : State :=
  let mine := fun (a : Asked) => a.target == t && a.rkey == rkey && a.addr == addr
  let new : Asked := ⟨t, rkey, addr, len, false, 0⟩
  let s := { s with asked := s.asked.filter (fun a => !mine a) ++ [new] }
  s.pumpReads t

/-- The requests that read an object: offset and length of each, at most 1 MiB (R408). -/
def readParts (len : Nat) : List (Nat × Nat) :=
  (List.range (ceilDiv len (2 ^ 20))).map (fun k => (2 ^ 20 * k, min (2 ^ 20) (len - 2 ^ 20 * k)))

/-- Ask storage for a whole object. -/
def State.askObject (s : State) (e : Bytes) : State :=
  (readParts (field e 24 8)).foldl (fun (s : State) p => s.askRead (field e 2 1) (field e 4 4) (field e 8 8 + p.1) p.2) s

/-- The reads of an object are answered in order, and READs that waited follow: the length and number of each packet of the answers, and whether every READ
had been sent. -/
def State.answerPackets (s : State) (t rkey addr len : Nat) : List (Nat × Nat) × Bool × State :=
  (readParts len).foldl (fun (acc : List (Nat × Nat) × Bool × State) p =>
    let mine := fun (a : Asked) => a.target == t && a.rkey == rkey && a.addr == addr + p.1
    let n := ((acc.2.2.asked.find? mine).map (·.psn)).getD 0
    (acc.1 ++ (List.range (ethPackets p.2)).map (fun j => (min 4096 (p.2 - 4096 * j), n + j)), acc.2.1 && acc.2.2.asked.any (fun a => mine a && a.sent),
      State.pumpReads { acc.2.2 with asked := acc.2.2.asked.filter (fun a => !mine a) } t)) ([], true, s)

/-- What the answers of a target to the reads of an object come to. Without ENCRYPT it is what arrived. With it every packet is opened, and those that fail
authentication are discarded and counted; the transport's retry brings them again (R409). The Bool says that all have come. -/
def State.readText (s : State) (t rkey addr len : Nat) (wire : Bytes) : Bytes × Bool × State :=
  let (packets, sent, done) := s.answerPackets t rkey addr len
  if !sent then ([], false, s)
  else if !s.flag F.ethTgtEncrypt t then (wire, true, done) else
  let (text, bad, _) := packets.foldl (fun (acc : Bytes × Nat × Bytes) p =>
    match gcmOpen (s.ethKey t) (s.ethNonce t p.2 true) [] (acc.2.2.take (p.1 + 16)) with
    | some x => (acc.1 ++ x, acc.2.1, acc.2.2.drop (p.1 + 16))
    | none => (acc.1, acc.2.1 + 1, acc.2.2.drop (p.1 + 16))) ([], 0, wire)
  if bad = 0 then (text, true, done) else ([], false, { s with ethAuth := s.ethAuth.put t (s.ethAuth.get 0 t + bad) })

/-- The object of a manifest entry, from what its target's answers hold. -/
def State.objectText (s : State) (e wire : Bytes) : Bytes × Bool × State := s.readText (field e 2 1) (field e 4 4) (field e 8 8) (field e 24 8) wire

/-- Write bytes to a target by RDMA WRITE, at most 1 MiB a request; with ENCRYPT every packet is sealed (R408, R409). -/
def State.putText (s : State) (t rkey addr : Nat) (text : Bytes) : State :=
  ((chunks (2 ^ 20) text).zipIdx).foldl (fun (s : State) (x : Bytes × Nat) =>
    let n := s.psn.get 0 t
    let wire := if s.flag F.ethTgtEncrypt t then
        (((chunks 4096 x.1).zipIdx).map (fun p => gcmSeal (s.ethKey t) (s.ethNonce t (n + p.2) false) [] p.1)).flatten
      else x.1
    { s.emit (.rdmaWrite t rkey (addr + 2 ^ 20 * x.2) wire) with psn := s.psn.put t (n + ethPackets x.1.length) }) s

/-- The check event of a sector that the first read found uncorrectable (R299, Table 4.1), in a supply event or not. -/
def State.sectorEvent (s : State) (i k : Nat) (win : Bool) (st : Option Status) (supply : Bool := false) : State :=
  s.gauge i { Gauge.plain 0x0D (sourceOf 4 k) 0 1 with retries := 1, lasting := st, supply := supply } win

/-- A sector repaired from its partner is read back: one that is uncorrectable then is recorded in HSC_STACK_BAD (Table 11.3, step 2). -/
def State.readBack (s : State) (k sector : Nat) (noise : Upset) : State :=
  match s.readOnce k sector noise with
  | (some _, s) => s
  | (none, s) => s.badSector k (sector * 32) false

/-- A read on behalf of a context of one sector: Table 11.3. `win` places its events in the window of LEDGER_CLOSE; `va` is the address it came from;
`partner` strikes the read of the partner page and the read-back. A partner whose stack is not up serves no read; `spare` says that the sector itself is the
partner's, read because the stack of the page is down. -/
def State.readSector (s : State) (i sector : Nat) (mirror win : Bool) (va : Nat) (noise partner : Noise) (spare : Bool := false) : Fetched × State :=
  let k := stackOf s.key (sector * 32)
  let ev := fun (s : State) (st : Option Status) => s.sectorEvent i k win st
  match s.readOnce k sector noise.first with
  | (some bs, s) => (.data bs, s)
  | (none, s) =>
    match s.readOnce k sector noise.second with
    | (some bs, s) => (.data bs, ev (s.transient i 0x0D (sourceOf 4 k) win) none)
    | (none, s) =>
      -- step 2: the partner page
      let p := sector + 2 ^ 21 / 32
      let kp := stackOf s.key (p * 32)
      let again := s.refetch.find? (fun r => r.ctx == i && r.sector == sector)
      let s := if again.isSome then s else s.bump F.hscStackCorrUncorr k
      let (second, s) := if mirror && !spare && (s.hsc kp).state == 0 then s.readOnce kp p partner.first else (none, s)
      match second with
      | some bs =>
        let s := ((s.rewrite sector bs).bump F.hscStackCorrRepaired k).readBack k sector partner.second
        (.data bs, ev (s.transient i 0x0D (sourceOf 4 k) win) none)
      | none =>
        -- step 3: a storage refetch, once per failed read; step 4 otherwise
        let last := fun (supply : Bool) (s : State) =>
          let s := s.badSector k (sector * 32) false
          let s := (s.lastingUnit i win).sectorEvent i k win (some .uncorrectable) supply
          (Fetched.failed .uncorrectable, { s with refetch := s.refetch.filter (fun r => !(r.ctx == i && r.sector == sector)) })
        match again with
        | some r => if r.failed then last r.supply s else (.wait, s)
        | none =>
          match if mirror then none else ((s.ctx i).bankAt va).bind (fun b => b.covering s.chip va) with
          | some e =>
            if s.getF F.ethTgtState (field e 2 1) = 1 then (.wait, State.askObject { s with refetch := s.refetch ++ [⟨i, sector, va, win, false, s.inSupply⟩] } e) else last false s
          | none => last false s

/-- Of work that must wait for a refetch and will be done again, keep only the refetch: its request to storage and its count. -/
def State.keepRefetch (s t : State) : State :=
  let new := t.refetch.filter (fun r => !s.refetch.contains r)
  let s := new.foldl (fun (s : State) r => s.bump F.hscStackCorrUncorr (stackOf s.key (r.sector * 32))) s
  { s with
    refetch := t.refetch, psn := t.psn, asked := t.asked
    out := s.out ++ (t.out.drop s.out.length).filter (fun o => match o with | .rdmaRead _ _ _ _ => true | _ => false) }

/-- Whether a stack refuses accesses: it is not up (R418). -/
def State.stackDown (s : State) (dpa : Nat) : Bool := (s.hsc (stackOf s.key dpa)).state != 0

/-- Read [dpa, dpa + n) for a context, sector by sector (R298 to R301). -/
def State.readDpa (s : State) (i dpa n : Nat) (mirror win : Bool) (va : Nat) (noise : Noise := Noise.none) : Fetched × State :=
  if n = 0 then (.data [], s) else
  let first := dpa / 32
  let count := (dpa + n - 1) / 32 + 1 - first
  let down := s.stackDown dpa
  if down && !(mirror && !s.stackDown (dpa + 2 ^ 21)) then (.failed .fenced, s)
  else if s.objectWaits i va then (.wait, s) else
  let base := if down then first + 2 ^ 21 / 32 else first
  let (r, s) := (List.range count).foldl (fun (acc : Fetched × State) j =>
    match acc.1 with
    | .data bs =>
      let sector := base + j
      let nz := if j = 0 then noise else Noise.none
      let clean := (acc.2.sectorErrs sector).isEmpty && (acc.2.passing sector).isEmpty && nz.first.isEmpty
      if clean then (.data (bs ++ acc.2.hbm.readN (sector * 32) 32), acc.2)
      else match acc.2.readSector i sector mirror win va nz Noise.none down with
        | (.data x, s) => (.data (bs ++ x), s)
        | r => r
    | _ => acc) (.data [], s)
  match r with
  | .data bs => (.data (slice bs (dpa % 32) n), s)
  | r => (r, s)

/-- A merge read that a later step served: a transient unit of the context that writes, if one does (R299, R300). -/
def State.mergeServed (s : State) (own : Option (Nat × Bool)) (k : Nat) : State :=
  match own with
  | some (i, win) => (s.transient i 0x0D (sourceOf 4 k) win).sectorEvent i k win none
  | none => s

/-- Merge read of a sector that a write covers in part (R300): only steps 1 and 2 of Table 11.3 serve it. `own` is the context that writes, with its window. -/
def State.mergeSector (s : State) (sector : Nat) (mirror : Bool) (own : Option (Nat × Bool)) (noise : Noise) : Option Bytes × State :=
  let k := stackOf s.key (sector * 32)
  match s.readOnce k sector noise.first with
  | (some bs, s) => (some bs, s)
  | (none, s) =>
    match s.readOnce k sector noise.second with
    | (some bs, s) => (some bs, s.mergeServed own k)
    | (none, s) =>
      let s := s.bump F.hscStackCorrUncorr k
      let bad := fun (s : State) =>
        let s := s.badSector k (sector * 32) false
        (none, match own with
          | some (i, win) => (s.lastingUnit i win).sectorEvent i k win (some .uncorrectable)
          | none => s)
      let kp := stackOf s.key ((sector + 2 ^ 21 / 32) * 32)
      if mirror && (s.hsc kp).state == 0 then
        match s.readOnce kp (sector + 2 ^ 21 / 32) [] with
        | (some bs, s) => (some bs, (((s.rewrite sector bs).bump F.hscStackCorrRepaired k).readBack k sector []).mergeServed own k)
        | (none, s) => bad s
      else bad s

/-- A sector's new bytes go to its page and, through a mirrored leaf, to the partner page as well (R301). -/
def State.rewriteBoth (s : State) (sector : Nat) (bs : Bytes) (mirror : Bool) : State :=
  let s := s.rewrite sector bs
  if mirror then s.rewrite (sector + 2 ^ 21 / 32) bs else s

/-- Write bytes at a DPA: whole sectors replace, partial ones merge; false when a merge read fails (R300). -/
def State.writeOne (s : State) (dpa : Nat) (bs : Bytes) (mirror : Bool) (own : Option (Nat × Bool)) (noise : Noise) : Bool × State :=
  if bs.isEmpty then (true, s) else
  let first := dpa / 32
  let count := (dpa + bs.length - 1) / 32 + 1 - first
  (List.range count).foldl (fun (acc : Bool × State) j =>
    if !acc.1 then acc else
    let sector := first + j
    let lo := max dpa (sector * 32)
    let hi := min (dpa + bs.length) (sector * 32 + 32)
    let part := slice bs (lo - dpa) (hi - lo)
    if hi - lo = 32 then (true, acc.2.rewriteBoth sector part mirror)
    else match acc.2.mergeSector sector mirror own (if j = 0 then noise else Noise.none) with
      | (some old, s) => (true, s.rewriteBoth sector (overlay old (lo - sector * 32) part) mirror)
      | (none, s) => (false, s)) (true, s)

/-- A stack that a write at a DPA needs is down (R301, R418). -/
def State.writeFenced (s : State) (dpa : Nat) (mirror : Bool) : Bool := s.stackDown dpa || (mirror && s.stackDown (dpa + 2 ^ 21))

/-- Write for a context: both pages of a mirrored leaf, refused while either stack is down (R300, R301). -/
def State.writeDpa (s : State) (dpa : Nat) (bs : Bytes) (mirror : Bool) (own : Option (Nat × Bool)) (noise : Noise := Noise.none) : Status × State :=
  if s.writeFenced dpa mirror then (.fenced, s) else
  match s.writeOne dpa bs mirror own noise with
  | (false, s) => (.uncorrectable, s)
  | (true, s) => (.ok, s)

/-- The whole sectors around `n` bytes that an encrypted write merges: the ones it covers in part are read, the others need no read (R300, R455). -/
def State.mergeSpan (s : State) (dpa n : Nat) (mirror : Bool) (own : Option (Nat × Bool)) (noise : Noise := Noise.none) : Option Bytes × State :=
  let first := dpa / 32
  (List.range ((dpa + n - 1) / 32 + 1 - first)).foldl (fun (acc : Option Bytes × State) j =>
    match acc.1 with
    | none => acc
    | some bs =>
      let sector := first + j
      if dpa ≤ sector * 32 ∧ sector * 32 + 32 ≤ dpa + n then (some (bs ++ zeros 32), acc.2)
      else match acc.2.mergeSector sector mirror own (if j = 0 then noise else Noise.none) with
        | (some x, s) => (some (bs ++ x), s)
        | r => r) (some [], s)

/-! ### Translation (R303 to R312) -/

/-- Record the first translation fault (Table 11.12); a node whose stack is down makes none. -/
def State.ptFault (s : State) (reason tag va : Nat) : State :=
  if reason = 0 ∨ s.flag F.hscPtFaultValid then s else
  (((s.setF F.hscPtFaultValid 1).setF F.hscPtFaultReason reason).setF F.hscPtFaultCtxTag tag).setF F.hscPtFaultVpage (va / 2 ^ 21 % 2 ^ 27)

/-- Read one 8-byte table entry: reason 6 when the node sector is uncorrectable after one more read, reason 0 when its stack is down and refuses the read
(R418, R420). -/
def State.nodeRead (s : State) (dpa : Nat) (noise : Noise) : Except Nat Nat × State :=
  let k := stackOf s.key dpa
  let sector := dpa / 32
  if s.stackDown dpa then (.error 0, s) else
  match s.readOnce k sector noise.first with
  | (some bs, s) => (.ok (field bs (dpa % 32) 8), s)
  | (none, s) =>
    match s.readOnce k sector noise.second with
    | (some bs, s) => (.ok (field bs (dpa % 32) 8), s)
    | (none, s) => (.error 6, s)

/-- Whether a node lies in the page table area. -/
def inTables (dpa : Nat) : Bool := regionOf dpa == .tables

/-- Status of a reason of Table 11.7; 0 stands for a node whose stack is down. -/
def reasonStatus (r : Nat) : Status :=
  if r = 0 then .fenced else if r = 1 ∨ r = 2 then .pageFault else if r = 6 then .uncorrectable else if r = 8 then .staleContext else .accessViolation

/-- Number of a translator in the tables of the state. -/
def unitNumber : Translator → Nat
  | .se c => c.val
  | .ge e => 192 + e.val
  | .hiu => 208
  | .eth p => 209 + p.val
  | .link p => 211 + p.val
  | .mp => 219

/-- Leaf translations that a translator holds (Table 11.9). -/
def unitEntries : Translator → Nat
  | .se _ => 64
  | .ge _ => 128
  | .hiu => 256
  | .eth _ => 256
  | .link _ => 256
  | .mp => 32

/-- Field whose slice and walker a translator misses to: cores by R17, gather engines by R314; the others as log entry 37 places them. -/
def unitField : Translator → Nat
  | .se c => c.val / 48
  | .ge e => e.val / 4
  | .hiu => 0
  | .eth p => p.val
  | .link p => p.val / 2
  | .mp => 0

/-- A request that another chip sent is translated at the ingress of the port it came by (R310). -/
def fromFabric : Translator → Bool
  | .link _ => true
  | _ => false

/-- A cache of so many entries with one more; the oldest leaves a full cache (log entry 37). -/
def cacheKeep {α : Type} [BEq α] (size : Nat) (l : List α) (x : α) : List α :=
  if l.contains x then l else (l ++ [x]).drop (l.length + 1 - size)

/-- A level 1 or level 2 entry: from the node cache of the walker, else read from its node (R311). -/
def State.nodeEntry (s : State) (f i dpa : Nat) (noise : Noise) : Except Nat Nat × State :=
  match (s.nodes.get [] f).find? (fun n => n.ctx == i && n.dpa == dpa) with
  | some n => (.ok n.entry, s)
  | none => s.nodeRead dpa noise

/-- The node cache of a walker with an entry that a walk has passed through: 1,024 entries. -/
def State.keepNode (s : State) (f i dpa e : Nat) : State :=
  { s with nodes := s.nodes.put f (cacheKeep 1024 (s.nodes.get [] f) ⟨i, dpa, e⟩) }

/-- Entry of an address in a node of a level. -/
def entryDpa (node va level : Nat) : Nat := node + 8 * bits va (12 + 9 * level + 8) (12 + 9 * level)

/-- A walk of the three levels by the walker of a field: the leaf entry, or the reason it fails (R306 to R308). -/
def State.walk (s : State) (f i va : Nat) (noise : Noise) : Except Nat Nat × State :=
  let root := s.getF F.hscPtRootRoot i * 4096
  if !inTables root then (.error 2, s) else
  match s.nodeEntry f i (entryDpa root va 3) noise with
  | (.error r, s) => (.error r, s)
  | (.ok e1, s) =>
    if !bit e1 0 then (.error 1, s)
    else if bits e1 63 41 ≠ 0 ∨ bits e1 11 1 ≠ 0 then (.error 2, s) else
    let n2 := bits e1 40 12 * 4096
    if !inTables n2 then (.error 2, s) else
    let s := s.keepNode f i (entryDpa root va 3) e1
    match s.nodeEntry f i (entryDpa n2 va 2) Noise.none with
    | (.error r, s) => (.error r, s)
    | (.ok e2, s) =>
      if !bit e2 0 then (.error 1, s)
      else if bits e2 63 41 ≠ 0 ∨ bits e2 11 1 ≠ 0 then (.error 2, s) else
      let n3 := bits e2 40 12 * 4096
      if !inTables n3 then (.error 2, s) else
      let s := s.keepNode f i (entryDpa n2 va 2) e2
      match s.nodeRead (entryDpa n3 va 1) Noise.none with
      | (.error r, s) => (.error r, s)
      | (.ok e3, s) =>
        if !bit e3 0 then (.error 1, s)
        else if bits e3 63 41 ≠ 0 ∨ bits e3 20 7 ≠ 0 ∨ bits e3 2 1 ≠ 0 then (.error 2, s)
        else if bit e3 6 && bit e3 21 then (.error 2, s)
        else if 647168 ≤ bits e3 40 21 then (.error 3, s)
        else (.ok e3, s)

/-- A translated place in HBM; `va` is the address after the window substitution of R264. -/
structure Place where
  dpa : Nat
  mirror : Bool
  va : Nat
  deriving DecidableEq, Repr

/-- A translator with a leaf translation it has looked up. -/
def State.keepLeaf (s : State) (u : Translator) (x : Tlb) : State :=
  { s with tlb := s.tlb.put (unitNumber u) (cacheKeep (unitEntries u) (s.tlb.get [] (unitNumber u)) x) }

/-- A slice of the device translation cache with a leaf translation a walk has found: 4,096 entries. -/
def State.keepSlice (s : State) (f : Nat) (x : Tlb) : State :=
  { s with slices := s.slices.put f (cacheKeep 4096 (s.slices.get [] f) x) }

/-- The leaf for an address: from the translator, else from the slice of its field, else by a walk (R310, Table 11.8). -/
def State.leaf (s : State) (u : Translator) (i va : Nat) (noise : Noise) : Except Nat Nat × State :=
  let hit := fun (l : List Tlb) => l.find? (fun t => t.tag == s.tag i && t.vpage == va / 2 ^ 21)
  match hit (s.tlb.get [] (unitNumber u)) with
  | some t => (.ok t.leaf, s)
  | none =>
    match hit (s.slices.get [] (unitField u)) with
    | some t => (.ok t.leaf, s.keepLeaf u t)
    | none =>
      match s.walk (unitField u) i va noise with
      | (.ok l, s) => (.ok l, (s.keepSlice (unitField u) ⟨s.tag i, va / 2 ^ 21, l⟩).keepLeaf u ⟨s.tag i, va / 2 ^ 21, l⟩)
      | r => r

/-- Rights of an access on a leaf (Table 11.7, rows 4 and 5). -/
def leafAllows (leaf : Nat) (remote write : Bool) : Option Nat :=
  if remote then
    if write then (if bit leaf 5 && bit leaf 3 then none else some 5)
    else (if bit leaf 4 then none else some 5)
  else if write && !bit leaf 3 then some 4 else none

/-- The window substitution of R264: the address to walk, or ACCESS_VIOLATION for a write into the window. -/
def State.throughWindow (s : State) (i va : Nat) (write : Bool) : Option Nat :=
  match (s.ctx i).inv with
  | some v =>
    let (w, sz, b0, b1) := v.window
    if v.usesTide && decide (w ≤ va) && decide (va < w + sz) then
      if write then none else some (va - w + (if s.getF F.tideCtxBank i = 0 then b0 else b1))
    else some va
  | none => some va

/-- The address lies in the tide window while a failed load has partly written the active bank (R282). -/
def State.windowBroken (s : State) (i va : Nat) : Bool :=
  let c := s.ctx i
  match c.inv with
  | some v =>
    let (w, sz, _, _) := v.window
    v.usesTide && decide (w ≤ va) && decide (va < w + sz) && (if s.getF F.tideCtxBank i = 0 then c.bank0.broken else c.bank1.broken)
  | none => false

/-- Translate a context-virtual address of a tag for one access that stays in its 256-byte piece (R305 to R312). -/
def State.translate (s : State) (u : Translator) (tag va : Nat) (write : Bool) (noise : Noise := Noise.none) : Except Status Place × State :=
  let i := tagIndex tag
  let fail := fun (s : State) (r : Nat) => (Except.error (reasonStatus r), s.ptFault r tag va)
  if !s.flag F.hscPtRootEnable i then fail s 7
  else if s.tag i ≠ tag then fail s 8
  else if 2 ^ 48 ≤ va then fail s 9
  else if s.windowBroken i va then (.error .descInvalid, s)
  else match s.throughWindow i va write with
    | none => (.error .accessViolation, s)
    | some va =>
      if 2 ^ 48 ≤ va then fail s 9 else
      match s.leaf u i va noise with
      | (.error r, s) => fail s r
      | (.ok l, s) =>
        match leafAllows l (fromFabric u) write with
        | some r => fail s r
        | none => (.ok ⟨bits l 40 21 * 2 ^ 21 + va % 2 ^ 21, bit l 6, va⟩, s)

/-! ### Encrypted access (R455) -/

/-- How bytes are laid as XTS data units: by 32-byte sectors, or as part of one unit that begins so many bytes before them, with the unit's own DPA as
tweak (Table 17.7). -/
inductive Units where
  | sectors
  | unit (before : Nat)
  deriving DecidableEq, Repr

/-- The units of the bytes that lie `n` further on. -/
def Units.at : Units → Nat → Units
  | .sectors, _ => .sectors
  | .unit b, n => .unit (b + n)

/-- The 16-byte blocks of part of a data unit, from block `first`, under one of its two permutations. -/
def xtsBlocks (f : Equiv.Perm (BitVec 128) → BitVec 128 → BitVec 128) (key tweak first : Nat) (bs : Bytes) : Bytes :=
  ((chunks 16 bs).zipIdx.map (fun (b, j) => slice (natLe 16 (f (Config.xts key tweak (first + j)) (BitVec.ofNat 128 (leNat b))).toNat) 0 b.length)).flatten

/-- Bytes under a context's key, or the bytes themselves without one; what begins at a DPA and is laid out in such units. -/
def xtsBytes (f : Equiv.Perm (BitVec 128) → BitVec 128 → BitVec 128) (key : Option Nat) (u : Units) (dpa : Nat) (bs : Bytes) : Bytes :=
  match key with
  | none => bs
  | some k =>
    match u with
    | .unit b => xtsBlocks f k (dpa - b) (b / 16) bs
    | .sectors => ((chunks 32 bs).zipIdx.map (fun (b, j) => xtsBlocks f k (dpa + 32 * j) 0 b)).flatten

/-- Ciphertext of bytes for a context, the bytes themselves without a key. -/
def sealBytes (key : Option Nat) (u : Units) (dpa : Nat) (bs : Bytes) : Bytes := xtsBytes (fun p v => p v) key u dpa bs

/-- Plain text of bytes read for a context. -/
def openBytes (key : Option Nat) (u : Units) (dpa : Nat) (bs : Bytes) : Bytes := xtsBytes (fun p v => p.symm v) key u dpa bs

/-- Key of a context whose HBM is encrypted. -/
def State.hbmKey (s : State) (i : Nat) : Option Nat := (s.ctx i).hbmKey

/-- Cut [va, va + n) at 256-byte boundaries (R312), with fuel. -/
def pieces (va n : Nat) : Nat → List (Nat × Nat)
  | 0 => []
  | k + 1 => if n = 0 then [] else
    let m := min n (256 - va % 256)
    (va, m) :: pieces (va + m) (n - m) k

/-- Read [va, va + n) of a context in its own space on this chip: translated piece by piece, decrypted (R310, R312, R455). -/
def State.readVa (s : State) (t : Translator) (tag va n : Nat) (win : Bool) (u : Units := .sectors) (noise : Noise := Noise.none) : Fetched × State :=
  let i := tagIndex tag
  (pieces va n (n + 1)).foldl (fun (acc : Fetched × State) (p : Nat × Nat) =>
    match acc.1 with
    | .data bs =>
      match acc.2.translate t tag p.1 false with
      | (.error st, s) => (.failed st, s)
      | (.ok q, s) =>
        let lo := if u = .sectors then q.dpa / 32 * 32 else q.dpa
        let m := if u = .sectors then roundUp (q.dpa - lo + p.2) 32 else p.2
        match s.readDpa i lo m q.mirror win q.va (if p.1 = va then noise else Noise.none) with
        | (.data x, s) => (.data (bs ++ slice (openBytes (s.hbmKey i) (u.at (p.1 - va)) lo x) (q.dpa - lo) p.2), s)
        | r => r
    | _ => acc) (.data [], s)

/-- Write one piece at its place, encrypted; partial sectors are merged in plain text, then encrypted whole (R300, R455). -/
def State.writePiece (s : State) (q : Place) (bs : Bytes) (u : Units) (i : Nat) (win : Bool) (noise : Noise := Noise.none) : Status × State :=
  let own := some (i, win)
  match s.hbmKey i with
  | none => s.writeDpa q.dpa bs q.mirror own noise
  | some k =>
    match u with
    | .unit b => s.writeDpa q.dpa (sealBytes (some k) (.unit b) q.dpa bs) q.mirror own noise
    | .sectors =>
      if s.writeFenced q.dpa q.mirror then (.fenced, s) else
      let lo := q.dpa / 32 * 32
      match s.mergeSpan q.dpa bs.length q.mirror own noise with
      | (some old, s) => s.writeDpa lo (sealBytes (some k) .sectors lo (overlay (openBytes (some k) .sectors lo old) (q.dpa - lo) bs)) q.mirror own
      | (none, s) => (.uncorrectable, s)

/-- Write [va, va + n) of a context in its own space on this chip, piece by piece (R300, R301, R310, R312, R455). -/
def State.writeVa (s : State) (t : Translator) (tag va : Nat) (bs : Bytes) (win : Bool) (u : Units := .sectors) : Status × State :=
  (pieces va bs.length (bs.length + 1)).foldl (fun (acc : Status × State) (p : Nat × Nat) =>
    if acc.1 != .ok then acc else
    match acc.2.translate t tag p.1 true with
    | (.error st, s) => (st, s)
    | (.ok q, s) => s.writePiece q (slice bs (p.1 - va) p.2) (u.at (p.1 - va)) (tagIndex tag) win) (.ok, s)

end Sys2Proof.Machine
end

