-- ==== Sys2Proof/Machine/Operands.lean ====
section
/-! DEFINITION. Operation words: fetching, decode faults (Table 9.17), operand fields, loops and predicates (chapter 9). -/

namespace Sys2Proof.Machine

/-- Operations of Table 9.2. -/
inductive OpKind where
  | nop | endTask | loop | pset | matrix | vector | sfu | micro | uload | rowstat | arm
  | wait | arrive | target | test | move | compute | alloc | free | release | settle
  deriving DecidableEq, Repr

/-- The operation a first word names; none for a reserved CLASS or OP or a continuation word (R236, R237). -/
def opOf (w : Nat) : Option OpKind :=
  match bits w 127 124, bits w 123 120 with
  | 0, 1 => some .nop
  | 0, 2 => some .endTask
  | 0, 3 => some .loop
  | 0, 4 => some .pset
  | 1, 0 => some .matrix
  | 2, 0 => some .vector
  | 3, 0 => some .sfu
  | 3, 1 => some .micro
  | 3, 2 => some .uload
  | 4, 0 => some .rowstat
  | 5, 0 => some .arm
  | 6, 0 => some .wait
  | 6, 1 => some .arrive
  | 6, 2 => some .target
  | 6, 3 => some .test
  | 7, 0 => some .move
  | 7, 1 => some .compute
  | 8, 0 => some .alloc
  | 8, 1 => some .free
  | 8, 2 => some .release
  | 9, 0 => some .settle
  | _, _ => none

/-- Two-word operations of Table 9.2. -/
def OpKind.two : OpKind → Bool
  | .matrix => true
  | .vector => true
  | .sfu => true
  | .micro => true
  | .rowstat => true
  | _ => false

/-- A field is zero. -/
def zeroBits (w hi lo : Nat) : Bool := bits w hi lo == 0

/-- The bits of a first word that chapter 9 says are zero are zero (R239 to R254). -/
def zerosOk (k : OpKind) (w : Nat) : Bool :=
  match k with
  | .nop => zeroBits w 115 0
  | .endTask => zeroBits w 115 0
  | .move => zeroBits w 115 0
  | .compute => zeroBits w 115 0
  | .settle => zeroBits w 115 0
  | .loop => zeroBits w 78 0
  | .pset => zeroBits w 91 0 && (!bit w 108 || zeroBits w 107 92)
  | .matrix => true
  | .vector => zeroBits w 51 32
  | .sfu => zeroBits w 64 64 && zeroBits w 96 95 && (!bit w 97 || zeroBits w 31 0)
  | .micro => zeroBits w 64 64 && (!bit w 97 || zeroBits w 31 0)
  | .uload => zeroBits w 64 0
  | .rowstat => zeroBits w 70 64 && zeroBits w 31 0 && (bits w 115 112 == 3 || zeroBits w 63 32)
  | .arm => zeroBits w 64 64
  | .wait => zeroBits w 109 0
  | .test => zeroBits w 109 65 && zeroBits w 62 0
  | .target => zeroBits w 86 0
  | .arrive => zeroBits w 64 0
  | .alloc => zeroBits w 64 0 && (bit w 95 || zeroBits w 92 65)
  | .free => zeroBits w 107 0
  | .release => zeroBits w 96 0

/-- Number of sources of a VECTOR function (Table 9.9); none for a reserved FN. -/
def fnSources (fn : Nat) : Option Nat :=
  if fn = 3 ∨ fn = 0x0B then some 3
  else if fn = 8 ∨ fn = 9 ∨ fn = 0x0C then some 1
  else if fn ≤ 0x0A ∨ (0x10 ≤ fn ∧ fn ≤ 0x1A) then some 2
  else none

/-- MX formats of Table 9.6. -/
def isMx (c : Nat) : Bool := c == 2 || c == 3 || c == 4 || c == 5 || c == 7

/-- Unused operand fields of a continuation word are zero (R244, R248 to R250). -/
def contZeros (k : OpKind) (w v : Nat) : Bool :=
  let f1 := bits v 115 87; let f2 := bits v 86 58; let f3 := bits v 57 29; let f4 := bits v 28 0
  match k with
  | .vector =>
    let fn := bits w 115 110
    let n := (fnSources fn).getD 3
    let imm := fun (hi lo : Nat) => bits w hi lo == 3
    let conv := fn == 0x0C
    (!imm 87 86 || f1 == 0) &&
    (if n ≥ 2 then (!imm 85 84 || f2 == 0) else (f2 == 0 || (conv && isMx (bits w 103 100)))) &&
    (if n ≥ 3 then (!imm 83 82 || f3 == 0) else (f3 == 0 || (conv && isMx (bits w 91 88))))
  | .sfu => f2 == 0 && (bit w 97 || f3 == 0)
  | .micro => bit w 97 || f3 == 0
  | .rowstat =>
    let fn := bits w 115 112
    (if fn == 2 || fn == 5 then f1 == 0 else true) && (bit w 72 || f3 == 0) && (bit w 71 || f4 == 0)
  | _ => true

/-- A word of a code polder; none beyond the polder or when its codeword is uncorrectable. -/
def State.word (s : State) (core h idx : Nat) : Option Nat × State :=
  let c := s.core core
  let p := c.polder h
  if p.length * granule < 16 * idx + 16 then (none, s)
  else match s.spmRead core (c.abs h (16 * idx)) 16 with
    | (some bs, s) => (some (leNat bs), s)
    | (none, s) => (none, s)

/-- What the sequencer finds at the running task's position. -/
inductive Issue where
  | idle
  | fault (st : Status)
  | op (k : OpKind) (skip : Bool) (w v : Nat)
  deriving DecidableEq, Repr

/-- The predicate of a word holds (R236, R241). -/
def predOk (sl : Slot) (w : Nat) : Bool :=
  !bit w 119 || ((sl.preds.getD (bits w 117 116) false) != bit w 118)

/-- Decode the running task's next operation (R255): the first word in full, in the order of Table 9.17, then the second. -/
def State.decodeAt (s : State) (core : Nat) (sl : Slot) : Issue × State :=
  let c := s.core core
  let h := sl.codeHandle
  let p := c.polder h
  if !p.valid || p.owner != sl.tag || !p.code then (.fault .accessViolation, s) else
  let beyond := decide (p.length * granule < 16 * sl.pc + 16)
  match s.word core h sl.pc with
  | (none, s) => (.fault (if beyond then .accessViolation else .uncorrectable), s)
  | (some w, s) =>
    match opOf w with
    | none => (.fault .descInvalid, s)
    | some k =>
      if !zerosOk k w then (.fault .descInvalid, s)
      else if !bit w 119 && !zeroBits w 118 116 then (.fault .descInvalid, s)
      else if k == .uload && !s.expert then (.fault .accessViolation, s.bump F.glbExpertDenied)
      else if k.two then
        let far := decide (p.length * granule < 16 * (sl.pc + 1) + 16)
        match s.word core h (sl.pc + 1) with
        | (none, s) => (.fault (if far then .accessViolation else .uncorrectable), s)
        | (some v, s) =>
          if bits v 127 124 ≠ bits w 127 124 ∨ bits v 123 120 ≠ 15 then (.fault .descInvalid, s)
          else if !zeroBits v 119 116 || !contZeros k w v then (.fault .descInvalid, s)
          -- a reserved FN is no row of Table 9.17: only an operation that runs fails on it
          else if k == .rowstat && bits w 115 112 > 5 && predOk sl w then (.fault .descInvalid, s)
          else (.op k (!predOk sl w) w v, s)
      else (.op k (!predOk sl w) w 0, s)

/-- The running slot of a core whose task may issue: its core runs, its INVOKE lives, no ALLOC of the task is unfinished (R135, R233, R418). -/
def State.ready (s : State) (core : Nat) : Option (Nat × Slot) :=
  let c := s.core core
  match c.running with
  | none => none
  | some i =>
    let sl := c.slot i
    if c.rst = 0 ∧ sl.state = 2 ∧ s.live sl.tag ∧ !(c.allocs.any (fun a => a.reply.isNone && (c.polder a.handle).owner == sl.tag)) then some (i, sl) else none

/-! ### Position, loops -/

/-- Close loops whose body ends at the position: next pass, or the word after the body (R239), with fuel. -/
def endLoops (sl : Slot) : Nat → Slot
  | 0 => sl
  | k + 1 =>
    match sl.loops with
    | [] => sl
    | l :: ls =>
      if sl.pc ≠ l.stop then sl
      else
        let v := sl.lcs.getD l.lc 0
        if v + 1 < l.count then { sl with pc := l.start, lcs := sl.lcs.set l.lc (v + 1) }
        else endLoops { sl with loops := ls } k

/-- Move past `n` words. -/
def Slot.advance (sl : Slot) (n : Nat) : Slot := endLoops { sl with pc := sl.pc + n } 9

/-- Put a task's slot back after an operation of `n` words, noting that its core and context made progress (Table 16.6). -/
def State.step1 (s : State) (core i n : Nat) : State :=
  let c := s.core core
  let sl := c.slot i
  let s := s.setCore core { c.setSlot i (sl.advance n) with progressAt := s.time }
  s.progress (tagIndex sl.tag)

/-! ### Operand fields (Table 9.5) -/

/-- An operand: handle, first row in its polder, exactly (R244). -/
def addr (sl : Slot) (f : Nat) : Nat × Nat :=
  let sh := bits f 3 0
  (bits f 28 21, bits f 20 7 + (if sh < 15 then sl.lcs.getD (bits f 6 4) 0 * 2 ^ sh else 0))

/-- Operand field F1 to F4 of a continuation word (R238). -/
def contField (v n : Nat) : Nat :=
  if n = 1 then bits v 115 87 else if n = 2 then bits v 86 58 else if n = 3 then bits v 57 29 else bits v 28 0

/-! ### Waiting on earlier operations (R70, R91, R253) -/

/-- The task of a slot has an operation in the ME or the VU. -/
def CoreSt.busy (c : CoreSt) (slot : Nat) : Bool := c.me.any (·.slot == slot) || c.vu.any (·.slot == slot)

/-- A handle that an earlier operation of the task in the ME or VU names, its accumulators included. -/
def CoreSt.touches (c : CoreSt) (slot h : Nat) : Bool :=
  c.me.any (fun o => o.slot == slot && (o.handles.contains h || o.accs.contains h)) ||
  c.vu.any (fun o => o.slot == slot && o.uses.contains h)

/-- A CONVERT that draws from the rounding generator: RND stochastic and a target other than FP32 and INT32 (R45, R48, R178; log entry 34). -/
def VuOp.draws (o : VuOp) : Bool := o.kind == .vector && bits o.word 115 110 == 0x0C && bits o.word 105 104 == 1 && !([11, 12] : List Nat).contains (bits o.word 91 88)

/-- A handle that an earlier MATRIX of the task writes (R70). -/
def CoreSt.accumulating (c : CoreSt) (slot h : Nat) : Bool := c.me.any (fun o => o.slot == slot && o.accs.contains h)

end Sys2Proof.Machine
end

