-- ==== Sys2Proof/Machine/Sequencer.lean ====
section
/-! DEFINITION. The sequencer and the context scheduler's task slots: control, barrier, phase and check operations, task switching (chapters 8 and 9). -/

namespace Sys2Proof.Machine

/-! ### Task slots -/

/-- The ready slot to run next: highest priority, then round robin from the slot after the one that ran last (R229). -/
def CoreSt.pick (c : CoreSt) : Option Nat :=
  let order := (List.range 4).map (fun j => (c.lastRan + 1 + j) % 4)
  let rdy := order.filter (fun i => (c.slot i).state == 1)
  match rdy with
  | [] => none
  | i :: t => some (t.foldl (fun b j => if (c.slot b).prio < (c.slot j).prio then j else b) i)

/-- With no task running and the ME and VU empty, the core gates its clock (R229). -/
def State.gate (s : State) (core : Nat) : State :=
  let c := s.core core
  if c.running.isNone && c.me.isEmpty && c.vu.isEmpty && !c.gated then
    (s.setCore core { c with gated := true }).bump F.seqEventsGated core
  else s

/-- Select and start a ready slot when none runs (Table 8.9), or go idle. -/
def State.switch (s : State) (core : Nat) : State :=
  let c := s.core core
  if c.running.isSome then s else
  match c.pick with
  | none => s.gate core
  | some i =>
    let c := c.setSlot i { c.slot i with state := 2 }
    (s.setCore core { c with running := some i, gated := false, progressAt := s.time }).bump F.seqSwitchesCount core

/-- The running task leaves the sequencer: its slot as given, then the next is selected (R228). -/
def State.yield (s : State) (core i : Nat) (sl : Slot) : State :=
  let c := s.core core
  (s.setCore core { c.setSlot i sl with running := none, lastRan := i }).switch core

/-- A waiting task becomes ready, and runs at once on an idle core (R227, R229). -/
def State.wake (s : State) (core i : Nat) : State :=
  let c := s.core core
  (s.setCore core (c.setSlot i { c.slot i with state := 1, waitCtr := 0 })).switch core

/-- The CXS fills free slots of a core from its waiting tasks, by priority and then round robin from the context after the last served (R231). -/
def State.cxsLoad (s : State) (core : Nat) : Nat → State
  | 0 => s
  | k + 1 =>
    let c := s.core core
    let taken := c.queue.filterMap (·.slot)
    let free := (List.range 4).filter (fun i => let sl := c.slot i; sl.state == 0 && !sl.ending && !taken.contains i)
    let cand := c.queue.filter (fun w => w.slot.isNone && s.live w.tag)
    match free, cand with
    | slot :: _, w :: ws =>
      let top := (w :: ws).foldl (fun p x => max p x.prio) 0
      let dist := fun (x : Waiting) => (tagIndex x.tag + 1024 - (c.lastCtx + 1)) % 1024
      let best := ((w :: ws).filter (·.prio == top)).foldl (fun (b : Option Waiting) x =>
        match b with
        | none => some x
        | some y => if dist x < dist y then some x else b) none
      match best with
      | none => s
      | some x =>
        let q := c.queue.map (fun y => if y.tag == x.tag && y.task == x.task && y.slot.isNone then { y with slot := some slot } else y)
        let s := s.setCore core { c with queue := q, lastCtx := tagIndex x.tag }
        (s.send 16383 core 0x20 x.tag 0xFF 0 (slot + 256 * x.task)).cxsLoad core k
    | _, _ => s

/-- An ended task's slot frees once its operations have left the ME and VU; the CXS may then load another task (R231). -/
def State.freeSlot (s : State) (core i : Nat) : State :=
  let c := s.core core
  let sl := c.slot i
  if sl.ending && !c.busy i then (s.setCore core (c.setSlot i .empty)).cxsLoad core 4 else s

/-! ### Running an operation -/

/-- Run the running task's next operation when it is the kind wanted: a decode fault faults its context (R255), a failed predicate
skips it (R242); `f` gives its meaning from slot, words and state. -/
def State.runOp (s : State) (core : Nat) (want : OpKind → Nat → Bool) (f : Nat → Slot → Nat → Nat → State → State) : State :=
  match s.ready core with
  | none => s
  | some (i, sl) =>
    match s.decodeAt core sl with
    | (.idle, _) => s
    | (.fault st, s) => s.faultTag sl.tag st
    | (.op k skip w v, s1) =>
      if !want k w then s
      else if skip then
        let n := if k == .loop then 1 + bits w 96 79 else if k.two then 2 else 1
        s1.step1 core i n
      else f i sl w v s1

/-- NOP: one issue cycle (R253). -/
def execControlNop (core : CoreId) (s : State) : Host.Outcome State Fault Refusal :=
  .next (s.runOp core (fun k _ => k == .nop) (fun i _ _ _ s => s.step1 core i 1))

/-- END: the task ends, a running loop notwithstanding; its slot frees when its operations have left the ME and VU (R231, R240). -/
def execEnd (core : CoreId) (s : State) : Host.Outcome State Fault Refusal :=
  .next (s.runOp core (fun k _ => k == .endTask) (fun i _ _ _ s =>
    let s := s.step1 core i 1
    let sl := (s.core core).slot i
    s.yield core i { sl with state := 0, ending := true, loops := [] }))

/-- LOOP: nesting checks, then the body runs COUNT times on the counter (R239, R240). -/
def execLoop (core : CoreId) (s : State) : Host.Outcome State Fault Refusal :=
  .next (s.runOp core (fun k _ => k == .loop) (fun i sl w _ s =>
    let lc := bits w 115 113
    let count := bits w 112 97
    let body := bits w 96 79
    let stop := sl.pc + 1 + body
    if sl.loops.any (·.lc == lc) then s.faultTag sl.tag .descInvalid
    else if sl.loops.any (fun l => decide (l.stop < stop)) then s.faultTag sl.tag .descInvalid
    else if body = 0 then s.faultTag sl.tag .descInvalid
    else
      let p := (s.core core).polder sl.codeHandle
      if p.length * granule < 16 * stop then s.faultTag sl.tag .accessViolation else
      match s.word core sl.codeHandle (stop - 1) with
      | (none, s) => s.faultTag sl.tag .uncorrectable
      | (some last, s) =>
        if (match opOf last with | some k => k.two | none => false) then s.faultTag sl.tag .descInvalid else
        let sl' := { sl with lcs := sl.lcs.set lc 0, lasts := sl.lasts.set lc ((count + 65535) % 65536) }
        if count = 0 then
          let s := s.setCore core ((s.core core).setSlot i sl')
          s.step1 core i (1 + body)
        else
          let s := s.setCore core ((s.core core).setSlot i { sl' with loops := ⟨lc, sl.pc + 1, stop, count⟩ :: sl.loops })
          s.step1 core i 1))

/-- The relation a PSET tests (Table 9.4). -/
def psetHolds (rel a b : Nat) : Bool :=
  if rel = 0 then a == b else if rel = 1 then a != b else if rel = 2 then decide (a < b) else decide (b ≤ a)

/-- PSET: a predicate from a loop counter (R241). -/
def execPset (core : CoreId) (s : State) : Host.Outcome State Fault Refusal :=
  .next (s.runOp core (fun k _ => k == .pset) (fun i sl w _ s =>
    let lc := bits w 113 111
    let b := if bit w 108 then sl.lasts.getD lc 0 else bits w 107 92
    let r := psetHolds (bits w 110 109) (sl.lcs.getD lc 0) b
    let s := s.setCore core ((s.core core).setSlot i { sl with preds := sl.preds.set (bits w 115 114) r })
    s.step1 core i 1))

/-! ### Barriers (R227, R252) -/

/-- The counter of a task's context, or ACCESS_VIOLATION (R252). -/
def CoreSt.boundBar (c : CoreSt) (tag k : Nat) : Bool := (c.bar k).bound && (c.bar k).owner == tag

/-- Every task of an INVOKE has ended on every core of the device (R231). -/
def State.tasksOver (s : State) (tag : Nat) : Bool :=
  s.cores.all (fun p => p.2.queue.all (fun w => w.tag != tag) && p.2.slots.all (fun q => !((q.2.state != 0 || q.2.ending) && q.2.tag == tag)))

/-- Runs of an entry whose trigger a counter meets at once: each takes TARGET, a TARGET of zero meets every run that is left (R323). -/
def GEntry.due (x : GEntry) (b : Bar) : Nat :=
  let left := field x.desc 6 2 - (x.runs + x.met.length)
  if b.target = 0 then left else min left (b.count / b.target)

/-- A counter that has reached its target serves its waiter: the task takes TARGET and becomes ready; the runs of an engine's entry that it meets are due from
now on, unless the last task of their INVOKE has ended (Table 8.8, R322, R323). -/
def State.serveWaiter (s : State) (core k : Nat) : State :=
  let c := s.core core
  let b := c.bar k
  if b.count < b.target then s else
  match b.waiter with
  | none => s
  | some (.slot i) => (s.setCore core (c.setBar k { b with count := b.count - b.target, waiter := none })).wake core i
  | some (.engine e) =>
    let g := s.engine e
    let mine := fun (x : GEntry) => field x.desc 50 1 == core && field x.desc 51 1 == k && !s.tasksOver x.tag
    let n := ((g.entries.filter mine).map (fun x => x.due b)).sum
    if 0 < n then
      (s.setCore core (c.setBar k { b with count := b.count - n * b.target })).setEngine e
        { g with entries := g.entries.map (fun x => if mine x then { x with met := x.met ++ List.replicate (x.due b) s.time } else x) }
    else s

/-- WAIT: consume the target, or wait and yield the slot (Table 8.8). -/
def execBarrierWait (core : CoreId) (s : State) : Host.Outcome State Fault Refusal :=
  .next (s.runOp core (fun k _ => k == .wait) (fun i sl w _ s =>
    let k := bits w 115 110
    let c := s.core core
    let b := c.bar k
    if !c.boundBar sl.tag k then s.faultTag sl.tag .accessViolation
    else if b.waiter.isSome then s.faultTag sl.tag .descInvalid
    else if b.target ≤ b.count then (s.setCore core (c.setBar k { b with count := b.count - b.target })).step1 core i 1
    else
      let s := s.step1 core i 1
      let c := (s.core core).setBar k { b with waiter := some (.slot i) }
      (s.setCore core c).yield core i { c.slot i with state := 3, waitCtr := k, waitSince := s.time }))

/-- ARRIVE: once the task's earlier operations have committed, an arrival leaves by culvert (R91, R252). -/
def execBarrierArrive (core : CoreId) (s : State) : Host.Outcome State Fault Refusal :=
  .next (s.runOp core (fun k _ => k == .arrive) (fun i sl w _ s =>
    let n := bits w 109 87
    if n = 0 ∨ 191 < bits w 72 65 then s.faultTag sl.tag .descInvalid
    else if (s.core core).busy i then s
    else (s.step1 core i 1).sendNamed (bits w 86 73) (bits w 72 65) 0x01 sl.tag core 0 (bits w 115 110 + 256 * n)))

/-- TARGET: a new target; a task that waits may become ready at once (Table 8.8). -/
def execBarrierTarget (core : CoreId) (s : State) : Host.Outcome State Fault Refusal :=
  .next (s.runOp core (fun k _ => k == .target) (fun i sl w _ s =>
    let k := bits w 115 110
    let c := s.core core
    if !c.boundBar sl.tag k then s.faultTag sl.tag .accessViolation
    else ((s.setCore core (c.setBar k { c.bar k with target := bits w 109 87 })).step1 core i 1).serveWaiter core k))

/-- TEST: a predicate from COUNT ≥ TARGET (Table 9.15). -/
def execBarrierTest (core : CoreId) (s : State) : Host.Outcome State Fault Refusal :=
  .next (s.runOp core (fun k _ => k == .test) (fun i sl w _ s =>
    let k := bits w 115 110
    let c := s.core core
    let b := c.bar k
    if !c.boundBar sl.tag k then s.faultTag sl.tag .accessViolation
    else (s.setCore core (c.setSlot i { sl with preds := sl.preds.set (bits w 64 63) (decide (b.target ≤ b.count)) })).step1 core i 1))

/-! ### Phases and SETTLE -/

/-- PHASE MOVE (R225). -/
def execPhaseMove (core : CoreId) (s : State) : Host.Outcome State Fault Refusal :=
  .next (s.runOp core (fun k _ => k == .move) (fun i sl _ _ s =>
    (s.setCore core ((s.core core).setSlot i { sl with compute := false })).step1 core i 1))

/-- PHASE COMPUTE; while the weir throttles phases the task waits to enter (R225, R466). -/
def execPhaseCompute (core : CoreId) (s : State) : Host.Outcome State Fault Refusal :=
  .next (s.runOp core (fun k _ => k == .compute) (fun i sl _ _ s =>
    if s.phaseHold then s
    else (s.setCore core ((s.core core).setSlot i { sl with compute := true })).step1 core i 1))

/-- SETTLE: waits until the task's earlier arithmetic has committed (R253). -/
def execCheckSettle (core : CoreId) (s : State) : Host.Outcome State Fault Refusal :=
  .next (s.runOp core (fun k _ => k == .settle) (fun i _ _ _ s => if (s.core core).busy i then s else s.step1 core i 1))

/-- An ended task's operations have left the ME and the VU: the slot frees (R231). -/
def execSlotFree (core : CoreId) (slot : SlotId) (s : State) : Host.Outcome State Fault Refusal :=
  .next (s.freeSlot core slot)

/-- The core's phase lets streams issue: MOVE or IDLE (R225). -/
def CoreSt.moving (c : CoreSt) : Bool :=
  c.me.isEmpty && c.vu.isEmpty && (match c.running with | none => true | some i => !(c.slot i).compute)

end Sys2Proof.Machine
end

