-- ==== Sys2Proof/Machine/Compress.lean ====
section
/-! DEFINITION. Block compression: tags, code tables, packing, expansion and damage checks (chapter 6). -/

namespace Sys2Proof.Machine

/-- Bytes of a block and of a slot (R145). -/
def blockBytes : Nat := 2048

/-! ### Tags (Table 6.1) -/

/-- FORMAT of a tag: 0 ZERO, 1 CODED, 2 RAW. -/
def tagFormat (t : Bytes) : Nat := field t 0 1 % 4
/-- TABLE_SLOT of a tag. -/
def tagTable (t : Bytes) : Nat := field t 0 1 / 4
/-- CLASS bit of a tag. -/
def tagClassW (t : Bytes) : Bool := field t 1 1 % 2 == 1
/-- PAYLOAD_LEN of a tag. -/
def tagLen (t : Bytes) : Nat := field t 2 2 % 4096
/-- CRC of a tag. -/
def tagCrc (t : Bytes) : Nat := field t 4 4
/-- TABLE_ID of a tag. -/
def tagTableId (t : Bytes) : Nat := field t 8 2
/-- LANE_LEN of lane `i`. -/
def tagLane (t : Bytes) (i : Nat) : Nat := bits (field t 10 28) (7 * i + 6) (7 * i)

/-- Stored payload bytes of a block: whole codewords (R146, R172). -/
def storedLen (t : Bytes) : Nat := if tagFormat t = 1 then roundUp (tagLen t) 32 else if tagFormat t = 2 then 2048 else 0

/-- A tag from its fields, TAG_CRC formed (Table 6.1). -/
def makeTag (format slot : Nat) (classW : Bool) (len crc tableId : Nat) (lanes : List Nat) : Bytes :=
  let body := natLe 1 (format + 4 * slot) ++ natLe 1 (b2n classW) ++ natLe 2 len ++ natLe 4 crc ++ natLe 2 tableId ++
    natLe 28 (lanes.zipIdx.foldl (fun v (l, i) => v + l % 128 * 2 ^ (7 * i)) 0) ++ zeros 22
  body ++ natLe 4 (crc32c body)

/-! ### Code tables (R152 to R157) -/

/-- Zeros a zero-run symbol 256 to 271 stands for (Table 6.2). -/
def runLengths : List Nat := [2, 3, 4, 5, 6, 7, 8, 10, 12, 16, 20, 24, 32, 40, 48, 64]

/-- The 272 lengths of a table record (R157). -/
def recordLens (r : Bytes) : List Nat :=
  (List.range 272).map (fun s => bits (field r (s / 2) 1) (4 * (s % 2) + 3) (4 * (s % 2)))

/-- Kraft sum in units of 2^−12. -/
def kraft (lens : List Nat) : Nat := lens.foldl (fun t l => if l = 0 then t else t + 2 ^ (12 - min l 12)) 0

/-- A valid table (Table 6.3). -/
def validTable (lens : List Nat) : Bool :=
  lens.any (· != 0) && lens.all (fun l => decide (l ≤ 12)) && decide (kraft lens < 4096)

/-- A table record that TABLE_LOAD accepts (R163). -/
def validRecord (r : Bytes) : Bool :=
  validTable (recordLens r) && field r 136 4 == crc32c (slice r 0 136) && zeroAt r 140 116

/-- The record of a table (Table 6.4). -/
def tableRecord (lens : List Nat) : Bytes :=
  let body := natLe 136 (lens.zipIdx.foldl (fun v (l, s) => v + l % 16 * 16 ^ s) 0)
  body ++ natLe 4 (crc32c body) ++ zeros 116

/-- TABLE_ID of a table. -/
def tableId (lens : List Nat) : Nat := field (tableRecord lens) 136 2

/-- Symbols with codes in canonical order: by length, then by number (R154). -/
def canonicalOrder (lens : List Nat) : List (Nat × Nat) :=
  ((List.range 12).map (fun k => (lens.zipIdx.filter (fun p => p.1 == k + 1)).map (fun p => (p.2, k + 1)))).flatten

/-- Codewords of a table: (symbol, length, code) (R154). -/
def codewords (lens : List Nat) : List (Nat × Nat × Nat) :=
  ((canonicalOrder lens).foldl (fun (acc : List (Nat × Nat × Nat) × Nat × Nat) (p : Nat × Nat) =>
    let code := acc.2.1 * 2 ^ (p.2 - acc.2.2)
    (acc.1 ++ [(p.1, p.2, code)], code + 1, p.2)) ([], 0, 0)).1

/-! ### Symbols of a lane (R159) -/

/-- Symbols of a run of `n` zeros: greedy by the longest coded run that fits, then single zeros; `coded` tells what the table codes. -/
def zeroRun (coded : Nat → Bool) : Nat → Nat → List Nat
  | 0, _ => []
  | fuel + 1, n =>
    if n = 0 then [] else
    match (runLengths.zipIdx.reverse).find? (fun p => coded (256 + p.2) && decide (p.1 ≤ n)) with
    | some p => (256 + p.2) :: zeroRun coded fuel (n - p.1)
    | none => 0 :: zeroRun coded fuel (n - 1)

/-- Symbols of a lane, with the zeros met so far. -/
def laneSymbols (coded : Nat → Bool) : Bytes → Nat → List Nat
  | [], z => zeroRun coded z z
  | b :: bs, z => if b = 0 then laneSymbols coded bs (z + 1) else zeroRun coded z z ++ b.toNat :: laneSymbols coded bs 0

/-- Bytes a symbol stands for. -/
def symbolBytes (s : Nat) : Bytes := if s < 256 then [BitVec.ofNat 8 s] else zeros (runLengths.getD (s - 256) 0)

/-! ### Coding a lane (R156) -/

/-- A lane's payload: codewords from bit 7 of the first byte down, zero padding; none when a symbol has no code. -/
def codeLane (book : List (Nat × Nat × Nat)) (lane : Bytes) : Option Bytes :=
  let syms := laneSymbols (fun s => book.any (·.1 == s)) lane 0
  let r := syms.foldl (fun (acc : Option (Nat × Nat)) s =>
    match acc, book.find? (·.1 == s) with
    | some (v, n), some (_, l, c) => some (v * 2 ^ l + c, n + l)
    | _, _ => none) (some (0, 0))
  r.map (fun (v, n) =>
    let len := ceilDiv n 8
    (natLe len (v * 2 ^ (8 * len - n))).reverse)

/-- How a lane's decoding ends: its bytes, or a cause of Table 6.6. -/
def decodeLaneFuel (book : List (Nat × Nat × Nat)) (v n : Nat) : Nat → Nat → Nat → Bytes → Except Nat Bytes
  | 0, _, _, _ => .error 7
  | fuel + 1, pos, made, acc =>
    let left := n - pos
    if made = 64 then
      if 8 ≤ left then .error 7
      else if v % 2 ^ left ≠ 0 then .error 8
      else .ok acc
    else
      let rest := v % 2 ^ left
      match book.find? (fun b => decide (b.2.1 ≤ left) && rest / 2 ^ (left - b.2.1) == b.2.2) with
      | some (s, l, _) =>
        let m := (symbolBytes s).length
        if 64 < made + m then .error 7 else decodeLaneFuel book v n fuel (pos + l) (made + m) (acc ++ symbolBytes s)
      | none =>
        -- a string that some longer codeword begins with has run out of bits; any other is reserved
        if book.any (fun b => decide (left < b.2.1) && b.2.2 / 2 ^ (b.2.1 - left) == rest) then .error 7 else .error 6

/-- Decode one lane of 64 bytes. -/
def decodeLane (book : List (Nat × Nat × Nat)) (bs : Bytes) : Except Nat Bytes :=
  decodeLaneFuel book (leNat bs.reverse) (8 * bs.length) 66 0 0 []

/-! ### Damage checks (Table 6.6) -/

/-- Causes 1 to 3: none when the tag passes. -/
def tagCause (t : Bytes) : Option Nat :=
  let f := tagFormat t
  if field t 60 4 ≠ crc32c (slice t 0 60) then some 1
  else if f = 3 ∨ field t 1 1 / 2 ≠ 0 ∨ field t 2 2 / 4096 ≠ 0 ∨ !zeroAt t 38 22 ∨
    (f ≠ 1 ∧ (tagTable t ≠ 0 ∨ tagTableId t ≠ 0 ∨ !zeroAt t 10 28)) then some 2
  else if (f = 1 ∧ (tagLen t < 32 ∨ 1952 < tagLen t)) ∨ (f = 2 ∧ tagLen t ≠ 2048) ∨ (f = 0 ∧ tagLen t ≠ 0) then some 3
  else none

/-- Expand a block whose tag passes causes 1 to 3: its 2,048 bytes, or the first failing cause. -/
def expandBody (lens : List Nat) (t payload : Bytes) : Except Nat Bytes :=
  let crcOk := fun (bs : Bytes) => if crc32c bs = tagCrc t then Except.ok bs else .error 9
  match tagFormat t with
  | 0 => crcOk (zeros 2048)
  | 2 => crcOk (slice payload 0 2048)
  | _ =>
    let ls := (List.range 32).map (tagLane t)
    if ls.any (fun l => l == 0 || decide (96 < l)) then .error 4
    else if ls.foldl (· + ·) 0 ≠ tagLen t then .error 5
    else
      let book := codewords lens
      let cut := (ls.foldl (fun (acc : List Bytes × Nat) l => (acc.1 ++ [slice payload acc.2 l], acc.2 + l)) ([], 0)).1
      let out := cut.map (decodeLane book)
      let causes := out.filterMap (fun r => match r with | .error k => some k | .ok _ => none)
      match causes.min? with
      | some k => .error k
      | none => crcOk ((out.map (fun r => match r with | .ok b => b | .error _ => [])).flatten)

/-- What an expander makes of a block (R168, R169). -/
inductive Expanded where
  | bytes (bs : Bytes)
  | damaged (cause : Nat)
  | refused (st : Status)
  deriving DecidableEq, Repr

/-- Expand a block through a core's table slots for a task's tag; `cls` is the class of the polder it arrives at, when it arrives at one. -/
def CoreSt.expand (c : CoreSt) (tag : Nat) (t payload : Bytes) (cls : Option Bool) : Expanded :=
  match tagCause t with
  | some k => .damaged k
  | none =>
    if cls == some false && tagClassW t then .refused .accessViolation
    else
      let sl := c.tslots.get .clear (tagTable t)
      if tagFormat t = 1 then
        if !sl.valid then .refused .descInvalid
        else if sl.owner ≠ tag then .refused .accessViolation
        else if tableId sl.lens ≠ tagTableId t then .refused .descInvalid
        else match expandBody sl.lens t payload with
          | .ok bs => .bytes bs
          | .error k => .damaged k
      else match expandBody [] t payload with
        | .ok bs => .bytes bs
        | .error k => .damaged k

/-- Count a damage check failure, and keep the first cause (Table 6.12). -/
def State.damage (s : State) (core cause : Nat) (streamEngine : Bool) : State :=
  let s := s.bump F.seCmpDamageCount core
  if s.flag F.seCmpDamageValid core then s
  else ((s.setF F.seCmpDamageValid 1 core).setF F.seCmpDamageExpander (b2n streamEngine) core).setF F.seCmpDamageCause cause core

/-- A block that failed twice (Table 6.12, LASTING). -/
def State.damageLasting (s : State) (core : Nat) : State := s.bump F.seCmpDamageLasting core

/-! ### Building a table (R158 to R160) -/

/-- Counts of the 272 symbols of a block, every zero-run symbol coded (R159). -/
def blockHistogram (hist : List Nat) (block : Bytes) : List Nat :=
  ((chunks 64 (slice block 0 2048)).map (fun l => laneSymbols (fun _ => true) l 0)).flatten.foldl (fun h s => h.modify s (· + 1)) hist

/-- A package of symbols with its weight; symbol 272 is the reserve. -/
structure Package where
  weight : Nat
  syms : List Nat
  deriving DecidableEq, Repr

/-- Insert by weight, after packages of equal weight. -/
def insertPackage (p : Package) : List Package → List Package
  | [] => [p]
  | q :: qs => if p.weight < q.weight then p :: q :: qs else q :: insertPackage p qs

/-- Pair neighbours; a last odd one is dropped. -/
def pairPackages : List Package → List Package
  | a :: b :: r => ⟨a.weight + b.weight, a.syms ++ b.syms⟩ :: pairPackages r
  | _ => []

/-- Package-merge rounds: `k` pairings over the items. -/
def packageRounds (items : List Package) : Nat → List Package
  | 0 => items
  | k + 1 => (pairPackages (packageRounds items k)).foldl (fun l p => insertPackage p l) items

/-- Code lengths of a histogram with limit 12 and one reserve symbol (R160); none when nothing was counted. -/
def buildTable (hist : List Nat) : Option (List Nat) :=
  let real := (hist.zipIdx.filter (fun p => p.1 != 0)).map (fun p => (⟨p.1, [p.2]⟩ : Package))
  if real.isEmpty then none else
  let items := insertPackage ⟨1, [272]⟩ (real.foldl (fun l p => insertPackage p l) [])
  let n := items.length
  let taken := ((packageRounds items 11).take (2 * n - 2)).map (·.syms) |>.flatten
  some ((List.range 272).map (fun s => taken.count s))

/-! ### Writing a block (R161, R162) -/

/-- A packed block: tag and payload as stored. -/
structure Packed where
  tag : Bytes
  payload : Bytes
  deriving DecidableEq, Repr

/-- Code a block: ZERO, RAW or CODED; `table` is the slot and its lengths when the packer may code (R161, R162). -/
def packBlock (table : Option (Nat × List Nat)) (classW : Bool) (block : Bytes) : Packed :=
  let b := slice block 0 2048
  let crc := crc32c b
  let raw : Packed := ⟨makeTag 2 0 classW 2048 crc 0 [], b⟩
  if b.all (· == 0) then ⟨makeTag 0 0 classW 0 crc 0 [], []⟩ else
  match table with
  | none => raw
  | some (slot, lens) =>
    let book := codewords lens
    let lanes := (chunks 64 b).map (codeLane book)
    if lanes.any (·.isNone) then raw else
    let ls := lanes.map (fun o => (o.getD []))
    let body := ls.flatten
    if 1952 < body.length then raw
    else ⟨makeTag 1 slot classW body.length crc (tableId lens) (ls.map (·.length)), slice body 0 (roundUp body.length 32)⟩

/-- Count a block the packer wrote (Tables 6.9 to 6.11). -/
def State.countPacked (s : State) (core : Nat) (tag : Bytes) : State :=
  if tagFormat tag = 1 then s.bump F.seCmpCodedCount core
  else if tagFormat tag = 2 then s.bump F.seCmpRawCount core
  else s.bump F.seCmpZeroCount core

end Sys2Proof.Machine
end

