-- ==== Sys2Proof/Machine/Blocks.lean ====
section
/-! DEFINITION. Blocks between cores and chips: tide headers, sending under credit, landing checks, slot release, packets that arrive at a port
(Tables 5.8, 5.9, 10.6 to 10.8, R265 to R271, R351, R378, R379). -/

namespace Sys2Proof.Machine

/-! ### Packets that arrive (R351, R353, R354, R378) -/

/-- Bytes a WRITE carries: its body, or SIZE bytes of it when SIZE is given (log entry 16). -/
def writeLen (p : Packet) : Nat := if p.size = 0 then 16 * p.length else p.size

/-- A BLOCK of this length carries a compressed block: its header, its tag, and whole codewords of a CODED payload, 1,952 bytes at most, or the 2,048 of a RAW
one; the other two lengths are an uncompressed block and an ebb block (R169, R351). -/
def blockPacked (p : Packet) : Bool := p.length % 2 == 1 && ((decide (5 ≤ p.length) && decide (p.length ≤ 127)) || p.length == 133)

/-- LENGTH and SIZE of a packet fit its type (R351). A response that is not good carries no data. -/
def packetFits (p : Packet) : Bool :=
  let one := p.offset % 256 + p.size ≤ 256
  let good := p.status == Status.ok.code
  match p.type with
  | 1 => p.length == 0 && decide (1 ≤ p.size) && decide one
  | 2 => decide (1 ≤ p.length) && decide (p.length ≤ 16) && decide (p.offset % 256 + writeLen p ≤ 256) && ceilDiv (writeLen p) 16 == p.length
  | 3 => if good then decide (1 ≤ p.length) && decide (p.length ≤ 16) else p.length == 0
  | 4 => p.length == 0
  | 5 => p.length == 1 && decide (1 ≤ p.size) && decide (p.size ≤ 4096)
  | 6 => if good then p.length % 2 == 1 && decide (3 ≤ p.length) && decide (p.length ≤ 257) else p.length == 0
  | 7 => p.length == 129 || p.length == 130 || blockPacked p
  | 8 => p.length == 4
  | 9 => true
  | _ => false

/-- Every field that Tables 13.5 and 13.6 state zero is zero: STATUS but in responses, CHECK of what carries no data or a compressed block, CTX_TAG of MGMT,
ROUTE [7:6], the top bits of chip numbers and of OFFSET, the end of a GATHER's body. -/
def packetZeros (p : Packet) : Bool :=
  let response := p.type == 3 || p.type == 4 || p.type == 6
  let data := p.type == 2 || ((p.type == 3 || p.type == 6) && p.length != 0) || (p.type == 7 && !blockPacked p)
  p.zeroOk && decide (p.route < 64) && decide (p.dstChip < 16384) && decide (p.srcChip < 16384) && (response || p.status == 0) && (data || p.check == 0) &&
  (p.type != 9 || p.ctxTag == 0) && (p.type != 5 || zeroAt p.body 8 8)

/-- The answer to a request packet: DEADLINE, SERVICE and TXN copied (R351). -/
def answerPacket (p : Packet) (st : Status) (body : Bytes) : Packet :=
  let type := if p.type = 1 then 3 else if p.type = 2 then 4 else 6
  { packetOf type p.srcChip p.srcUnit p.ctxTag p.dstUnit body with
    deadline := p.deadline, route := p.route / 16 % 2 * 16, txn := p.txn, status := st.code
    check := if body.isEmpty then 0 else crc32c body }

/-- Answer a request. A response that cannot be sent is lost, and its requester's timeout ends the request (R346); one bound outside the block faults
the context it serves (R378). -/
def State.answer (s : State) (p : Packet) (st : Status) (body : Bytes := []) : State :=
  let t := (s.launch (answerPacket p st body)).2
  if s.outside p.ctxTag p.srcChip then t.faultTag p.ctxTag .accessViolation else t

/-- The planned neighbour of a torus port lies outside a context's block (R378). -/
def State.isEdge (s : State) (i n : Nat) : Bool :=
  decide (n < 6) && !s.inBlock i (s.getF F.topoPortExpChip n)

/-- Forward a packet that is bound for another chip (R354 to R356, R379). -/
def State.transit (s : State) (n : Nat) (vcBit : Bool) (p : Packet) : State :=
  let here := s.chip
  let p := if 6 ≤ n then { p with route := p.route / 8 * 8 + s.routeBits none here p.dstChip } else p
  let out := if rackOf p.dstChip ≠ rackOf here then some (s.switchPort p) else nextHop p.route here p.dstChip
  match out with
  | none => s
  | some m =>
    match s.egress m p (some (n, vcBit)) with
    | (some st, s) => if isRequest p.type then s.answer p st else s
    | (none, s) => s

/-- The next key of a direction (R450). -/
def nextKey (key : Bytes) : Bytes := shakeN (key ++ "DRUHAL-LINK-NEXT".toUTF8.toList.map (fun b => BitVec.ofNat 8 b.toNat)) 32

/-- Once every virtual channel has passed its switch point, the receiver keeps only the next key (R450). -/
def State.keysPassed (s : State) (n : Nat) : State :=
  let x := s.port n
  match x.keys.nextRx with
  | none => s
  | some pts =>
    if (List.range 8).all (fun v => decide (pts.getD v 0 ≤ x.keys.got.getD v 0)) then
      s.setPort n { x with keys := { x.keys with keyRx := nextKey x.keys.keyRx, nextRx := none } }
    else s

/-- Count a packet received on its virtual channel (R449). -/
def State.countPacket (s : State) (n : Nat) (p : Packet) : State :=
  if s.portState n ≠ 3 then s else
  let x := s.port n
  (s.setPort n { x with keys := { x.keys with got := x.keys.got.modify (2 * packetClass p.type + b2n p.vcBit) (· + 1) } }).keysPassed n

/-- Bytes of packets leave the receive buffer of a virtual channel, oldest flit first: the buffer then, and the flits that have left it. -/
def lessHeld (v b : Nat) : List (Nat × Nat) → List (Nat × Nat) × Nat
  | [] => ([], 0)
  | (w, k) :: r =>
    if w ≠ v then
      let (rest, n) := lessHeld v b r
      ((w, k) :: rest, n)
    else if k ≤ b then
      let (rest, n) := lessHeld v (b - k) r
      (rest, n + 1)
    else ((w, k - b) :: r, 0)

/-- A packet leaves the receive buffer of its virtual channel; credit is owed for each flit that leaves with it (R347). -/
def State.leaveBuffer (s : State) (n : Nat) (p : Packet) : State :=
  let x := s.port n
  let v := 2 * packetClass p.type + b2n p.vcBit
  let (rest, k) := lessHeld v (32 + 16 * p.length + (if s.portState n = 3 then 16 else 0)) x.rxHeld
  s.setPort n { x with rxHeld := rest, owed := x.owed.modify v (· + k) }

/-- A packet arrives at a port: authentication, form, partition edge; then forwarded, or delivered by `k`. -/
def State.packetIn (s : State) (n : Nat) (p : Packet) (k : State → State) : State :=
  if s.portState n ≠ 3 ∧ !(s.portState n == 4 && p.type == 9) then s else
  let s := (s.leaveBuffer n p).countPacket n p
  if s.portState n = 3 ∧ !p.tagOk then s.bump F.lnkDropAuth n
  else if !packetFits p || !packetZeros p then s.bump F.lnkDropMalformed n
  else if p.type ≠ 9 ∧ rackOf p.srcChip = rackOf s.chip ∧ s.isEdge (tagIndex p.ctxTag) n then s.bump F.topoEdgeDropIngress
  else if s.isHere p.dstChip then
    if isRequest p.type && (s.held || s.failed) then s.answer p .fenced else k s
  else s.transit n p.vcBit p

/-- A culvert message arrives at this chip, from its own network or from a port (R378). -/
def State.culvertIn (s : State) (m : Culvert) (k : State → State) : State :=
  match m.came with
  | none => if s.stopped then s else k s
  | some (n, b) =>
    let p := { packetOf 8 m.dstChip m.dstCore m.ctxTag m.srcCore (culvertBytes m) with srcChip := m.srcChip, vcBit := b, route := m.route, deadline := m.deadline }
    s.packetIn n p k

/-! ### The parts a core plays in an inner ring (Table 10.6) -/

/-- What a tide polder is. -/
inductive TideRole where
  | tide | origin | ebb | ebbStart
  deriving DecidableEq, Repr

/-- The core is the entry core of the inner ring. -/
def TideBind.entry (t : TideBind) : Bool := t.pos == 0
/-- The core is the exit core. -/
def TideBind.exit (t : TideBind) : Bool := t.pos + 1 == t.len

/-- What a handle is to a bound inner ring. -/
def TideBind.role (t : TideBind) (h : Nat) : Option TideRole :=
  if t.tideH = h ∧ !(t.entry && t.single) then some .tide
  else if t.originH = h ∧ t.entry then some .origin
  else if t.ebbH = some h then some .ebb
  else if t.originH = h ∧ t.exit ∧ t.ebbH.isSome then some .ebbStart
  else none

/-- The bound inner ring a polder belongs to, and its part. -/
def CoreSt.tideRole (c : CoreSt) (h : Nat) : Option (TideBind × TideRole) :=
  c.tides.findSome? (fun t => if t.tag == (c.polder h).owner then (t.role h).map (fun r => (t, r)) else none)

/-- Change what a core holds of one bound inner ring. -/
def CoreSt.setTide (c : CoreSt) (t : TideBind) : CoreSt :=
  { c with tides := c.tides.map (fun u => if u.tag == t.tag && u.index == t.index then t else u) }

/-- The active bank of a context (TIDE_CTX.BANK). -/
def State.bank (s : State) (i : Nat) : Nat := s.getF F.tideCtxBank i

/-! ### Tide headers (Table 10.7) -/

/-- The 16-byte header of a block. -/
def tideHeader (tag kind ring bank slice origin hops seq blk : Nat) : Bytes :=
  natLe 2 tag ++ natLe 1 (kind + 4 * ring + 16 * bank) ++ natLe 1 slice ++ natLe 1 origin ++ natLe 1 hops ++ natLe 3 seq ++ zeros 3 ++ natLe 4 blk

/-- KIND of a header. -/
def hdrKind (h : Bytes) : Nat := field h 2 1 % 4
/-- RING of a header. -/
def hdrRing (h : Bytes) : Nat := field h 2 1 / 4 % 4
/-- BANK of a header. -/
def hdrBank (h : Bytes) : Nat := field h 2 1 / 16 % 2
/-- SLICE of a header. -/
def hdrSlice (h : Bytes) : Nat := field h 3 1
/-- ORIGIN of a header. -/
def hdrOrigin (h : Bytes) : Nat := field h 4 1
/-- HOPS of a header. -/
def hdrHops (h : Bytes) : Nat := field h 5 1
/-- SEQ of a header. -/
def hdrSeq (h : Bytes) : Nat := field h 6 3
/-- The header with SEQ and HOPS replaced. -/
def hdrWith (h : Bytes) (seq hops : Nat) : Bytes := slice h 0 5 ++ natLe 1 hops ++ natLe 3 seq ++ slice h 9 7

/-! ### Sending a block under credit (Table 5.9) -/

/-- The packet of a block for a slot of the sluice a credit entry records. -/
def blockPacket (core : Nat) (x : Credit) (slot deadline check : Nat) (service : Bool) (body : Bytes) : Packet :=
  { packetOf 7 x.chip x.core x.owner core body with
    offset := (x.addr + 2048 * slot) % 2 ^ 50, deadline := deadline % 2 ^ 32, check := check, route := 16 * b2n service }

/-- Hand a BLOCK packet to the on-chip network or the fabric; outside the block its sender's context faults (R378). -/
def State.sendPacket (s : State) (p : Packet) : State :=
  if s.isHere p.dstChip then s.emit (.block p.dstUnit { p with srcChip := s.self })
  else
    let out := s.outside p.ctxTag p.dstChip
    let s := (s.launch p).2
    if out then s.faultTag p.ctxTag .accessViolation else s

/-- Send a block to the next slot of a Ready entry's sluice, held until a LAND covers it (R270); `hdr` takes the SEQ. Answers the SEQ used. -/
def State.sendBlock (s : State) (core e : Nat) (hdr : Bytes) (hops deadline check : Nat) (service : Bool) (rest : Bytes) (strm : Option (Nat × Nat) := none) : Nat × State :=
  let c := s.core core
  let x := c.cred e
  let seq := x.sent % 2 ^ 24
  let body := hdrWith hdr seq hops ++ rest
  let p := blockPacket core x x.nextSlot deadline check service body
  let y := { x with
    credit := x.credit - 1, state := if x.credit ≤ 1 then 2 else 1, nextSlot := (x.nextSlot + 1) % max 1 x.slots
    sent := x.sent + 1, held := x.held ++ [⟨strm, seq, x.nextSlot, body, deadline, service⟩] }
  (seq, (s.setCore core (c.setCred e y)).sendPacket p)

/-- A block is due with no credit: the timer starts if stopped (Table 5.9). -/
def State.blockDue (s : State) (core e : Nat) : State :=
  let c := s.core core
  let x := c.cred e
  if x.state = 0 then s else
  s.setCore core (c.setCred e { x with state := 2, timer := some (x.timer.getD s.time) })

/-! ### Slots that free (R271) -/

/-- Leading landed blocks whose slots are free: released, and forwarded and covered. -/
def freeable (l : List Landed) : Nat := (l.takeWhile (fun b => b.released && b.forwarded && b.covered)).length

/-- Free the slots of a tide polder that both conditions of R271 have let go. -/
def State.freeTide (s : State) (core h : Nat) : State :=
  let c := s.core core
  let p := c.polder h
  let n := freeable p.landed
  if n = 0 then s else
  let c := c.setPolder h { p with landed := p.landed.drop n }
  let s := s.setCore core c
  if p.sluice then s.grantBack core h n
  else match p.armedBy with
    | some j => s.setCore core (c.setStrm j { c.strm j with credit := (c.strm j).credit + n })
    | none => s

/-- Blocks of a polder that have passed, counted from its opening: the count a LAND carries (Table 10.8). -/
def Polder.passed (p : Polder) : Nat :=
  match p.landed.find? (fun b => !b.checked) with
  | some b => b.seq
  | none => p.landedCount

/-- Send a LAND to the sender of a sluice. -/
def State.sendLand (s : State) (core h : Nat) : State :=
  let c := s.core core
  let p := c.polder h
  let s := s.setCore core (c.setPolder h { p with ackedCount := p.passed, firstUnacked := none })
  s.sendNamed p.peerChip p.peerCore 0x10 p.owner core p.gen (p.peerCredit + p.passed % 2 ^ 24 * 256)

/-- Acknowledge when 16 blocks have passed since the last LAND (R269). -/
def State.maybeLand (s : State) (core h : Nat) : State :=
  let c := s.core core
  let p := c.polder h
  if p.ackedCount + 16 ≤ p.passed then s.sendLand core h
  else if p.ackedCount < p.passed then s.setCore core (c.setPolder h { p with firstUnacked := some (p.firstUnacked.getD s.time) })
  else s

/-- A consumer may not see a block that has not passed, nor one that landed behind it (R269, R270): some such block's slot meets the region. -/
def Polder.unseen (p : Polder) (off len : Nat) : Bool :=
  (p.landed.dropWhile (·.checked)).any (fun b => decide (2048 * b.slot < off + len) && decide (off < 2048 * b.slot + 2048))

/-- The same for bytes of a compressed polder that may lie in its tag region. -/
def Polder.hidden (p : Polder) (off len : Nat) : Bool :=
  p.unseen off len || (p.compressed && (p.landed.dropWhile (·.checked)).any (fun b =>
    let t := p.slotGranules * granule + 64 * b.slot
    decide (t < off + len) && decide (off < t + 64)))

/-! ### Landing (Table 5.8, R266, R269) -/

/-- The landing check of a block: it passes, is damaged with a cause (0 for the CRC of R96), or is refused. `full` runs the whole expander. -/
def landingCheck (c : CoreSt) (tag : Nat) (p : Polder) (full : Bool) (check : Nat) (rest : Bytes) : Expanded :=
  if p.compressed then
    let t := slice rest 0 64
    if full then c.expand tag t (rest.drop 64) (some p.classW)
    else if field t 60 4 ≠ crc32c (slice t 0 60) then .damaged 1
    else if tagClassW t && !p.classW then .refused .accessViolation
    else .bytes []
  else if crc32c (slice rest 0 2048) = check then .bytes [] else .damaged 0

/-- Write a landed block into its slot: tag, stored payload, or the plain bytes; an ebb block's trailer into its entry (R148, R277). -/
def State.putBlock (s : State) (core h slot : Nat) (rest : Bytes) (trail : Option Nat) : State :=
  let p := (s.core core).polder h
  let s :=
    if p.compressed then
      let t := slice rest 0 64
      let s := (s.spmWrite core (p.tagAbs slot) t).2
      if storedLen t = 0 then s else (s.spmWrite core (p.slotAbs slot) (slice rest 64 (storedLen t))).2
    else (s.spmWrite core (p.slotAbs slot) (slice rest 0 2048)).2
  match trail with
  | some e =>
    let c := s.core core
    s.setCore core { c with trailers := c.trailers.put e (slice rest 2048 16) }
  | none => s

/-- Trailer file entry of a slot of an ebb polder (R277). -/
def TideBind.trailEntry (t : TideBind) (r : TideRole) (slot : Nat) : Option Nat :=
  match r with
  | .ebb => some (t.ebbTrail + slot)
  | .ebbStart => some (t.startTrail + slot)
  | _ => none

/-- Run the landing check of the block in a slot, and record what it ends in. `again` marks a block sent again. -/
def State.landBlock (s : State) (core h slot seq : Nat) (hdr rest : Bytes) (check : Nat) (again : Bool) : State :=
  let c := s.core core
  let p := c.polder h
  let i := tagIndex p.owner
  let role := c.tideRole h
  let mark := fun (c : CoreSt) (f : Landed → Landed) =>
    let q := c.polder h
    c.setPolder h { q with landed := q.landed.map (fun b => if b.seq == seq then f b else b) }
  match landingCheck c p.owner p role.isSome check rest with
  | .refused st => s.faultTag p.owner st
  | .damaged cause =>
    let s := if p.compressed then s.damage core cause true else s
    if again then
      let s := if p.compressed then s.damageLasting core else s
      let s := (s.bump F.tideCoreResendLasting core).lastingBlock i
      s.faultTag p.owner .damagedBlock
    else
      let s := s.setCore core (mark (s.core core) (fun b => { b with failed := true }))
      let s := s.bump F.tideCoreResendCount core
      s.sendNamed p.peerChip p.peerCore 0x11 p.owner core p.gen (p.peerCredit + seq % 2 ^ 24 * 256)
  | .bytes _ =>
    let trail := role.bind (fun (t, r) => t.trailEntry r slot)
    let s := s.putBlock core h slot rest trail
    let s := s.tally i (fun t => { t with blocks := t.blocks + 1 })
    let s := if again then s.transient i (if p.compressed then 8 else 7) (sourceOf 0 core) else s
    let s := s.setCore core (mark (s.core core) (fun b => { b with checked := true, failed := false, header := hdr }))
    (s.maybeLand core h).progress i

/-- The block's header does not belong in the tide polder (R266): the status its context faults with. -/
def State.headerFault (s : State) (p : Polder) (hdr : Bytes) (t : TideBind) (r : TideRole) : Option Status :=
  let kind := if r == .ebb || r == .ebbStart then 2 else b2n t.kv
  if field hdr 0 2 ≠ p.owner ∨ hdrKind hdr ≠ kind ∨ hdrRing hdr ≠ t.ring ∨ hdrSlice hdr ≠ t.index ∨ t.members ≤ hdrOrigin hdr then some .descInvalid
  else if hdrBank hdr ≠ s.bank (tagIndex p.owner) then some .staleContext
  else none

/-- A block lands in a sluice of a core. The manual gives no row for two cases, settled by log entry 39: a block for a polder with SLUICE clear is answered
ACCESS_VIOLATION, and one for a sluice whose ALLOC still waits lands with credit zero. -/
def State.landIn (s : State) (core : Nat) (p : Packet) : State :=
  let c := s.core core
  let win := 0x2000000000000 + core * 0x1000000
  let byte := p.offset % 2 ^ 50 - win
  let reject := fun (s : State) (st : Status) => s.sendNamed p.srcChip p.srcUnit 0x08 p.ctxTag core 0 (st.code)
  let stale := fun (s : State) (h gen : Nat) => s.sendNamed p.srcChip p.srcUnit 0x09 p.ctxTag core gen (256 * h)
  if p.offset % 2 ^ 50 < win ∨ spmBytes ≤ byte then reject s .accessViolation else
  match c.polderAt (byte / granule) with
  | none => reject s .accessViolation
  | some (h, q) =>
    if tagIndex q.owner ≠ tagIndex p.ctxTag then reject s .accessViolation
    else if !q.sluice then (if q.owner ≠ p.ctxTag then stale s h q.gen else reject s .accessViolation)
    else if q.sluiceState = 2 then
      -- closing: discarded, its credit back; a block of another generation is answered
      let s := s.setCore core (c.setPolder h { q with credit := q.credit - 1 })
      let s := if q.owner ≠ p.ctxTag then stale s h q.gen else s
      s.settleClosing core h
    else if q.owner ≠ p.ctxTag then stale s h q.gen
    else
      let hdr := slice p.body 0 16
      let rest := p.body.drop 16
      let seq := hdrSeq hdr
      match q.landed.find? (fun b => b.failed && b.seq % 2 ^ 24 == seq) with
      | some b =>
        match (c.tideRole h).bind (fun (t, r) => s.headerFault q hdr t r) with
        | some st => s.faultTag q.owner st
        | none => s.landBlock core h b.slot b.seq hdr rest p.check true
      | none =>
        if q.credit = 0 then (s.bump F.spmEventsOverrun core).faultTag q.owner .accessViolation else
        match (c.tideRole h).bind (fun (t, r) => s.headerFault q hdr t r) with
        | some st => (s.setCore core (c.setPolder h { q with credit := q.credit - 1 })).faultTag q.owner st
        | none =>
          let b : Landed := ⟨q.nextSlot, q.landedCount, hdr, false, false, false, false, false, none⟩
          let q' := { q with
            credit := q.credit - 1, nextSlot := (q.nextSlot + 1) % max 1 q.slots, landed := q.landed ++ [b], landedCount := q.landedCount + 1 }
          (s.setCore core (c.setPolder h q')).landBlock core h b.slot b.seq hdr rest p.check false

/-- A block from the on-chip network or from a port (R139, R265 to R269, R352). Damage on the way strikes its body. A core
held in reset refuses it with FENCED (Table 16.3), and so does every core one from another chip in the held stage of a service hold (R481). -/
def State.blockIn (s : State) (core : CoreId) (came : Option PortId) (p : Packet) (hit : Hit) : State :=
  let land := fun (s : State) =>
    let p := { p with body := slice p.body 0 16 ++ upsetBytes (p.body.drop 16) hit.first }
    if p.type ≠ 7 ∨ s.stopped then s
    else if (s.core core).rst ≠ 0 ∨ (came.isSome ∧ s.held) then s.sendNamed p.srcChip p.srcUnit 0x08 p.ctxTag core 0 Status.fenced.code
    else s.landIn core p
  match came with
  | none => land s
  | some n => s.packetIn n p land

/-! ### Forwarding (R267, R268, R279) -/

/-- The polder whose block the core admits next (R267). -/
def TideBind.nextAdmit (t : TideBind) : Nat :=
  if t.entry then
    if t.single ∨ t.admitted % (t.members * max 1 t.round) < t.round then t.originH else t.tideH
  else t.tideH

/-- Stored body of a block in a slot of a core's polder: its tag and payload, or 2,048 bytes and for an ebb block the trailer; with the CHECK it
travels with. None when the scratchpad cannot give it. -/
def State.slotBody (s : State) (core h slot : Nat) (trail : Option Nat) : Option (Bytes × Nat) × State :=
  let p := (s.core core).polder h
  if p.compressed then
    match s.spmRead core (p.tagAbs slot) 64 with
    | (none, s) => (none, s)
    | (some t, s) =>
      match s.spmRead core (p.slotAbs slot) (storedLen t) with
      | (none, s) => (none, s)
      | (some d, s) => (some (t ++ d, 0), s)
  else
    match s.spmRead core (p.slotAbs slot) 2048 with
    | (none, s) => (none, s)
    | (some d, s) =>
      let tr := match trail with
        | some e => (s.core core).trailers.get (zeros 16) e
        | none => []
      (some (d ++ tr, crc32c d), s)

/-- Mark the first block of a polder that is not forwarded. -/
def CoreSt.markForward (c : CoreSt) (h seq : Nat) (sentAs : Option (Nat × Nat)) : CoreSt :=
  let p := c.polder h
  c.setPolder h { p with landed := p.landed.map (fun b =>
    if b.seq == seq then { b with forwarded := true, covered := sentAs.isNone, sentAs := sentAs } else b) }

/-- Forward the next block of a polder: on to the next core, to the next member, or dropped at its last hop. -/
def State.forward (s : State) (core h : Nat) (t : TideBind) (r : TideRole) : State :=
  let c := s.core core
  let p := c.polder h
  let isEbb := r == .ebb || r == .ebbStart
  match p.landed.find? (fun b => !b.forwarded) with
  | none => s
  | some b =>
    if !b.checked || (isEbb && !b.released) || (!isEbb && t.nextAdmit != h) then s else
    let leaves := if isEbb then t.entry else t.exit
    let last := leaves && (if isEbb then hdrOrigin b.header == t.me else decide (t.members ≤ hdrHops b.header + 1))
    let done := fun (s : State) => if isEbb then s else
      let c := s.core core
      s.setCore core (c.setTide { t with admitted := t.admitted + 1 })
    if last then (done (s.setCore core (c.markForward h b.seq none))).freeTide core h
    else
      let e := if isEbb then t.ebbCr else t.tideCr
      let x := c.cred e
      if x.state = 0 ∨ x.owner ≠ p.owner then s
      else if x.credit = 0 then s.blockDue core e
      else
        match s.slotBody core h b.slot (t.trailEntry r b.slot) with
        | (none, s) => s.faultTag p.owner .uncorrectable
        | (some (rest, check), s) =>
          let (seq, s) := s.sendBlock core e b.header (hdrHops b.header + b2n leaves) (s.time + 2 ^ 20) check false rest
          let s := s.setCore core ((s.core core).markForward h b.seq (some (e, seq)))
          (((done s).bump F.tideCoreFwdCount core).progress (tagIndex p.owner)).freeTide core h

/-- BLOCK_FORWARD: the core sends on the next admitted block of a tide polder, or the next released block of an ebb polder. -/
def execBlockForward (core : CoreId) (handle : HandleId) (s : State) : Host.Outcome State Fault Refusal :=
  let c := s.core core
  match c.tideRole handle with
  | none => .next s
  | some (t, r) => .next (if c.rst = 0 ∧ (c.polder handle).valid ∧ s.live t.tag then s.forward core handle t r else s)

/-! ### LAND and RESEND (R269, R270, Table 10.8) -/

/-- LAND_TIMER: 1 µs after the first unacknowledged block a LAND is due (R269). -/
def execLandTimer (core : CoreId) (handle : HandleId) (s : State) : Host.Outcome State Fault Refusal :=
  let p := (s.core core).polder handle
  .next (match p.firstUnacked with
    | some t => if p.valid && p.sluiceState == 1 && decide (t + 1000 ≤ s.time) then s.sendLand core handle else s
    | none => s)

/-- A held SEQ is covered by a count modulo 2^24. -/
def coveredBy (count seq : Nat) : Bool := let d := (count + 2 ^ 24 - seq) % 2 ^ 24; decide (1 ≤ d) && decide (d ≤ 2 ^ 23)

/-- The credit entry a LAND or RESEND names, when its sender is the receiver the entry records. -/
def CoreSt.creditFrom (c : CoreSt) (m : Culvert) : Option Credit :=
  let x := c.cred (bits m.arg 5 0)
  if x.state ≠ 0 ∧ x.chip = m.srcChip ∧ x.core = m.srcCore ∧ x.owner = m.ctxTag then some x else none

/-- LAND: the held blocks it covers are let go, and their slots may free (R270, R271). -/
def execLand (core : CoreId) (m : Culvert) (s : State) : Host.Outcome State Fault Refusal :=
  .next (s.culvertIn m (fun s =>
    let c := s.core core
    let e := bits m.arg 5 0
    match c.creditFrom m with
    | none => s
    | some x =>
      let count := bits m.arg 31 8
      let done := (x.held.filter (fun b => coveredBy count b.seq)).filterMap (·.strm)
      let c := done.foldl (fun (c : CoreSt) j =>
        let y := c.strm j.1
        c.setStrm j.1 { y with run := y.run.map (fun r => { r with acks := r.acks.erase j.2 }) }) c
      let c := c.setCred e { x with held := x.held.filter (fun b => !coveredBy count b.seq) }
      let cover := fun (p : Polder) => { p with landed := p.landed.map (fun b =>
        match b.sentAs with
        | some (f, q) => if f == e && coveredBy count q then { b with covered := true } else b
        | none => b) }
      let hs := (c.ht.filter (fun p => p.2.owner == x.owner && (c.tideRole p.1).isSome)).map (·.1)
      let c := hs.foldl (fun (c : CoreSt) h => c.setPolder h (cover (c.polder h))) c
      hs.foldl (fun (s : State) h => s.freeTide core h) (s.setCore core c)))

/-- A sender still honours RESEND for a tag: its INVOKE is bound, winding down or not, and no member's HALT has ended it (R105, R275, log entry 44). -/
def State.honours (s : State) (tag : Nat) : Bool :=
  match (s.ctx (tagIndex tag)).inv with
  | some v => v.bound && !v.stopped && v.halted.isEmpty && v.desc.ctxTag == tag
  | none => false

/-- RESEND: the held block goes again, with the same SEQ, into the same slot, and spends no credit (R270); not once its INVOKE has ended (R275). -/
def execResend (core : CoreId) (m : Culvert) (s : State) : Host.Outcome State Fault Refusal :=
  .next (s.culvertIn m (fun s =>
    let c := s.core core
    let e := bits m.arg 5 0
    match c.creditFrom m with
    | none => s
    | some x =>
      match x.held.find? (fun b => b.seq == bits m.arg 31 8) with
      | none => s
      | some b =>
        if !s.honours x.owner then s else
        let rest := b.bytes.drop 16
        -- an uncompressed block of 2,048 bytes, or with its trailer, carries its CRC; a compressed one carries zero
        let plain := decide (rest.length = 2048) || decide (rest.length = 2064)
        let check := if plain then crc32c (slice rest 0 2048) else 0
        s.sendPacket (blockPacket core x b.slot b.deadline check b.service b.bytes)))

end Sys2Proof.Machine
end

