-- ==== Sys2Proof/Machine/Scratchpad.lean ====
section
/-! DEFINITION. HANDLE operations and the dredger (R133 to R136, R142, R214, R219, R271, R279). -/

namespace Sys2Proof.Machine

/-- What an ALLOC word asks for (Table 9.16). -/
def allocWord (w : Nat) : AllocReq :=
  { handle := bits w 115 108, length := bits w 107 99, classW := bit w 98, resident := bit w 97, compressed := bit w 96, sluice := bit w 95
    accum := bit w 94, code := bit w 93, peerChip := bits w 92 79, peerCore := bits w 78 71, peerCredit := bits w 70 65 }

/-- ALLOC: the polder is placed by best fit and the next word waits for it, or the failure is recorded and the context faults (R133 to R135). -/
def execHandleAlloc (core : CoreId) (s : State) : Host.Outcome State Fault Refusal :=
  .next (s.runOp core (fun k _ => k == .alloc) (fun i sl w _ s =>
    let r := allocWord w
    match s.alloc core sl.tag r none with
    | .error reason => (s.recordAllocFail core reason r).faultTag sl.tag .descInvalid
    | .ok (_, s) => s.step1 core i 1))

/-- A descriptor names a handle as source, destination or CRC_DST (R219). -/
def StreamDesc.names (d : StreamDesc) (h : Nat) : Bool :=
  (bits d.ctrl 1 0 == 0 && d.srcHandle == h) || (bits d.ctrl 3 2 == 0 && d.dstHandle == h) || (bit d.ctrl 9 && d.crcDst % 256 == h)

/-- An ALLOC of a handle has not completed: its granules are still being zeroed (R135). -/
def CoreSt.allocating (c : CoreSt) (h : Nat) : Bool := c.allocs.any (fun a => a.handle == h)

/-- An armed stream of the core names a handle. -/
def CoreSt.armedOn (c : CoreSt) (h : Nat) : Bool :=
  c.strms.any (fun p =>
    (match p.2.run with | some r => r.desc.names h | none => false) || (match p.2.held with | some (d, _) => d.names h | none => false))

/-- Culvert FREEs that waited for an armed stream, or for the ALLOC of their handle, are carried out once neither is left (R219, log entry 13). -/
def State.resumeFrees (s : State) (core : Nat) : State :=
  (s.core core).frees.foldl (fun s m => if (s.core core).armedOn (bits m.arg 7 0) || (s.core core).allocating (bits m.arg 7 0) then s else s.freePolder core (bits m.arg 7 0)) s

/-- FREE: after the task's earlier operations, the streams that name the handle and its ALLOC, the polder is freed, a sluice through its closing state
(R91, R135, R219). -/
def execHandleFree (core : CoreId) (s : State) : Host.Outcome State Fault Refusal :=
  .next (s.runOp core (fun k _ => k == .free) (fun i sl w _ s =>
    let h := bits w 115 108
    let c := s.core core
    match c.check sl.tag h 0 0 with
    | some st => s.faultTag sl.tag st
    | none => if c.touches i h || c.armedOn h || c.allocating h then s else (s.freePolder core h).step1 core i 1))

/-- Mark the `n` oldest landed blocks that are not yet released; `f` says what releasing one does. -/
def releaseLanded (f : Landed → Landed) : Nat → List Landed → List Landed
  | 0, l => l
  | _, [] => []
  | n + 1, b :: bs => if b.released then b :: releaseLanded f (n + 1) bs else f b :: releaseLanded f n bs

/-- Release slots of a handle of the task, or the status it faults with (R214, R271, R279, Table 5.8). -/
def State.releaseSlots (s : State) (core h n : Nat) : Except Status State :=
  let c := s.core core
  let p := c.polder h
  let free := ((p.landed.takeWhile (·.checked)).filter (!·.released)).length
  match c.tideRole h with
  | some (t, r) =>
    if free < n then .error .descInvalid else
    let isEbb := r == .ebb || r == .ebbStart
    let f := fun (b : Landed) =>
      if isEbb && t.entry && hdrOrigin b.header == t.me then { b with released := true, forwarded := true, covered := true }
      else { b with released := true }
    .ok ((s.setCore core (c.setPolder h { p with landed := releaseLanded f n p.landed })).freeTide core h)
  | none =>
    if p.sluice then
      if free < n then .error .descInvalid
      else .ok ((s.setCore core (c.setPolder h { p with landed := p.landed.drop n })).grantBack core h n)
    else
      match p.armedBy with
      | none => .error .descInvalid
      | some j =>
        let x := c.strm j
        if !x.bound || x.owner != p.owner then .ok s
        else if x.ringSlots < x.credit + n then .error .descInvalid
        else .ok (s.setCore core (c.setStrm j { x with credit := x.credit + n }))

/-- RELEASE: a count of zero completes at once (R254); otherwise the slots go back once the task's earlier operations have committed (R91). -/
def execHandleRelease (core : CoreId) (s : State) : Host.Outcome State Fault Refusal :=
  .next (s.runOp core (fun k _ => k == .release) (fun i sl w _ s =>
    let h := bits w 115 108
    let n := bits w 107 97
    let c := s.core core
    if n = 0 then s.step1 core i 1 else
    match c.check sl.tag h 0 0 with
    | some st => s.faultTag sl.tag st
    | none =>
      if c.touches i h then s else
      match s.releaseSlots core h n with
      | .error st => s.faultTag sl.tag st
      | .ok s => s.step1 core i 1))

/-! ### The dredger (R135, R142) -/

/-- The errors that strike codeword `j` of a row, positions of 36 symbols each. -/
def rowNoise (u : Upset) (j : Nat) : Upset := (u.filter (fun p => p.1 / 36 == j)).map (fun p => (p.1 % 36, p.2))

/-- Visit one codeword: corrected data is written back; an uncorrectable one faults its owner, or in a free granule has its row written with zeros.
The Bool says that the row has been. -/
def State.dredgeCodeword (s : State) (core cw : Nat) (noise : Noise) : Bool × State :=
  let c := s.core core
  if (c.errs cw).isEmpty && (c.passing cw).isEmpty && !(Upset.strikes noise.first) then (false, s) else
  let noise : Noise := ⟨noise.first ++ c.passing cw, noise.second⟩
  let s := s.passed1 core cw
  match readCodeword (c.classOf cw) (c.errs cw) noise with
  | (some left, one, two, _) =>
    let s := if one = 0 then s else s.bump F.spmCorrOneSym core one
    let s := if two = 0 then s else s.bump F.spmCorrTwoSym core two
    let c := s.core core
    let data := upsetBytes (c.spm.readN (32 * cw) 32) (left.filter (fun p => decide (p.1 < 32)))
    (false, s.setCore core { c with spm := c.spm.writeN (32 * cw) data, spmErr := c.spmErr.del cw })
  | (none, _, _, _) =>
    match c.polderAt (cw * 32 / granule) with
    | some (_, p) => (false, (s.bump F.spmEventsUncorr core).faultTag p.owner .uncorrectable)
    | none =>
      let row := cw / 8
      let s := s.bump F.spmEventsFreeUncorr core
      let c := s.core core
      (true, s.setCore core { c with
        spm := c.spm.clear (256 * row) 256, spmErr := c.spmErr.filter (fun p => p.1 / 8 != row), spmPassing := c.spmPassing.filter (fun p => p.1 / 8 != row) })

/-- Visit one row; a free one written with zeros is done, and counts once. -/
def State.dredgeRow (s : State) (core row : Nat) (noise : Noise) : State :=
  ((List.range 8).foldl (fun (acc : Bool × State) j =>
    if acc.1 then acc else acc.2.dredgeCodeword core (8 * row + j) ⟨rowNoise noise.first j, rowNoise noise.second j⟩) (false, s)).2

/-- Errors strike codewords of a scratchpad, (36 × codeword + symbol, mask) pairs: those that stand, and those that the next read of a codeword meets. -/
def CoreSt.strike (c : CoreSt) (u passing : Upset) : CoreSt :=
  let c := u.foldl (fun (c : CoreSt) p =>
    let e := mergeUpset (c.errs (p.1 / 36) ++ [(p.1 % 36, p.2)])
    { c with spmErr := if e.isEmpty then c.spmErr.del (p.1 / 36) else c.spmErr.put (p.1 / 36) e }) c
  passing.foldl (fun (c : CoreSt) p => { c with spmPassing := c.spmPassing.put (p.1 / 36) (c.passing (p.1 / 36) ++ [(p.1 % 36, p.2)]) }) c

/-- DREDGER_READ: the next row in ascending order; a completed sweep counts (R142). `strike` and `passing` are errors that have struck the scratchpad since
the last visit, `noise` those of this one's reads. -/
def execDredgerRead (core : CoreId) (noise : Noise) (strike passing : Upset) (s : State) : Host.Outcome State Fault Refusal :=
  let c := s.core core
  if c.rst ≠ 0 ∨ s.stopped then .next s else
  let row := c.dredgeRow
  let s := (s.setCore core (c.strike strike passing)).dredgeRow core row noise
  let c := s.core core
  if row + 1 < 12288 then .next (s.setCore core { c with dredgeRow := row + 1 })
  else .next ((s.setCore core { c with dredgeRow := 0 }).bump F.spmDredgeSweeps core)

/-- DREDGER_ZERO_GRANULE: the oldest freed granule is written with zeros and joins the free list (R135). -/
def execDredgerZeroGranule (core : CoreId) (s : State) : Host.Outcome State Fault Refusal :=
  let c := s.core core
  match c.zeroing with
  | [] => .next s
  | g :: _ => .next ((s.zeroGranules core [g]).resumeFrees core)

end Sys2Proof.Machine
end

