-- ==== Sys2Proof/Machine/Culvert.lean ====
section
/-! DEFINITION. Culvert messages at a core's endpoint (R137, R140, R221, R227, R231, Tables 5.8, 5.9 and 8.8). Log entry 13 lays out the ARG fields
that the manual leaves open. -/

namespace Sys2Proof.Machine

/-- A context is live: enabled, and the tag is its current one. -/
def State.alive (s : State) (tag : Nat) : Bool := s.ctxState (tagIndex tag) == 1 && s.tag (tagIndex tag) == tag

/-- A message is refused: its sender's context faults, at once on this chip, by REPLY on another. -/
def State.refuse (s : State) (core : Nat) (m : Culvert) (st : Status) : State :=
  if s.isHere m.srcChip then s.faultTag m.ctxTag st
  else s.sendNamed m.srcChip m.srcCore 0x08 m.ctxTag core 0 (st.code + 65536 * m.type)

/-- An arrival of `n` on counter `k` for a context tag, from the message's sender (Table 8.8). -/
def State.arrive (s : State) (core k n : Nat) (m : Culvert) : State :=
  let c := s.core core
  let b := c.bar k
  if b.bound && b.owner == m.ctxTag then
    if 2 ^ 23 ≤ b.count + n then s.faultTag m.ctxTag .descInvalid
    else (s.setCore core (c.setBar k { b with count := b.count + n })).serveWaiter core k
  else
    let s := s.bump F.seqEventsBarDrop core
    if b.bound && tagIndex b.owner == tagIndex m.ctxTag then s.sendNamed m.srcChip m.srcCore 0x09 m.ctxTag core 0 1
    else s.refuse core m .accessViolation

/-- ARRIVE: the counter advances, is refused, or its waiter becomes ready (R227); a diked core discards and counts it (Table 16.3). -/
def execArrive (core : CoreId) (m : Culvert) (s : State) : Host.Outcome State Fault Refusal :=
  .next (s.culvertIn m (fun s => if (s.core core).rst ≠ 0 then s.bump F.seqEventsBarDrop core else s.arrive core (bits m.arg 5 0) (bits m.arg 31 8) m))

/-- The message names a handle whose generation is not its own: discarded and counted (Table 5.6). -/
def State.staleHandle (s : State) (core h gen : Nat) (k : State → State) : State :=
  if ((s.core core).polder h).gen ≠ gen then s.bump F.spmEventsStale core else k s

/-- PUT: a payload of 1 to 48 bytes is merged into a polder (R123, R221, Table 5.6). -/
def execPut (core : CoreId) (m : Culvert) (s : State) : Host.Outcome State Fault Refusal :=
  .next (s.culvertIn m (fun s =>
    let h := bits m.arg 7 0
    let off := bits m.arg 31 8
    if (s.core core).rst ≠ 0 then s.bump F.seqEventsBarDrop core else
    s.staleHandle core h m.gen (fun s =>
      let c := s.core core
      let p := c.polder h
      if m.len = 0 ∨ 48 < m.len then s
      else if !p.valid || tagIndex p.owner != tagIndex m.ctxTag then s.refuse core m .accessViolation
      else if p.owner ≠ m.ctxTag then s.refuse core m .staleContext
      else if p.code ∨ p.length * granule < off + m.len then s.refuse core m .accessViolation
      else match s.spmWrite core (c.abs h off) (slice m.payload 0 m.len) with
        | (true, s) => s
        | (false, s) => s.faultTag p.owner .uncorrectable)))

/-- The entry a GRANT without BIND or a CLOSE names, when it is bound to the sluice that sends it (R140). -/
def CoreSt.boundTo (c : CoreSt) (m : Culvert) : Bool :=
  let x := c.cred (bits m.arg 5 0)
  x.state != 0 && x.chip == m.srcChip && x.core == m.srcCore && x.gen == m.gen && x.handle == field m.payload 10 1

/-- GRANT: a binding one binds an Idle entry, and is refused by a bound one; any other adds credit (R140, Table 5.9). -/
def execGrant (core : CoreId) (m : Culvert) (s : State) : Host.Outcome State Fault Refusal :=
  .next (s.culvertIn m (fun s =>
    let e := bits m.arg 5 0
    let n := bits m.arg 31 8
    let c := s.core core
    let x := c.cred e
    if bit m.arg 6 then
      if x.state = 0 then
        s.setCore core (c.setCred e { Credit.idle with
          state := if n = 0 then 2 else 1, owner := m.ctxTag, chip := m.srcChip, core := m.srcCore, gen := m.gen
          addr := field m.payload 0 8, slots := field m.payload 8 2, handle := field m.payload 10 1, credit := n })
      else s.sendNamed m.srcChip m.srcCore 0x08 m.ctxTag core m.gen (Status.accessViolation.code + 256 * field m.payload 10 1 + 65536 * 3)
    else if !c.boundTo m then s.bump F.spmEventsStale core
    else s.setCore core (c.setCred e { x with credit := x.credit + n, state := if x.credit + n = 0 then x.state else 1, timer := none })))

/-- RETURN: a closing sluice takes back the credit its sender never spent (Table 5.8). -/
def execReturnCredit (core : CoreId) (m : Culvert) (s : State) : Host.Outcome State Fault Refusal :=
  .next (s.culvertIn m (fun s =>
    let h := bits m.arg 7 0
    s.staleHandle core h m.gen (fun s =>
      let c := s.core core
      let p := c.polder h
      if p.valid && p.sluice && p.sluiceState == 2 then
        (s.setCore core (c.setPolder h { p with credit := p.credit - bits m.arg 31 8 })).settleClosing core h
      else s)))

/-- CLOSE: the entry returns its credit, and forgets its sluice (R140, Table 5.9). -/
def execClose (core : CoreId) (m : Culvert) (s : State) : Host.Outcome State Fault Refusal :=
  .next (s.culvertIn m (fun s =>
    let c := s.core core
    let e := bits m.arg 5 0
    let x := c.cred e
    if !c.boundTo m then s.bump F.spmEventsStale core
    else (s.setCore core (c.setCred e .idle)).sendNamed x.chip x.core 0x04 x.owner core x.gen (x.handle + 256 * x.credit)))

/-- What a culvert ALLOC asks for: handle [7:0], length [16:8], class [17], CODE to RESIDENT [22:18]; a sluice's sender in the payload. -/
def allocMessage (m : Culvert) : AllocReq :=
  { handle := bits m.arg 7 0, length := bits m.arg 16 8, classW := bit m.arg 17, code := bit m.arg 18, accum := bit m.arg 19
    sluice := bit m.arg 20, compressed := bit m.arg 21, resident := bit m.arg 22
    peerChip := field m.payload 0 2 % 16384, peerCore := field m.payload 2 1, peerCredit := field m.payload 3 1 % 64 }

/-- ALLOC by culvert: as the operation, answered with the status and GEN once it has completed (R137); one from another chip is refused in
the held stage of a service hold (R481). -/
def execCulvertAlloc (core : CoreId) (m : Culvert) (s : State) : Host.Outcome State Fault Refusal :=
  .next (s.culvertIn m (fun s =>
    let r := allocMessage m
    if (s.core core).rst ≠ 0 ∨ (m.came.isSome ∧ s.held) then s.reply core m r.handle .fenced else
    if !s.alive m.ctxTag then s.reply core m r.handle .staleContext else
    match s.alloc core m.ctxTag r (some m) with
    | .error reason => (s.recordAllocFail core reason r).reply core m r.handle .descInvalid
    | .ok (done, s) => if done then s.reply core m r.handle .ok else s))

/-- FREE by culvert: discarded with a stale generation, else carried out once no armed stream names the handle, and answered when the entry has become invalid
(R135, R137, R219); one from another chip is refused in the held stage of a service hold (R481). -/
def execCulvertFree (core : CoreId) (m : Culvert) (s : State) : Host.Outcome State Fault Refusal :=
  .next (s.culvertIn m (fun s =>
    let h := bits m.arg 7 0
    if (s.core core).rst ≠ 0 ∨ (m.came.isSome ∧ s.held) then s.reply core m h .fenced else
    s.staleHandle core h m.gen (fun s =>
      let c := s.core core
      let p := c.polder h
      if !p.valid || p.owner != m.ctxTag then s.reply core m h .accessViolation
      else (s.setCore core { c with frees := c.frees ++ [m] }).resumeFrees core)))

/-- REPLY: an error faults the context it answers; a refused binding GRANT also closes its sluice (R137, R140). -/
def execReply (core : CoreId) (m : Culvert) (s : State) : Host.Outcome State Fault Refusal :=
  .next (s.culvertIn m (fun s =>
    match Status.ofCode (bits m.arg 7 0) with
    | none => s
    | some st =>
      if st.good then s else
      let h := bits m.arg 15 8
      let s := if bits m.arg 23 16 = 3 ∧ ((s.core core).polder h).gen = m.gen then s.freePolder core h else s
      s.faultTag m.ctxTag st))

/-- STALE: an answer to a block is matched with the entry it was sent under, and counted; a live sender's context faults (R140, R227). -/
def execStale (core : CoreId) (m : Culvert) (s : State) : Host.Outcome State Fault Refusal :=
  .next (s.culvertIn m (fun s =>
    let live := fun (s : State) => if s.alive m.ctxTag then s.faultTag m.ctxTag .staleContext else s
    if bits m.arg 7 0 ≠ 0 then live s
    else
      let s' := s.bump F.spmEventsStale core
      let h := bits m.arg 15 8
      if (s.core core).creds.any (fun p => p.2.state != 0 && p.2.chip == m.srcChip && p.2.core == m.srcCore && p.2.handle == h && p.2.gen == m.gen)
      then live s' else s'))

/-- TASK: the CXS loads a waiting task into its free slot; an idle core starts it (R231, R229). -/
def execTask (core : CoreId) (m : Culvert) (s : State) : Host.Outcome State Fault Refusal :=
  .next (s.culvertIn m (fun s =>
    let i := bits m.arg 7 0
    let c := s.core core
    let sl := c.slot i
    match c.queue.find? (fun w => w.tag == m.ctxTag && w.task == bits m.arg 31 8 && w.slot == some i) with
    | none => s
    | some w =>
      if c.rst ≠ 0 ∨ sl.state ≠ 0 ∨ sl.ending ∨ !s.live w.tag then s else
      let c := { c with queue := c.queue.filter (· != w) }
      let c := c.setSlot i { Slot.empty with state := 1, tag := w.tag, task := w.task, codeHandle := w.codeHandle, pc := w.pc, prio := w.prio }
      (s.setCore core c).switch core))

/-- A message of a reserved type is discarded and counted (R221). -/
def execCulvertReserved (core : CoreId) (m : Culvert) (s : State) : Host.Outcome State Fault Refusal :=
  .next (s.culvertIn m (fun s => s.bump F.seqEventsCulvDrop core))

end Sys2Proof.Machine
end

