-- ==== Sys2Proof/Machine/Matrix.lean ====
section
/-! DEFINITION. The matrix engine: issue, tile swap, groups through the drain and the check column (chapter 3, R38 to R43, R71 to R77, R84 to R92). -/

namespace Sys2Proof.Machine

/-! ### Forms, classes, formats -/

/-- N_form of a form (Table 3.2). -/
def formN (form : Nat) : Nat := if form = 0 then 32 else if form = 1 then 128 else 256
/-- Logical rows of a form (Table 3.2). -/
def formR (form : Nat) : Nat := if form = 0 then 8 else if form = 1 then 2 else 1

/-- Operand classes (Table 2.2). -/
inductive OpClass where
  | c8 | c16 | c4 | int
  deriving DecidableEq, Repr

/-- Class of a format code; none for a code MATRIX does not take (R246). -/
def classOf (code : Nat) : Option OpClass :=
  if code ≤ 5 then some .c8 else if code ≤ 7 then some .c16 else if code ≤ 9 then some .c4 else if code = 10 then some .int else none

/-- K elements per cube step (Table 3.1). -/
def OpClass.kc : OpClass → Nat
  | .c8 => 8 | .c16 => 16 | .c4 => 4 | .int => 8
/-- Rounding group g of a class in a form (Table 2.2). -/
def OpClass.g (c : OpClass) (form : Nat) : Nat :=
  match c with
  | .c8 => 8 | .c16 => 16 | .c4 => if form = 2 then 4 else 8 | .int => 8
/-- Rounding divisor d (Table 4.2). -/
def OpClass.d : OpClass → Nat
  | .c8 => 8 | .c16 => 16 | .c4 => 4 | .int => 1

/-- The element format of a code of Table 9.6; none for the integers and the reserved code. -/
def formatOf (code : Nat) : Option Fmt :=
  match code with
  | 0 => some e4m3 | 1 => some e5m2 | 2 => some e4m3 | 3 => some e5m2 | 4 => some e3m2 | 5 => some e2m3 | 6 => some e2m1 | 7 => some e2m1
  | 8 => some bf16 | 9 => some fp16 | 11 => some fp32 | 13 => some e3m2 | 14 => some e2m3 | _ => none

/-- Bits of an element of a format code. -/
def bitsOf (code : Nat) : Nat :=
  if code = 10 then 8 else if code = 12 then 32 else (formatOf code).elim 8 Fmt.width

/-- The value of an element code of a format. -/
def elemValue (code v : Nat) : FV :=
  match formatOf code with
  | some f => f.decode v
  | none => if code = 10 then .ofDy (.ofInt (signed 8 v)) else ofInt32 v

/-- Element `i` of packed bytes (R33). -/
def element (w : Nat) (data i : Nat) : Nat := bits data (w * (i + 1) - 1) (w * i)

/-- OFMT (Table 9.7) as a format. -/
def outFormat (o : Nat) : Option Fmt :=
  match o with
  | 1 => some bf16 | 2 => some fp16 | 3 => some e5m2 | 4 => some e4m3 | _ => none

/-! ### Reading operands at the operand port (R165 to R170) -/

/-- Expand one block of a compressed polder: its bytes, or the status its operation ends with; a damaged block's slot and tag are read again once, and it is
checked again (R170). -/
def State.expandSlot (s : State) (core tag h slot : Nat) (stream : Bool) : Except Status Bytes × State :=
  match s.slotBody core h slot none with
  | (none, s) => (.error .uncorrectable, s)
  | (some (tb, _), s) =>
    let c := s.core core
    let p := c.polder h
    match c.expand tag (slice tb 0 64) (tb.drop 64) (some p.classW) with
    | .bytes bs => (.ok bs, s.tally (tagIndex tag) (fun t => { t with blocks := t.blocks + 1 }))
    | .refused st => (.error st, s)
    | .damaged k =>
      let s := s.damage core k stream
      match s.slotBody core h slot none with
      | (none, s) => (.error .uncorrectable, s)
      | (some (tb, _), s) =>
        match c.expand tag (slice tb 0 64) (tb.drop 64) (some p.classW) with
        | .bytes bs =>
          (.ok bs, (s.tally (tagIndex tag) (fun t => { t with blocks := t.blocks + 1 })).transient (tagIndex tag) 8 (sourceOf 0 core))
        | .refused st => (.error st, s)
        | .damaged k => (.error .damagedBlock, ((s.damage core k stream).damageLasting core).lastingBlock (tagIndex tag))

/-- Read `len` bytes of a polder's contents, compressed slots expanded; the status the operation ends with otherwise. -/
def State.portRead (s : State) (core tag h off len : Nat) (stream : Bool := false) : Except Status Bytes × State :=
  let p := (s.core core).polder h
  if len = 0 then (.ok [], s)
  else if p.compressed then
    let first := off / 2048
    let count := (off + len - 1) / 2048 + 1 - first
    let (r, s) := (List.range count).foldl (fun (acc : Except Status Bytes × State) j =>
      match acc.1 with
      | .error _ => acc
      | .ok bs =>
        match acc.2.expandSlot core tag h (first + j) stream with
        | (.ok x, s) => (.ok (bs ++ x), s)
        | (.error e, s) => (.error e, s)) (.ok [], s)
    (r.map (fun bs => slice bs (off % 2048) len), s)
  else match s.spmRead core ((s.core core).abs h off) len with
    | (some bs, s) => (.ok bs, s)
    | (none, s) => (.error .uncorrectable, s)

/-- Read bytes of a polder's contents through a buffer of the last two expanded blocks (R165, R166); the buffer after it. -/
def State.bufferedRead (s : State) (core tag h off len : Nat) (buf : List (Nat × Bytes)) : Except Status Bytes × List (Nat × Bytes) × State :=
  if len = 0 then (.ok [], buf, s)
  else if ((s.core core).polder h).compressed then
    let first := off / 2048
    let count := (off + len - 1) / 2048 + 1 - first
    let (r, buf, s) := (List.range count).foldl (fun (acc : Except Status Bytes × List (Nat × Bytes) × State) j =>
      match acc.1 with
      | .error _ => acc
      | .ok bs =>
        match acc.2.1.find? (fun b => b.1 == first + j) with
        | some b => (.ok (bs ++ b.2), acc.2)
        | none =>
          match acc.2.2.expandSlot core tag h (first + j) false with
          | (.ok x, s) => (.ok (bs ++ x), (acc.2.1 ++ [(first + j, x)]).drop (acc.2.1.length - 1), s)
          | (.error e, s) => (.error e, acc.2.1, s)) (.ok [], buf, s)
    (r.map (fun bs => slice bs (off % 2048) len), buf, s)
  else
    let (r, s) := s.portRead core tag h off len
    (r, buf, s)

/-- Bytes of contents a polder can give: its slots when compressed. -/
def Polder.contents (p : Polder) : Nat := if p.compressed then 2048 * p.slots else p.length * granule

/-! ### Issue (R58 to R61, R246, R247, Table 3.4) -/

/-- K_form of a class in a form (Table 3.2). -/
def kForm (c : OpClass) (form : Nat) : Nat := c.kc * formR form

/-- A flag of mode 0, 1 or 2 (Table 9.7): none when the mode is 2 and no loop encloses the operation. -/
def loopFlag (sl : Slot) (mode : Nat) (last : Bool) : Option Bool :=
  if mode = 2 then
    match sl.loops with
    | [] => none
    | l :: _ => some (sl.lcs.getD l.lc 0 == (if last then sl.lasts.getD l.lc 0 else 0))
  else some (mode == 1)

/-- Fields of a MATRIX (Table 9.7) with its operands placed: byte offsets in their polders. -/
def matrixOp (i : Nat) (sl : Slot) (w v : Nat) : MeOp :=
  let ofmt := bits w 101 99
  let mx := isMx (bits w 109 106) || isMx (bits w 105 102)
  let a := fun f => addr sl f
  let st := a (bits w 57 29); let mv := a (bits w 28 0)
  let ac := a (contField v 1); let ck := a (contField v 2); let out := a (contField v 3); let sc := a (contField v 4)
  { slot := i, tag := sl.tag, opIndex := sl.pc, form := bits w 115 114
    start := (loopFlag sl (bits w 113 112) false).getD false, final := (loopFlag sl (bits w 111 110) true).getD false
    mfmt := bits w 109 106, sfmt := bits w 105 102, ofmt := ofmt, stoch := bit w 98, sat := bit w 97
    m := bits w 96 83, k := bits w 82 67, n := bits w 66 58
    st := 256 * st.2, mv := 256 * mv.2, ac := 256 * ac.2, ck := 256 * ck.2, out := 256 * out.2, sc := 256 * sc.2
    handles := [st.1, mv.1, ac.1, ck.1] ++ (if ofmt = 0 then [] else [out.1]) ++ (if mx then [sc.1] else [])
    accs := [ac.1, ck.1]
    active := false, pass := 0, group := 0, tile := .none, shadow := none, buffer := [], retrying := false, retries := 0, passes := 0, maxRatio := 0, unchecked := 0
    saturated := false, convRetries := 0, convRows := 0, convRatio := 0, supply := false, convSupply := false }

/-- Class of an operation. -/
def MeOp.cls (o : MeOp) : OpClass := (classOf o.mfmt).getD .c8
/-- Width of the form. -/
def MeOp.nForm (o : MeOp) : Nat := formN o.form
/-- Depth of a pass. -/
def MeOp.kForm (o : MeOp) : Nat := Machine.kForm o.cls o.form
/-- Passes (R58). -/
def MeOp.count (o : MeOp) : Nat := ceilDiv o.k o.kForm
/-- M rounded up to whole groups (R56). -/
def MeOp.mPad (o : MeOp) : Nat := roundUp o.m 8
/-- An MX operand is present. -/
def MeOp.mx (o : MeOp) : Bool := isMx o.mfmt || isMx o.sfmt
/-- Handles of the output and of the scales. -/
def MeOp.hOut (o : MeOp) : Nat := o.handles.getD 4 0
/-- Handle of the scales. -/
def MeOp.hSc (o : MeOp) : Nat := o.handles.getD (if o.ofmt = 0 then 4 else 5) 0
/-- Offset of the stationary scales (R247). -/
def MeOp.stScale (o : MeOp) : Nat := o.sc + roundUp (ceilDiv o.k 32 * o.mPad) 256
/-- Bytes of an output element. -/
def MeOp.outBytes (o : MeOp) : Nat := if o.ofmt ≤ 2 then 2 else 1

/-- The regions of an operation in operand order: handle, offset, length, written. A plain operand has no scales (R34, R37). -/
def MeOp.regions (o : MeOp) : List (Nat × Nat × Nat × Bool) :=
  let blk := ceilDiv o.k 32
  [ (o.handles.getD 0 0, o.st, 2048 * o.count, false),
    (o.handles.getD 1 0, o.mv, ceilDiv (o.count * o.mPad * o.kForm * bitsOf o.mfmt) 8, false),
    (o.handles.getD 2 0, o.ac, if o.m = 0 then 0 else ((o.m - 1) * o.nForm + o.n) * 4, true),
    (o.handles.getD 3 0, o.ck, o.m * 16, true) ] ++
  (if o.ofmt = 0 then [] else [(o.hOut, o.out, o.m * o.n * o.outBytes, true)]) ++
  (if isMx o.mfmt then [(o.hSc, o.sc, blk * o.mPad, false)] else []) ++ (if isMx o.sfmt then [(o.hSc, o.stScale, blk * o.nForm, false)] else [])

/-- The region row of Table 3.4. -/
def MeOp.regionBad (o : MeOp) (c : CoreSt) : Bool :=
  o.regions.any (fun (h, off, len, wr) =>
    let p := c.polder h
    decide ((if wr then p.length * granule else p.contents) < off + len))

/-- The written operands in their order, each by its CODE before its ACCUM (R132, and the accumulator row of Table 3.4; log entry 34). -/
def MeOp.destFault (o : MeOp) (c : CoreSt) : Option Status :=
  (o.regions.filter (·.2.2.2)).zipIdx.findSome? (fun (r, j) =>
    if (c.polder r.1).code then some .accessViolation else if j < 2 ∧ !(c.polder r.1).accum then some .descInvalid else none)

/-- Validation at issue, in the order of R60, Table 3.4 and R247: none when the operation may enter the ME. -/
def MeOp.fault (o : MeOp) (c : CoreSt) (sl : Slot) (w v : Nat) : Option Status :=
  if o.handles.any (fun h => let p := c.polder h; !p.valid || p.owner != o.tag) then some .accessViolation
  else if o.form = 3 ∨ bits w 113 112 = 3 ∨ bits w 111 110 = 3 ∨ 5 ≤ o.ofmt then some .descInvalid
  else if (classOf o.mfmt).isNone ∨ classOf o.mfmt ≠ classOf o.sfmt then some .descInvalid
  else if o.mx ∧ o.k % 32 ≠ 0 then some .descInvalid
  else if o.k = 0 ∨ o.n = 0 ∨ o.nForm < o.n then some .descInvalid
  else if (o.destFault c).isSome then o.destFault c
  else if (loopFlag sl (bits w 113 112) false).isNone ∨ (loopFlag sl (bits w 111 110) true).isNone then some .descInvalid
  else if o.st % 2048 ≠ 0 then some .descInvalid
  else if o.ofmt = 0 ∧ contField v 3 ≠ 0 then some .descInvalid
  else if (!o.mx ∧ contField v 4 ≠ 0) ∨ (o.mx ∧ contField v 4 = 0) then some .descInvalid
  else if o.regionBad c then some .accessViolation
  else none

/-- The operation's output conversion draws from the rounding generator (R48, R71). -/
def MeOp.draws (o : MeOp) : Bool := o.final && o.stoch && o.ofmt != 0

/-- A polder of the task holds a landed block that has not passed, in a region read (R269). -/
def CoreSt.awaits (c : CoreSt) (rs : List (Nat × Nat × Nat × Bool)) : Bool :=
  rs.any (fun (h, off, len, _) => (c.polder h).unseen off len)

/-! ### The stationary tile and its check vectors (R55 to R57, R63, R72) -/

/-- K elements of a pass. -/
def MeOp.kOf (o : MeOp) (pass : Nat) : Nat := min o.kForm (o.k - pass * o.kForm)
/-- K elements of the current pass. -/
def MeOp.passK (o : MeOp) : Nat := o.kOf o.pass
/-- MX blocks of a pass: the first, and how many (R57). -/
def MeOp.blocksOf (o : MeOp) (pass : Nat) : Nat × Nat :=
  let b := pass * o.kForm / 32
  (b, (pass * o.kForm + o.kOf pass - 1) / 32 + 1 - b)

/-- An element under its block scale; a plain operand takes 127 (R37). -/
def scaledElem (code v : Nat) (scale : Option Nat) : FV :=
  match scale with
  | none => elemValue code v
  | some sc => mxValue sc (elemValue code v)

/-- Columns of a pass's tile: for each j below N extent its K elements, scales included (R55, R57). -/
def tileColumns (o : MeOp) (pass : Nat) (tile scales : Bytes) : List (List FV) :=
  let data := leNat tile
  let w := bitsOf o.sfmt
  let b := (o.blocksOf pass).1
  (List.range o.n).map (fun j => (List.range (o.kOf pass)).map (fun k =>
    let sc := if isMx o.sfmt then some (field scales (((pass * o.kForm + k) / 32 - b) * o.nForm + j) 1) else none
    scaledElem o.sfmt (element w data (k * o.nForm + j)) sc))

/-- Check vectors of a tile: Ye and |Y|e (R72). -/
def checkVectors (cls : OpClass) (cols : List (List FV)) (k : Nat) : List FV × List FV :=
  let rowAt := fun i => cols.map (fun c => c.getD i (.fin false 0 0))
  let sum := fun (l : List FV) => l.foldl FV.add (.fin false 0 0)
  let ye := (List.range k).map (fun i => sum (rowAt i))
  let ya := (List.range k).map (fun i => sum ((rowAt i).map FV.abs))
  if cls = .int then (ye, ya) else (ye.map r32, ya.map r32up)

/-- The tile of a pass as it fills the shadow: its block, its scales, and the vectors the check column forms over them (R63, R72). -/
def State.fillTile (s : State) (core : Nat) (o : MeOp) (pass : Nat) : MeShadow × State :=
  let size := o.kForm * o.nForm * bitsOf o.sfmt / 8
  match s.portRead core o.tag (o.handles.getD 0 0) (o.st + 2048 * pass) size with
  | (.error st, s) => (⟨.none, some st⟩, s)
  | (.ok bs, s) =>
    let (b, n) := o.blocksOf pass
    match (if isMx o.sfmt then s.portRead core o.tag o.hSc (o.stScale + b * o.nForm) (n * o.nForm) else (.ok [], s)) with
    | (.error st, s) => (⟨.none, some st⟩, s)
    | (.ok sc, s) =>
      let (ye, ya) := checkVectors o.cls (tileColumns o pass bs sc) (o.kOf pass)
      (⟨⟨bs, sc, ye, ya⟩, none⟩, s)

/-- Replace the operation at the front of the ME. -/
def CoreSt.setMe (c : CoreSt) (o : MeOp) : CoreSt := { c with me := o :: c.me.drop 1 }

/-- Fill the shadow, when it is empty, with the next tile: of the pass that waits for its swap, of the next pass, or of the next operation's first
pass (R61, R63). -/
def State.fillShadow (s : State) (core : Nat) : State :=
  let c := s.core core
  match c.me with
  | [] => s
  | o :: rest =>
    if !o.active ∨ o.pass + 1 < o.count then
      if o.shadow.isSome then s else
      let (f, s) := s.fillTile core o (if o.active then o.pass + 1 else o.pass)
      s.setCore core ((s.core core).setMe { o with shadow := some f })
    else
      match rest with
      | [] => s
      | p :: more =>
        if p.shadow.isSome then s else
        let (f, s) := s.fillTile core p 0
        s.setCore core { s.core core with me := o :: { p with shadow := some f } :: more }

/-- MATRIX: validated and queued in the ME; an M extent of zero completes at once (R60, R61, R70, R225). Values of the task's rounding generator are taken
in program order, so it waits for a CONVERT of the task that draws them (R48; log entry 34). -/
def execMatrix (core : CoreId) (s : State) : Host.Outcome State Fault Refusal :=
  .next (s.runOp core (fun k _ => k == .matrix) (fun i sl w v s =>
    let c := s.core core
    let o := matrixOp i sl w v
    if !sl.compute then s.faultTag sl.tag .descInvalid else
    match o.fault c sl w v with
    | some st => s.faultTag sl.tag st
    | none =>
      if o.m = 0 then s.step1 core i 2
      else if 2 ≤ c.me.length || o.handles.any (fun h => c.accumulating i h) || c.awaits o.regions then s
      else if o.draws && c.vu.any (fun x => x.slot == i && x.draws) then s
      else ((s.setCore core { c with me := c.me ++ [o] }).fillShadow core).step1 core i 2))

/-! ### Swap (R62 to R64) -/

/-- The operation at the front leaves the ME, and the next one's tile fills the shadow; its slot may free (R231). -/
def State.dropMe (s : State) (core : Nat) : State :=
  let c := s.core core
  match c.me with
  | [] => s
  | o :: r => (((s.setCore core { c with me := r }).fillShadow core).freeSlot core o.slot).gate core

/-- The operation at the front ends with a status: it commits nothing further and makes no record, and its context faults. -/
def State.failMe (s : State) (core tag : Nat) (st : Status) : State := (s.dropMe core).faultTag tag st

/-- ME_SWAP: the shadow becomes the active tile, its check vectors with it, and the next fill begins; `feed` cycles were frozen by a dry feeder (R63 to R65).
A fill that ended with a status ends the operation at the swap. -/
def execMeSwap (core : CoreId) (feed : Nat) (s : State) : Host.Outcome State Fault Refusal :=
  let c := s.core core
  match c.me with
  | [] => .next s
  | o :: _ =>
    if o.active ∨ 2 ≤ c.rst then .next s else
    let (f, s) := match o.shadow with
      | some f => (f, s)
      | none => s.fillTile core o o.pass
    let s := s.bump F.coreMeFrzFeedCount core feed
    match f.error with
    | some st => .next (s.failMe core o.tag st)
    | none =>
      let c := { (s.core core).setMe { o with active := true, tile := f.tile, shadow := none } with meForm := o.form, filler := false }
      .next ((s.setCore core c).fillShadow core)

/-! ### A group through the array (R38 to R43, R55 to R57, R72, R73) -/

/-- Rows of a group from its slice of the moving operand and the scales of the pass's blocks, 8 a block (R56, R57). -/
def groupRows (o : MeOp) (slab scales : Bytes) (rows : Nat) : List (List FV) :=
  let data := leNat slab
  let w := bitsOf o.mfmt
  (List.range rows).map (fun i => (List.range o.passK).map (fun k =>
    let sc := if isMx o.mfmt then some (field scales (((o.pass * o.kForm + k) / 32 - (o.blocksOf o.pass).1) * 8 + i) 1) else none
    scaledElem o.mfmt (element w data (i * o.kForm + k)) sc))

/-- Exact dot product, +0 when empty. -/
def dot (xs ys : List FV) : FV := (List.zipWith FV.mul xs ys).foldl FV.add (.fin false 0 0)

/-- Cut a list into runs of `n`, with fuel. -/
def runsOf (n : Nat) : Nat → List FV → List (List FV)
  | 0, _ => []
  | k + 1, l => if l.isEmpty then [] else l.take n :: runsOf n k (l.drop n)

/-- A column's sum as it reaches the drain: every run of `g` elements rounded but the last (R39, R41). -/
def columnSum (g : Nat) (xs ys : List FV) : FV :=
  let xr := runsOf g (xs.length + 1) xs
  let yr := runsOf g (ys.length + 1) ys
  let n := xr.length
  ((List.zip xr yr).zipIdx.foldl (fun (ps : FV) (p : (List FV × List FV) × Nat) =>
    let t := ps.add (dot p.1.1 p.1.2)
    if p.2 + 1 < n then roundME t else t) (.fin false 0 0))

/-- Check state of a row (Table 3.8). -/
structure RowCheck where
  s : FV
  a : FV
  k : Nat
  flags : Nat
  deriving DecidableEq, Repr

/-- A fresh check state (R59). -/
def RowCheck.zero : RowCheck := ⟨.fin false 0 0, .fin false 0 0, 0, 0⟩
/-- Check state from its 16 bytes; flags [31:2] are zero (Table 3.8). -/
def rowCheckOf (bs : Bytes) : RowCheck := ⟨fp32.decode (field bs 0 4), fp32.decode (field bs 4 4), field bs 8 4, field bs 12 4 % 4⟩
/-- Its 16 bytes; in the integer class s and a hold zero (R76). -/
def rowCheckBytes (int : Bool) (r : RowCheck) : Bytes :=
  (if int then zeros 8 else natLe 4 (code32 r.s) ++ natLe 4 (code32 r.a)) ++ natLe 4 r.k ++ natLe 4 r.flags

/-- What a row of a group comes to: new accumulator codes, check state, ratio, passed, unchecked, saturated. -/
structure RowResult where
  acc : List Nat
  check : RowCheck
  ratio : Nat
  ok : Bool
  unchecked : Bool
  saturated : Bool
  deriving DecidableEq, Repr

/-- Codes with flips of an upset whose positions are row × N_form + column. -/
def flipCodes (u : Upset) (base : Nat) (codes : List Nat) : List Nat :=
  codes.zipIdx.map (fun (v, j) => (u.filter (fun p => p.1 == base + j)).foldl (fun x p => x ^^^ p.2) v)

/-- A floating-point row: accumulate, update the check state, compare with the freeboard (R39, R74, R84 to R89). -/
def floatRow (o : MeOp) (kappa : Nat) (cols : List (List FV)) (ye ya x : List FV) (old : List Nat) (ck : RowCheck) (flips : Upset) (i : Nat) : RowResult :=
  let g := o.cls.g o.form
  let acc := List.zipWith (fun (c : List FV) v => code32 (roundME ((fp32.decode v).add (columnSum g x c)))) cols old
  let acc := (flipCodes flips (i * o.nForm) acc).map (· % 2 ^ 32)
  let vals := acc.map fp32.decode
  let t := r32 (vals.foldl FV.add (.fin false 0 0))
  let s := r32 (ck.s.add (dot x ye))
  let a := r32up (ck.a.add (dot (x.map FV.abs) ya))
  let k := ck.k + o.passK
  let accBad := vals.any (fun v => !v.isFin)
  let nonfinite := accBad || !s.isFin || !a.isFin || bit ck.flags 0
  let flags := if nonfinite then ck.flags ||| 1 else ck.flags
  let r := t.add s.neg
  let f := freeboardMatrix kappa o.nForm o.cls.d k a
  let breach := f.lt r.abs
  let ck' : RowCheck := ⟨s, a, k, flags⟩
  if nonfinite && accBad && s.isFin && a.isFin then ⟨acc, ck', 0, false, false, false⟩
  else if nonfinite && (!f.isFin || !r.isFin || !s.isFin || !a.isFin) then ⟨acc, ck', 0, true, true, false⟩
  else ⟨acc, ck', if breach then 0 else ratioFp16 r f, !breach, false, false⟩

/-- An integer row: exact pass sums compared with the check column, saturating accumulation on two rails (R43, R76). -/
def intRow (o : MeOp) (cols : List (List FV)) (ye x : List FV) (old : List Nat) (ck : RowCheck) (flips : Upset) (i : Nat) (rails : Bool) : RowResult :=
  let sums := cols.map (fun c => (dot x c).dy.floor)
  let sums := (flipCodes flips (i * o.nForm) (sums.map (unsigned 48))).map (signed 48)
  let wide := List.zipWith (fun (t : Int) v => signed 32 v + t) sums old
  let acc := wide.map (clampSigned 32)
  let sat := (List.zip wide acc).any (fun p => p.1 != p.2)
  let flags := if sat then ck.flags ||| 2 else ck.flags
  let good := decide (sums.foldl (· + ·) 0 = (dot x ye).dy.floor) && rails
  ⟨acc.map (unsigned 32), ⟨.fin false 0 0, .fin false 0 0, ck.k + o.passK, flags⟩, 0, good, false, sat⟩

/-- Everything the drain reads for a group: rows' accumulator codes and check states (R66, R69, R75), none when uncorrectable. -/
def State.drainRead (s : State) (core : Nat) (o : MeOp) (rows : Nat) : Option (List (List Nat × RowCheck)) × State :=
  if o.start && o.pass == 0 then (some (List.replicate rows (List.replicate o.n 0, RowCheck.zero)), s) else
  (List.range rows).foldl (fun (acc : Option (List (List Nat × RowCheck)) × State) i =>
    match acc.1 with
    | none => acc
    | some l =>
      let m := 8 * o.group + i
      let c := acc.2.core core
      match acc.2.spmRead core (c.abs (o.handles.getD 2 0) (o.ac + m * o.nForm * 4)) (o.n * 4) with
      | (none, s) => (none, s)
      | (some ab, s) =>
        match s.spmRead core (c.abs (o.handles.getD 3 0) (o.ck + m * 16)) 16 with
        | (none, s) => (none, s)
        | (some cb, s) => (some (l ++ [((List.range o.n).map (fun j => field ab (4 * j) 4), rowCheckOf cb)]), s)) (some [], s)

/-- The element counts held for every row of the strip (R88). -/
def State.chainCounts (s : State) (core : Nat) (o : MeOp) : List Nat :=
  let c := s.core core
  (List.range o.m).map (fun m => field (c.spm.readN (c.abs (o.handles.getD 3 0) (o.ck + m * 16)) 16) 8 4)

/-- The tests of the first group: k a multiple of d, and the element count (R60, R88). -/
def MeOp.firstGroupBad (o : MeOp) (ks : List Nat) : Bool :=
  ks.any (fun k => decide (2 ^ 32 ≤ k + o.k) || (o.cls != .int && k % o.cls.d != 0))

/-! ### The output conversion (R71, R92) -/

/-- The check of R92 on one row: whether it passes, and its ratio. -/
def convCheck (kappa : Nat) (f : Fmt) (cs : List FV) (vs again : List Nat) : Bool × Nat :=
  let vals := vs.map f.decode
  let rows := List.zip (List.zip cs vals) (List.zip vs again)
  let special := fun (c v : FV) (code : Nat) => !c.isFin || !v.isFin || code % 2 ^ (f.ebits + f.mbits) == f.maxCode
  let out := rows.filter (fun p => special p.1.1 p.1.2 p.2.1)
  let kept := rows.filter (fun p => !special p.1.1 p.1.2 p.2.1)
  if out.any (fun p => p.2.1 != p.2.2) then (false, 0) else
  let r := (Dy.sum (kept.map (fun p => p.1.2.dy))).sub (Dy.sum (kept.map (fun p => p.1.1.dy)))
  let fc := freeboardConv kappa f (kept.map (fun p => p.1.1.dy))
  if !fc.isFin then (true, 0)
  else if fc.dy.lt r.abs then (false, 0) else (true, ratioFp16 (FV.ofDy r) fc)

/-- The rounding generator of a context on a core (R48). -/
def State.rng (s : State) (core i : Nat) : Rng :=
  match (s.core core).rngs.find i with
  | some r => r
  | none =>
    match (s.ctx i).inv with
    | some v => ⟨rngInit (BitVec.ofNat 64 v.seed) core (BitVec.ofNat 64 v.id), []⟩
    | none => ⟨0, []⟩

/-- Set it. -/
def State.setRng (s : State) (core i : Nat) (r : Rng) : State :=
  let c := s.core core
  s.setCore core { c with rngs := c.rngs.put i r }

/-- Convert a group's committed values, row by row: codes, the rows' checks, and the generator after it. -/
def convertGroup (o : MeOp) (f : Fmt) (kappa : Nat) (check : Bool) (rng : Rng) (rows : List (List FV)) (flips : Upset) :
    List (List Nat) × Bool × Nat × Rng :=
  rows.zipIdx.foldl (fun (acc : List (List Nat) × Bool × Nat × Rng) (p : List FV × Nat) =>
    let (rs, rng) := if o.stoch then acc.2.2.2.take p.1.length else ([], acc.2.2.2)
    let mode := fun j => if o.stoch then RMode.stoch (rs.getD j 0) else RMode.nearest
    let pure := p.1.zipIdx.map (fun (x, j) => f.convert (mode j) o.sat x)
    let codes := (flipCodes flips (p.2 * o.nForm) pure).map (· % 2 ^ f.width)
    let (ok, ratio) := if check then convCheck kappa f p.1 codes pure else (true, 0)
    (acc.1 ++ [codes], acc.2.1 && ok, max acc.2.2.1 ratio, rng)) ([], true, 0, rng)

/-! ### Events of an operation -/

/-- The MATRIX event, and the CONVERT event when rows were checked under R92 (Table 4.1, R107). -/
def State.meEvents (s : State) (core : Nat) (o : MeOp) (passes : Nat) (lasting convLasting : Bool) : State :=
  let i := tagIndex o.tag
  let g : Gauge := { type := if o.cls = .int then 2 else 1, source := sourceOf 0 core, opIndex := o.opIndex, count := passes, retries := o.retries
                     lasting := if lasting then some .breachLasting else none, unchecked := decide (0 < o.unchecked), saturated := o.saturated
                     emptyBag := false, maxRatio := o.maxRatio, supply := o.supply }
  let s := s.gauge i g
  if o.convRows = 0 then s else
  s.gauge i { Gauge.plain 3 (sourceOf 0 core) o.opIndex o.convRows with
    retries := o.convRetries, lasting := if convLasting then some .breachLasting else none, maxRatio := o.convRatio, supply := o.convSupply }

/-- A lasting breach of the ME: events, suspect core, context fault (R102, R103). A pass under retry that a conversion's lasting breach ends has not
breached again, so its own retry is counted. -/
def State.meLasting (s : State) (core : Nat) (o : MeOp) (conv : Bool) : State :=
  let i := tagIndex o.tag
  let s := if conv && o.retrying then s.transient i (if o.cls = .int then 2 else 1) (sourceOf 0 core) else s
  let s := s.bump F.coreMePassesCount core
  let s := s.tally i (fun t => { t with tiles := t.tiles + 1 })
  let s := s.meEvents core o (o.passes + 1) (!conv) conv
  let s := s.suspectCore i core (if conv then 3 else if o.cls = .int then 2 else 1)
  s.failMe core o.tag .breachLasting

/-- A pass is complete: the next one waits for its swap, or the operation ends with its events (R61, R107, Table 3.15). -/
def State.passDone (s : State) (core : Nat) (o : MeOp) : State :=
  let i := tagIndex o.tag
  let s := (s.bump F.coreMePassesCount core).tally i (fun t => { t with tiles := t.tiles + 1 })
  let s := if o.retrying then s.transient i (if o.cls = .int then 2 else 1) (sourceOf 0 core) else s
  let c := s.core core
  let s := s.setCore core { c with progressAt := s.time }
  let o := { o with passes := o.passes + 1 }
  if o.pass + 1 < o.count then
    let c := s.core core
    (s.setCore core (c.setMe { o with active := false, retrying := false, pass := o.pass + 1, group := 0 })).fillShadow core
  else
    (s.meEvents core o o.passes false false).dropMe core

/-- Write a group's results: accumulators, check states, converted outputs (R66, R69, R71, R75, R77); false when a merge fails. -/
def State.commitGroup (s : State) (core : Nat) (o : MeOp) (rows : List RowResult) (outs : Option (List (List Nat))) : Bool × State :=
  let int := o.cls == .int
  let m := 8 * o.group
  let base := fun (s : State) (k : Nat) => (s.core core).abs (o.handles.getD k 0)
  let (b1, s) := rows.zipIdx.foldl (fun (acc : Bool × State) (p : RowResult × Nat) =>
    let (b, s) := acc.2.spmWrite core (base acc.2 2 (o.ac + (m + p.2) * o.nForm * 4)) (p.1.acc.map (natLe 4)).flatten
    (acc.1 && b, s)) (true, s)
  let (b2, s) := s.spmWrite core (base s 3 (o.ck + m * 16)) (rows.map (fun r => rowCheckBytes int r.check)).flatten
  let (b3, s) := match outs with
    | some l => s.spmWrite core ((s.core core).abs o.hOut (o.out + m * o.n * o.outBytes)) ((l.take rows.length).flatten.map (natLe o.outBytes)).flatten
    | none => (true, s)
  (b1 && b2 && b3, s)

/-- The drain has a group's rows: check, retry once, commit, convert (R74 to R77, R92, R102, R504). -/
def State.drainGroup (s : State) (core : Nat) (o : MeOp) (rows : List RowResult) (hit : GroupHit) (kappa drainChk : Nat) : State :=
  let i := tagIndex o.tag
  if rows.any (fun r => !r.ok) then
    let o := { o with supply := o.supply || s.inSupply }
    if o.retrying then (s.lastingUnit i).meLasting core o false
    else
      -- the pass runs again from this group, its tile filling the shadow again (R504); the retry is counted as a pass
      let s := s.bump F.coreMePassesCount core
      let o := { o with active := false, shadow := none, retrying := true, retries := o.retries + 1 }
      let me := o :: ((s.core core).me.drop 1).map (fun p => { p with shadow := none })
      (s.setCore core { s.core core with me := me }).fillShadow core
  else
    let freeRows := (rows.filter (·.unchecked)).length
    let o := { o with
      maxRatio := rows.foldl (fun m r => max m r.ratio) o.maxRatio
      unchecked := o.unchecked + freeRows
      saturated := o.saturated || rows.any (·.saturated) }
    let converts := o.final && o.pass + 1 == o.count && o.ofmt != 0
    let finish := fun (s : State) (o : MeOp) (outs : Option (List (List Nat))) =>
      let (ok, s) := s.commitGroup core o rows outs
      if !ok then s.failMe core o.tag .uncorrectable else
      let s := s.tally i (fun t => { t with unchecked := t.unchecked + freeRows })
      if 8 * (o.group + 1) < o.m then
        let c := s.core core
        s.setCore core (c.setMe { o with group := o.group + 1 })
      else s.passDone core o
    match (if converts then outFormat o.ofmt else none) with
    | none => finish s o none
    | some f =>
      let check := bit drainChk (4 - o.ofmt)
      let vals := rows.map (fun r => r.acc.map (fun v => if o.cls = .int then ofInt32 v else fp32.decode v))
      let rng := s.rng core i
      let (codes, ok, ratio, after) := convertGroup o f kappa check rng vals hit.conv
      let o := if check then { o with convRows := o.convRows + rows.length } else o
      let s := if check then s.tally i (fun t => { t with convRows := t.convRows + rows.length }) else s
      if ok then finish (s.setRng core i after) { o with convRatio := max o.convRatio ratio } (some codes)
      else
        let o := { o with convRetries := o.convRetries + 1, convSupply := o.convSupply || s.inSupply }
        let (codes, ok, ratio, after) := convertGroup o f kappa check rng vals hit.convRetry
        if ok then finish ((s.transient i 3 (sourceOf 0 core)).setRng core i after) { o with convRatio := max o.convRatio ratio } (some codes)
        else
          let (_, s) := (s.lastingUnit i).commitGroup core o rows none
          let s := s.tally i (fun t => { t with unchecked := t.unchecked + freeRows })
          s.meLasting core o true

/-- What the rows of a group come to, from the active tile, the moving operand with its scales, and the rows' old accumulators and check states. -/
def MeOp.rowResults (o : MeOp) (kappa : Nat) (mv ms : Bytes) (olds : List (List Nat × RowCheck)) (hit : GroupHit) : List RowResult :=
  let cols := tileColumns o o.pass o.tile.data o.tile.scales
  let flips := if o.retrying then hit.accRetry else hit.acc
  let rails := match hit.rails with
    | .agree => true
    | .transient => o.retrying
    | .lasting => false
  (List.zip (groupRows o mv ms olds.length) olds).zipIdx.map (fun (p, j) =>
    if o.cls = .int then intRow o cols o.tile.ye p.1 p.2.1 p.2.2 flips j rails
    else floatRow o kappa cols o.tile.ye o.tile.ya p.1 p.2.1 p.2.2 flips j)

/-- The moving scales of a group: for each MX block of the pass the 8 bytes of its rows (R57). -/
def State.movingScales (s : State) (core : Nat) (o : MeOp) : Except Status Bytes × State :=
  if !isMx o.mfmt then (.ok [], s) else
  let (b, n) := o.blocksOf o.pass
  (List.range n).foldl (fun (acc : Except Status Bytes × State) j =>
    match acc.1 with
    | .error _ => acc
    | .ok bs =>
      match acc.2.portRead core o.tag o.hSc (o.sc + (b + j) * o.mPad + 8 * o.group) 8 with
      | (.ok x, s) => (.ok (bs ++ x), s)
      | (.error e, s) => (.error e, s)) (.ok [], s)

/-- A group of the operation at the front, its operands read, through the array and the drain. -/
def State.runGroup (s : State) (core : Nat) (o : MeOp) (hit : GroupHit) : State :=
  let (kappa, chk) := match (s.ctx (tagIndex o.tag)).inv with
    | some v => (v.kappa, v.drainChk)
    | none => (4, 0)
  if o.pass = 0 ∧ o.group = 0 ∧ !o.start ∧ o.firstGroupBad (s.chainCounts core o) then s.failMe core o.tag .descInvalid else
  let w := bitsOf o.mfmt
  match s.bufferedRead core o.tag (o.handles.getD 1 0) (o.mv + (o.pass * o.mPad + 8 * o.group) * o.kForm * w / 8) (o.kForm * w) o.buffer with
  | (.error st, _, s) => s.failMe core o.tag st
  | (.ok mv, buf, s) =>
    let o := { o with buffer := buf }
    match s.movingScales core o with
    | (.error st, s) => s.failMe core o.tag st
    | (.ok ms, s) =>
      match s.drainRead core o (min 8 (o.m - 8 * o.group)) with
      | (none, s) => s.failMe core o.tag .uncorrectable
      | (some olds, s) => s.drainGroup core o (o.rowResults kappa mv ms olds hit) hit kappa chk

/-- ME_GROUP_DRAIN: the next group passes through the array and the drain; `drain` cycles were frozen by a backed-up drain. -/
def execMeGroupDrain (core : CoreId) (drain : Nat) (hit : GroupHit) (s : State) : Host.Outcome State Fault Refusal :=
  let c := s.core core
  match c.me with
  | [] => .next s
  | o :: _ =>
    if !o.active ∨ 2 ≤ c.rst then .next s
    else .next (s.unlessFull (tagIndex o.tag) ((s.bump F.coreMeFrzDrainCount core drain).runGroup core o hit))

end Sys2Proof.Machine
end

