-- ==== Sys2Proof/Machine/Special.lean ====
section
/-! DEFINITION. The special functions: exp2 and log2 of the SFU, with the bounds and the order of Table 7.4 and R184, and the functions of the shipped
library within the errors of Table 7.7 (R181 to R184, R193). Log entry 11. -/

namespace Sys2Proof.Machine

/-! ### Exact functions to 240 binary places -/

/-- 1 in fixed point. -/
def fxOne : Nat := 2 ^ 240
/-- Product in fixed point. -/
def fxMul (a b : Int) : Int := a * b / (fxOne : Int)

/-- z + z³/3 + z⁵/5 + …, the inverse hyperbolic tangent, of |z| ≤ 1/3; with alternating signs the inverse tangent. -/
def fxOdd (alternate : Bool) (z : Int) : Int :=
  let z2 := if alternate then -(fxMul z z) else fxMul z z
  ((List.range 90).foldl (fun (a : Int × Int) k => (fxMul a.1 z2, a.2 + a.1 / ((2 * k + 1 : Nat) : Int))) (z, 0)).2

/-- ln 2. -/
def fxLn2 : Int := 2 * fxOdd false ((fxOne : Int) / 3)
/-- π, by Machin's formula. -/
def fxPi : Int := 16 * fxOdd true ((fxOne : Int) / 5) - 4 * fxOdd true ((fxOne : Int) / 239)
/-- e^r for 0 ≤ r < 1. -/
def fxExp (r : Int) : Int :=
  ((List.range 64).foldl (fun (a : Int × Int) k => (fxMul a.1 r / ((k + 1 : Nat) : Int), a.2 + a.1)) ((fxOne : Int), 0)).2

/-- A dyadic in fixed point. -/
def Dy.fx (x : Dy) : Int := (x.scale 240).floor
/-- A quotient of positive dyadics, to 300 places of the divisor's scale. -/
def Dy.quot (a b : Dy) : Dy := ⟨a.m * 2 ^ 300 / b.m, a.e - b.e - 300⟩
/-- One. -/
def Dy.one : Dy := ⟨1, 0⟩
/-- The greater of two. -/
def Dy.max (a b : Dy) : Dy := if a.lt b then b else a

/-- e^y, of a y held within ±2,000. -/
def expOf (y : Dy) : Dy :=
  let y := if y.lt ⟨-2000, 0⟩ then ⟨-2000, 0⟩ else if (⟨2000, 0⟩ : Dy).lt y then ⟨2000, 0⟩ else y
  let n := y.fx / fxLn2
  ⟨fxExp (y.fx - n * fxLn2), n - 240⟩

/-- A positive number as 2^e × m with m in [0.75, 1.5) (R182 step 2). -/
def splitLog (x : Dy) : Int × Dy :=
  let l := floorLog2 x.m.natAbs 1
  let m : Dy := ⟨x.m, -l⟩
  if m.lt ⟨3, -1⟩ then (l + x.e, m) else (l + x.e + 1, m.scale (-1))

/-- ln x of a positive x. -/
def lnOf (x : Dy) : Dy :=
  let (e, m) := splitLog x
  let z := (m.sub .one).fx * (fxOne : Int) / (m.add .one).fx
  ⟨e * fxLn2 + 2 * fxOdd false z, -240⟩

/-- √x of a positive x. -/
def sqrtOf (x : Dy) : Dy :=
  let e := x.e - 480 - x.e % 2
  ⟨Nat.sqrt (x.m.natAbs * 2 ^ (x.e - e).toNat), e / 2⟩

/-- √(8/π). -/
def geluScale : Dy := sqrtOf (Dy.quot ⟨8, 0⟩ ⟨fxPi, -240⟩)

/-! ### What an error bound leaves open -/

/-- Codes of the FP32 magnitudes within `n` units of the last place of an exact magnitude, or within 2^−126 where `small` allows that. Near a power of two the
lower end stays above that of the numbers below it, so both ends rise with the magnitude. -/
def withinUlps (n : Nat) (small : Bool) (x : Dy) : Nat × Nat :=
  if x.m ≤ 0 then (0, if small then 0x00800000 else 0) else
  let slack := x.scale (-90)
  let err := fun (k : Int) => let u : Dy := ⟨n, Max.max k (-149)⟩; if small then u.max ⟨1, -126⟩ else u
  let k := floorLog2 x.m.natAbs 1 + x.e
  let lo := (((x.sub slack).sub (err (k - 23)))).max ((⟨1, k⟩ : Dy).sub (err (k - 24)))
  let hi := (x.add slack).add (err (k - 23))
  (if lo.m ≤ 0 then 0 else min 0x7F800000 (fp32.magCode .away lo.m.natAbs 1 lo.e), min 0x7F800000 (fp32.magCode .zero hi.m.natAbs 1 hi.e))

/-- A number held between two. -/
def clampNat (lo hi x : Nat) : Nat := Max.max lo (min hi x)

/-! ### exp2 and log2 (R181 to R184) -/

/-- FP32 result of the SFU: denormal results are zero. -/
def roundSFU (x : FV) : FV := roundME x

/-- A denormal FP32 value, or zero. -/
def tiny (x : FV) : Bool := x.dy.abs.lt ⟨1, -126⟩

/-- Value of exp2's polynomial at the start of a segment: 1 for segment 0, no less than at the segment before; 2 past the last (R181, R184). -/
def exp2Start (s : Nat) : Dy :=
  if 64 ≤ s then ⟨1, 1⟩ else
  (List.range s).foldl (fun b j => b.max ⟨Config.exp2Coef (Fin.ofNat 64 (j + 1)) 0, -62⟩) Dy.one

/-- The polynomial of a segment at t, no greater than at the start of the next one (R181 step 4, R184). -/
def exp2Poly (s : Nat) (t : Dy) : Dy :=
  let seg := Fin.ofNat 64 s
  let c := fun (i : Fin 3) => (⟨Config.exp2Coef seg i, -62⟩ : Dy)
  let p := (exp2Start s).add (t.mul ((c 1).add (t.mul (c 2))))
  let top := exp2Start (s + 1)
  if p.lt top then p else top

/-- exp2 of an FP32 value (R181, R183, R184): the polynomial's result where it lies within one unit of the exact function's last place, else the
nearest result that does. -/
def sfuExp2 (x : FV) : FV :=
  match x with
  | .nan => .nan
  | .inf s => if s then .fin false 0 0 else .inf false
  | x =>
    if tiny x then .fin false 1 0
    else if !(x.dy.lt ⟨128, 0⟩) then .inf false
    else if x.dy.lt ⟨-160, 0⟩ then .fin false 0 0
    else
      let n := x.dy.floor
      let f := x.dy.sub (.ofInt n)
      if f.m = 0 then (if n < -126 then .fin false 0 0 else .fin false 1 n) else
      let exact : Dy := ⟨fxExp (fxMul f.fx fxLn2), n - 240⟩
      if (roundSFU (.ofDy exact)).isZero then .fin false 0 0 else
      let s := (f.scale 6).floor.toNat
      let p := exp2Poly s (f.sub ⟨s, -6⟩)
      let lo := fp32.magCode .zero exact.m.natAbs 1 exact.e
      fp32.decode (Max.max 0x00800000 (clampNat lo (lo + 1) (fp32.encode (.ofDy (p.scale n)))))

/-- Width of a segment of log2, and where it starts (R182 step 3). -/
def log2Segment (i : Nat) : Dy × Dy :=
  if i < 32 then (⟨1, -7⟩, (⟨3, -2⟩ : Dy).add ⟨i, -7⟩) else (⟨1, -6⟩, Dy.one.add ⟨(i : Int) - 32, -6⟩)

/-- The polynomial of a segment in t, without its constant term; its slope is never negative on the segment (R182 step 4, R184). -/
def log2Rise (i : Nat) (t : Dy) : Dy :=
  let seg := Fin.ofNat 64 i
  let c := fun (j : Fin 4) => (⟨Config.log2Coef seg j, -62⟩ : Dy)
  let w := (log2Segment i).1
  let least := w.mul (((c 2).abs.scale 1).add ((w.mul (c 3).abs).mul ⟨3, 0⟩))
  t.mul (((c 1).max least).add (t.mul ((c 2).add (t.mul (c 3)))))

/-- Value of log2's polynomials at the start of a segment: rising from segment to segment, zero at 1 (R184). -/
def log2Start (i : Nat) : Dy :=
  let raw := fun j => if j = 31 then log2Rise 31 ⟨-1, -7⟩ else (⟨Config.log2Coef (Fin.ofNat 64 j) 0, -62⟩ : Dy)
  let low := fun j => (List.range j).foldl (fun b k => b.max (raw (k + 1))) (raw 0)
  let cut := fun (x top : Dy) => if x.lt top then x else top
  if i < 32 then cut (low i) Dy.zero
  else
    let seam := (cut (raw 0) Dy.zero).add .one
    if 64 ≤ i then seam.max Dy.zero
    else cut ((List.range (i - 32)).foldl (fun b k => b.max (raw (33 + k))) Dy.zero) (seam.max Dy.zero)

/-- log2 of an FP32 value (R182 to R184): the polynomial's result where it lies within two units of the exact function's last place, else the nearest
result that does. -/
def sfuLog2 (x : FV) : FV :=
  match x with
  | .nan => .nan
  | .inf s => if s then .nan else .inf false
  | .fin s m e =>
    if tiny (.fin s m e) then .inf true
    else if s then .nan
    else
      let (ex, m1) := splitLog ⟨m, e⟩
      if (m1.sub .one).m = 0 then r32 (.ofDy (.ofInt ex)) else
      let low := m1.lt .one
      let i : Nat := if low then ((m1.sub ⟨3, -2⟩).scale 7).floor.toNat else 32 + ((m1.sub .one).scale 6).floor.toNat
      let p := if i = 31 ∨ i = 32 then log2Rise i (m1.sub .one) else (log2Start i).add (log2Rise i (m1.sub (log2Segment i).2))
      let p := p.max (log2Start i)
      let p := if p.lt (log2Start (i + 1)) then p else log2Start (i + 1)
      let exact : Dy := ⟨(lnOf ⟨m, e⟩).m * (fxOne : Int) / fxLn2, -240⟩
      let v := fp32.encode (.ofDy (p.add (.ofInt ex)))
      let neg := decide (exact.m < 0)
      let (lo, hi) := withinUlps 2 false exact.abs
      fp32.decode ((if neg then 2 ^ 31 else 0) + clampNat lo hi (if (bit v 31) == neg then v % 2 ^ 31 else 0))

/-! ### The shipped library (R193, Table 7.7) -/

/-- Micro-operations of a shipped program. -/
def libraryLength (n : Nat) : Nat := [9, 10, 9, 14, 24, 22, 15, 20, 10, 12].getD n 0
/-- Its maximum error in units of the last place. -/
def libraryUlps (n : Nat) : Nat := [1, 1, 2, 3, 4, 5, 4, 3, 2, 3].getD n 0

/-- Results that Table 7.7 states outright; `y` is P·x rounded to FP32. -/
def librarySpecial (n : Nat) (x p y : FV) : Option FV :=
  let zero := FV.fin false 0 0
  let one := FV.fin false 1 0
  if x == .nan then some .nan else
  match n with
  | 0 => if x.isZero || (x.isFin && !((⟨1, -128⟩ : Dy).lt x.dy.abs)) then some (.inf x.sign) else if !x.isFin then some (.fin x.sign 0 0) else none
  | 1 => if x.isZero then some x else if x.sign then some .nan else if !x.isFin then some x else none
  | 2 => if x.isZero then (if x.sign then none else some (.inf false)) else if x.sign then some .nan else if !x.isFin then some zero else none
  | 3 => if x.isFin then none else some (if x.sign then zero else one)
  | 4 => if x.isFin && (x.dy.abs.mul ⟨10, 0⟩).lt ⟨91, 0⟩ then none else some (if x.sign then one.neg else one)
  | 7 => if !x.sign && !(x.lt (.fin false 20 0)) then some x else if x.isFin then none else some zero
  | 8 => if y == .nan then some .nan else if y.isFin then (if (y.dy.mul ⟨100, 0⟩).lt ⟨8873, 0⟩ then none else some (.inf false))
    else some (if y.sign then zero else .inf false)
  | 9 => if x.isZero then some (p.neg.mul (.inf false)) else if x.sign then some .nan else if !x.isFin then some (p.mul x) else if p.isFin then none
    else some (p.mul (.ofDy (lnOf x.dy)))
  | _ => if x.isFin then none else some (if x.sign then .fin true 0 0 else x)

/-- 1/(1 + e^−u). -/
def sigmoidOf (u : Dy) : Dy :=
  let w := expOf u.abs.neg
  Dy.quot (if u.m < 0 then w else Dy.one) (Dy.one.add w)

/-- The exact function of a shipped program at a finite input: its sign and, to 60 places and more, its magnitude. -/
def libraryExact (n : Nat) (x p y : Dy) : Bool × Dy :=
  let neg := decide (x.m < 0)
  let a := x.abs
  match n with
  | 0 => (neg, Dy.quot .one a)
  | 1 => (false, sqrtOf a)
  | 2 => (false, Dy.quot .one (sqrtOf a))
  | 3 => (false, sigmoidOf x)
  | 4 => let w := expOf (a.scale 1).neg; (neg, Dy.quot (Dy.one.sub w) (Dy.one.add w))
  | 5 =>
    let c := Dy.quot ((a.mul ⟨1000000, 0⟩).add ((a.mul (a.mul a)).mul ⟨44715, 0⟩)) ⟨1000000, 0⟩
    let u := geluScale.mul c
    (neg, a.mul (sigmoidOf (if neg then u.neg else u)))
  | 6 => (neg, a.mul (sigmoidOf x))
  | 7 => (false, (x.max .zero).add (lnOf (Dy.one.add (expOf a.neg))))
  | 8 => (false, expOf y)
  | _ => let v := p.mul (lnOf x); (decide (v.m < 0), v.abs)

/-- Place of an FP32 code in the order of the numbers: the zeros at 2^31. -/
def orderOf (code : Nat) : Nat := if bit code 31 then 2 ^ 31 - code % 2 ^ 31 else 2 ^ 31 + code % 2 ^ 31
/-- Code at a place of that order; `neg` is the sign of a zero. -/
def codeAt (o : Nat) (neg : Bool) : Nat := if o < 2 ^ 31 then 2 ^ 31 + (2 ^ 31 - o) else if o = 2 ^ 31 ∧ neg then 2 ^ 31 else o - 2 ^ 31

/-- Table 7.7 states the program monotone for a parameter P. -/
def libraryMonotone (n : Nat) (p : FV) : Bool :=
  n == 1 || n == 3 || n == 4 || n == 7 || ((n == 8 || n == 9) && p == fp32.decode 0x3F800000)

/-- The largest result of a program below its last special value: 1 for SIGMOID and TANH, 20 for SOFTPLUS. -/
def libraryTop (n : Nat) : Nat := if n = 3 ∨ n = 4 then 0x3F800000 else if n = 7 then 0x41A00000 else 0x7F800000

/-- A shipped program on one input (R193): the stated value where Table 7.7 states one, else what the program's words give, or where the program is monotone
its own rising curve, held within its error of the exact function. -/
def libraryResult (n : Nat) (x p : FV) (raw : Nat) : Nat :=
  let y := r32 (p.mul x)
  match librarySpecial n x p y with
  | some v => fp32.encode v
  | none =>
    if x.isZero && n == 2 then raw else
    let (neg, mag) := libraryExact n x.dy p.dy y.dy
    let (lo, hi) := withinUlps (libraryUlps n) true mag
    let (lo, hi) := (min lo (libraryTop n), min hi (libraryTop n))
    let want := if libraryMonotone n p then Config.libraryCurve n (orderOf (fp32.encode x)) else orderOf raw
    codeAt (if neg then clampNat (2 ^ 31 - hi) (2 ^ 31 - lo) want else clampNat (2 ^ 31 + lo) (2 ^ 31 + hi) want) neg

end Sys2Proof.Machine
end

