-- ==== Sys2Proof/Machine/Vector.lean ====
section
/-! DEFINITION. The vector unit, the special function unit and micro-programs (R174 to R193, R248, R249, R278, R280). -/

namespace Sys2Proof.Machine

/-! ### Operands -/

/-- A region an operation names: handle, byte offset, bytes, whether it is written, element width. -/
structure VuRegion where
  h : Nat
  off : Nat
  len : Nat
  wr : Bool
  width : Nat
  deriving DecidableEq, Repr

/-- Access checks of Table 5.6, and R180 for compressed polders, operand by operand in order (R132). -/
def CoreSt.regionFault (c : CoreSt) (tag : Nat) (rs : List VuRegion) : Option Status :=
  rs.findSome? (fun r =>
    match c.check tag r.h 0 0 r.wr with
    | some st => some st
    | none =>
      if (c.polder r.h).compressed then some .descInvalid
      else if (c.polder r.h).length * granule < r.off + r.len then some .accessViolation
      else none)

/-- A written region overlaps a read one without coinciding with it element for element (R180). -/
def CoreSt.overlaps (c : CoreSt) (rs : List VuRegion) : Bool :=
  rs.any (fun d => d.wr && rs.any (fun r => !r.wr &&
    let da := c.abs d.h d.off
    let ra := c.abs r.h r.off
    decide (da < ra + r.len) && decide (ra < da + d.len) && !(da == ra && d.len == r.len && d.width == r.width)))

/-- Bytes of `n` elements of a width. -/
def elemBytes (n w : Nat) : Nat := ceilDiv (n * w) 8

/-- Region of a source in a mode of Table 7.1; none for an immediate. A vector with one element per row coincides with a region of one column element for
element, and one with one element per column with a region of one row (R180). -/
def sourceRegion (mode h off rows cols w : Nat) : Option VuRegion :=
  if mode = 0 then some ⟨h, off, elemBytes (rows * cols) w, false, w⟩
  else if mode = 1 then some ⟨h, off, elemBytes rows w, false, if cols = 1 then w else 0⟩
  else if mode = 2 then some ⟨h, off, elemBytes cols w, false, if rows = 1 then w else 0⟩
  else none

/-- Index of the element of a source at a region position (Table 7.1). -/
def sourceIndex (mode cols pos : Nat) : Nat := if mode = 0 then pos else if mode = 1 then pos / cols else if mode = 2 then pos % cols else 0

/-- Runs of consecutive indices that a list of indices walks through: first and last of each. -/
def indexRuns : List Nat → List (Nat × Nat)
  | [] => []
  | i :: is =>
    match indexRuns is with
    | [] => [(i, i)]
    | (a, b) :: rs => if a = i ∨ a = i + 1 then (i, b) :: rs else (i, i) :: (a, b) :: rs

/-- Codes of width `w` at element indices of a region, each run of indices read once; none when uncorrectable. -/
def State.codesAt (s : State) (core h off w : Nat) (idx : List Nat) : Option (List Nat) × State :=
  let (got, s) := (indexRuns idx).eraseDups.foldl (fun (acc : Option (List (Nat × Nat × Nat)) × State) r =>
    match acc.1 with
    | none => acc
    | some l =>
      let b0 := r.1 * w / 8
      match acc.2.spmRead core ((acc.2.core core).abs h (off + b0)) (ceilDiv ((r.2 + 1) * w) 8 - b0) with
      | (none, s) => (none, s)
      | (some bs, s) => (some (l ++ [(r.1, r.2, leNat bs * 2 ^ (8 * b0))]), s)) (some [], s)
  (got.map (fun l => idx.map (fun i =>
    match l.find? (fun r => decide (r.1 ≤ i) && decide (i ≤ r.2.1)) with
    | some r => bits r.2.2 (i * w + w - 1) (i * w)
    | none => 0)), s)

/-- Codes of a source at positions [first, first + n): read from its polder, or the immediate; none when uncorrectable. -/
def State.sourceCodes (s : State) (core h off mode w cols imm first n : Nat) : Option (List Nat) × State :=
  if mode = 3 then (some (List.replicate n (imm % 2 ^ w)), s) else
  s.codesAt core h off w ((List.range n).map (fun k => sourceIndex mode cols (first + k)))

/-- Write codes of a width at element `first` of a region, keeping the bits around them; false when a merge fails. -/
def State.writeCodes (s : State) (core h off w first : Nat) (codes : List Nat) : Bool × State :=
  if codes.isEmpty then (true, s) else
  let b0 := first * w / 8
  let b1 := ceilDiv ((first + codes.length) * w) 8
  let a := (s.core core).abs h (off + b0)
  let old := leNat ((s.core core).spm.readN a (b1 - b0))
  let v := codes.zipIdx.foldl (fun v (x, j) => let lo := (first + j) * w - 8 * b0; setBits v (lo + w - 1) lo x) old
  s.spmWrite core a (natLe (b1 - b0) v)

/-! ### VECTOR functions (Tables 7.2 and 9.9) -/

/-- Fields of a VECTOR word. -/
structure VecFields where
  fn : Nat
  rel : Nat
  sat : Bool
  rnd : Nat
  fa : Nat
  fb : Nat
  fc : Nat
  fd : Nat
  ma : Nat
  mb : Nat
  mc : Nat
  rows : Nat
  cols : Nat
  imm : Nat
  deriving DecidableEq, Repr

/-- Fields of the word (Table 9.8). -/
def vecFields (w : Nat) : VecFields :=
  ⟨bits w 115 110, bits w 109 107, bit w 106, bits w 105 104, bits w 103 100, bits w 99 96, bits w 95 92, bits w 91 88,
   bits w 87 86, bits w 85 84, bits w 83 82, bits w 81 68, bits w 67 52, bits w 31 0⟩

/-- A CONVERT pair that R178 allows. -/
def convertPair (a d : Nat) : Bool :=
  let narrow := fun c => c != 11 && c != 12 && c != 15
  (narrow a && d == 11) || ((a == 11 || a == 8) && narrow d && a != d) || (a == 10 && d == 12) || (a == 12 && d == 11) || (a == 11 && d == 12)

/-- A CONVERT draws from the rounding generator: RND stochastic and a target other than FP32 and INT32 (R45, R48, R178; log entry 34). -/
def VecFields.draws (f : VecFields) : Bool := f.fn == 0x0C && f.rnd == 1 && f.fd != 11 && f.fd != 12

/-- The formats of a VECTOR word are ones its function takes, and its relation and rounding are not reserved, whatever the function (R248, R178). The
rounding modes of FP32 to INT32 are nearest even and toward −infinity (R178); INT8 to INT32 and to FP32 are exact whatever RND says (log entry 34). -/
def VecFields.ok (f : VecFields) : Bool :=
  let fl := fun c => c == 8 || c == 11
  decide (f.rel ≤ 4) && f.rnd != 3 && (f.rnd != 2 || (f.fn == 0x0C && f.fa == 11 && f.fd == 12)) &&
  match fnSources f.fn with
  | none => false
  | some n =>
    if f.fn = 0x0C then convertPair f.fa f.fd && !(f.rnd == 1 && f.fa == 11 && f.fd == 12) && (!isMx f.fa || f.mb == 0)
    else if f.fn = 0x0A then fl f.fa && fl f.fb && f.fd == 12
    else if f.fn = 0x0B then f.fa == 12 && f.fb == f.fc && f.fc == f.fd && (fl f.fd || f.fd == 12)
    else if f.fn < 0x0A then fl f.fa && (n < 2 || fl f.fb) && (n < 3 || fl f.fc) && fl f.fd
    else f.fa == 12 && f.fb == 12 && f.fd == 12

/-- Batch length: 256 when every source and the destination are BF16, else 128 (R174). -/
def VecFields.batch (f : VecFields) : Nat :=
  let n := (fnSources f.fn).getD 1
  if f.fa = 8 ∧ f.fd = 8 ∧ (n < 2 ∨ f.fb = 8) ∧ (n < 3 ∨ f.fc = 8) then 256 else 128

/-- MIN and MAX: minimumNumber and maximumNumber; with `strict` minimum and maximum (Table 7.2). -/
def fvMin (isMax strict : Bool) (a b : FV) : FV :=
  if a == .nan then (if strict then .nan else b)
  else if b == .nan then (if strict then .nan else a)
  else if isMax then (if a.below b then b else a) else (if b.below a then b else a)

/-- The relation of CMP (Table 7.2). -/
def relHolds (rel : Nat) (a b : FV) : Bool :=
  let un := a == .nan || b == .nan
  if rel = 0 then a.eq b else if rel = 1 then un || !(a.eq b) else if rel = 2 then a.lt b else if rel = 3 then a.lt b || a.eq b else un

/-- ABS and NEG: the sign bit only (R176, R177). An FP32 NaN into BF16 keeps the high bits of its payload, with the quiet bit set (log entry 34). -/
def signOp (neg : Bool) (fa fd code : Nat) : Nat :=
  let w := bitsOf fa
  let mag := code % 2 ^ (w - 1)
  let s := if neg then (if bit code (w - 1) then 0 else 1) else 0
  let f := if fa = 8 then bf16 else fp32
  if fa = fd then mag + s * 2 ^ (w - 1)
  else if fd = 11 then mag * 2 ^ 16 + s * 2 ^ 31
  else if f.decode mag = .nan then (mag / 2 ^ 16 ||| 0x40) + s * 2 ^ 15
  else bf16.encode (f.decode (mag + s * 2 ^ 31))

/-- An integer function on 32-bit codes (Table 7.2). -/
def intOp (fn : Nat) (sat : Bool) (a b : Nat) : Nat :=
  let sa := signed 32 a
  let sb := signed 32 b
  let fit := fun (i : Int) => unsigned 32 (if sat then clampSigned 32 i else i)
  match fn with
  | 0x10 => fit (sa + sb)
  | 0x11 => fit (sa - sb)
  | 0x12 => unsigned 32 (sa * sb)
  | 0x13 => a &&& b
  | 0x14 => a ||| b
  | 0x15 => a ^^^ b
  | 0x16 => a * 2 ^ (b % 32) % 2 ^ 32
  | 0x17 => a / 2 ^ (b % 32)
  | 0x18 => unsigned 32 (sa / (2 ^ (b % 32) : Nat))
  | 0x19 => if sa ≤ sb then a else b
  | _ => if sa ≤ sb then b else a

/-- The integer and bit functions have a place in intOp; the floating-point ones here: the exact result, before its one rounding. -/
def floatOp (fn : Nat) (a b c : FV) : FV :=
  match fn with
  | 0 => a.add b
  | 1 => a.add b.neg
  | 2 => a.mul b
  | 3 => a.fma b c
  | 4 => fvMin false false a b
  | 5 => fvMin true false a b
  | 6 => fvMin false true a b
  | _ => fvMin true true a b

/-- CONVERT of one element that is not into an MX format (R178, Table 2.4). -/
def convertElem (f : VecFields) (x : FV) (code : Nat) (r : Nat) : Nat :=
  let mode := if f.rnd = 1 then RMode.stoch r else .nearest
  if f.fa = 10 ∧ f.fd = 12 then unsigned 32 (signed 8 code)
  else if f.fd = 12 then toInt32 (f.rnd == 2) x
  else if f.fd = 10 then toInt8 mode x
  else if f.fd = 11 then fp32.convert .nearest f.sat x
  else match formatOf f.fd with
    | some g => g.convert mode f.sat x
    | none => 0

/-- One element of a VECTOR other than CONVERT, from source codes. -/
def vecElem (f : VecFields) (a b c : Nat) : Nat :=
  let va := elemValue f.fa a
  let vb := elemValue f.fb b
  let vc := elemValue f.fc c
  let out := fun (x : FV) => if f.fd = 8 then bf16.encode x else fp32.encode x
  if f.fn = 8 then signOp false f.fa f.fd a
  else if f.fn = 9 then signOp true f.fa f.fd a
  else if f.fn = 0x0A then (if relHolds f.rel va vb then 2 ^ 32 - 1 else 0)
  else if f.fn = 0x0B then (if a ≠ 0 then b else c)
  else if f.fn < 8 then out (floatOp f.fn va vb vc)
  else intOp f.fn f.sat a b

/-! ### The ebb add (R97, R278) -/

/-- The slot of an ebb polder that a VECTOR writes as a whole, with its ring and part. -/
def CoreSt.ebbSlot (c : CoreSt) (h off : Nat) : Option (TideBind × TideRole × Nat) :=
  match c.tideRole h with
  | some (t, r) => if r == .ebb || r == .ebbStart then some (t, r, off / 2048) else none
  | none => none

/-- A trailer's H and E. -/
def trailH (t : Bytes) : Nat := field t 8 2
/-- Elements of the block. -/
def trailE (t : Bytes) : Nat := field t 10 2

/-- A VECTOR that writes an ebb slot keeps the conditions of R278 and R280. -/
def ebbOk (f : VecFields) (sameSlot : Bool) (dOff : Nat) (trail : Bytes) (limit : Nat) : Bool :=
  let n := f.rows * f.cols
  f.fn == 0 && dOff % 2048 == 0 && f.fa == 11 && f.fb == 11 && f.fd == 11 && f.mb == 0 && decide (1 ≤ n) && decide (n ≤ 512) &&
  (if f.ma = 3 then f.imm == 0 else f.ma == 0 && sameSlot && trailE trail == n && decide (trailH trail + 1 ≤ limit))

/-- The trailer after a contribution (R97). -/
def trailAfter (start : Bool) (old : Bytes) (cs : List FV) : Bytes :=
  let sg := r32 (cs.foldl FV.add (.fin false 0 0))
  let al := r32up ((cs.map FV.abs).foldl FV.add (.fin false 0 0))
  if start then natLe 4 (code32 sg) ++ natLe 4 (code32 al) ++ natLe 2 1 ++ natLe 2 cs.length ++ zeros 4
  else
    natLe 4 (code32 (r32 ((fp32.decode (field old 0 4)).add sg))) ++ natLe 4 (code32 (r32up ((fp32.decode (field old 4 4)).add al))) ++
    natLe 2 (trailH old + 1) ++ natLe 2 (trailE old) ++ zeros 4

/-! ### Issue of VECTOR (R180, R225, R248) -/

/-- The operands of a VECTOR: handle and byte offset of A to D. -/
def vecOperands (sl : Slot) (v : Nat) : List (Nat × Nat) := [1, 2, 3, 4].map (fun k => let a := addr sl (contField v k); (a.1, 256 * a.2))

/-- Elements of a source that a mode of Table 7.1 names: of the region, of a column of its rows, of a row of its columns, or the immediate. -/
def sourceCount (mode rows cols : Nat) : Nat := if mode = 0 then rows * cols else if mode = 1 then rows else if mode = 2 then cols else 1

/-- Regions of a VECTOR in operand order (R132). The scales of an MX source follow the source's own elements, one byte for each 32 of them; those of an MX
destination its row-major elements, the last block what is left (R34, R47; log entry 34). -/
def VecFields.regions (f : VecFields) (ops : List (Nat × Nat)) : List VuRegion :=
  let n := (fnSources f.fn).getD 1
  let o := fun k => ops.getD k (0, 0)
  let src := fun (k mode fmt : Nat) => (sourceRegion mode (o k).1 (o k).2 f.rows f.cols (bitsOf fmt)).toList
  let conv := f.fn == 0x0C
  src 0 f.ma f.fa ++
  (if conv && isMx f.fa then [⟨(o 1).1, (o 1).2, ceilDiv (sourceCount f.ma f.rows f.cols) 32, false, 0⟩] else if n ≥ 2 then src 1 f.mb f.fb else []) ++
  (if conv && isMx f.fd then [⟨(o 2).1, (o 2).2, ceilDiv (f.rows * f.cols) 32, true, 8⟩] else if n ≥ 3 then src 2 f.mc f.fc else []) ++
  [⟨(o 3).1, (o 3).2, elemBytes (f.rows * f.cols) (bitsOf f.fd), true, bitsOf f.fd⟩]

/-- Ranges of ROWS and COLS (Tables 9.8 and 9.10, R248). -/
def regionOk (rows cols : Nat) : Bool := decide (1 ≤ rows) && decide (1 ≤ cols) && decide (rows * cols ≤ 2 ^ 26)

/-- An operation of the VU must wait: accumulators an earlier MATRIX writes (R70), polders an earlier MATRIX of the task touches and it writes (R91),
landed blocks that have not passed (R269). -/
def CoreSt.vuWaits (c : CoreSt) (slot : Nat) (rs : List VuRegion) : Bool :=
  rs.any (fun r => c.accumulating slot r.h || (r.wr && c.me.any (fun o => o.slot == slot && o.handles.contains r.h)) || (c.polder r.h).unseen r.off r.len)

/-- The start of an ebb block in the ebb start ring gives it a header and a place in the ring's order (R265, R278). -/
def State.startEbb (s : State) (core h slot : Nat) (t : TideBind) : State :=
  let c := s.core core
  let p := c.polder h
  if p.landed.any (fun b => b.slot == slot) then s else
  let home := if t.dirDown then (t.me + max 1 t.members - 1) % max 1 t.members else (t.me + 1) % max 1 t.members
  let hdr := tideHeader p.owner 2 t.ring (s.bank (tagIndex p.owner)) t.index home 0 0 t.ebbs
  let b : Landed := ⟨slot, p.landedCount, hdr, true, false, false, false, false, none⟩
  let c := c.setPolder h { p with landed := p.landed ++ [b], landedCount := p.landedCount + 1 }
  s.setCore core (c.setTide { t with ebbs := t.ebbs + 1 })

/-- VECTOR: validated and queued in the VU (R174, R180, R225, R248, R278). -/
def execVector (core : CoreId) (s : State) : Host.Outcome State Fault Refusal :=
  .next (s.runOp core (fun k _ => k == .vector) (fun i sl w v s =>
    let c := s.core core
    let f := vecFields w
    let ops := vecOperands sl v
    let o := fun k => ops.getD k (0, 0)
    let rs := f.regions ops
    if !sl.compute || !f.ok || !regionOk f.rows f.cols then s.faultTag sl.tag .descInvalid else
    match c.regionFault sl.tag rs with
    | some st => s.faultTag sl.tag st
    | none =>
      if c.overlaps rs then s.faultTag sl.tag .descInvalid else
      let ebb := c.ebbSlot (o 3).1 (o 3).2
      let bad := match ebb with
        | some (t, r, slot) =>
          let trail := match t.trailEntry r slot with
            | some e => c.trailers.get (zeros 16) e
            | none => zeros 16
          !ebbOk f (o 0 == o 3) (o 3).2 trail (t.members * t.len)
        | none => f.fn == 0x0C && isMx f.fd && (c.ebbSlot (o 2).1 (o 2).2).isSome
      -- an add to a slot that an earlier add still updates waits for it (R180)
      let entry := ebb.bind (fun (t, r, slot) => t.trailEntry r slot)
      if entry.isSome && c.vu.any (fun x => x.ebb == entry) then s
      -- a slot whose block is to come again has no trailer yet (R270, R278)
      else if c.vuWaits i rs then s
      else if bad then s.faultTag sl.tag .descInvalid
      -- values of the task's rounding generator are taken in program order (R48; log entry 34)
      else if f.draws && c.me.any (fun x => x.slot == i && x.draws) then s
      else
        let op : VuOp := { kind := .vector, slot := i, tag := sl.tag, opIndex := sl.pc, word := w, a := (o 0).2, b := (o 1).2, c := (o 2).2, d := (o 3).2
                           handles := ops.map (·.1), dHandle := (o 3).1, uses := rs.map (·.h), batch := 0, retries := 0, second := false, program := []
                           ebb := entry, contrib := [], row := none, supply := false }
        let s := s.setCore core { c with vu := c.vu ++ [op] }
        let s := match ebb with
          | some (t, r, slot) => if f.ma = 3 ∧ r = TideRole.ebbStart then s.startEbb core (o 3).1 slot t else s
          | none => s
        s.step1 core i 2))

/-! ### SFU and MICRO (R185 to R192, R249) -/

/-- Fields of an SFU or MICRO word (Table 9.10). -/
structure SfuFields where
  prog : Nat
  fa : Nat
  fb : Nat
  fd : Nat
  qrow : Bool
  mb : Nat
  rows : Nat
  cols : Nat
  p : Nat
  q : Nat
  deriving DecidableEq, Repr

/-- Fields of the word. -/
def sfuFields (w : Nat) : SfuFields :=
  ⟨bits w 115 110, bits w 109 106, bits w 105 102, bits w 101 98, bit w 97, bits w 96 95, bits w 94 81, bits w 80 65, bits w 63 32, bits w 31 0⟩

/-- First store entry of a shipped program: where the part has it, if the ten programs then lie apart within entries 0 to 255, else one after another (R186). -/
def libraryBase (n : Nat) : Nat :=
  let b := fun k => (Config.libraryBase k).val
  let fits := (List.range 10).all (fun k => decide (b k + libraryLength k ≤ 256) &&
    (List.range k).all (fun j => decide (b k + libraryLength k ≤ b j) || decide (b j + libraryLength j ≤ b k)))
  if fits then b n else (List.range n).foldl (fun e k => e + libraryLength k) 0

/-- Directory entry of a program number: the shipped library holds 0 to 9 after boot (R186, R204). -/
def CoreSt.uprog (c : CoreSt) (n : Nat) : UProg :=
  match c.udir.find n with
  | some u => u
  | none => if n ≤ 9 then ⟨true, true, 0, libraryBase n, libraryLength n⟩ else .empty

/-- A word of the micro-program store. -/
def CoreSt.uword (c : CoreSt) (e : Nat) : Nat :=
  match c.ustore.find e with
  | some w => w
  | none => if e < 256 then (Config.libraryWord e).toNat else 0

/-- B of a MICRO names a second source: its operand field is not zero. -/
def secondSource (v : Nat) : Bool := contField v 2 != 0

/-- Regions of an SFU or MICRO operation. -/
def SfuFields.regions (f : SfuFields) (ops : List (Nat × Nat)) (useB : Bool) : List VuRegion :=
  let o := fun k => ops.getD k (0, 0)
  (sourceRegion 0 (o 0).1 (o 0).2 f.rows f.cols (bitsOf f.fa)).toList ++
  (if useB then (sourceRegion f.mb (o 1).1 (o 1).2 f.rows f.cols (bitsOf f.fb)).toList else []) ++
  (if f.qrow then (sourceRegion 1 (o 2).1 (o 2).2 f.rows f.cols 32).toList else []) ++
  [⟨(o 3).1, (o 3).2, elemBytes (f.rows * f.cols) (bitsOf f.fd), true, bitsOf f.fd⟩]

/-- Issue an SFU or MICRO operation into the VU. -/
def State.issueSfu (s : State) (core i : Nat) (sl : Slot) (w v : Nat) (kind : VuKind) (fieldsOk : Option Status) (program : List Nat) : State :=
  let c := s.core core
  let f := sfuFields w
  let ops := vecOperands sl v
  let useB := kind == .micro && secondSource v
  let rs := f.regions ops useB
  if !sl.compute then s.faultTag sl.tag .descInvalid else
  match fieldsOk with
  | some st => s.faultTag sl.tag st
  | none =>
    match c.regionFault sl.tag rs with
    | some st => s.faultTag sl.tag st
    | none =>
      if c.overlaps rs then s.faultTag sl.tag .descInvalid
      else if c.vuWaits i rs then s
      else
        let o := fun k => ops.getD k (0, 0)
        let op : VuOp := { kind := kind, slot := i, tag := sl.tag, opIndex := sl.pc, word := w, a := (o 0).2, b := if useB then (o 1).2 else 0, c := (o 2).2
                           d := (o 3).2
                           handles := ops.map (·.1), dHandle := (o 3).1, uses := rs.map (·.h), batch := 0, retries := 0, second := useB, program := program, ebb := none, contrib := [], row := none, supply := false }
        (s.setCore core { c with vu := c.vu ++ [op] }).step1 core i 2

/-- SFU: exp2 or log2 of P·x + Q over a region (R185). -/
def execSfu (core : CoreId) (s : State) : Host.Outcome State Fault Refusal :=
  .next (s.runOp core (fun k _ => k == .sfu) (fun i sl w v s =>
    let f := sfuFields w
    let fl := fun c => c == 8 || c == 11
    let ok := decide (f.prog ≤ 1) && fl f.fa && fl f.fd && regionOk f.rows f.cols
    s.issueSfu core i sl w v .sfu (if ok then none else some .descInvalid) []))

/-- MICRO: a micro-program on every element of a region (R187, R192). -/
def execMicro (core : CoreId) (s : State) : Host.Outcome State Fault Refusal :=
  .next (s.runOp core (fun k _ => k == .micro) (fun i sl w v s =>
    let c := s.core core
    let f := sfuFields w
    let fl := fun c => c == 8 || c == 11
    let u := c.uprog f.prog
    let ok := fl f.fa && (!secondSource v || fl f.fb) && fl f.fd && regionOk f.rows f.cols && f.mb != 3
    let st := if !ok then some Status.descInvalid
      else if !u.valid then some .descInvalid
      else if !u.lib && u.owner != sl.tag then some .accessViolation
      else none
    s.issueSfu core i sl w v .micro st ((List.range u.length).map (fun k => c.uword (u.base + k)))))

/-- One micro-operation on 16 registers (Tables 7.5 and 7.6). -/
def microStep (u : List Nat) (w : Nat) : List Nat :=
  let a := u.getD (bits w 53 50) 0
  let b := if bit w 41 then bits w 31 0 else u.getD (bits w 49 46) 0
  let c := u.getD (bits w 45 42) 0
  let fa := fp32.decode a
  let fb := fp32.decode b
  let mask := fun (x : Bool) => if x then 2 ^ 32 - 1 else 0
  let r : Option Nat := match bits w 63 58 with
    | 0x00 => some a
    | 0x01 => some (code32 (fa.add fb))
    | 0x02 => some (code32 (fa.add fb.neg))
    | 0x03 => some (code32 (fa.mul fb))
    | 0x04 => some (code32 (fa.fma fb (fp32.decode c)))
    | 0x05 => some (code32 (fvMin false false fa fb))
    | 0x06 => some (code32 (fvMin true false fa fb))
    | 0x07 => some (signOp false 11 11 a)
    | 0x08 => some (signOp true 11 11 a)
    | 0x09 => some (mask (fa.lt fb))
    | 0x0A => some (mask (fa.lt fb || fa.eq fb))
    | 0x0B => some (mask (fa.eq fb))
    | 0x0C => some (mask (fa == .nan || fb == .nan))
    | 0x0D => some (if a ≠ 0 then b else c)
    | 0x0E => some (intOp 0x10 false a b)
    | 0x0F => some (intOp 0x11 false a b)
    | 0x10 => some (a &&& b)
    | 0x11 => some (a ||| b)
    | 0x12 => some (a ^^^ b)
    | 0x13 => some (intOp 0x16 false a b)
    | 0x14 => some (intOp 0x17 false a b)
    | 0x15 => some (intOp 0x18 false a b)
    | 0x16 => some (toInt32 (bits w 40 39 == 1) fa)
    | 0x17 => some (code32 (ofInt32 a))
    | 0x18 => some (code32 (sfuExp2 fa))
    | 0x19 => some (code32 (sfuLog2 fa))
    | _ => none
  match r with
  | some x => u.set (bits w 57 54) x
  | none => u

/-- A micro-program on one lane: the value of u0 after its last micro-operation. -/
def microRun (program : List Nat) (a b p q : Nat) : Nat :=
  let u0 := [a, b] ++ List.replicate 12 0 ++ [p, q]
  (program.foldl microStep u0).getD 0 0

/-! ### Batches (R93, R94, R102) -/

/-- The operation at the front leaves the VU; its slot may free (R231). -/
def State.dropVu (s : State) (core : Nat) : State :=
  let c := s.core core
  match c.vu with
  | [] => s
  | o :: r => ((s.setCore core { c with vu := r }).freeSlot core o.slot).gate core

/-- Check type of an operation of the VU (Table 4.1). -/
def VuOp.type (o : VuOp) : Nat := if o.kind = .vector then 4 else if o.kind = .rowstat then 6 else 5

/-- Region and batch length of a VECTOR, SFU or MICRO operation. -/
def VuOp.shape (o : VuOp) : Nat × Nat × Nat :=
  match o.kind with
  | .vector => let f := vecFields o.word; (f.rows, f.cols, f.batch)
  | _ =>
    let f := sfuFields o.word
    (f.rows, f.cols, if f.fa = 8 ∧ f.fd = 8 ∧ (!o.second || f.fb == 8) ∧ !f.qrow then 256 else 128)

/-- Results of positions [first, first + n) of a VECTOR: codes of D, scale codes and whether uncorrectable, and the rounding generator after. -/
def State.vecBatch (s : State) (core : Nat) (o : VuOp) (first n : Nat) : Option (List Nat × List Nat × Rng) × State :=
  let f := vecFields o.word
  let i := tagIndex o.tag
  let k := (fnSources f.fn).getD 1
  let h := fun j => o.handles.getD j 0
  let conv := f.fn == 0x0C
  let one := List.replicate n 0
  let rng := s.rng core i
  match s.sourceCodes core (h 0) o.a f.ma (bitsOf f.fa) f.cols f.imm first n with
  | (none, s) => (none, s)
  | (some as, s) =>
    match (if conv && isMx f.fa then
        s.codesAt core (h 1) o.b 8 ((List.range n).map (fun j => sourceIndex f.ma f.cols (first + j) / 32))
      else if k ≥ 2 then s.sourceCodes core (h 1) o.b f.mb (bitsOf f.fb) f.cols f.imm first n else (some one, s)) with
    | (none, s) => (none, s)
    | (some bs, s) =>
      match (if k ≥ 3 then s.sourceCodes core (h 2) o.c f.mc (bitsOf f.fc) f.cols f.imm first n else (some one, s)) with
      | (none, s) => (none, s)
      | (some cs, s) =>
        if !conv then
          (some ((List.zip as (List.zip bs cs)).map (fun (a, b, c) => vecElem f a b c), [], rng), s)
        else
          let vals := List.zipWith (fun a sc => if isMx f.fa then mxValue sc (elemValue f.fa a) else elemValue f.fa a) as bs
          let stoch := f.draws
          let (rs, rng) := if stoch then rng.take n else ([], rng)
          if isMx f.fd then
            match formatOf f.fd with
            | none => (some ([], [], rng), s)
            | some g =>
              let mode := fun j => if stoch then RMode.stoch (rs.getD j 0) else RMode.nearest
              let blocks := (List.range (ceilDiv n 32)).map (fun b =>
                mxConvert g (fun j => mode (32 * b + j)) ((vals.drop (32 * b)).take 32))
              (some ((blocks.map (·.2)).flatten, blocks.map (·.1), rng), s)
          else
            (some ((List.zip vals (List.zip as (List.range n))).map (fun (x, a, j) => convertElem f x a (rs.getD j 0)), [], rng), s)

/-- Results of positions [first, first + n) of an SFU or MICRO operation. The 32 bits that a program leaves in u0 are an FP32 destination's code as they
stand, a NaN's payload too (R187; log entry 34). -/
def State.sfuBatch (s : State) (core : Nat) (o : VuOp) (first n : Nat) : Option (List Nat) × State :=
  let f := sfuFields o.word
  let h := fun j => o.handles.getD j 0
  let two := o.kind == .micro && o.second
  match s.sourceCodes core (h 0) o.a 0 (bitsOf f.fa) f.cols 0 first n with
  | (none, s) => (none, s)
  | (some as, s) =>
    match (if two then s.sourceCodes core (h 1) o.b f.mb (bitsOf f.fb) f.cols 0 first n else (some (List.replicate n 0), s)) with
    | (none, s) => (none, s)
    | (some bs, s) =>
      match (if f.qrow then s.sourceCodes core (h 2) o.c 1 32 f.cols 0 first n else (some (List.replicate n f.q), s)) with
      | (none, s) => (none, s)
      | (some qs, s) =>
        let out := fun (x : Nat) => if f.fd = 8 then bf16.encode (fp32.decode x) else x
        (some ((List.zip as (List.zip bs qs)).map (fun (a, b, q) =>
          let x := elemValue f.fa a
          if o.kind = .sfu then
            let y := r32 ((fp32.decode f.p).fma x (fp32.decode q))
            out (code32 (if f.prog = 0 then sfuExp2 y else sfuLog2 y))
          else
            -- FP32 patterns enter the registers as they stand, BF16 ones widened
            let wide := fun (fmt c : Nat) => if fmt = 8 then c * 2 ^ 16 else c
            let u := microRun o.program (wide f.fa a) (if two then wide f.fb b else 0) f.p q
            out (if f.prog ≤ 9 then libraryResult f.prog x (fp32.decode f.p) u else u))), s)

/-- One check of a landed shard (R98): whether it passes, with its ratio; none when the scratchpad cannot give it. A sum and a checksum with no finite
difference breach (log entry 34). -/
def State.ebbTest (s : State) (core : Nat) (o : VuOp) (trail : Bytes) (kappa : Nat) : Option (Bool × Nat) × State :=
  match s.spmRead core ((s.core core).abs o.dHandle o.d) (4 * trailE trail) with
  | (none, s) => (none, s)
  | (some data, s) =>
    let g := r32 (((List.range (trailE trail)).map (fun j => fp32.decode (field data (4 * j) 4))).foldl FV.add (.fin false 0 0))
    let r := g.add (fp32.decode (field trail 0 4)).neg
    let fe := freeboardEbb kappa (trailH trail) (fp32.decode (field trail 4 4))
    (some (!(fe.lt r.abs || r == .nan), ratioFp16 r fe), s)

/-- The check of a completed ebb shard at its home's last contribution: a breach reads the landed shard once more (R98, R280). -/
def State.ebbCheck (s : State) (core : Nat) (o : VuOp) (trail : Bytes) : State :=
  let i := tagIndex o.tag
  let kappa := match (s.ctx i).inv with | some v => v.kappa | none => 4
  let s := s.tally i (fun t => { t with shards := t.shards + 1 })
  let ev := Gauge.plain 9 (sourceOf 0 core) o.opIndex 1
  match s.ebbTest core o trail kappa with
  | (none, s) => s.faultTag o.tag .uncorrectable
  | (some (true, ratio), s) => s.gauge i { ev with maxRatio := ratio }
  | (some (false, _), s) =>
    match s.ebbTest core o trail kappa with
    | (none, s) => s.faultTag o.tag .uncorrectable
    | (some (true, ratio), s) => (s.transient i 9 (sourceOf 0 core)).gauge i { ev with retries := 1, maxRatio := ratio }
    | (some (false, _), s) => ((s.lastingUnit i).gauge i { ev with retries := 1, lasting := some .breachLasting }).faultTag o.tag .breachLasting

/-- A batch whose rails agree has been written: it is counted, and the last one ends the operation with its event, an ebb add with its trailer and, at the
home, its check. `retried` says that its one retry ran; `total` counts the operation's batches. -/
def State.finishBatch (s : State) (core : Nat) (o : VuOp) (total : Nat) (retried : Bool) : State :=
  let i := tagIndex o.tag
  let o := { o with retries := o.retries + b2n retried, batch := o.batch + 1, supply := o.supply || retried && s.inSupply }
  let s := s.bump F.vuBatchesCount core (1 + b2n retried)
  let s := s.tally i (fun t => { t with batches := t.batches + 1 })
  let s := if retried then s.transient i o.type (sourceOf 0 core) else s
  let c := s.core core
  let s := s.setCore core { c with progressAt := s.time, vu := o :: c.vu.drop 1 }
  if o.batch < total then s else
  let s := s.gauge i { Gauge.plain o.type (sourceOf 0 core) o.opIndex total with retries := o.retries, supply := o.supply }
  match o.ebb with
  | none => s.dropVu core
  | some e =>
    let c := s.core core
    let trail := trailAfter ((vecFields o.word).ma == 3) (c.trailers.get (zeros 16) e) (o.contrib.map fp32.decode)
    let s := s.setCore core { c with trailers := c.trailers.put e trail }
    let limit := match (s.core core).tideRole o.dHandle with
      | some (t, _) => t.members * t.len
      | none => 0
    let s := if trailH trail = limit then s.ebbCheck core o trail else s
    s.dropVu core

/-- A breach on the retry too: lasting, the core suspect, the context faulted (R102, R103). -/
def State.vuLasting (s : State) (core : Nat) (o : VuOp) : State :=
  let i := tagIndex o.tag
  let s := s.bump F.vuBatchesCount core 2
  let s := (s.lastingUnit i).tally i (fun t => { t with batches := t.batches + 1 })
  let s := s.gauge i { Gauge.plain o.type (sourceOf 0 core) o.opIndex (o.batch + 1) with retries := o.retries + 1, lasting := some .breachLasting, supply := o.supply }
  ((s.suspectCore i core o.type).dropVu core).faultTag o.tag .breachLasting

/-! ### ULOAD (R191, R192) -/

/-- A micro-operation word that ULOAD takes, `last` telling whether it is the final one. -/
def microOk (w : Nat) (last : Bool) : Bool :=
  let op := bits w 63 58
  let noB := op == 0 || op == 7 || op == 8 || decide (0x16 ≤ op)
  decide (op ≤ 0x19) && decide (bits w 40 39 ≤ 1) && zeroBits w 38 33 && bit w 32 == last && !(bit w 41 && noB)

/-- ULOAD: a micro-program of a code polder enters the store (R191); expert level is checked at decode. -/
def execUload (core : CoreId) (s : State) : Host.Outcome State Fault Refusal :=
  .next (s.runOp core (fun k _ => k == .uload) (fun i sl w _ s =>
    let c := s.core core
    let prog := bits w 115 110
    let entry := bits w 109 100
    let len := bits w 99 94
    let (h, row) := addr sl (bits w 93 65)
    let p := c.polder h
    if len = 0 ∨ 32 < len ∨ prog < 16 ∨ entry < 256 ∨ 1024 < entry + len then s.faultTag sl.tag .descInvalid
    else if !p.valid || p.owner != sl.tag || !p.code || decide (p.length * granule < 256 * row + 8 * len) then s.faultTag sl.tag .accessViolation
    else if c.vu.any (fun o => o.kind == .micro && (sfuFields o.word).prog == prog) then s
    else match s.spmRead core (c.abs h (256 * row)) (8 * len) with
      | (none, s) => s.faultTag sl.tag .uncorrectable
      | (some bs, s) =>
        let ws := (List.range len).map (fun k => field bs (8 * k) 8)
        let others := (c.udir.filter (fun u => u.2.valid && u.1 != prog && decide (u.2.base < entry + len) && decide (entry < u.2.base + u.2.length))).map (·.2)
        let mine := c.uprog prog
        if ws.zipIdx.any (fun (x, k) => !microOk x (k + 1 == len)) then s.faultTag sl.tag .descInvalid
        else if (mine.valid && mine.owner != sl.tag) || others.any (fun u => u.owner != sl.tag) then s.faultTag sl.tag .accessViolation
        else if !others.isEmpty then s.faultTag sl.tag .descInvalid
        else
          let c := s.core core
          let c := { c with
            ustore := ws.zipIdx.foldl (fun (t : Table Nat) (x, k) => t.put (entry + k) x) c.ustore
            udir := c.udir.put prog ⟨true, false, sl.tag, entry, len⟩ }
          (s.setCore core c).step1 core i 1))

end Sys2Proof.Machine
end

