-- ==== Sys2Proof/Machine/Rowstat.lean ====
section
/-! DEFINITION. The row statistics unit: moments and softmax records (R194 to R203, R250), and the batches of every operation of the vector unit
(R93, R94, R102). -/

namespace Sys2Proof.Machine

/-- A row state record (Table 7.8). -/
structure RowRec where
  n : Nat
  a : FV
  b : FV
  kind : Nat
  nonfinite : Bool
  masked : Bool
  deriving DecidableEq, Repr

/-- A record from its 16 bytes. -/
def rowRecOf (bs : Bytes) : RowRec :=
  let f := field bs 12 4
  ⟨field bs 0 4, fp32.decode (field bs 4 4), fp32.decode (field bs 8 4), f % 4, bit f 2, bit f 3⟩

/-- The 16 bytes of a record. -/
def RowRec.bytes (r : RowRec) : Bytes :=
  natLe 4 r.n ++ natLe 4 (code32 r.a) ++ natLe 4 (code32 r.b) ++ natLe 4 (r.kind + 4 * b2n r.nonfinite + 8 * b2n r.masked)

/-- The record as an operation of a kind takes it: an empty one acts as N = 0 (R194). -/
def RowRec.as (r : RowRec) (kind : Nat) : RowRec :=
  if r.kind = 0 then ⟨0, if kind = 2 then .inf true else .fin false 0 0, .fin false 0 0, kind, false, false⟩ else r

/-- An operation of a kind may meet the record (R194). -/
def RowRec.fits (r : RowRec) (kind : Nat) : Bool := r.kind == 0 || r.kind == kind

/-- A value that R195 marks: NaN or infinite, −infinity allowed where a softmax maximum or score may be. -/
def marks (softmax : Bool) (x : FV) : Bool := !x.isFin && !(softmax && x == .inf true)

/-- A state value of a record that an operation takes calls for NONFINITE (R195). -/
def RowRec.odd (r : RowRec) : Bool := marks (r.kind == 2) r.a || !r.b.isFin

/-- The record with NONFINITE set when a state value calls for it. -/
def RowRec.mark (r : RowRec) (extra : Bool) : RowRec := { r with nonfinite := r.nonfinite || extra || r.odd }

/-- NONFINITE of what comes of two records: either has it, or a state value of either calls for it, a record without elements too (R195). -/
def oddPair (a b : RowRec) : Bool := a.nonfinite || b.nonfinite || a.odd || b.odd

/-- An integer as a value. -/
def natFV (n : Nat) : FV := .ofDy (.ofInt n)

/-- A quotient by a positive integer, formed exactly and rounded once. -/
def divN (x : FV) (n : Nat) : FV := if x.isFin then div32 x.dy n else x

/-- The merge of two moments states (R197). -/
def mergeMoments (a b : RowRec) : RowRec :=
  let flags := oddPair a b
  if a.n = 0 then ({ b with masked := a.masked || b.masked } : RowRec).mark flags
  else if b.n = 0 then ({ a with masked := a.masked || b.masked } : RowRec).mark flags
  else
    let n := a.n + b.n
    let delta := r32 (b.a.add a.a.neg)
    let mu := divN ((a.a.mul (natFV n)).add (delta.mul (natFV b.n))) n
    let c := divN ((delta.mul delta).mul (natFV (a.n * b.n))) n
    let m2 := r32 ((a.b.add b.b).add c)
    (⟨n, mu, m2, 1, flags, a.masked || b.masked⟩ : RowRec).mark false

/-- The moments of one segment by two passes (R196). -/
def segmentMoments (xs : List FV) : RowRec :=
  let x1 := xs.headD (.fin false 0 0)
  let zero := FV.fin false 0 0
  let ds := xs.map (fun x => r32 (x.add x1.neg))
  let mu := r32 (x1.add (divN (ds.foldl FV.add zero) xs.length))
  let es := xs.map (fun x => r32 (x.add mu.neg))
  let m2 := r32 ((es.map (fun e => e.mul e)).foldl FV.add zero)
  (⟨xs.length, mu, m2, 1, false, false⟩ : RowRec).mark (xs.any (fun x => !x.isFin))

/-- The factor that rescales a sum held at maximum `m` to maximum `top` (R201). -/
def softFactor (m top : FV) : FV :=
  if m == .inf true then .fin false 0 0 else sfuExp2 (r32 (m.add top.neg))

/-- The merge of two softmax states (R201). ALL_MASKED of either record stays in the merged one, as it stays through an UPDATE (log entry 14). -/
def mergeSoftmax (a b : RowRec) : RowRec :=
  let flags := oddPair a b
  let masked := a.masked || b.masked
  if a.n = 0 then ({ b with masked := masked } : RowRec).mark flags
  else if b.n = 0 then ({ a with masked := masked } : RowRec).mark flags
  else
    let m := fvMin true true a.a b.a
    if m == .inf true then (⟨a.n + b.n, m, .fin false 0 0, 2, flags, masked⟩ : RowRec).mark false
    else
      let l := r32 ((a.b.mul (softFactor a.a m)).add (b.b.mul (softFactor b.a m)))
      (⟨a.n + b.n, m, l, 2, flags, masked⟩ : RowRec).mark false

/-- A softmax record with a segment of scores folded in: the record, the probabilities, the rescale factor (R200). -/
def foldSoftmax (r : RowRec) (p : FV) (xs : List FV) : RowRec × List FV × FV :=
  let ys := xs.map (fun x => r32 (p.fma x (.fin false 0 0)))
  let top := ys.foldl (fvMin true true) r.a
  let one := FV.fin false 1 0
  let zero := FV.fin false 0 0
  let low := top == .inf true
  let alpha := if low then one else softFactor r.a top
  let ps := ys.map (fun y => if low || y == .inf true then zero else sfuExp2 (r32 (y.add top.neg)))
  let l := r32 ((r.b.mul alpha).add (r32 (ps.foldl FV.add zero)))
  let bad := r.odd || xs.any (marks true) || ys.any (marks true)
  ((⟨r.n + xs.length, top, l, 2, r.nonfinite, r.masked⟩ : RowRec).mark bad, ps, alpha)

/-- R and LSE of a softmax record with N > 0 (R202). -/
def softmaxOut (r : RowRec) : FV × FV :=
  if r.b.isZero then (.fin false 0 0, .inf true) else
  let inv := match r.b with
    | .fin s m e => fp32.decode (fp32.encodeRatio .nearest false s 1 m (-e))
    | .inf s => .fin s 0 0
    | .nan => .nan
  (inv, r32 (r.a.add (sfuLog2 r.b)))

/-- Mean and variance of a moments record (R199). -/
def momentsOut (r : RowRec) (sample : Bool) : FV × FV :=
  if r.n = 0 then (.fin false 0 0, .fin false 0 0)
  else if r.n = 1 ∧ sample then (r.a, .fin false 0 0)
  else (r.a, divN r.b (if sample then r.n - 1 else r.n))

/-! ### The operations (R250) -/

/-- Fields of a ROWSTAT word (Table 9.12). -/
structure RowFields where
  fn : Nat
  sample : Bool
  afmt : Nat
  cfmt : Nat
  rows : Nat
  e : Nat
  cen : Bool
  den : Bool
  p : Nat
  deriving DecidableEq, Repr

/-- Fields of the word. -/
def rowFields (w : Nat) : RowFields :=
  ⟨bits w 115 112, bit w 111, bits w 110 107, bits w 106 103, bits w 102 89, bits w 88 73, bit w 72, bit w 71, bits w 63 32⟩

/-- An UPDATE. -/
def RowFields.isUpdate (f : RowFields) : Bool := f.fn == 0 || f.fn == 3
/-- A FINAL. -/
def RowFields.isFinal (f : RowFields) : Bool := f.fn == 2 || f.fn == 5
/-- KIND of the records. -/
def RowFields.kind (f : RowFields) : Nat := if 3 ≤ f.fn then 2 else 1

/-- The fields are ones the function takes (Tables 9.12 and 9.13). -/
def RowFields.ok (f : RowFields) : Bool :=
  let fl := fun c => c == 8 || c == 11
  f.rows != 0 && (!f.isUpdate || fl f.afmt) && (!(f.isFinal || f.cen) || fl f.cfmt) &&
  (if f.isFinal then f.cen && f.den else f.fn == 3 || (!f.cen && !f.den))

/-- Regions in operand order; every operation reads its records, and all but MOMENTS_FINAL write them. -/
def RowFields.regions (f : RowFields) (ops : List (Nat × Nat)) : List VuRegion :=
  let o := fun k => ops.getD k (0, 0)
  let recs := 16 * f.rows
  let count := if f.isUpdate then f.rows * f.e else f.rows
  (if f.isUpdate then [⟨(o 0).1, (o 0).2, elemBytes count (bitsOf f.afmt), false, bitsOf f.afmt⟩]
   else if f.isFinal then [] else [⟨(o 0).1, (o 0).2, recs, false, 128⟩]) ++
  [⟨(o 1).1, (o 1).2, recs, false, 128⟩] ++ (if f.fn = 2 then [] else [⟨(o 1).1, (o 1).2, recs, true, 128⟩]) ++
  (if f.cen then [⟨(o 2).1, (o 2).2, elemBytes count (bitsOf f.cfmt), true, bitsOf f.cfmt⟩] else []) ++
  (if f.den then [⟨(o 3).1, (o 3).2, elemBytes f.rows (if f.isFinal then bitsOf f.cfmt else 32), true, if f.isFinal then bitsOf f.cfmt else 32⟩] else [])

/-- Rows that a batch holds (R203). -/
def RowFields.perBatch (f : RowFields) : Nat :=
  if !f.isUpdate then 16
  else if f.e ≤ 64 then 128 / (if f.e ≤ 1 then 1 else 2 ^ (Nat.log2 (f.e - 1) + 1))
  else 1
/-- Batches that a row takes (R203). -/
def RowFields.parts (f : RowFields) : Nat := if f.isUpdate && decide (64 < f.e) then ceilDiv f.e 128 else 1
/-- Batches of an operation (R203). -/
def RowFields.batches (f : RowFields) : Nat := ceilDiv f.rows f.perBatch * f.parts

/-- What an operation comes to: new records, and values for C and D with the row each begins at. -/
structure RowResults where
  recs : List RowRec
  c : List (Nat × List FV)
  d : List (Nat × List FV)
  deriving DecidableEq, Repr

/-- The results of an operation, or the status it fails with before it writes anything (R194). -/
def rowResults (f : RowFields) (data : List FV) (other recs : List RowRec) : Except Status RowResults :=
  let k := f.kind
  if recs.any (fun r => !r.fits k) || other.any (fun r => !r.fits k) then .error .descInvalid else
  let recs' := recs.map (·.as k)
  let other' := other.map (·.as k)
  let grow := (List.range f.rows).map (fun i => (recs'.getD i (RowRec.as ⟨0, .nan, .nan, 0, false, false⟩ k)).n +
    (if f.isUpdate then f.e else if f.isFinal then 0 else (other'.getD i (RowRec.as ⟨0, .nan, .nan, 0, false, false⟩ k)).n))
  if grow.any (fun n => decide (2 ^ 32 ≤ n)) then .error .descInvalid else
  let seg := fun i => (data.drop (i * f.e)).take f.e
  match f.fn with
  | 0 => .ok ⟨recs'.zipIdx.map (fun (r, i) => mergeMoments r (segmentMoments (seg i))), [], []⟩
  | 1 => .ok ⟨List.zipWith mergeMoments recs' other', [], []⟩
  | 2 =>
    let outs := recs'.map (fun r => momentsOut r f.sample)
    .ok ⟨recs, [(0, outs.map (·.1))], [(0, outs.map (·.2))]⟩
  | 3 =>
    let outs := recs'.zipIdx.map (fun (r, i) => foldSoftmax r (fp32.decode f.p) (seg i))
    .ok ⟨outs.map (·.1), [(0, (outs.map (fun o => o.2.1)).flatten)], [(0, outs.map (fun o => o.2.2))]⟩
  | 4 => .ok ⟨List.zipWith mergeSoftmax recs' other', [], []⟩
  | _ =>
    let live := recs'.zipIdx.filter (fun p => p.1.n != 0)
    .ok ⟨List.zipWith (fun (r r' : RowRec) => if r'.n != 0 && r'.b.isZero then { r with masked := true } else r) recs recs',
      live.map (fun p => (p.2, [(softmaxOut p.1).1])), live.map (fun p => (p.2, [(softmaxOut p.1).2]))⟩

/-- The code of a value in a format of Table 9.12. -/
def outCode (fmt : Nat) (x : FV) : Nat := if fmt = 8 then bf16.encode x else code32 x

/-- What the rows of a batch come to, from data and records read now: the probabilities of an UPDATE, and the writes of its records, C and D; or the status
the operation fails with (R194). SOFTMAX_FINAL writes of a record only ALL_MASKED, and nothing for a row with N = 0 (R202). -/
def State.rowPart (s : State) (core : Nat) (o : VuOp) (f : RowFields) (first count : Nat) : Except Status RowPart × State :=
  let h := fun k => o.handles.getD k 0
  let recsAt := fun (s : State) (k off : Nat) => s.spmRead core ((s.core core).abs (h k) (off + 16 * first)) (16 * count)
  let parse := fun (bs : Bytes) => (List.range count).map (fun i => rowRecOf (slice bs (16 * i) 16))
  match (if f.isUpdate then s.sourceCodes core (h 0) o.a 0 (bitsOf f.afmt) 1 0 (first * f.e) (count * f.e) else (some [], s)) with
  | (none, s) => (.error .uncorrectable, s)
  | (some ds, s) =>
    match (if f.isUpdate || f.isFinal then (some [], s) else recsAt s 0 o.a) with
    | (none, s) => (.error .uncorrectable, s)
    | (some other, s) =>
      match recsAt s 1 o.b with
      | (none, s) => (.error .uncorrectable, s)
      | (some raw, s) =>
        let recs := parse raw
        match rowResults { f with rows := count } (ds.map (elemValue f.afmt)) (if other.isEmpty then [] else parse other) recs with
        | .error st => (.error st, s)
        | .ok r =>
          let dw := if f.isFinal then f.cfmt else 11
          let run := fun (k off fmt : Nat) (x : Nat × List FV) => (⟨h k, off, bitsOf fmt, first + x.1, x.2.map (outCode fmt)⟩ : VuWrite)
          let records : List VuWrite :=
            if f.fn = 2 then []
            else if f.fn = 5 then
              (recs.zipIdx.filter (fun p => (p.1.as 2).n != 0 && (p.1.as 2).b.isZero)).map (fun p =>
                ⟨h 1, o.b, 8, 16 * (first + p.2) + 12, [field raw (16 * p.2 + 12) 1 ||| 8]⟩)
            else [⟨h 1, o.b, 8, 16 * first, ((r.recs.map RowRec.bytes).flatten).map (·.toNat)⟩]
          let c := if f.cen && f.isFinal then r.c.map (run 2 o.c f.cfmt) else []
          let d := if f.den then r.d.map (run 3 o.d dw) else []
          (.ok ⟨if f.cen && f.isUpdate then ((r.c.map (·.2)).flatten).map (outCode f.cfmt) else [], records ++ c ++ d⟩, s)

/-- The writes of a ROWSTAT operation's next batch, and the rows under way after it. A row of more than 64 elements is read at its first batch, and its record
is written at its last. -/
def State.rowBatch (s : State) (core : Nat) (o : VuOp) : Except Status (List VuWrite × Option RowPart) × State :=
  let f := rowFields o.word
  let part := o.batch % f.parts
  let first := o.batch / f.parts * f.perBatch
  match (match o.row with
    | some r => if part = 0 then s.rowPart core o f first (min f.perBatch (f.rows - first)) else (.ok r, s)
    | none => s.rowPart core o f first (min f.perBatch (f.rows - first)) : Except Status RowPart × State) with
  | (.error st, s) => (.error st, s)
  | (.ok r, s) =>
    let mine := if f.parts = 1 then r.probs else (r.probs.drop (128 * part)).take 128
    let probs : List VuWrite := if mine.isEmpty then [] else [⟨o.handles.getD 2 0, o.c, bitsOf f.cfmt, first * f.e + 128 * part, mine⟩]
    if part + 1 = f.parts then (.ok (probs ++ r.rest, none), s) else (.ok (probs, some r), s)

/-! ### Batches (R93, R94, R102) -/

/-- What a batch comes to: its writes, the operation and the rounding generator after it. -/
structure BatchOut where
  writes : List VuWrite
  op : VuOp
  rng : Option Rng
  deriving DecidableEq, Repr

/-- Batches of an operation. -/
def VuOp.total (o : VuOp) : Nat :=
  if o.kind = .rowstat then (rowFields o.word).batches else ceilDiv (o.shape.1 * o.shape.2.1) o.shape.2.2

/-- The next batch of the operation at the front of the VU, from inputs read now; or the status it fails with. -/
def State.batchOut (s : State) (core : Nat) (o : VuOp) : Except Status BatchOut × State :=
  let first := o.batch * o.shape.2.2
  let n := min o.shape.2.2 (o.shape.1 * o.shape.2.1 - first)
  match o.kind with
  | .vector =>
    let f := vecFields o.word
    match s.vecBatch core o first n with
    | (none, s) => (.error .uncorrectable, s)
    | (some (codes, scales, rng), s) =>
      let writes : List VuWrite := [⟨o.dHandle, o.d, bitsOf f.fd, first, codes⟩, ⟨o.handles.getD 2 0, o.c, 8, first / 32, scales⟩]
      match o.ebb with
      | none => (.ok ⟨writes, o, some rng⟩, s)
      | some _ =>
        -- the contribution is source B as it stands before the batch is written (R97)
        match s.sourceCodes core (o.handles.getD 1 0) o.b 0 32 f.cols 0 first n with
        | (none, s) => (.error .uncorrectable, s)
        | (some bs, s) => (.ok ⟨writes, { o with contrib := o.contrib ++ bs }, some rng⟩, s)
  | .rowstat =>
    match s.rowBatch core o with
    | (.error st, s) => (.error st, s)
    | (.ok (writes, row), s) => (.ok ⟨writes, { o with row := row }, none⟩, s)
  | _ =>
    match s.sfuBatch core o first n with
    | (none, s) => (.error .uncorrectable, s)
    | (some codes, s) => (.ok ⟨[⟨o.dHandle, o.d, bitsOf (sfuFields o.word).fd, first, codes⟩], o, none⟩, s)

/-- Make the writes of a batch; false when a merge fails. -/
def State.putWrites (s : State) (core : Nat) (l : List VuWrite) : Bool × State :=
  l.foldl (fun (acc : Bool × State) x =>
    if acc.1 then acc.2.writeCodes core x.h x.off x.width x.first x.codes else acc) (true, s)

/-- The next batch on both rails: its results are written once they agree, at the first attempt or at the one retry (R94). -/
def State.runBatch (s : State) (core : Nat) (o : VuOp) (rails : Rails) : State :=
  match s.batchOut core o with
  | (.error st, s) => (s.dropVu core).faultTag o.tag st
  | (.ok b, s) =>
    if rails = .lasting then s.vuLasting core o else
    let s := match b.rng with
      | some r => s.setRng core (tagIndex o.tag) r
      | none => s
    match s.putWrites core b.writes with
    | (true, s) => s.finishBatch core b.op o.total (rails == .transient)
    | (false, s) => (s.dropVu core).faultTag o.tag .uncorrectable

/-- The next batch of the operation at the front of the VU, on both rails; it waits while the collector's buffer has no room for its event. -/
def State.vuBatch (s : State) (core : Nat) (rails : Rails) : State :=
  let c := s.core core
  match c.vu with
  | [] => s
  | o :: _ => if 2 ≤ c.rst then s else s.unlessFull (tagIndex o.tag) (s.runBatch core o rails)

/-- VECTOR_BATCH: the next batch of the operation at the front of the VU (R93, R94, R102). -/
def execVectorBatch (core : CoreId) (rails : Rails) (s : State) : Host.Outcome State Fault Refusal := .next (s.vuBatch core rails)

/-! ### Issue (R180, R225, R250) -/

/-- A ROWSTAT operation of function `fn` is validated and queued in the VU; when the VU was empty its first batch runs at once, on `rails` (log entry 14). An
UPDATE of no elements completes at once (R196, R200). Each of the six commands passes over a skipped operation whose FN is reserved (R242). -/
def State.rowstat (s : State) (core fn : Nat) (rails : Rails) : State :=
  s.runOp core (fun k w => k == .rowstat && (bits w 115 112 == fn || decide (5 < bits w 115 112))) (fun i sl w v s =>
    let c := s.core core
    let f := rowFields w
    let ops := vecOperands sl v
    let o := fun k => ops.getD k (0, 0)
    let rs := f.regions ops
    if !sl.compute || !f.ok then s.faultTag sl.tag .descInvalid
    else if f.isUpdate && f.e == 0 then s.step1 core i 2 else
    match c.regionFault sl.tag rs with
    | some st => s.faultTag sl.tag st
    | none =>
      if c.overlaps rs then s.faultTag sl.tag .descInvalid
      else if c.vuWaits i rs then s
      else
        let op : VuOp := { kind := .rowstat, slot := i, tag := sl.tag, opIndex := sl.pc, word := w, a := (o 0).2, b := (o 1).2, c := (o 2).2, d := (o 3).2
                           handles := ops.map (·.1), dHandle := (o 1).1, uses := rs.map (·.h), batch := 0, retries := 0, second := false, program := []
                           ebb := none, contrib := [], row := none, supply := false }
        let s := (s.setCore core { c with vu := c.vu ++ [op] }).step1 core i 2
        if c.vu.isEmpty then s.vuBatch core rails else s)

/-- MOMENTS_UPDATE (R196). -/
def execMomentsUpdate (core : CoreId) (rails : Rails) (s : State) : Host.Outcome State Fault Refusal := .next (s.rowstat core 0 rails)
/-- MOMENTS_MERGE (R197). -/
def execMomentsMerge (core : CoreId) (rails : Rails) (s : State) : Host.Outcome State Fault Refusal := .next (s.rowstat core 1 rails)
/-- MOMENTS_FINAL (R199). -/
def execMomentsFinal (core : CoreId) (rails : Rails) (s : State) : Host.Outcome State Fault Refusal := .next (s.rowstat core 2 rails)
/-- SOFTMAX_UPDATE (R200). -/
def execSoftmaxUpdate (core : CoreId) (rails : Rails) (s : State) : Host.Outcome State Fault Refusal := .next (s.rowstat core 3 rails)
/-- SOFTMAX_MERGE (R201). -/
def execSoftmaxMerge (core : CoreId) (rails : Rails) (s : State) : Host.Outcome State Fault Refusal := .next (s.rowstat core 4 rails)
/-- SOFTMAX_FINAL (R202). -/
def execSoftmaxFinal (core : CoreId) (rails : Rails) (s : State) : Host.Outcome State Fault Refusal := .next (s.rowstat core 5 rails)

end Sys2Proof.Machine
end

