-- ==== Sys2Proof/Machine/Streams.lean ====
section
/-! DEFINITION. The stream engine: descriptors, runs, blocks, packing, table loads, expansion (chapter 8, R158 to R170, R251). Log entries 15 and 16. -/

namespace Sys2Proof.Machine

/-! ### Descriptors (Tables 8.1 to 8.3) -/

/-- A descriptor from its 128 bytes, with the offsets of its ARM added modulo 2^64 (R251). -/
def streamDesc (bs : Bytes) (soff doff : Nat) : StreamDesc :=
  { src := (field bs 0 8 + soff) % 2 ^ 64, dst := (field bs 8 8 + doff) % 2 ^ 64, srcTag := field bs 16 8, dstTag := field bs 24 8
    table := field bs 32 8, ctrl := field bs 40 4, srcHandle := field bs 44 1, dstHandle := field bs 45 1, digestIndex := field bs 46 1
    zero47 := field bs 47 1, elem := field bs 48 4, rate := field bs 52 4
    counts := (List.range 5).map (fun k => field bs (56 + 4 * k) 4), strides := (List.range 5).map (fun k => signed 32 (field bs (76 + 4 * k) 4))
    arrive := field bs 96 4, crcDst := field bs 100 4, zeroTail := zeroAt bs 104 24 }

/-- SRC_KIND: 0 LOCAL, 1 HBM, 2 GLOBAL, 3 HOST. -/
def StreamDesc.srcKind (d : StreamDesc) : Nat := bits d.ctrl 1 0
/-- DST_KIND. -/
def StreamDesc.dstKind (d : StreamDesc) : Nat := bits d.ctrl 3 2
/-- The source is compressed. -/
def StreamDesc.srcCmp (d : StreamDesc) : Bool := bit d.ctrl 5
/-- The destination is compressed. -/
def StreamDesc.dstCmp (d : StreamDesc) : Bool := bit d.ctrl 6
/-- A pack: plain source, compressed destination. -/
def StreamDesc.pack (d : StreamDesc) : Bool := !d.srcCmp && d.dstCmp
/-- Blocks move in stored form: both sides are compressed. -/
def StreamDesc.stored (d : StreamDesc) : Bool := d.srcCmp && d.dstCmp
/-- The source lies dense: STRIDE_SIDE 1, or stored form. -/
def StreamDesc.srcDense (d : StreamDesc) : Bool := bit d.ctrl 4 || d.stored
/-- The destination lies dense. -/
def StreamDesc.dstDense (d : StreamDesc) : Bool := !bit d.ctrl 4
/-- Service class. -/
def StreamDesc.service (d : StreamDesc) : Bool := bit d.ctrl 11
/-- DIGEST. -/
def StreamDesc.digest (d : StreamDesc) : Bool := bit d.ctrl 8
/-- TABLE_SLOT. -/
def StreamDesc.tableSlot (d : StreamDesc) : Nat := bits d.ctrl 17 12
/-- CREDIT_ENTRY. -/
def StreamDesc.creditEntry (d : StreamDesc) : Nat := bits d.ctrl 23 18
/-- DIMS. -/
def StreamDesc.dims (d : StreamDesc) : Nat := bits d.ctrl 27 25
/-- Count of dimension `k`, 1 at or above DIMS (R210). -/
def StreamDesc.count (d : StreamDesc) (k : Nat) : Nat := if k < d.dims then d.counts.getD k 0 else 1
/-- Total bytes. -/
def StreamDesc.total (d : StreamDesc) : Nat := d.elem * d.count 0 * d.count 1 * d.count 2 * d.count 3 * d.count 4
/-- Blocks of the dense side (R212). -/
def StreamDesc.blocks (d : StreamDesc) : Nat := ceilDiv d.total 2048
/-- Bytes of a block. -/
def StreamDesc.blockLen (d : StreamDesc) (b : Nat) : Nat := min 2048 (d.total - 2048 * b)
/-- A LOCAL dense destination is a ring (R214). -/
def StreamDesc.isRing (d : StreamDesc) : Bool := d.dstKind == 0 && d.dstDense
/-- A GLOBAL address names a scratchpad window. -/
def inWindow (a : Nat) : Bool := decide (0x2000000000000 ≤ a % 2 ^ 50)
/-- The destination is a sluice. -/
def StreamDesc.isSluice (d : StreamDesc) : Bool := d.dstKind == 2 && inWindow d.dst && d.dstDense

/-- Kind of the side that TABLE belongs to: the compressed one (R146); HBM where that side is LOCAL, or neither is compressed (log entry 40). -/
def StreamDesc.tableKind (d : StreamDesc) : Nat :=
  let k := if d.srcCmp then d.srcKind else if d.dstCmp then d.dstKind else 1
  if k = 0 then 1 else k

/-- Offset on the strided side of dense element `n` (R210). -/
def StreamDesc.elemAt (d : StreamDesc) (n : Nat) : Int :=
  let c := d.count
  let s := fun k => d.strides.getD k 0
  let (i0, i1, r) := if bit d.ctrl 7 then (n / max 1 (c 1) % max 1 (c 0), n % max 1 (c 1), n / max 1 (c 0 * c 1))
    else (n % max 1 (c 0), n / max 1 (c 0) % max 1 (c 1), n / max 1 (c 0 * c 1))
  let i2 := r % max 1 (c 2)
  let i3 := r / max 1 (c 2) % max 1 (c 3)
  let i4 := r / max 1 (c 2 * c 3)
  i0 * s 0 + i1 * s 1 + i2 * s 2 + i3 * s 3 + i4 * s 4

/-- Runs of consecutive bytes of the strided side for dense bytes [p, stop), with fuel. -/
def StreamDesc.runsFrom (d : StreamDesc) (stop : Nat) : Nat → Nat → List (Int × Nat)
  | 0, _ => []
  | k + 1, p =>
    if stop ≤ p then [] else
    let e := max 1 d.elem
    let off := p % e
    let n := min (e - off) (stop - p)
    (d.elemAt (p / e) + off, n) :: d.runsFrom stop k (p + n)

/-- Neighbouring runs joined. -/
def joinRuns : List (Int × Nat) → List (Int × Nat)
  | [] => []
  | (a, n) :: r =>
    match joinRuns r with
    | (b, m) :: t => if a + n = b then (a, n + m) :: t else (a, n) :: (b, m) :: t
    | [] => [(a, n)]

/-- Places of a block on its strided side. -/
def StreamDesc.runs (d : StreamDesc) (b : Nat) : List (Int × Nat) := joinRuns (d.runsFrom (2048 * b + d.blockLen b) 2049 (2048 * b))

/-- An address base moved by a signed offset, modulo 2^64. -/
def moved (base : Nat) (off : Int) : Nat := (((base : Int) + off) % (2 ^ 64 : Nat)).toNat

/-- Lowest and highest offset of the strided side, the end exclusive. -/
def StreamDesc.extent (d : StreamDesc) : Int × Int :=
  (List.range 5).foldl (fun (e : Int × Int) k =>
    let t : Int := ((d.count k : Int) - 1) * d.strides.getD k 0
    if k < d.dims then (e.1 + min 0 t, e.2 + max 0 t) else e) (0, d.elem)

/-- The strided side lies in dense order, so that it may hold whole compressed blocks. -/
def StreamDesc.contiguous (d : StreamDesc) : Bool :=
  !bit d.ctrl 7 && ((List.range 5).foldl (fun (acc : Bool × Nat) k =>
    let c := d.count k
    (acc.1 && (decide (d.dims ≤ k) || c == 1 || d.strides.getD k 0 == (acc.2 : Int)), acc.2 * c)) (true, d.elem)).1

/-! ### Validation (Table 8.4) -/

/-- First row of Table 8.4. -/
def StreamDesc.malformed (d : StreamDesc) : Bool :=
  d.dims == 0 || decide (5 < d.dims) || d.elem == 0 || decide (65536 < d.elem % 2 ^ 17) || decide (2 ^ 17 ≤ d.elem) ||
  !zeroBits d.ctrl 31 28 || d.zero47 != 0 || !d.zeroTail || decide (2 ^ 29 ≤ d.arrive) ||
  (d.srcTag != 0 && !(d.srcCmp && d.srcKind != 0)) || (d.dstTag != 0 && !(d.dstCmp && d.dstKind != 0)) ||
  (d.table != 0 && !bit d.ctrl 10 && !d.pack) ||
  (d.srcKind == 3 && d.dstKind == 3) ||
  (d.srcKind == 1 && (decide (2 ^ 48 ≤ d.src) || decide (2 ^ 48 ≤ d.srcTag))) ||
  (d.dstKind == 1 && (decide (2 ^ 48 ≤ d.dst) || decide (2 ^ 48 ≤ d.dstTag))) || (d.tableKind == 1 && decide (2 ^ 48 ≤ d.table)) ||
  (bit d.arrive 28 && decide (191 < bits d.arrive 21 14))

/-- A LOCAL side's polder has the compression the descriptor states, and no strided side is compressed (second row). -/
def StreamDesc.cmpBad (d : StreamDesc) (c : CoreSt) : Bool :=
  (d.srcKind == 0 && (c.polder d.srcHandle).compressed != d.srcCmp) || (d.dstKind == 0 && (c.polder d.dstHandle).compressed != d.dstCmp) ||
  (if d.stored then bit d.ctrl 4 || !d.contiguous else if bit d.ctrl 4 then d.dstCmp else d.srcCmp)

/-- LOCAL regions of a descriptor: handle, offset, length; none for one that begins below its polder. The SE may write a polder with CODE set (Table 5.6). -/
def StreamDesc.localRegions (d : StreamDesc) (c : CoreSt) : List (Option (Nat × Nat × Nat)) :=
  let (lo, hi) := if d.total = 0 then (0, 0) else d.extent
  let strided := fun (h base : Nat) =>
    if (base : Int) + lo < 0 then none else some (h, ((base : Int) + lo).toNat, (hi - lo).toNat)
  (if d.srcKind ≠ 0 then [] else
    if d.srcDense then [some (d.srcHandle, d.src, d.total)] else [strided d.srcHandle d.src]) ++
  (if d.dstKind ≠ 0 then [] else
    if d.dstDense then [some (d.dstHandle, d.dst, min 2048 (2048 * (c.polder d.dstHandle).slots - d.dst))]
    else [strided d.dstHandle d.dst]) ++
  (if bit d.ctrl 9 then [some (d.crcDst % 256, d.crcDst / 256, 4)] else [])

/-- A LOCAL region fails Table 5.6. -/
def CoreSt.streamRegionBad (c : CoreSt) (tag : Nat) (d : StreamDesc) : Bool :=
  (d.localRegions c).any (fun r =>
    match r with
    | none => true
    | some (h, off, len) =>
      let p := c.polder h
      !p.valid || p.owner != tag || decide ((if p.compressed then 2048 * p.slots else p.length * granule) < off + len)) ||
  (d.isRing && decide (2048 * (c.polder d.dstHandle).slots ≤ d.dst))

/-- The credit entry of a sluice destination differs from it (R140). -/
def State.creditBad (s : State) (c : CoreSt) (tag : Nat) (d : StreamDesc) : Bool :=
  let x := c.cred d.creditEntry
  let chipOf := fun (a : Nat) => if s.isHere (a / 2 ^ 50) then s.self else a / 2 ^ 50
  x.state == 0 || x.owner != tag || chipOf d.dst != chipOf x.addr ||
  decide (d.dst % 2 ^ 50 < x.addr % 2 ^ 50) || decide (x.addr % 2 ^ 50 + 2048 * x.slots ≤ d.dst % 2 ^ 50)

/-- The tensor a stream digests has been digested, or is not designated (R217). -/
def State.digestBad (s : State) (core j tag : Nat) (d : StreamDesc) : Bool :=
  match (s.ctx (tagIndex tag)).inv with
  | none => true
  | some v =>
    decide (v.inputs + v.outputs ≤ d.digestIndex) || (v.digests.find d.digestIndex).isSome ||
    s.cores.any (fun (k, c) => c.strms.any (fun (n, x) => !(k == core && n == j) && x.owner == tag &&
      (match x.run with | some r => r.desc.digest && r.desc.digestIndex == d.digestIndex && r.desc.total != 0 | none => false)))

/-- Table 8.4, the rows checked when a descriptor takes effect on stream `j`. -/
def State.streamFault (s : State) (core j tag : Nat) (d : StreamDesc) : Option Status :=
  let c := s.core core
  let x := c.strm j
  if d.malformed then some .descInvalid
  else if d.cmpBad c then some .descInvalid
  else if bit d.ctrl 7 && (!(d.elem == 1 || d.elem == 2 || d.elem == 4) || decide (65536 < d.count 0 * d.count 1 * d.elem)) then some .descInvalid
  else if 2 ^ 40 < d.total then some .descInvalid
  else if d.isRing && (d.dst % 2048 != 0 ||
      c.strms.any (fun (n, y) => n != j && (match y.run with | some r => r.desc.isRing && r.desc.dstHandle == d.dstHandle | none => false)) ||
      (bit d.ctrl 24 && x.ring != some d.dstHandle)) then some .descInvalid
  else if !d.dstDense && d.dstKind == 2 && inWindow d.dst then some .descInvalid
  else if c.streamRegionBad tag d then some .accessViolation
  else if d.isSluice && s.creditBad c tag d then some .accessViolation
  else if d.digest && d.total != 0 && s.digestBad core j tag d then some .descInvalid
  else none

/-! ### Starting and ending runs (R208, R211, R214, R216, R220) -/

/-- The arrival of a run, with a count of 1. -/
def State.streamArrive (s : State) (core tag : Nat) (d : StreamDesc) : State :=
  if bit d.arrive 28 then
    s.sendNamed (bits d.arrive 13 0) (bits d.arrive 21 14) 0x01 tag core 0 (bits d.arrive 27 22 + 256)
  else s

/-- A PACK of this descriptor builds a table: compression is on, and it does not reuse one (R158, R162). -/
def State.packBuilds (s : State) (c : CoreSt) (tag : Nat) (d : StreamDesc) : Bool :=
  let cfg := match (s.ctx (tagIndex tag)).inv with
    | some v => v.cmpCfg
    | none => 1
  let sl := c.tslots.get .clear d.tableSlot
  d.pack && bit cfg 0 && !(bit cfg 1 && d.table == 0 && sl.valid && sl.owner == tag)

/-- A descriptor takes effect: it is validated, and its run starts, completes at once, or faults its context. -/
def State.startRun (s : State) (core j tag : Nat) (d : StreamDesc) (index : Nat) : State :=
  match s.streamFault core j tag d with
  | some st =>
    let c := s.core core
    (s.setCore core (c.setStrm j { c.strm j with status := st.code, run := none, held := none })).faultTag tag st
  | none =>
    let c := s.core core
    let x := c.strm j
    let p := c.polder d.dstHandle
    -- a LOCAL dense destination is armed from here on, with its ring and credit; any other leaves the stream without a ring (R214)
    let x := if !d.isRing then { x with ring := none } else if bit d.ctrl 24 then x else
      { x with ring := some d.dstHandle, ringSlots := p.slots, credit := p.slots, nextSlot := d.dst / 2048 }
    let c := if d.isRing && p.valid && p.owner == tag then c.setPolder d.dstHandle { p with armedBy := some j } else c
    if d.total = 0 then
      (s.setCore core (c.setStrm j { x with status := 0 })).streamArrive core tag d
    else
      let cfg := match (s.ctx (tagIndex tag)).inv with
        | some v => v.cmpCfg
        | none => 1
      let builds := s.packBuilds c tag d
      let reuse := d.pack && bit cfg 0 && !builds
      let r : Run := { desc := d, descIndex := index, total := d.blocks, issued := 0, written := 0, flight := [], acks := [], crc := 0xFFFFFFFF
                       digest := [], status := .ok, retries := 0, breaches := 0, events := 0, pass := if builds then 0 else 1
                       hist := if builds then List.replicate 272 0 else [], tableSlot := if reuse then some d.tableSlot else none
                       loaded := !bit d.ctrl 10, table := none, expanded := 0, supply := false }
      s.setCore core (c.setStrm j { x with run := some r })

/-- Handles of a core whose scratchpad window a GLOBAL source reads, or a table record it loads (R70). -/
def State.windowHandles (s : State) (core : Nat) (d : StreamDesc) : List Nat :=
  let c := s.core core
  let meets := fun (a : Nat) (lo hi : Int) =>
    let b : Int := (a % 2 ^ 50 : Nat) - ((0x2000000000000 + core * 0x1000000 : Nat) : Int)
    if s.isHere (a / 2 ^ 50) && inWindow a then
      (c.ht.filter (fun p => p.2.valid && decide (b + lo < ((p.2.base + p.2.length) * granule : Nat)) && decide (((p.2.base * granule : Nat) : Int) < b + hi))).map (·.1)
    else []
  (if bit d.ctrl 10 && d.tableKind == 2 then meets d.table 0 256 else []) ++
  if d.srcKind ≠ 2 then []
  else if d.srcCmp then meets d.src 0 (2048 * d.blocks : Nat) ++ meets d.srcTag 0 (64 * d.blocks : Nat)
  else if d.srcDense then meets d.src 0 d.total
  else meets d.src d.extent.1 d.extent.2

/-- STREAM ARM (R205, R208, R220, R251): it waits for accumulators an earlier MATRIX writes (R70) and for operations whose operands it overwrites (R91). -/
def execStreamArm (core : CoreId) (s : State) : Host.Outcome State Fault Refusal :=
  .next (s.runOp core (fun k _ => k == .arm) (fun i sl w _ s =>
    let c := s.core core
    let j := bits w 115 111
    let (h, row) := addr sl (bits w 109 81)
    let off := 256 * row + 128 * b2n (bit w 110)
    let p := c.polder h
    let x := c.strm j
    let ix := fun (hi lo sh none_ : Nat) => if sh = none_ then 0 else sl.lcs.getD (bits w hi lo) 0 * 2 ^ sh
    let ext := fun (v : Nat) => unsigned 64 (signed 32 v)
    if !p.valid || p.owner != sl.tag || !p.code || decide (p.length * granule < off + 128) then s.faultTag sl.tag .accessViolation
    else if !x.bound || x.owner != sl.tag then s.faultTag sl.tag .accessViolation
    else if x.run.isSome && x.held.isSome then s.faultTag sl.tag .descInvalid
    else match s.spmRead core (c.abs h off) 128 with
      | (none, s) => s.faultTag sl.tag .uncorrectable
      | (some bs, s) =>
        let d := streamDesc bs (ext (bits w 63 32) + ix 80 78 (bits w 77 73) 31) (ext (bits w 31 0) + ix 72 70 (bits w 69 65) 31)
        let c := s.core core
        let src := (d.srcKind == 0 && c.accumulating i d.srcHandle) || (s.windowHandles core d).any (c.accumulating i)
        let dst := (d.dstKind == 0 && (c.accumulating i d.dstHandle || c.touches i d.dstHandle)) || (bit d.ctrl 9 && c.touches i (d.crcDst % 256))
        if src || dst then s
        else if x.run.isSome then (s.setCore core (c.setStrm j { x with held := some (d, off / 128) })).step1 core i 1
        else (s.step1 core i 1).startRun core j sl.tag d (off / 128)))

/-! ### Reading sources on this chip (R132, R207, R303, R304, R310) -/

/-- Read bytes of a scratchpad window for a context tag (Table 5.6, remote rows); a codeword uncorrectable twice faults the context that owns the polder (R130).
A block that has not passed its landing check, and those behind it, are waited for (R270). -/
def State.windowBytes (s : State) (tag off len : Nat) : Fetched × State :=
  let byte := off - 0x2000000000000
  let core := byte / 0x1000000
  let b := byte % 0x1000000
  if 192 ≤ core ∨ spmBytes < b + len then (.failed .accessViolation, s) else
  (pieces b len (len + 1)).foldl (fun (acc : Fetched × State) (q : Nat × Nat) =>
    match acc.1 with
    | .data bs =>
      match (acc.2.core core).polderAt (q.1 / granule) with
      | none => (.failed .accessViolation, acc.2)
      | some (_, p) =>
        if tagIndex p.owner ≠ tagIndex tag then (.failed .accessViolation, acc.2)
        else if p.owner ≠ tag then (.failed .staleContext, acc.2)
        else if p.hidden (q.1 - p.base * granule) q.2 then (.wait, acc.2)
        else match acc.2.spmRead core q.1 q.2 with
          | (some x, s) => (.data (bs ++ x), s)
          | (none, s) => (.failed .uncorrectable, s.faultTag p.owner .uncorrectable)
    | _ => acc) (.data [], s)

/-- Read at a global offset of this chip (Table 11.4). -/
def State.readOffset (s : State) (t : Translator) (tag off len : Nat) (u : Units := .sectors) (noise : Noise := Noise.none) (win : Bool := false) : Fetched × State :=
  if off < 2 ^ 48 then s.readVa t tag off len win u noise
  else if off < 2 ^ 49 ∨ 0x20000C0000000 ≤ off then (.failed .accessViolation, s)
  else s.windowBytes tag off len

/-- The translator of a core's stream engine. -/
def seOf (core : Nat) : Translator := .se ⟨core % 192, Nat.mod_lt _ (by decide)⟩

/-- Read a side of a stream at an address, when this chip can serve it; none when another chip must. -/
def State.readSide (s : State) (t : Translator) (core tag kind h a len : Nat) (u : Units := .sectors) (win : Bool := false) : Option (Fetched × State) :=
  if kind = 0 then
    some (match (s.core core).check tag h a len with
      | some st => (.failed st, s)
      | none => if ((s.core core).polder h).hidden a len then (.wait, s) else
        match s.spmRead core ((s.core core).abs h a) len with
        | (some bs, s) => (.data bs, s)
        | (none, s) => (.failed .uncorrectable, s))
  else if kind = 1 then some (s.readVa t tag a len win u)
  else if s.isHere (a / 2 ^ 50) then some (s.readOffset t tag (a % 2 ^ 50) len u Noise.none win)
  else none

/-! ### Requests to other chips (R351, R427) -/

/-- Send a READ or WRITE for a requester and note it; the answer is the status that stops it. `u` says how the data lies in XTS data units. -/
def State.request (s : State) (type tag a size srcUnit deadline : Nat) (service : Bool) (body : Bytes) (who : Requester) (piece : Nat) (again : Bool := false)
    (u : Units := .sectors) : Option Status × State :=
  let p := { packetOf type (a / 2 ^ 50) 0xFF tag srcUnit body with
    offset := a % 2 ^ 50, size := if type = 1 then size else if size % 16 = 0 then 0 else size, txn := s.nextTxn, deadline := deadline % 2 ^ 32
    route := 16 * b2n service, check := if body.isEmpty then 0 else crc32c (body.take size)
    unit := match u with | .sectors => none | .unit b => some b }
  match s.launch p with
  | (some st, s) => (some st, s)
  | (none, s) =>
    (none, { s with nextTxn := (s.nextTxn + 1) % 65536, requests := s.requests ++ [⟨p.txn, tag, who, s.time, piece, again, p, none⟩] })

/-- Ask other chips for runs, each an address, a length and a place in its block, piece by piece: how many pieces, the status that stops them, and the state. -/
def State.askRuns (s : State) (core tag deadline : Nat) (service : Bool) (who : Requester) (u : Units) (runs : List (Nat × Nat × Nat)) : Nat × Option Status × State :=
  runs.foldl (fun acc q => (pieces q.1 q.2.1 (q.2.1 + 1)).foldl (fun (acc : Nat × Option Status × State) p =>
    if acc.2.1.isSome then acc else
    match acc.2.2.request 1 tag p.1 p.2 core deadline service [] who (q.2.2 + (p.1 - q.1)) false (u.at (p.1 - q.1)) with
    | (some e, s) => (acc.1, some e, s)
    | (none, s) => (acc.1 + 1, none, s)) acc) (0, none, s)

/-! ### STREAM_BLOCK_ISSUE (R212, R214, R217, R224, R225) -/

/-- Deadline of a block (R224). -/
def State.blockDeadline (s : State) (c : CoreSt) (x : Strm) (d : StreamDesc) : Nat :=
  let far := s.time + 2 ^ 20
  let by_ := fun (slots credit : Nat) => if d.rate = 0 then far else s.time + min (2 ^ 20) ((slots - credit) * 2048 * 1000 / d.rate)
  if d.service then 0
  else if d.isRing then by_ x.ringSlots x.credit
  else if d.isSluice then by_ (c.cred d.creditEntry).slots (c.cred d.creditEntry).credit
  else far

/-- Blocks of a stream in flight: until their write has committed or been acknowledged (R212). -/
def Strm.inFlight (x : Strm) : Nat :=
  match x.run with
  | none => 0
  | some r => r.flight.length + r.acks.eraseDups.length

/-- Blocks a run has to issue in its present pass (R158). -/
def State.passBlocks (s : State) (tag : Nat) (r : Run) : Nat :=
  if r.pass = 0 then
    let n := match (s.ctx (tagIndex tag)).inv with
      | some v => bits v.cmpCfg 29 16
      | none => 0
    if n = 0 then r.total else min n r.total
  else r.total

/-- What reading a block's source on this chip gives: its bytes, its tag, and the runs that other chips must give, of the tag while that is empty:
address, length, place in the block. `later` says that memory is under repair. -/
structure Sourced where
  data : Bytes
  tag : Bytes
  status : Status
  remote : List (Nat × Nat × Nat)
  later : Bool
  deriving DecidableEq, Repr

/-- Address of a block on a dense source. -/
def StreamDesc.srcAt (d : StreamDesc) (b : Nat) : Nat := (d.src + 2048 * b) % 2 ^ 64

/-- Read the source of block `b` through a translator; `known` is the tag of a compressed block, once it has come in. -/
def State.readBlock (s : State) (t : Translator) (core tag : Nat) (d : StreamDesc) (b : Nat) (known : Bytes) (win : Bool := false) : Sourced × State :=
  let len := d.blockLen b
  let give := fun (f : Fetched × State) (k : Bytes → State → Sourced × State) =>
    match f.1 with
    | .data bs => k bs f.2
    | .failed st => (⟨[], [], st, [], false⟩, f.2)
    | .wait => (⟨[], [], .ok, [], true⟩, f.2)
  if d.srcKind = 3 then (⟨[], [], .ok, [], false⟩, s)
  else if d.srcCmp then
    if d.srcKind = 0 then
      let p := (s.core core).polder d.srcHandle
      let slot := d.src / 2048 + b
      if p.unseen (2048 * slot) 2048 then (⟨[], [], .ok, [], true⟩, s) else
      match s.slotBody core d.srcHandle slot none with
      | (none, s) => (⟨[], [], .uncorrectable, [], false⟩, s)
      | (some (bs, _), s) => if p.compressed then (⟨bs.drop 64, slice bs 0 64, .ok, [], false⟩, s) else (⟨[], [], .accessViolation, [], false⟩, s)
    else
      let payload := fun (g : Bytes) (s : State) =>
        let n := storedLen g
        if n = 0 then (⟨[], g, .ok, [], false⟩, s) else
        match s.readSide t core tag d.srcKind 0 (d.srcAt b) n (.unit 0) win with
        | none => (⟨[], g, .ok, [(d.srcAt b, n, 0)], false⟩, s)
        | some f => give f (fun bs s => (⟨bs, g, .ok, [], false⟩, s))
      if !known.isEmpty then payload known s else
      let a := (d.srcTag + 64 * b) % 2 ^ 64
      match s.readSide t core tag d.srcKind 0 a 64 (.unit 0) win with
      | none => (⟨[], [], .ok, [(a, 64, 0)], false⟩, s)
      | some f => give f payload
  else
    let runs := if d.srcDense then [(d.srcAt b, len)] else (d.runs b).map (fun (o, n) => (moved d.src o, n))
    runs.foldl (fun (acc : Sourced × State) (q : Nat × Nat) =>
      if acc.1.status != .ok || acc.1.later then acc else
      match acc.2.readSide t core tag d.srcKind d.srcHandle q.1 q.2 .sectors win with
      | none => ({ acc.1 with remote := acc.1.remote ++ [(q.1, q.2, acc.1.data.length)], data := acc.1.data ++ zeros q.2 }, acc.2)
      | some f => give f (fun bs s => ({ acc.1 with data := acc.1.data ++ bs }, s))) (⟨[], [], .ok, [], false⟩, s)

/-- Issue the reads of a block that are still to go out: on this chip they give their bytes at once, on another they are asked for (R207, R212).
While memory is under repair nothing has been issued. -/
def State.fillBlock (s : State) (core j tag : Nat) (d : StreamDesc) (b : StrmBlock) : StrmBlock × State :=
  let (src, s) := s.readBlock (seOf core) core tag d b.index b.tag
  if src.later then (b, s) else
  let b := { b with asked := true, data := src.data, tag := src.tag, status := src.status }
  if src.status != .ok then (b, s) else
  let (n, st, s) := s.askRuns core tag b.deadline d.service (.stream core j b.index) (if d.srcCmp then .unit 0 else .sectors) src.remote
  ({ b with waiting := n, status := st.getD .ok }, s)

/-- Take one of the four hash engines for a stream (R217); false while all are busy. -/
def State.takeHash (s : State) (core j ctx : Nat) : Bool × State :=
  if s.hashBusy.contains (core, j, ctx) then (true, s)
  else if 4 ≤ s.hashBusy.length then (false, s)
  else (true, { s with hashBusy := s.hashBusy ++ [(core, j, ctx)] })

/-- Put a run back into its stream. -/
def State.setRun (s : State) (core j : Nat) (r : Run) : State :=
  let c := s.core core
  s.setCore core (c.setStrm j { c.strm j with run := some r })

/-- Put a block back among those in flight. -/
def State.setBlock (s : State) (core j : Nat) (b : StrmBlock) : State :=
  match ((s.core core).strm j).run with
  | some r => s.setRun core j { r with flight := r.flight.map (fun y => if y.index == b.index then b else y) }
  | none => s

/-- A block that failed its check goes back to its source: its reads are to be issued again, once (R96, R170). -/
def StrmBlock.refetch (b : StrmBlock) (d : StreamDesc) : StrmBlock :=
  { b with again := true, asked := d.srcKind == 3, data := [], tag := [], plain := [] }

/-- The next block's reads go out when the weir (R466), phase, credit, hash engine and in-flight room allow. -/
def State.issueBlock (s : State) (core strm : Nat) (r : Run) : State :=
  let c := s.core core
  let x := c.strm strm
  let d := r.desc
  let tag := x.owner
  let all := c.strms.foldl (fun n p => n + p.2.inFlight) 0
  if s.phaseHold ∨ !s.live tag ∨ r.status ≠ .ok ∨ !r.loaded ∨ !c.moving then s
  else if s.passBlocks tag r ≤ r.issued ∨ 16 ≤ x.inFlight ∨ 64 ≤ all then s
  else if r.pass = 1 ∧ d.isRing ∧ x.credit = 0 then s
  else
    let (got, s) := if d.digest && r.pass == 1 then s.takeHash core strm (tagIndex tag) else (true, s)
    if !got then s else
    let b : StrmBlock := { index := r.issued, slot := x.nextSlot, data := [], tag := [], plain := [], status := .ok, waiting := 0,
                           deadline := s.blockDeadline c x d, asked := false, again := false }
    let (b, s) := s.fillBlock core strm tag d b
    if !b.asked then s else
    let s := s.setRun core strm { r with issued := r.issued + 1, flight := r.flight ++ [b] }
    let c := s.core core
    let y := c.strm strm
    if r.pass = 1 ∧ d.isRing then s.setCore core (c.setStrm strm { y with credit := y.credit - 1, nextSlot := (y.nextSlot + 1) % max 1 y.ringSlots })
    else s

/-- STREAM_BLOCK_ISSUE: the reads that a block in flight still needs go out, its payload's or those of a fetch again; else those of the next block. -/
def execStreamBlockIssue (core : CoreId) (strm : StreamId) (s : State) : Host.Outcome State Fault Refusal :=
  let c := s.core core
  let x := c.strm strm
  let i := tagIndex x.owner
  match x.run with
  | none => .next s
  | some r =>
    if c.rst ≠ 0 then .next s else
    match r.flight.find? (fun b => !b.asked) with
    | some b =>
      let (b, t) := s.fillBlock core strm x.owner r.desc b
      .next (s.unlessFull i (t.setBlock core strm b))
    | none => .next (s.unlessFull i (s.issueBlock core strm r))

/-! ### TABLE_LOAD and TABLE_BUILD_DONE (R158, R163, R164) -/

/-- An expansion that names a table slot has been issued on the core and is not yet done (R164). -/
def CoreSt.expanding (c : CoreSt) (slot : Nat) : Bool :=
  c.strms.any (fun (_, x) =>
    match x.run with
    | some r => r.desc.srcCmp && r.flight.any (fun b => decide (r.expanded ≤ b.index) && !b.tag.isEmpty && tagFormat b.tag == 1 && tagTable b.tag == slot)
    | none => false)

/-- A table slot that holds a table of another context. -/
def CoreSt.foreign (c : CoreSt) (slot tag : Nat) : Bool := let t := c.tslots.get .clear slot; t.valid && t.owner != tag

/-- The table record of a run, read where its side lies: `ext` is what host memory gives. None while another chip is asked or memory is under repair. -/
def State.tableBytes (s : State) (core strm tag : Nat) (r : Run) (ext : Bytes) : Option Fetched × State :=
  if r.desc.tableKind = 3 then (some (.data (slice ext 0 256)), s) else
  match r.table with
  | some bs => (if bs.length = 256 then some (.data bs) else none, s)
  | none =>
    match s.readSide (seOf core) core tag r.desc.tableKind 0 r.desc.table 256 with
    | some (.wait, s) => (none, s)
    | some (f, s) => (some f, s)
    | none =>
      match s.askRuns core tag 0 r.desc.service (.table core strm) .sectors [(r.desc.table, 256, 0)] with
      | (_, some st, s) => (some (.failed st), s)
      | (_, none, s) => (none, s.setRun core strm { r with table := some [] })

/-- A table enters a slot of a core (R163). -/
def State.loadSlot (s : State) (core slot tag : Nat) (lens : List Nat) : State :=
  let c := s.core core
  s.setCore core { c with tslots := c.tslots.put slot ⟨true, tag, tableId lens, lens⟩ }

/-- TABLE_LOAD: the record at TABLE enters the named slot, or the run fails (R163). -/
def State.tableLoad (s : State) (core strm : Nat) (r : Run) (ext : Bytes) : State :=
  let c := s.core core
  let tag := (c.strm strm).owner
  let slot := r.desc.tableSlot
  if r.loaded ∨ c.rst ≠ 0 ∨ !s.live tag ∨ r.status ≠ .ok ∨ c.expanding slot then s
  else if c.foreign slot tag then s.setRun core strm { r with status := .accessViolation }
  else match s.tableBytes core strm tag r ext with
    | (none, s) => s
    | (some (.data bs), s) =>
      if !validRecord bs then s.setRun core strm { r with status := .descInvalid }
      else (s.loadSlot core slot tag (recordLens bs)).setRun core strm { r with loaded := true }
    | (some (.failed st), s) => s.setRun core strm { r with status := st }
    | (some .wait, s) => s

/-- TABLE_LOAD: as its run says. -/
def execTableLoad (core : CoreId) (strm : StreamId) (s : State) (ext : Bytes := []) : Host.Outcome State Fault Refusal :=
  match ((s.core core).strm strm).run with
  | none => .next s
  | some r => .next (s.unlessFull (tagIndex ((s.core core).strm strm).owner) (s.tableLoad core strm r ext))

/-- Write bytes of block `index` at an address of the destination's kind; a write to another chip is acknowledged later. -/
def State.writeSide (s : State) (core j tag : Nat) (d : StreamDesc) (index a deadline : Nat) (bs : Bytes) (u : Units := .sectors) : Status × State :=
  if d.dstKind = 0 then
    match (s.core core).check tag d.dstHandle a bs.length true true with
    | some st => (st, s)
    | none => match s.spmWrite core ((s.core core).abs d.dstHandle a) bs with
      | (true, s) => (.ok, s)
      | (false, s) => (.uncorrectable, s)
  else if d.dstKind = 1 then s.writeVa (seOf core) tag a bs false u
  else if d.dstKind = 3 then (.ok, s.emit (.hostWrite a bs))
  else if s.isHere (a / 2 ^ 50) then
    if a % 2 ^ 50 < 2 ^ 48 then s.writeVa (seOf core) tag (a % 2 ^ 50) bs false u else (.accessViolation, s)
  else
    (pieces a bs.length (bs.length + 1)).foldl (fun (acc : Status × State) (p : Nat × Nat) =>
      if acc.1 != .ok then acc else
      match acc.2.request 2 tag p.1 p.2 core deadline d.service (slice bs (p.1 - a) p.2) (.streamWrite core j index) 0 false (u.at (p.1 - a)) with
      | (some st, s) => (st, s)
      | (none, s) =>
        let c := s.core core
        let x := c.strm j
        (.ok, s.setCore core (c.setStrm j { x with run := x.run.map (fun r => { r with acks := r.acks ++ [index] }) }))) (.ok, s)

/-- After the histogram pass the table is built, loaded into its slot, and its record written on the destination's side (R146, R158, R160, R163). -/
def State.tableBuild (s : State) (core strm : Nat) (r : Run) : State :=
  let c := s.core core
  let tag := (c.strm strm).owner
  let slot := r.desc.tableSlot
  if r.pass ≠ 0 ∨ r.written < s.passBlocks tag r ∨ c.rst ≠ 0 ∨ !s.live tag ∨ r.status ≠ .ok ∨ c.expanding slot then s
  else if c.foreign slot tag then s.setRun core strm { r with status := .accessViolation }
  else
    let next := { r with pass := 1, issued := 0, written := 0 }
    match buildTable r.hist with
    | none => s.setRun core strm next
    | some lens =>
      let s := s.setRun core strm { next with tableSlot := some slot }
      match s.writeSide core strm tag { r.desc with ctrl := setBits r.desc.ctrl 3 2 r.desc.tableKind } r.total r.desc.table 0 (tableRecord lens) with
      | (.ok, s) => s.loadSlot core slot tag lens
      | (st, s) => s.setRun core strm { r with status := st }

/-- TABLE_BUILD_DONE: as its run says. -/
def execTableBuildDone (core : CoreId) (strm : StreamId) (s : State) : Host.Outcome State Fault Refusal :=
  match ((s.core core).strm strm).run with
  | none => .next s
  | some r => .next (s.unlessFull (tagIndex ((s.core core).strm strm).owner) (s.tableBuild core strm r))

/-! ### EXPAND_BLOCK (R166 to R170) -/

/-- The stream engine's expander checks the next compressed block, struck by `hit` on its way; a damaged one is fetched again once. -/
def State.expandBlock (s : State) (core strm : Nat) (r : Run) (hit : Upset) : State :=
  let c := s.core core
  let x := c.strm strm
  let i := tagIndex x.owner
  let d := r.desc
  match r.flight.find? (fun b => b.index == r.expanded) with
  | none => s
  | some b =>
    if !d.srcCmp ∨ !b.asked ∨ b.waiting ≠ 0 ∨ b.status ≠ .ok ∨ b.tag.isEmpty ∨ 2 ≤ c.rst ∨ (r.status ≠ .ok ∧ !b.again) then s else
    let cls := if d.dstKind = 0 then some (c.polder d.dstHandle).classW else none
    let all := upsetBytes (b.tag ++ b.data) hit
    let put := fun (s : State) (r : Run) (b : StrmBlock) => (s.setRun core strm { r with expanded := r.expanded + 1 }).setBlock core strm b
    match c.expand x.owner (slice all 0 64) (all.drop 64) cls with
    | .refused st => put s r { b with status := st }
    | .bytes bs =>
      let s := s.tally i (fun t => { t with blocks := t.blocks + 1 })
      let s := if b.again then s.transient i 8 (sourceOf 0 core) else s
      put s { r with retries := r.retries + b2n b.again } { b with plain := slice bs 0 (d.blockLen b.index) }
    | .damaged k =>
      let s := s.damage core k true
      let r := { r with supply := r.supply || s.inSupply }
      if b.again then put ((s.damageLasting core).lastingBlock i) { r with breaches := r.breaches + 1 } { b with status := .damagedBlock }
      else (s.setRun core strm r).setBlock core strm (b.refetch d)

/-- EXPAND_BLOCK: as its run says. -/
def execExpandBlock (core : CoreId) (strm : StreamId) (hit : Upset) (s : State) : Host.Outcome State Fault Refusal :=
  match ((s.core core).strm strm).run with
  | none => .next s
  | some r => .next (s.expandBlock core strm r hit)

/-! ### STREAM_BLOCK_WRITE (R96, R161, R212 to R218) -/

/-- Header of an origin block for the ring the polder belongs to, and the tide binding after it (R265, R281); none past the last token. -/
def State.originHeader (s : State) (tag : Nat) (t : TideBind) : Option (Bytes × TideBind) :=
  let blk := if t.kv then t.origins * t.kvTokens else t.origins
  if t.kv && decide (65536 ≤ blk) then none
  else some (tideHeader tag (b2n t.kv) t.ring (s.bank (tagIndex tag)) t.index t.me 0 0 blk, { t with origins := t.origins + 1 })

/-- A block committed in a ring that is a tide's origin ring takes its place in the tide's order (R265, R267). -/
def State.originLanded (s : State) (core h slot : Nat) : Status × State :=
  let c := s.core core
  match c.tideRole h with
  | some (t, .origin) =>
    let p := c.polder h
    match s.originHeader p.owner t with
    | none => (.descInvalid, s)
    | some (hdr, t) =>
      let b : Landed := ⟨slot, p.landedCount, hdr, true, false, false, false, false, none⟩
      let c := c.setPolder h { p with landed := p.landed ++ [b], landedCount := p.landedCount + 1 }
      (.ok, s.setCore core (c.setTide t))
  | _ => (.ok, s)

/-- Commit a block at its destination: `stored` is its tag and payload when the destination is compressed. None while it must wait for credit. -/
def State.commitBlock (s : State) (core j tag : Nat) (d : StreamDesc) (b : StrmBlock) (plain : Bytes) (stored : Option (Bytes × Bytes)) : Option (Status × State) :=
  if d.isSluice then
    let x := (s.core core).cred d.creditEntry
    if x.state = 0 ∨ x.owner ≠ tag then some (.accessViolation, s)
    else if x.credit = 0 then none
    else
      let rest := match stored with
        | some (t, p) => t ++ p
        | none => slice plain 0 2048
      let check := if stored.isSome then 0 else crc32c rest
      let (_, s) := s.sendBlock core d.creditEntry (zeros 16) 0 b.deadline check d.service rest (some (j, b.index))
      let c := s.core core
      let y := c.strm j
      some (.ok, s.setCore core (c.setStrm j { y with run := y.run.map (fun r => { r with acks := r.acks ++ [b.index] }) }))
  else if d.isRing then
    match stored with
    | some (t, p) =>
      let s := s.putBlock core d.dstHandle b.slot (t ++ p) none
      some (s.originLanded core d.dstHandle b.slot)
    | none =>
      match s.spmWrite core (((s.core core).polder d.dstHandle).slotAbs b.slot) plain with
      | (false, s) => some (.uncorrectable, s)
      | (true, s) => some (s.originLanded core d.dstHandle b.slot)
  else
    match stored with
    | some (t, p) =>
      match s.writeSide core j tag d b.index ((d.dstTag + 64 * b.index) % 2 ^ 64) b.deadline t (.unit 0) with
      | (.ok, s) => some (if p.isEmpty then (.ok, s) else s.writeSide core j tag d b.index ((d.dst + 2048 * b.index) % 2 ^ 64) b.deadline p (.unit 0))
      | r => some r
    | none =>
      if d.dstDense then some (s.writeSide core j tag d b.index ((d.dst + 2048 * b.index) % 2 ^ 64) b.deadline plain)
      else
        some (((d.runs b.index).foldl (fun (acc : (Status × State) × Nat) (q : Int × Nat) =>
          if acc.1.1 != .ok then acc
          else (acc.1.2.writeSide core j tag d b.index (moved d.dst q.1) b.deadline (slice plain acc.2 q.2), acc.2 + q.2)) ((.ok, s), 0)).1)

/-- The check event of the blocks written since the last one (Table 4.1). -/
def State.streamEvent (s : State) (core : Nat) (r : Run) (tag count : Nat) (lasting : Option Status) : State :=
  let type := if r.desc.srcCmp then 8 else 7
  s.gauge (tagIndex tag) { Gauge.plain type (sourceOf 0 core) r.descIndex count with
    retries := r.retries + (if lasting.isSome then 1 else 0), lasting := lasting, supply := r.supply }

/-- The packer's table for a run: its slot and lengths, when it may code. -/
def CoreSt.packTable (c : CoreSt) (r : Run) : Option (Nat × List Nat) := r.tableSlot.map (fun n => (n, (c.tslots.get .clear n).lens))

/-- What host memory gives for a block: plain bytes, or the tag and the stored payload, if these have not come in. -/
def StrmBlock.take (b : StrmBlock) (d : StreamDesc) (ext : Bytes) : StrmBlock :=
  if d.srcKind ≠ 3 then b
  else if !d.srcCmp then { b with data := slice ext 0 (d.blockLen b.index) }
  else if b.tag.isEmpty then { b with tag := slice ext 0 64, data := slice ext 64 (storedLen (slice ext 0 64)) }
  else b

/-- What a block leaves in its ring slot: as it is stored, packed, or expanded when an expander passes it; nothing where its reads have not come in. -/
def CoreSt.ringBody (c : CoreSt) (tag : Nat) (r : Run) (b : StrmBlock) : Bytes :=
  let d := r.desc
  let p := c.polder d.dstHandle
  if b.status != .ok || !b.asked || b.waiting != 0 then []
  else if d.stored then b.tag ++ b.data
  else if d.srcCmp then
    if !b.plain.isEmpty then b.plain
    else match c.expand tag b.tag b.data (some p.classW) with
      | .bytes bs => slice bs 0 (d.blockLen b.index)
      | _ => []
  else if d.pack then
    if b.data.isEmpty then [] else (let k := packBlock (c.packTable r) p.classW b.data; k.tag ++ k.payload)
  else b.data

/-- A block that is discarded: a read that has come in for a ring completes into its slot, and the ring credit comes back (Table 8.10, steps 4 and 5).
A retry that ended lasting gives the run its status (R105). -/
def State.dropBlock (s : State) (core j : Nat) (r : Run) (b : StrmBlock) : State :=
  let r := { r with
    flight := r.flight.drop 1, expanded := max r.expanded (b.index + 1)
    status := if r.status == .ok && b.again && b.status == .damagedBlock then .damagedBlock else r.status }
  let s := s.setRun core j r
  if r.desc.isRing && r.pass == 1 then
    let p := (s.core core).polder r.desc.dstHandle
    let body := (s.core core).ringBody ((s.core core).strm j).owner r b
    let s := if body.isEmpty || !p.valid then s
      else if r.desc.dstCmp then s.putBlock core r.desc.dstHandle b.slot body none
      else (s.spmWrite core (p.slotAbs b.slot) body).2
    let c := s.core core
    let x := c.strm j
    s.setCore core (c.setStrm j { x with credit := x.credit + 1 })
  else s

/-- A checked block is written at its destination, feeding the CRC and the digest; `plain` are its uncompressed bytes. -/
def State.putChecked (s : State) (core strm : Nat) (r : Run) (b : StrmBlock) (plain : Bytes) : State :=
  let c := s.core core
  let d := r.desc
  let tag := (c.strm strm).owner
  let i := tagIndex tag
  let classW := if d.dstKind = 0 then (c.polder d.dstHandle).classW else false
  let packed := packBlock (c.packTable r) classW plain
  let stored := if d.stored then some (b.tag, b.data) else if d.pack then some (packed.tag, packed.payload) else none
  match s.commitBlock core strm tag d b plain stored with
  | none => s.blockDue core d.creditEntry
  | some (st, s) =>
    match ((s.core core).strm strm).run with
    | none => s
    | some r =>
      if st ≠ .ok then s.setRun core strm { r with status := st } else
      let s := if d.srcCmp then s else s.tally i (fun t => { t with blocks := t.blocks + 1 })
      let retried := b.again && !d.srcCmp
      let s := if retried then s.transient i 7 (sourceOf 0 core) else s
      let s := if d.pack then s.countPacked core packed.tag else s
      let r := { r with
        written := r.written + 1, flight := r.flight.drop 1, retries := r.retries + b2n retried
        crc := if bit d.ctrl 9 then crcRun r.crc plain else r.crc
        digest := if d.digest then r.digest ++ plain else r.digest }
      let (r, s) := if r.written % 4096 = 0 ∧ r.written < r.total then ({ r with events := r.events + 1, retries := 0, supply := false }, s.streamEvent core r tag 4096 none) else (r, s)
      (s.setRun core strm r).progress i

/-- The next block of a run, in order, is checked by the CRC of R96 where no tag carries it, and written, or counted by the histogram pass. A block that
fails is fetched again once. A block whose run has been stopped is discarded, a retry under way first coming to its end (R105). -/
def State.writeBlock (s : State) (core strm : Nat) (r : Run) (b : StrmBlock) (ext : Bytes) (hit : Upset) : State :=
  let c := s.core core
  let x := c.strm strm
  let d := r.desc
  let tag := x.owner
  let i := tagIndex tag
  let live := s.live tag && r.status == .ok
  let unchecked := if d.srcCmp then decide (r.expanded ≤ b.index) else r.pass == 1
  if b.waiting ≠ 0 ∨ 2 ≤ c.rst then s
  else if !live && !(b.again && unchecked && b.status == .ok) then s.dropBlock core strm r (if b.asked then b.take d ext else b)
  else if !b.asked then s
  else if b.status ≠ .ok then s.setRun core strm { r with status := b.status }
  else
    let b := b.take d ext
    let s := s.setBlock core strm b
    if d.srcCmp then
      if unchecked then s else s.putChecked core strm r b b.plain
    else if r.pass = 0 then s.setRun core strm { r with hist := blockHistogram r.hist b.data, written := r.written + 1, flight := r.flight.drop 1 }
    else
      let arrived := upsetBytes b.data hit
      if crc32c arrived ≠ crc32c b.data then
        -- Table 16.5 counts a stream block's CRC failure beside the expander's; it has no cause of Table 6.6
        let s := s.bump F.seCmpDamageCount core
        let r := { r with supply := r.supply || s.inSupply }
        if b.again then ((s.damageLasting core).lastingBlock i).setRun core strm { r with status := .damagedBlock, breaches := r.breaches + 1 }
        else (s.setRun core strm r).setBlock core strm (b.refetch d)
      else if !live then (s.transient i 7 (sourceOf 0 core)).dropBlock core strm { r with retries := r.retries + 1 } b
      else s.putChecked core strm r b arrived

/-- STREAM_BLOCK_WRITE: as its run says. `ext` is what host memory gave, `hit` what strikes the block on its way. -/
def execStreamBlockWrite (core : CoreId) (strm : StreamId) (ext : Bytes) (hit : Upset) (s : State) : Host.Outcome State Fault Refusal :=
  match ((s.core core).strm strm).run with
  | none => .next s
  | some r =>
    match r.flight with
    | [] => .next s
    | b :: _ => .next (s.unlessFull (tagIndex ((s.core core).strm strm).owner) (s.writeBlock core strm r b ext hit))

/-! ### STREAM_RUN_END (R216 to R218, R220) -/

/-- Blocks that a run has checked since its last event. -/
def Run.unsaid (r : Run) : Nat := if r.pass = 0 then 0 else r.written - 4096 * r.events

/-- A run that ends early still makes the event of the blocks it has checked (Table 4.1). -/
def State.earlyEvent (s : State) (core : Nat) (r : Run) (tag : Nat) : State := if r.unsaid = 0 then s else s.streamEvent core r tag r.unsaid none

/-- Free the hash engine of a stream. -/
def State.freeHash (s : State) (core j : Nat) : State := { s with hashBusy := s.hashBusy.filter (fun h => !(h.1 == core && h.2.1 == j)) }

/-- A tensor that a run fed to a hash engine is digested over the bytes written, all of them when the run completed (R112, R217). -/
def State.runDigest (s : State) (tag : Nat) (r : Run) : State :=
  let i := tagIndex tag
  let c := s.ctx i
  if !r.desc.digest || r.pass == 0 then s else
  match c.inv with
  | some v => if v.desc.ctxTag != tag then s else s.setCtx i { c with inv := some { v with digests := v.digests.put r.desc.digestIndex (shake256 (natLe 8 r.digest.length ++ r.digest)) } }
  | none => s

/-- The tensors that runs of a tag on a core feed to hash engines are digested as far as they are written, where the runs end with their INVOKE or the core
(R112). -/
def State.coreDigests (s : State) (core tag : Nat) : State :=
  (s.core core).strms.foldl (fun (s : State) p => match p.2.run with
    | some r => if p.2.owner = tag then s.runDigest tag r else s
    | none => s) s

/-- End a stream's run with a status, and forget its held re-arm. No block that it has sent answers to a later run. -/
def State.stopRun (s : State) (core j : Nat) (st : Status) : State :=
  let x := (s.core core).strm j
  let s := match x.run with
    | some r => s.runDigest x.owner r
    | none => s
  let s := s.freeHash core j
  let c := s.core core
  let c := { c with creds := c.creds.map (fun (p : Nat × Credit) => (p.1, { p.2 with
    held := p.2.held.map (fun (h : Held) => if h.strm.any (fun (q : Nat × Nat) => q.1 == j) then { h with strm := none } else h) })) }
  s.setCore core (c.setStrm j { c.strm j with run := none, held := none, status := st.code })

/-- The CRC of a run's bytes goes to CRC_DST, if it was asked for (R218). -/
def State.writeCrc (s : State) (core tag : Nat) (r : Run) : Status × State :=
  let d := r.desc
  if !bit d.ctrl 9 then (.ok, s) else
  match (s.core core).check tag (d.crcDst % 256) (d.crcDst / 256) 4 true true with
  | some st => (st, s)
  | none => match s.spmWrite core ((s.core core).abs (d.crcDst % 256) (d.crcDst / 256)) (natLe 4 (r.crc ^^^ 0xFFFFFFFF).toNat) with
    | (true, s) => (.ok, s)
    | (false, s) => (.uncorrectable, s)

/-- Requests of a stream to other chips that have not been answered. -/
def State.strmAsks (s : State) (core j : Nat) : Bool :=
  s.requests.any (fun r => match r.who with
    | .stream c k _ => c == core && k == j
    | .streamWrite c k _ => c == core && k == j
    | .table c k => c == core && k == j
    | _ => false)

/-- A run that has written all and been acknowledged completes; a failed or stopped one ends once its reads are in, its blocks discarded and its requests
to other chips answered. -/
def State.runEnd (s : State) (core strm : Nat) (r : Run) : State :=
  let x := (s.core core).strm strm
  let tag := x.owner
  if r.status ≠ .ok then
    if !r.flight.isEmpty || s.strmAsks core strm then s
    else
      let s := if r.status == .damagedBlock && decide (0 < r.breaches) then s.streamEvent core r tag (r.unsaid + 1) (some .damagedBlock) else s.earlyEvent core r tag
      ((s.stopRun core strm r.status).faultTag tag r.status).resumeFrees core
  else if !s.live tag then
    if !r.flight.isEmpty || !r.acks.isEmpty || s.strmAsks core strm then s
    else ((s.earlyEvent core r tag).stopRun core strm .cancelled).resumeFrees core
  else if r.pass = 0 ∨ r.written < r.total ∨ !r.flight.isEmpty ∨ !r.acks.isEmpty then s
  else
    match s.writeCrc core tag r with
    | (.ok, s) =>
      let s := ((s.streamEvent core r tag r.unsaid none).stopRun core strm .ok).streamArrive core tag r.desc
      let s := match x.held with
        | some (n, index) => if s.live tag then s.startRun core strm tag n index else s
        | none => s
      s.resumeFrees core
    | (st, s) => (((s.earlyEvent core r tag).stopRun core strm st).faultTag tag st).resumeFrees core

/-- STREAM_RUN_END: as its run says (R216 to R220). -/
def execStreamRunEnd (core : CoreId) (strm : StreamId) (s : State) : Host.Outcome State Fault Refusal :=
  match ((s.core core).strm strm).run with
  | none => .next s
  | some r => .next (s.unlessFull (tagIndex ((s.core core).strm strm).owner) (s.runEnd core strm r))

end Sys2Proof.Machine
end

