-- ==== Sys2Proof/Machine/Memory.lean ====
section
/-! DEFINITION. Device memory commands: invalidation, walks, controller requests, patrol scrub, temperature (R294 to R302, R308, R309). -/

namespace Sys2Proof.Machine

/-! ### Invalidation (R309) -/

/-- Drop cached translations and nodes: of one context index, or of every one. -/
def State.dropCached (s : State) (which : Option Nat) : State :=
  match which with
  | none => { s with tlb := [], slices := [], nodes := [] }
  | some i =>
    let leaves := fun (t : Table (List Tlb)) => t.map (fun p => (p.1, p.2.filter (fun x => tagIndex x.tag != i)))
    { s with tlb := leaves s.tlb, slices := leaves s.slices, nodes := s.nodes.map (fun p => (p.1, p.2.filter (fun n => n.ctx != i))) }

/-- Start an invalidation: BUSY reads 1 until it is done; one already running covers both. -/
def State.invalidate (s : State) (which : Option Nat) : State :=
  let s := s.dropCached which
  let all := match s.inval with
    | none => which
    | some w => if w = which then which else none
  ({ s with inval := some all }).setF F.hscPtInvalBusy 1

/-- PT_INVAL: the cached translations and nodes of one context index are dropped. -/
def takePtInval (ctx : CtxId) (s : State) : Host.Outcome State Fault Refusal := .next (if s.stopped then s else s.invalidate (some ctx))

/-- PT_INVAL_ALL: those of every context. -/
def takePtInvalAll (s : State) : Host.Outcome State Fault Refusal := .next (if s.stopped then s else s.invalidate none)

/-- PT_INVAL_DONE: no walk of before fills a cache; BUSY clears. -/
def execPtInvalDone (s : State) : Host.Outcome State Fault Refusal :=
  match s.inval with
  | none => .next s
  | some w => .next (({ s.dropCached w with inval := none }).setF F.hscPtInvalBusy 0)

/-! ### Walks (R306 to R312) -/

/-- PAGE_WALK: an access of a context is translated, filling the caches; a local one that fails faults its context, a remote one does not (R308). -/
def execPageWalk (unit : Translator) (ctx : CtxId) (va : Nat) (write : Bool) (noise : Noise) (s : State) : Host.Outcome State Fault Refusal :=
  if s.stopped then .next s else
  match s.translate unit (s.tag ctx) va write noise with
  | (.ok _, s) => .next s
  | (.error st, s) => .next (if fromFabric unit then s else s.fault ctx st)

/-! ### Controller requests (R296 to R301) -/

/-- Errors strike a stored sector. -/
def State.strikeSector (s : State) (sector : Nat) (u : Upset) : State :=
  if u.isEmpty then s else
  let e := mergeUpset (s.sectorErrs sector ++ u)
  { s with hbmErr := if e.isEmpty then s.hbmErr.del sector else s.hbmErr.put sector e }

/-- Errors that the next read of a sector meets are on their way. -/
def State.passSector (s : State) (sector : Nat) (u : Upset) : State :=
  if u.isEmpty then s else { s with hbmPassing := s.hbmPassing.put sector (s.passing sector ++ u) }

/-- A request of a context on a sector: a failure faults the context. A write covers `data` from byte `off` of the sector; a context with a key has it
encrypted (R455). -/
def State.serveContext (s : State) (r : HscReq) : State :=
  let i := tagIndex r.ctxTag
  let sector := r.dpa / 32
  if s.tag i ≠ r.ctxTag then s
  else if r.write then
    match s.writePiece ⟨32 * sector + r.off % 32, r.mirror, r.va⟩ (r.data.take (32 - r.off % 32)) .sectors i false r.noise with
    | (.ok, s) => s
    | (st, s) => s.fault i st
  else if s.stackDown (32 * sector) then
    match s.readDpa i (32 * sector) 32 r.mirror false r.va with
    | (.failed st, s) => s.fault i st
    | (_, s) => s
  else
    match s.readSector i sector r.mirror false r.va r.noise r.mirrorNoise with
    | (.failed st, s) => s.fault i st
    | (_, s) => s

/-- A request outside the context area, by the MP or a walker: answers whether a read found an uncorrectable sector, read twice. Tables 11.15 and 11.16
count and record those of contexts and of the scrubber alone. -/
def State.servePlain (s : State) (stack : Nat) (r : HscReq) : Bool × State :=
  let sector := r.dpa / 32
  if s.stackDown (32 * sector) then (false, s)
  else if r.write then (false, (s.writeOne (32 * sector + r.off % 32) (r.data.take (32 - r.off % 32)) false none r.noise).2)
  else match s.readOnce stack sector r.noise.first with
    | (some _, s) => (false, s)
    | (none, s) => match s.readOnce stack sector r.noise.second with
      | (some _, s) => (false, s)
      | (none, s) => (true, s)

/-! ### Patrol scrub (R302) -/

/-- DPA of the `n`-th sector of a stack in stack-local order (R290 read backwards): local address, pseudo-channel, sector. -/
def scrubDpa (key stack n : Nat) : Nat :=
  let sect := n % 8
  let piece := n / 8 % 8
  let loc := n / 512 % 2 ^ 22
  let group := n / 64 % 8 ^^^ (Config.interleaveQ key loc).toNat
  let lo := loc * 8 + group
  let g := ((Config.interleaveH key (lo - (if bit lo 10 then 1024 else 0))).toNat * 10) / 65536
  let hi := (stack + 40 - g - 10 * b2n (bit lo 10)) % 20
  (hi * 2 ^ 25 + lo) * 2048 + piece * 256 + sect * 32

/-- Sectors of a stack. -/
def stackSectors : Nat := 2 ^ 31

/-- The patrol scrubber moves on; a sweep of all stacks counts when the last stack completes it (Table 11.13). -/
def State.scrubNext (s : State) (k : Nat) : State :=
  let h := s.hsc k
  if h.scrubAt + 1 < stackSectors then s.setHsc k { h with scrubAt := h.scrubAt + 1 } else
  let least := fun (s : State) => (List.range 20).foldl (fun m j => min m (s.hsc j).sweeps) (s.hsc 0).sweeps
  let t := s.setHsc k { h with scrubAt := 0, sweeps := h.sweeps + 1 }
  if least s < least t then t.bump F.hscScrubSweeps else t

/-- SCRUB_READ: a stack's next sector is read; corrected data is written back, an uncorrectable one recorded; no context faults. -/
def execScrubRead (stack : StackId) (noise : Noise) (s : State) : Host.Outcome State Fault Refusal :=
  let h := s.hsc stack
  if s.stopped || h.state != 0 then .next s else
  let dpa := scrubDpa s.key stack h.scrubAt
  let sector := dpa / 32
  match s.readOnce stack sector noise.first with
  | (some _, s) => .next (s.scrubNext stack)
  | (none, s) =>
    match s.readOnce stack sector noise.second with
    | (some _, s) => .next (s.scrubNext stack)
    | (none, s) => .next (((s.bump F.hscStackCorrUncorr stack).badSector stack dpa true).scrubNext stack)

end Sys2Proof.Machine
end

