-- ==== Sys2Proof/Machine/Copy.lean ====
section
/-! DEFINITION. The HIU's copy engine: the blocks of COPY_IN and COPY_OUT, their checks, their end (R96, R112, R207 to R213, R394). Log entry 19. -/

namespace Sys2Proof.Machine

/-! ### The descriptor of a copy -/

/-- A basic copy as a stream descriptor of one run: its device side dense (R209, R394). -/
def basicCopy (d : Desc) : StreamDesc :=
  let f := field d.bytes
  let out := d.opcode == 3
  { src := if out then f 16 8 else f 8 8, dst := if out then f 8 8 else f 16 8, srcTag := 0, dstTag := 0, table := 0
    ctrl := (if out then 1 + 4 * 3 + 16 else 3 + 4 * 1) + 2 ^ 11 + 2 ^ 25, srcHandle := 0, dstHandle := 0, digestIndex := 0, zero47 := 0
    elem := 1, rate := 0, counts := [f 24 8], strides := [1], arrive := 0, crcDst := 0, zeroTail := true }

/-- Descriptor of a copy in progress, in the service class. -/
def Job.copyDesc (j : Job) : StreamDesc :=
  match j.stream with
  | some d => { d with ctrl := setBits d.ctrl 11 11 1 }
  | none => basicCopy j.desc

/-- What R394 and Table 8.4 refuse in the stream descriptor of a copy. -/
def StreamDesc.copyFault (d : StreamDesc) (out : Bool) : Option Status :=
  let host := if out then d.dstKind else d.srcKind
  let dev := if out then d.srcKind else d.dstKind
  if host ≠ 3 ∨ !(dev == 1 || dev == 2) ∨ bit d.arrive 28 ∨ bit d.ctrl 24 ∨ d.creditEntry ≠ 0 ∨ bit d.ctrl 9 ∨ d.digestIndex ≠ 0 then some .descInvalid
  else if d.malformed then some .descInvalid
  else if (if d.stored then bit d.ctrl 4 || !d.contiguous else if bit d.ctrl 4 then d.dstCmp else d.srcCmp) then some .descInvalid
  else if bit d.ctrl 7 && (!(d.elem == 1 || d.elem == 2 || d.elem == 4) || decide (65536 < d.count 0 * d.count 1 * d.elem)) then some .descInvalid
  else if 2 ^ 40 < d.total then some .descInvalid
  else if !d.dstDense && d.dstKind == 2 && inWindow d.dst then some .descInvalid
  else if d.isSluice && d.total != 0 then some .accessViolation
  else none

/-! ### The end of a copy -/

/-- Put a copy back. -/
def State.setCopy (s : State) (i : Nat) (j : Option Job) : State := s.setCtx i { s.ctx i with copy := j }

/-- A job ends with a status, and its context faults (R422). One that a CANCEL or a dike has ended keeps that status unless its retry ended lasting; it faults
its context only then, and a CANCEL that waited for it goes on (R105). -/
def State.jobFails (s : State) (i : Nat) (j : Job) (st : Status) (info : Nat) : State :=
  match j.ending with
  | none => (s.complete i j.desc st false info).faultOther i st j.desc.index
  | some e =>
    let st := standing (some e) st
    let s := (s.complete i j.desc st false info).tryCancel i
    if st.isLasting then s.faultOther i st j.desc.index else s

/-- A copy fails: it completes with its status, then its context faults (R394, R397, R422). -/
def State.failCopy (s : State) (i : Nat) (j : Job) (st : Status) : State :=
  let s := if st == .damagedBlock then s.copyEvent i j (j.done % 4096 + 1) (some st) else s.copyEarly i j
  let info := s.jobInfo i j
  let s := { s with requests := s.requests.filter (fun r => match r.who with | .copy k q => !(k == i && q == j.desc.seq) | _ => true) }
  (s.setCopy i none).jobFails i j st info

/-- A copy that a CANCEL or a dike has ended completes once its retry is over (R105). -/
def State.copyOver (s : State) (i : Nat) : State :=
  match (s.ctx i).copy with
  | none => s
  | some j => match j.ending with
    | some e => if s.copyRetrying i j then s else s.failCopy i j e
    | none => s

/-- Note a tensor digest of a copy in the window of the next LEDGER_CLOSE, in completion order (R394, R397). -/
def State.copyDigest (s : State) (i : Nat) (j : Job) : State :=
  if !j.digest then s else
  let c := s.ctx i
  let dg := shake256 (natLe 8 j.total ++ j.whole)
  let w := c.window
  s.setCtx i { c with window := if j.desc.opcode = 2 then { w with inDigests := w.inDigests ++ [dg] } else { w with outDigests := w.outDigests ++ [dg] } }

/-- A copy whose last byte is written completes. -/
def State.endCopy (s : State) (i : Nat) (j : Job) : State :=
  let s := if j.done % 4096 = 0 then s else s.copyEvent i j (j.done % 4096) none
  ((s.setCopy i none).copyDigest i j).complete i j.desc .ok false j.moved

/-! ### Pieces of a copy on other chips -/

/-- A piece that a copy read from another chip has arrived, or has ended with a status. -/
def State.copyPiece (s : State) (i seq piece : Nat) (st : Status) (bs : Bytes) : State :=
  match (s.ctx i).copy with
  | none => s
  | some j =>
    if j.desc.seq ≠ seq then s
    else if st ≠ .ok then s.failCopy i j st
    else State.copyOver (i := i) <| s.setCopy i (some { j with waiting := j.waiting - 1, buffer := overlay (slice j.buffer 0 (max j.buffer.length (piece + bs.length))) piece bs })

/-- A write of a copy to another chip has been acknowledged, or has ended with a status; `piece` is its place in dense order. -/
def State.copyWritten (s : State) (i seq piece : Nat) (st : Status) : State :=
  match (s.ctx i).copy with
  | none => s
  | some j =>
    if j.desc.seq ≠ seq then s
    else if st ≠ .ok then s.failCopy i { j with moved := min j.moved piece } st
    else (s.setCopy i (some { j with acks := j.acks - 1 })).copyOver i

/-- A breach or a retry of a piece of a copy is counted in it. -/
def State.copyRetried (s : State) (i seq : Nat) : State :=
  match (s.ctx i).copy with
  | none => s
  | some j => if j.desc.seq ≠ seq then s else s.setCopy i (some { j with retries := j.retries + 1 })

/-- Ask other chips for runs of the present block, or of the table: the status that stops them, how many pieces, and the state. -/
def State.askCopy (s : State) (i : Nat) (j : Job) (u : Units) (runs : List (Nat × Nat × Nat)) : Nat × Option Status × State :=
  s.askRuns 0xFF j.desc.ctxTag 0 true (.copy i j.desc.seq) u runs

/-! ### Writing a block -/

/-- What writing part of a block comes to: the status, how many acknowledgements are due, and how many bytes were written in order before it (R398). -/
structure Wrote where
  status : Status
  acks : Nat
  bytes : Nat
  deriving DecidableEq, Repr

/-- Cut [a, a + n) at 32-byte boundaries, with fuel. -/
def sectorsOf (a n : Nat) : Nat → List (Nat × Nat)
  | 0 => []
  | k + 1 => if n = 0 then [] else
    let m := min n (32 - a % 32)
    (a, m) :: sectorsOf (a + m) (n - m) k

/-- Write bytes of a copy on this chip, sector by sector. -/
def State.copyLocal (s : State) (tag va : Nat) (bs : Bytes) (u : Units) : Wrote × State :=
  (sectorsOf va bs.length (bs.length + 1)).foldl (fun (acc : Wrote × State) (p : Nat × Nat) =>
    if acc.1.status != .ok then acc else
    match acc.2.writeVa .hiu tag p.1 (slice bs (p.1 - va) p.2) true (u.at (p.1 - va)) with
    | (.ok, s) => (⟨.ok, 0, acc.1.bytes + p.2⟩, s)
    | (st, s) => (⟨st, 0, acc.1.bytes⟩, s)) (⟨.ok, 0, 0⟩, s)

/-- Write bytes of a copy at an address of a kind; `piece` is their place in dense order. -/
def State.copyWrite (s : State) (i : Nat) (j : Job) (kind a : Nat) (bs : Bytes) (piece : Nat) (u : Units) : Wrote × State :=
  let tag := j.desc.ctxTag
  if kind = 3 then (⟨.ok, 0, bs.length⟩, s.emit (.hostWrite a bs))
  else if kind = 1 then s.copyLocal tag a bs u
  else if s.isHere (a / 2 ^ 50) then
    if a % 2 ^ 50 < 2 ^ 48 then s.copyLocal tag (a % 2 ^ 50) bs u else (⟨.accessViolation, 0, 0⟩, s)
  else
    (pieces a bs.length (bs.length + 1)).foldl (fun (acc : Wrote × State) (p : Nat × Nat) =>
      if acc.1.status != .ok then acc else
      match acc.2.request 2 tag p.1 p.2 0xFF 0 true (slice bs (p.1 - a) p.2) (.copy i j.desc.seq) (piece + (p.1 - a)) false (u.at (p.1 - a)) with
      | (some st, s) => (⟨st, acc.1.acks, acc.1.bytes⟩, s)
      | (none, s) => (⟨.ok, acc.1.acks + 1, acc.1.bytes + p.2⟩, s)) (⟨.ok, 0, 0⟩, s)

/-- Write one block of a copy: plain bytes to their places, or tag and payload, which count as written only together. -/
def State.copyCommit (s : State) (i : Nat) (j : Job) (plain : Bytes) (stored : Option (Bytes × Bytes)) : Wrote × State :=
  let d := j.copyDesc
  let b := j.done
  match stored with
  | some (t, p) =>
    match s.copyWrite i j d.dstKind ((d.dstTag + 64 * b) % 2 ^ 64) t (2048 * b) (.unit 0) with
    | (w, s) =>
      if w.status != .ok then (⟨w.status, w.acks, 0⟩, s)
      else if p.isEmpty then (⟨.ok, w.acks, plain.length⟩, s)
      else
        let (x, s) := s.copyWrite i j d.dstKind ((d.dst + 2048 * b) % 2 ^ 64) p (2048 * b) (.unit 0)
        (⟨x.status, w.acks + x.acks, if x.status == .ok then plain.length else 0⟩, s)
  | none =>
    let runs := if d.dstDense then [((2048 * b : Nat) : Int)].map (fun o => (o, plain.length)) else d.runs b
    (runs.foldl (fun (acc : (Wrote × State) × Nat) (q : Int × Nat) =>
      if acc.1.1.status != .ok then acc else
      let (x, s) := acc.1.2.copyWrite i j d.dstKind (moved d.dst q.1) (slice plain acc.2 q.2) (2048 * b + acc.2) .sectors
      ((⟨x.status, acc.1.1.acks + x.acks, acc.1.1.bytes + x.bytes⟩, s), acc.2 + q.2)) ((⟨.ok, 0, 0⟩, s), 0)).1

/-! ### COPY_BLOCK -/

/-- The expander of the copy engine, with the table a copy loaded. -/
def Job.expand (j : Job) (t payload : Bytes) : Expanded :=
  let c := match j.lens with
    | some l => { CoreSt.idle with tslots := [(j.copyDesc.tableSlot, ⟨true, j.desc.ctxTag, tableId l, l⟩)] }
    | none => CoreSt.idle
  c.expand j.desc.ctxTag t payload none

/-- Blocks of the histogram pass of a packing copy (R158). -/
def State.copyPass (s : State) (i : Nat) (j : Job) : Nat :=
  let n := bits (s.reg .seCmpCtxCfg i) 29 16
  let b := j.copyDesc.blocks
  if j.pass = 0 ∧ n ≠ 0 then min n b else b

/-- The job goes on to its next block, or reads the present one again. -/
def Job.fresh (j : Job) (again : Bool) : Job := { j with asked := false, buffer := [], waiting := 0, again := again }

/-- A block of the histogram pass is counted; after the last one the table is built and its record written on the destination's side (R146, R158). -/
def State.copyCount (s : State) (i : Nat) (j : Job) (data : Bytes) : State :=
  let d := j.copyDesc
  let j := { j.fresh false with hist := blockHistogram j.hist data, done := j.done + 1 }
  if j.done < s.copyPass i j then s.setCopy i (some j)
  else
    let j := { j with pass := 1, done := 0 }
    match buildTable j.hist with
    | none => s.setCopy i (some j)
    | some lens =>
      match s.copyWrite i j d.tableKind d.table (tableRecord lens) j.total .sectors with
      | (w, s) => if w.status == .ok then s.setCopy i (some { j with lens := some lens, acks := j.acks + w.acks }) else s.failCopy i j w.status

/-- The bytes of a block are in, struck by `hit` on their way: they are checked, fetched again once after a breach, and written. Of a copy that has been
ended the retry is counted and nothing is written (R105). -/
def State.copyArrived (s : State) (i : Nat) (j : Job) (data tag : Bytes) (hit : Upset) : State :=
  let d := j.copyDesc
  let len := d.blockLen j.done
  if j.pass = 0 then s.copyCount i j data else
  let got :=
    if d.srcCmp then (let all := upsetBytes (tag ++ data) hit; j.expand (slice all 0 64) (all.drop 64))
    else if crc32c (upsetBytes data hit) == crc32c data then .bytes (upsetBytes data hit) else Expanded.damaged 0
  match got with
  | .refused st => s.failCopy i j st
  | .damaged _ =>
    let j := if s.inSupply then { j with supplies := [0] } else j
    if j.again then (s.lastingBlock i true).failCopy i j .damagedBlock else s.setCopy i (some (j.fresh true))
  | .bytes bs =>
    let s := if j.again then s.transient i (if d.srcCmp then 8 else 7) (sourceOf 5 0) true else s
    let plain := slice bs 0 len
    let stored := if d.stored then some (tag, data)
      else if d.pack then
        (let p := packBlock (if s.flag F.seCmpCtxCfgEnable i then j.lens.map (fun l => (d.tableSlot, l)) else none) false plain; some (p.tag, p.payload))
      else none
    let j := { j with retries := j.retries + b2n j.again }
    match j.ending with
    | some e => s.failCopy i { j with again := false } e
    | none =>
    match s.copyCommit i j plain stored with
    | (w, s) =>
      if w.status != .ok then s.failCopy i { j with moved := j.moved + w.bytes } w.status else
      let s := s.tally i (fun t => { t with blocks := t.blocks + 1 }) true
      let j := { j.fresh false with done := j.done + 1, moved := j.moved + len, acks := j.acks + w.acks, whole := if j.digest then j.whole ++ plain else j.whole }
      let (j, s) := if j.done % 4096 = 0 then ({ j with retries := 0, supplies := [] }, s.copyEvent i j 4096 none) else (j, s)
      if j.done = d.blocks && j.acks == 0 then s.endCopy i j else s.setCopy i (some j)

/-- The table of a copy that asks for it, read where its side lies (R146, R163). -/
def State.copyTable (s : State) (i : Nat) (j : Job) (host : Bytes) : State :=
  let d := j.copyDesc
  let take := fun (s : State) (bs : Bytes) =>
    if validRecord bs then s.setCopy i (some { j.fresh false with lens := some (recordLens bs) }) else s.failCopy i j .descInvalid
  if d.tableKind = 3 then take s (slice host 0 256)
  else if j.asked then take s (slice j.buffer 0 256)
  else match s.readSide .hiu 0 j.desc.ctxTag d.tableKind 0 d.table 256 .sectors true with
  | some (.wait, t) => s.keepRefetch t
  | some (.failed st, s) => s.failCopy i j st
  | some (.data bs, s) => take s bs
  | none =>
    match s.askCopy i j .sectors [(d.table, 256, 0)] with
    | (_, some st, s) => s.failCopy i j st
    | (k, none, s) => s.setCopy i (some { j with asked := true, waiting := k })

/-- A block read on this chip or from others, piece by piece: the tag of a compressed one first, then its payload (R207). -/
def State.copyRead (s : State) (i : Nat) (j : Job) (known : Bytes) (hit : Upset) : State :=
  let d := j.copyDesc
  -- the retry of a copy that a teardown has ended still reads under the context's new generation
  match s.readBlock .hiu 0 (if j.ending.isSome then s.tag i else j.desc.ctxTag) d j.done known true with
  | (src, t) =>
    if src.later then s.keepRefetch t
    else if src.status ≠ Status.ok then t.failCopy i j src.status
    else if src.remote.isEmpty then t.copyArrived i j src.data src.tag hit
    else
      let place := fun (q : Nat × Nat × Nat) => (q.1, q.2.1, q.2.2 + src.tag.length)
      match t.askCopy i j (if d.srcCmp then .unit 0 else .sectors) (src.remote.map place) with
      | (_, some st, s) => s.failCopy i j st
      | (k, none, s) => s.setCopy i (some { j with asked := true, waiting := k, buffer := src.tag ++ src.data })

/-- The copy engine moves the next block, or asks other chips for it; once everything is written and acknowledged the copy completes. -/
def State.copyBlock (s : State) (i : Nat) (j : Job) (host : Bytes) (hit : Upset) : State :=
  let d := j.copyDesc
  if j.ending.isSome && !j.again then s.copyOver i
  else if d.blocks ≤ j.done then (if j.acks = 0 then s.endCopy i j else s)
  else if j.waiting ≠ 0 then s
  else if bit d.ctrl 10 && j.lens.isNone then s.copyTable i j host
  else if d.srcKind = 3 then
    if d.srcCmp then s.copyArrived i j (slice host 64 (storedLen (slice host 0 64))) (slice host 0 64) hit
    else s.copyArrived i j (slice host 0 (d.blockLen j.done)) [] hit
  else if !j.asked then s.copyRead i j [] hit
  else if !d.srcCmp then s.copyArrived i j j.buffer [] hit
  else
    let t := slice j.buffer 0 64
    if storedLen t = 0 ∨ 64 < j.buffer.length then s.copyArrived i j (slice j.buffer 64 (storedLen t)) t hit
    else s.copyRead i j t hit

/-- COPY_BLOCK: as its job says. `host` is what host memory gives for the block: its bytes, its tag and stored payload, or the table record a copy loads
first; `hit` strikes the block on its way. -/
def execCopyBlock (ctx : CtxId) (host : Bytes) (hit : Upset) (s : State) : Host.Outcome State Fault Refusal :=
  match (s.ctx ctx).copy with
  | none => .next s
  | some j => .next (if s.stopped then s else s.unlessFull ctx (s.copyBlock ctx j host hit) true)

end Sys2Proof.Machine
end

