-- ==== Sys2Proof/Machine/Fabric.lean ====
section
/-! DEFINITION. Fabric requests and responses of streams and hosts: READ, WRITE, READ_DATA, WRITE_ACK, MGMT, the link response timeout
(R123, R300, R303 to R310, R351 to R353, R427). -/

namespace Sys2Proof.Machine

/-! ### Requests this chip serves -/

/-- The core whose scratchpad window an offset lies in (Table 11.4). -/
def windowCore (off : Nat) : Option Nat :=
  if 0x2000000000000 ≤ off ∧ off < 0x20000C0000000 then some ((off - 0x2000000000000) / 0x1000000) else none

/-- An offset lies in the window of a core that is diked (R418). -/
def State.windowDiked (s : State) (off : Nat) : Bool :=
  match windowCore off with
  | some c => (s.core c).rst != 0
  | none => false

/-- XTS data units of a request's data at this chip (log entry 38). -/
def packetUnits (p : Packet) : Units := match p.unit with
  | some b => .unit b
  | none => .sectors

/-- A request that this chip cannot serve yet waits, with the port it came in by: for memory under repair, or for room in the collector's buffer. -/
def State.park (s : State) (n : PortId) (p : Packet) : State := { s with parked := s.parked ++ [(n, p)] }

/-- A request served with no event that a full collector's buffer could not take; else it waits (R110). -/
def State.serveOr (s : State) (n : PortId) (p : Packet) (t : State) : State :=
  if s.overfills (tagIndex p.ctxTag) t then s.frozen.park n p else t

/-- Serve a READ: answer it, or park it while a storage refetch repairs its sector (R299 step 3). -/
def State.serveRead (s : State) (n : PortId) (p : Packet) : State :=
  let off := p.offset % 2 ^ 50
  if s.windowDiked off then s.answer p .fenced else
  s.serveOr n p (match s.readOffset (.link n) p.ctxTag off p.size (packetUnits p) with
  | (.data bs, s) => s.answer p .ok bs
  | (.failed st, s) => s.answer p st
  | (.wait, s) => s.park n p)

/-- READ: translated at the target and served from HBM or a scratchpad window (R305, R310, Table 5.6). -/
def execRead (port : PortId) (p : Packet) (s : State) : Host.Outcome State Fault Refusal :=
  .next (s.packetIn port p (fun s => if p.type = 1 then s.serveRead port p else s))

/-- Status of a WRITE to an offset that is not HBM: windows take none; a polder of the context with another generation comes first (Table 5.6). -/
def State.windowWrite (s : State) (tag off : Nat) : Status :=
  match windowCore off with
  | none => .accessViolation
  | some c =>
    match (s.core c).polderAt ((off - 0x2000000000000) % 0x1000000 / granule) with
    | some (_, p) => if tagIndex p.owner = tagIndex tag ∧ p.owner ≠ tag then .staleContext else .accessViolation
    | none => .accessViolation

/-- Serve a WRITE: its data is checked, then written whole or merged; scratchpad windows take no WRITE (R123, R300, R352). -/
def State.serveWrite (s : State) (n : PortId) (p : Packet) : State :=
  let off := p.offset % 2 ^ 50
  let bs := slice p.body 0 (writeLen p)
  if crc32c bs ≠ p.check then s.answer p .damagedBlock
  else if s.windowDiked off then s.answer p .fenced
  else if 2 ^ 48 ≤ off then s.answer p (s.windowWrite p.ctxTag off)
  else s.serveOr n p (match s.writeVa (.link n) p.ctxTag off bs false (packetUnits p) with
    | (st, s) => s.answer p st)

/-- WRITE: served as its form says. -/
def execWrite (port : PortId) (p : Packet) (s : State) : Host.Outcome State Fault Refusal :=
  .next (s.packetIn port p (fun s => if p.type = 2 then s.serveWrite port p else s))

/-! ### Responses to this chip's requests -/

/-- Take a request out of those waiting. -/
def State.dropRequest (s : State) (txn : Nat) : State := { s with requests := s.requests.filter (fun r => r.txn != txn) }

/-- A piece of a stream block has arrived, or has ended with a status. -/
def State.pieceIn (s : State) (core j index piece : Nat) (st : Status) (bs : Bytes) : State :=
  let x := (s.core core).strm j
  match x.run with
  | none => s
  | some r =>
    match r.flight.find? (fun b => b.index == index) with
    | none => s
    | some b =>
      let b := { b with
        waiting := b.waiting - 1, status := if b.status == .ok then st else b.status
        data := if st == .ok then overlay (slice b.data 0 (max b.data.length (piece + bs.length))) piece bs else b.data }
      -- a compressed block's tag came first: the reads of its payload are to go out, wherever it lies
      if r.desc.srcCmp && b.waiting == 0 && b.status == .ok && b.tag.isEmpty then
        s.setBlock core j { b with tag := slice b.data 0 64, data := [], asked := false }
      else s.setBlock core j b

/-- A piece of a table record that a run asked another chip for has arrived, or has ended with a status (R146, R163). -/
def State.tableIn (s : State) (core j piece : Nat) (st : Status) (bs : Bytes) : State :=
  match ((s.core core).strm j).run with
  | none => s
  | some r =>
    if st ≠ .ok then s.setRun core j { r with status := if r.status == .ok then st else r.status }
    else match r.table with
      | none => s
      | some t => s.setRun core j { r with table := some (overlay (slice t 0 (max t.length piece)) piece bs) }

/-- A write of a stream has been acknowledged, or has ended with a status. -/
def State.writeIn (s : State) (core j index : Nat) (st : Status) : State :=
  let c := s.core core
  let x := c.strm j
  match x.run with
  | none => s
  | some r => s.setCore core (c.setStrm j { x with run := some { r with acks := r.acks.erase index, status := if r.status == .ok then st else r.status } })

/-- A request ends with a status and no data. -/
def State.requestEnds (s : State) (r : Request) (st : Status) : State :=
  match r.who with
  | .stream core j index => s.pieceIn core j index r.piece st []
  | .streamWrite core j index => s.writeIn core j index st
  | .table core j => s.tableIn core j r.piece st []
  | .gather _ _ => s
  | .copy i seq => if r.packet.type = 1 then s.copyPiece i seq r.piece st [] else s.copyWritten i seq r.piece st

/-- Ask once more for a piece whose data failed its CHECK: a new request (R352). -/
def State.askAgain (s : State) (r : Request) : State :=
  let size := if r.packet.type = 1 then r.packet.size else writeLen r.packet
  let core := r.packet.srcUnit
  match s.request r.packet.type r.tag (r.packet.dstChip * 2 ^ 50 + r.packet.offset) size core r.packet.deadline (bit r.packet.route 4)
      (slice r.packet.body 0 (if r.packet.type = 1 then 0 else size)) r.who r.piece true (packetUnits r.packet) with
  | (none, s) => s
  | (some st, s) => s.requestEnds r st

/-- A breach of a piece meets a supply event (R106). -/
def State.noteSupply (s : State) (r : Request) : State :=
  let note := fun (core j : Nat) =>
    let c := s.core core
    let x := c.strm j
    s.setCore core (c.setStrm j { x with run := x.run.map (fun y => { y with supply := true }) })
  if !s.inSupply then s else
  match r.who with
  | .stream core j _ => note core j
  | .streamWrite core j _ => note core j
  | .table core j => note core j
  | .copy i seq => s.setCopy i ((s.ctx i).copy.map (fun j => if j.desc.seq = seq then { j with supplies := [0] } else j))
  | .gather _ _ => s

/-- A CHECK has failed: the piece is fetched or sent again once, then the block is damaged (R102, R352, Table 4.1). -/
def State.checkFailed (s : State) (r : Request) : State :=
  let s := (s.dropRequest r.txn).noteSupply r
  if !r.again then s.askAgain r else
  let win := match r.who with
    | .copy _ _ => true
    | _ => false
  let s := s.lastingBlock (tagIndex r.tag) win
  let note := fun (core j : Nat) =>
    let c := s.core core
    let x := c.strm j
    s.setCore core (c.setStrm j { x with run := x.run.map (fun y => { y with breaches := y.breaches + 1 }) })
  let s := match r.who with
    | .stream core j _ => note core j
    | .streamWrite core j _ => note core j
    | .table core j => note core j
    | _ => s
  s.requestEnds r .damagedBlock

/-- A piece that failed its CHECK once has passed: a transient unit of the stream (R102). -/
def State.pieceRetried (s : State) (r : Request) : State :=
  if !r.again then s else
  let note := fun (core j : Nat) =>
    let s := s.transient (tagIndex r.tag) 7 (sourceOf 0 core)
    let c := s.core core
    let x := c.strm j
    s.setCore core (c.setStrm j { x with run := x.run.map (fun y => { y with retries := y.retries + 1 }) })
  match r.who with
  | .stream core j _ => note core j
  | .streamWrite core j _ => note core j
  | .table core j => note core j
  | .copy i seq => (s.transient i 7 (sourceOf 5 0) true).copyRetried i seq
  | .gather _ _ => s

/-- A response for which no request waits came too late (R427). -/
def State.lateResponse (s : State) (port : Nat) : State := s.bump F.lnkDropDiked port

/-- READ_DATA: checked by CHECK and delivered to its requester (R352). -/
def execReadData (port : PortId) (p : Packet) (s : State) : Host.Outcome State Fault Refusal :=
  .next (s.packetIn port p (fun s =>
    match s.requests.find? (fun r => r.txn == p.txn && r.packet.type == 1) with
    | none => s.lateResponse port
    | some r =>
      let bs := slice p.body 0 r.packet.size
      match Status.ofCode p.status with
      | some .ok =>
        if crc32c bs ≠ p.check then s.checkFailed r
        else
          let s := (s.dropRequest r.txn).pieceRetried r
          match r.who with
          | .stream core j index => s.pieceIn core j index r.piece .ok bs
          | .copy i seq => s.copyPiece i seq r.piece .ok bs
          | .table core j => s.tableIn core j r.piece .ok bs
          | _ => s
      | some st => (s.dropRequest r.txn).requestEnds r st
      | none => s.bump F.lnkDropMalformed port))

/-- WRITE_ACK: a stream's write is done; one the target found damaged goes again once (R352). -/
def execWriteAck (port : PortId) (p : Packet) (s : State) : Host.Outcome State Fault Refusal :=
  .next (s.packetIn port p (fun s =>
    match s.requests.find? (fun r => r.txn == p.txn && r.packet.type == 2) with
    | none => s.lateResponse port
    | some r =>
      match Status.ofCode p.status with
      | some .ok => ((s.dropRequest r.txn).pieceRetried r).requestEnds r .ok
      | some .damagedBlock => s.checkFailed r
      | some st => (s.dropRequest r.txn).requestEnds r st
      | none => s.bump F.lnkDropMalformed port))

/-- MGMT: delivered to the management processor, or relayed on its way to another chip's (R376, R414). -/
def execMgmt (port : PortId) (p : Packet) (s : State) : Host.Outcome State Fault Refusal :=
  .next (s.packetIn port p (fun s => if p.type = 9 then s.emit (.mgmt p.srcChip p.body) else s))

end Sys2Proof.Machine
end

