-- ==== Sys2Proof/Machine/Gather.lean ====
section
/-! DEFINITION. The gather engines: descriptors, runs, rows, bags, their checks, row tags and seals (chapter 12, R99 to R101). -/

namespace Sys2Proof.Machine

/-! ### Fields of a gather descriptor (Table 12.2) -/

/-- Pooling mode: 0 SUM, 1 MEAN, 2 WSUM, 3 MAX, 4 SEAL. -/
def gMode (d : Bytes) : Nat := bits (field d 1 1) 2 0
/-- OUT_BF16. -/
def gBf16 (d : Bytes) : Bool := bit (field d 1 1) 3
/-- BAGFLAGS. -/
def gBagFlags (d : Bytes) : Bool := bit (field d 1 1) 4
/-- EFMT. -/
def gFormat (d : Bytes) : Nat := field d 2 1
/-- ROW_BYTES. -/
def gRowBytes (d : Bytes) : Nat := field d 4 2
/-- REPEAT. -/
def gRepeat (d : Bytes) : Nat := field d 6 2
/-- BAGS per run. -/
def gBags (d : Bytes) : Nat := field d 8 4
/-- TABLE_VA. -/
def gTable (d : Bytes) : Nat := field d 16 8
/-- TAG_VA. -/
def gTags (d : Bytes) : Nat := field d 24 8
/-- CHIPS_VA. -/
def gChips (d : Bytes) : Nat := field d 32 8
/-- SHARD_ROWS. -/
def gShardRows (d : Bytes) : Nat := field d 40 4
/-- ROW_STRIDE. -/
def gStride (d : Bytes) : Nat := field d 44 4
/-- SHARDS. -/
def gShards (d : Bytes) : Nat := field d 48 2
/-- CORE. -/
def gCore (d : Bytes) : Nat := field d 50 1
/-- TRIGGER counter. -/
def gTrigger (d : Bytes) : Nat := bits (field d 51 1) 5 0
/-- Bytes of an element of the table. -/
def gElemBytes (d : Bytes) : Nat := bitsOf (gFormat d) / 8
/-- E, the elements of a row (R317). -/
def gElems (d : Bytes) : Nat := gRowBytes d / max 1 (gElemBytes d)
/-- Rows of the scratchpad that one bag's output takes (R328). -/
def gOutRows (d : Bytes) : Nat := ceilDiv (gElems d * (if gBf16 d then 2 else 4)) 256
/-- Deadline of a row request sent now (R332). -/
def State.gDeadline (s : State) (d : Bytes) : Nat :=
  let n := field d 12 4
  s.time + (if n = 0 then 2 ^ 20 else min n (2 ^ 20))

/-- A polder reference of 4 bytes at a place: handle and first row (R320). -/
def gRef (d : Bytes) (o : Nat) : Nat × Nat := (bits (field d o 4) 7 0, bits (field d o 4) 21 8)

/-- Handle and byte offset of a reference in run `r`, its row moved on by `step` rows a run, modulo the polder's rows (R323). -/
def State.gPlace (s : State) (g : GRun) (o stepAt : Nat) : Nat × Nat :=
  let d := g.entry.desc
  let (h, row) := gRef d o
  let rows := ((s.core (gCore d)).polder h).length * 32
  (h, 256 * ((row + g.r * field d stepAt 2) % max 1 rows))

/-! ### Access to the scratchpad (R324) -/

/-- Read from a polder of the run's core, checked by handle with the context's tag. -/
def State.gRead (s : State) (g : GRun) (h off len : Nat) : Except Status Bytes × State :=
  let core := gCore g.entry.desc
  match (s.core core).check g.entry.tag h off len with
  | some _ => (.error .accessViolation, s)
  | none => match s.spmRead core ((s.core core).abs h off) len with
    | (some bs, s) => (.ok bs, s)
    | (none, s) => (.error .uncorrectable, s)

/-- Write to a polder of the run's core. -/
def State.gWrite (s : State) (g : GRun) (h off : Nat) (bs : Bytes) : Option Status × State :=
  let core := gCore g.entry.desc
  match (s.core core).check g.entry.tag h off bs.length true with
  | some _ => (some .accessViolation, s)
  | none => match s.spmWrite core ((s.core core).abs h off) bs with
    | (true, s) => (none, s)
    | (false, s) => (some .uncorrectable, s)

/-! ### Ending a run (R324, R331, R333) -/

/-- Put a run back into its engine. -/
def State.setGRun (s : State) (e : Nat) (g : Option GRun) : State := s.setEngine e { s.engine e with run := g }

/-- Type of the second event of a run. -/
def GRun.bagType (g : GRun) : Nat := if gMode g.entry.desc = 3 then 0x0C else 0x0B

/-- Event of the rows of a run. -/
def GRun.rowEvent (g : GRun) (e : Nat) : Gauge :=
  { Gauge.plain 0x0A (sourceOf 1 e) g.entry.order g.rowCount with
    retries := g.rowRetries + b2n g.rowLasting.isSome, lasting := g.rowLasting, supply := g.rowSupply }

/-- Event of the bags of a run. -/
def GRun.bagEvent (g : GRun) (e : Nat) : Gauge :=
  { Gauge.plain g.bagType (sourceOf 1 e) g.entry.order (g.bagCount + b2n g.bagLasting.isSome) with
    retries := g.bagRetries + b2n g.bagLasting.isSome, lasting := g.bagLasting, unchecked := g.unchecked, emptyBag := g.emptyBag, maxRatio := g.maxRatio
    supply := g.bagSupply }

/-- A run leaves its engine and makes its two events, however it ended; a seal makes none (R331). -/
def State.closeGather (s : State) (e : Nat) (g : GRun) : State :=
  let i := tagIndex g.entry.tag
  let s := if gMode g.entry.desc = 4 then s else (s.gauge i (g.rowEvent e)).gauge i (g.bagEvent e)
  s.setGRun e none

/-- A run stops: nothing more is fetched, its rows are discarded; it goes once its last fetch is in. -/
def State.stopGather (s : State) (e : Nat) (g : GRun) : State :=
  let g := { g with stopped := true, rows := [], bags := [], todo := [], nextBag := gBags g.entry.desc }
  if g.fetches.isEmpty then s.closeGather e g else s.setGRun e (some g)

/-- A run fails with a status and faults its context. -/
def State.failGather (s : State) (e : Nat) (g : GRun) (st : Status) : State := (s.stopGather e { g with failed := true }).faultTag g.entry.tag st

/-- Send the DONE arrival of a descriptor, if enabled, with a count of 1. -/
def State.gDone (s : State) (g : GRun) : State :=
  let a := field g.entry.desc 52 4
  if bit a 28 then s.sendNamed (bits a 13 0) (bits a 21 14) 0x01 g.entry.tag 0xFF 0 (bits a 27 22 + 256) else s

/-- A run completes: its two events, then DONE. -/
def State.completeGather (s : State) (e : Nat) (g : GRun) : State := ((s.closeGather e g).gDone g).progress (tagIndex g.entry.tag)

/-- A row or bag of a run is lasting: counted, noted in the run's event, and the run fails (R102, R329). GE_EVENTS counts each run once, and none that ended
with another status (Table 12.9). -/
def State.lastingGather (s : State) (e : Nat) (g : GRun) (st : Status) : State :=
  let s := s.lastingUnit (tagIndex g.entry.tag)
  (if g.failed then s else s.bump F.geEventsLasting e).failGather e g st

/-- Mark an engine suspect (R103, R319, R329). -/
def State.suspectEngine (s : State) (i e type : Nat) : State :=
  let s := s.setF F.geStatusSuspect 1 e
  let c := s.ctx i
  let s := match c.inv with
    | none => s
    | some v => s.setCtx i { c with inv := some { v with unitSuspect := true } }
  (s.log 0x0030 (sourceOf 1 e) (s.tag i) .breachLasting 2 (natLe 1 type)).markWindows none

/-! ### Pooling and its check (R100, R101, R326 to R330) -/

/-- Elements of a row, widened exactly. -/
def rowElems (d row : Bytes) : List FV :=
  (List.range (gElems d)).map (fun j => elemValue (gFormat d) (field row (j * gElemBytes d) (gElemBytes d)))

/-- Weight of a held row in the reference sum. -/
def heldWeight (d : Bytes) (r : RowHeld) : FV := if gMode d = 2 then fp32.decode r.weight else fp32.decode 0x3F800000

/-- One linear pooling of a bag: the pooled codes, whether it breaches, whether it passes unchecked, and its ratio. `flips` strike the pooled codes. -/
def poolLinear (d : Bytes) (kappa : Nat) (rows : List RowHeld) (flips : Upset) : List Nat × Bool × Bool × Nat :=
  let e := gElems d
  let v := rows.foldl (fun (v : List FV) r => List.zipWith (fun x y => r32 ((heldWeight d r).fma x y)) (rowElems d r.data) v)
    (List.replicate e (.fin false 0 0))
  let codes := (flipCodes flips 0 (v.map code32)).map (· % 2 ^ 32)
  let v := codes.map fp32.decode
  let t := r32 (FV.sum v)
  let ref := rows.foldl (fun a r => r32 ((heldWeight d r).fma (fp32.decode r.sum) a)) (FV.fin false 0 0)
  let w := rows.foldl (fun a r => r32up (FV.add ((heldWeight d r).abs.mul (r32up (FV.sum ((rowElems d r.data).map FV.abs)))) a)) (FV.fin false 0 0)
  if v.any (fun x => !x.isFin) || !t.isFin then
    if ref.isFin && w.isFin then (codes, true, false, 0) else (codes, false, true, 0)
  else
    let l := rows.length
    let f1 := r32up (FV.mul w (.fin false (kappa * (l + 1)) (-23)))
    let f2 := r32up (.fin false ((e + 1) * (l + 1)) (-149))
    let f := r32up (f1.add f2)
    let r := (t.add ref.neg).abs
    if !w.isFin then (codes, false, false, 0)
    else if f.lt r || r == .nan then (codes, true, false, 0)
    else (codes, false, false, ratioFp16 r f)

/-- MAX pooling from the first row to arrive. -/
def poolMax (d : Bytes) (rows : List RowHeld) : List Nat :=
  match rows with
  | [] => []
  | r :: rs => (rs.foldl (fun v x => List.zipWith (fvMin true false) v (rowElems d x.data)) (rowElems d r.data)).map code32

/-- The quotient of MEAN, rounded once. -/
def meanOf (l : Nat) (code : Nat) : Nat :=
  match fp32.decode code with
  | .fin s m e => if m = 0 then fp32.signBit s else code32 (div32 (FV.fin s m e).dy l)
  | x => code32 x

/-- Bytes of a bag's output from its FP32 codes, its last row filled with zeros (R328). -/
def outBytes (d : Bytes) (codes : List Nat) : Bytes :=
  let bs := (codes.map (fun c => if gBf16 d then natLe 2 (bf16.convert .nearest false (fp32.decode c)) else natLe 4 c)).flatten
  slice bs 0 (256 * gOutRows d)

/-- Commit a bag: its output rows, its flags byte, its counts. -/
def State.commitBag (s : State) (e : Nat) (g : GRun) (b : Nat) (out : Bytes) (empty unchecked retried : Bool) : Option Status × GRun × State :=
  let d := g.entry.desc
  let (h, off) := s.gPlace g 68 78
  match s.gWrite g h (off + 256 * gOutRows d * b) out with
  | (some st, s) => (some st, g, s)
  | (none, s) =>
    let (st, s) :=
      if gBagFlags d then
        let (h, off) := s.gPlace g 72 78
        s.gWrite g h (off + b) (natLe 1 (b2n empty + 2 * b2n unchecked + 4 * b2n retried))
      else (none, s)
    let s := (s.bump F.geBagsCount e).tally (tagIndex g.entry.tag) (fun t => { t with bags := t.bags + 1 })
    (st, { g with bagCount := g.bagCount + 1, emptyBag := g.emptyBag || empty, unchecked := g.unchecked || unchecked
                  bagRetries := g.bagRetries + b2n retried, bags := g.bags.filter (fun x => x.1 != b) }, s)

/-- A bag whose rows are all in: pooled, checked, pooled again after a breach, committed. -/
def State.poolBag (s : State) (e : Nat) (g : GRun) (b : Nat) (pool : Hit) (rails : Rails) : Option GRun × State :=
  let d := g.entry.desc
  let i := tagIndex g.entry.tag
  let rows := g.rows.filter (fun r => r.bag == b)
  let kappa := match (s.ctx i).inv with | some v => v.kappa | none => 4
  let mode := gMode d
  let dual := mode == 1 || mode == 3 || gBf16 d
  let try_ := fun (u : Upset) (differ : Bool) =>
    if mode = 3 then (poolMax d rows, differ, false, 0)
    else
      let (c, bad, un, ratio) := poolLinear d kappa rows u
      (if mode = 1 then c.map (meanOf rows.length) else c, bad || (dual && differ), un, ratio)
  let (c1, bad1, un1, q1) := try_ pool.first (rails != .agree)
  let (c2, bad2, un2, q2) := try_ pool.second (rails == .lasting)
  let g := { g with rows := g.rows.filter (fun r => r.bag != b), bagSupply := g.bagSupply || (bad1 && s.inSupply) }
  if bad1 && bad2 then
    let s := ((s.suspectEngine i e g.bagType).bump F.geBagsCount e).tally i (fun t => { t with bags := t.bags + 1 })
    (none, s.lastingGather e { g with bagLasting := some .breachLasting } .breachLasting)
  else
    let (c, un, q) := if bad1 then (c2, un2, q2) else (c1, un1, q1)
    let s := if bad1 then s.transient i g.bagType (sourceOf 1 e) else s
    let s := if un then s.bump F.geEventsUnchecked e else s
    match s.commitBag e g b (outBytes d c) false un bad1 with
    | (some st, g, s) => (none, s.failGather e g st)
    | (none, g, s) => (some { g with maxRatio := max g.maxRatio q }, s)

/-! ### Fetching rows (R316, R325, R332) -/

/-- Ask the home chip of a row for it and its tag. An offset beyond those a request can carry lies above 2^48 and ends as R312 states. -/
def State.gatherRequest (s : State) (e : Nat) (g : GRun) (f : RowFetch) : Option Status × RowFetch × State :=
  let d := g.entry.desc
  if 2 ^ 50 ≤ f.row ∨ 2 ^ 50 ≤ f.tag then (some .accessViolation, f, s.ptFault 9 g.entry.tag (max f.row f.tag)) else
  let p := { packetOf 5 f.chip 0xFF g.entry.tag 0xFF (natLe 8 f.tag ++ zeros 8) with
    offset := f.row % 2 ^ 50, size := gRowBytes d, txn := s.nextTxn, deadline := s.gDeadline d % 2 ^ 32 }
  match s.launch p with
  | (some st, s) => (some st, f, s)
  | (none, s) =>
    (none, { f with txn := some p.txn },
      { s with nextTxn := (s.nextTxn + 1) % 65536, requests := s.requests ++ [⟨p.txn, g.entry.tag, .gather e f.bag, s.time, 0, f.again, p, none⟩] })

/-- Issue a row fetch, counted; a local one needs no request. -/
def State.issueRow (s : State) (e : Nat) (g : GRun) (f : RowFetch) : Option Status × GRun × State :=
  let s := s.bump F.geRowsCount e
  if s.isHere f.chip then (none, { g with fetches := g.fetches ++ [{ f with txn := none }] }, s)
  else
    match (s.bump F.geRemoteCount e).gatherRequest e g f with
    | (some st, _, s) => (some st, g, s)
    | (none, f, s) => (none, { g with fetches := g.fetches ++ [f] }, s)

/-- Whether the engine can take one more row: 1,024 in flight, 512 KiB of rows (R314). -/
def GRun.room (g : GRun) : Bool :=
  decide (g.fetches.length < 1024) && decide ((g.fetches.length + g.rows.length + 1) * gRowBytes g.entry.desc ≤ 524288)

/-- Issue the fetches that are due while there is room. -/
def State.issueDue (s : State) (e : Nat) (g : GRun) : Option Status × GRun × State :=
  g.todo.foldl (fun (acc : Option Status × GRun × State) f =>
    if acc.1.isSome || !acc.2.1.room || acc.2.1.todo.head? != some f then acc else
    let g := { acc.2.1 with todo := acc.2.1.todo.drop 1, rowCount := acc.2.1.rowCount + 1 }
    acc.2.2.issueRow e g f) (none, g, s)

/-- The translator of a gather engine. -/
def geOf (e : Nat) : Translator := .ge ⟨e % 16, Nat.mod_lt _ (by decide)⟩

/-- What opening a bag gives. -/
inductive Opened where
  | rows (l : List RowFetch)
  | failed (st : Status)
  | wait
  deriving DecidableEq, Repr

/-- Resolve one index entry of a bag (R316). -/
def State.resolve (s : State) (e : Nat) (g : GRun) (b x weight : Nat) : Opened × State :=
  let d := g.entry.desc
  if x = 0xFFFFFFFF then (.rows [], s) else
  let shard := x / max 1 (gShardRows d)
  let loc := x % max 1 (gShardRows d)
  if gShards d ≤ shard then (.failed .descInvalid, s) else
  match s.readVa (geOf e) g.entry.tag (gChips d + 2 * shard) 2 false with
  | (.wait, s) => (.wait, s)
  | (.failed st, s) => (.failed st, s)
  | (.data bs, s) => (.rows [⟨b, field bs 0 2, gTable d + loc * gStride d, gTags d + 8 * loc, weight, none, false⟩], s)

/-- Open bag `b`: its offsets, indices and weights read, its rows resolved (R325, Table 12.3). -/
def State.openBag (s : State) (e : Nat) (g : GRun) (b : Nat) : Opened × State :=
  let d := g.entry.desc
  let (ho, oo) := s.gPlace g 56 76
  match s.gRead g ho (oo + 4 * b) 8 with
  | (.error st, s) => (.failed st, s)
  | (.ok ob, s) =>
    let lo := field ob 0 4
    let hi := field ob 4 4
    if hi < lo ∨ 65535 < hi - lo then (.failed .descInvalid, s) else
    let (hx, ox) := s.gPlace g 60 76
    match s.gRead g hx (ox + 4 * lo) (4 * (hi - lo)) with
    | (.error st, s) => (.failed st, s)
    | (.ok xs, s) =>
      let (hw, ow) := s.gPlace g 64 76
      match (if gMode d = 2 then s.gRead g hw (ow + 4 * lo) (4 * (hi - lo)) else (.ok [], s)) with
      | (.error st, s) => (.failed st, s)
      | (.ok ws, s) =>
        let ix := (List.range (hi - lo)).map (fun n => field xs (4 * n) 4)
        let l := (ix.filter (· != 0xFFFFFFFF)).length
        if 524288 < l * gRowBytes d then (.failed .descInvalid, s) else
        (ix.zipIdx).foldl (fun (acc : Opened × State) x =>
          match acc.1 with
          | .rows l =>
            match acc.2.resolve e g b x.1 (field ws (4 * x.2) 4) with
            | (.rows m, s) => (.rows (l ++ m), s)
            | r => r
          | _ => acc) (.rows [], s)

/-- Go on with a run: issue what is due, open bags in order, commit empty ones, complete after the last, with fuel. -/
def State.advanceGather (s : State) (e : Nat) (g : GRun) : Nat → State
  | 0 => s.setGRun e (some g)
  | k + 1 =>
    match s.issueDue e g with
    | (some st, g, s) => s.failGather e g st
    | (none, g, s) =>
      if !g.todo.isEmpty then s.setGRun e (some g)
      else if g.nextBag < gBags g.entry.desc then
        match s.openBag e g g.nextBag with
        | (.wait, s) => s.setGRun e (some g)
        | (.failed st, s) => s.failGather e g st
        | (.rows [], s) =>
          match s.commitBag e { g with nextBag := g.nextBag + 1 } g.nextBag (outBytes g.entry.desc (List.replicate (gElems g.entry.desc) 0)) true false false with
          | (some st, g, s) => s.failGather e g st
          | (none, g, s) => s.advanceGather e g k
        | (.rows l, s) => s.advanceGather e { g with nextBag := g.nextBag + 1, todo := l, bags := g.bags ++ [(g.nextBag, l.length)] } k
      else if g.fetches.isEmpty && g.bags.isEmpty then s.completeGather e g
      else s.setGRun e (some g)

/-- Enough turns for the bags of any run. -/
def gatherFuel (g : GRun) : Nat := 2 * gBags g.entry.desc + 2

/-! ### Commands -/

/-- Entry of an engine that its next run takes: satisfied earliest, then by context priority, then by list order (R323). -/
def pickEntry (es : List GEntry) : Option GEntry :=
  es.foldl (fun (best : Option GEntry) x =>
    match x.met.head? with
    | none => best
    | some t =>
      match best with
      | none => some x
      | some y =>
        let u := y.met.headD 0
        if t < u ∨ (t = u ∧ (y.prio < x.prio ∨ (y.prio = x.prio ∧ x.order < y.order))) then some x else best) none

/-- GATHER_RUN_START: the engine takes up the run whose trigger was satisfied earliest, or goes on with the one it has. -/
def execGatherRunStart (e : EngineId) (s : State) : Host.Outcome State Fault Refusal :=
  let x := s.engine e
  match x.run with
  | some g =>
    if g.stopped || gMode g.entry.desc == 4 then .next s
    else .next (s.unlessFull (tagIndex g.entry.tag) (if s.live g.entry.tag then s.advanceGather e g (gatherFuel g) else s.stopGather e g))
  | none =>
    match pickEntry (x.entries.filter (fun y => s.live y.tag)) with
    | none => .next s
    | some y =>
      let y' := { y with runs := y.runs + 1, met := y.met.drop 1 }
      let t := s.setEngine e { x with entries := x.entries.map (fun z => if z.order == y.order && z.tag == y.tag then y' else z) }
      let g := GRun.fresh y' y.runs
      .next (s.unlessFull (tagIndex y.tag) (if gMode y.desc = 4 then t.setGRun e (some g) else t.advanceGather e g (gatherFuel g)))

/-- A row that came in is checked against its tag (R99): none when it fails. -/
def goodRow (d bs : Bytes) (whole : Bool) (hit : Upset) : Option Bytes :=
  let row := upsetBytes (slice bs 0 (gRowBytes d)) hit
  if whole && crc32c row == field bs (gRowBytes d) 4 then some row else none

/-- A fetch of a stopped run has come in. Its row is discarded, but a retry under way is counted first (R105, R333). -/
def State.rowDropped (s : State) (e : Nat) (g : GRun) (f : RowFetch) (ans : Except Status (Bytes × Bool)) (hit : Upset) : State :=
  match ans with
  | .error _ => s.stopGather e g
  | .ok (bs, whole) =>
    if !f.again then s.stopGather e g
    else match goodRow g.entry.desc bs whole hit with
      | some _ => (s.transient (tagIndex g.entry.tag) 0x0A (sourceOf 1 e)).stopGather e { g with rowRetries := g.rowRetries + 1 }
      | none => s.lastingGather e { g with rowSupply := g.rowSupply || s.inSupply, rowLasting := some (g.rowLasting.getD .damagedBlock) } .damagedBlock

/-- A row has passed: it is held for its bag, and the bag is pooled once all its rows are in. -/
def State.rowPassed (s : State) (e : Nat) (g : GRun) (f : RowFetch) (row : Bytes) (sum : Nat) (pool : Hit) (rails : Rails) : State :=
  let i := tagIndex g.entry.tag
  let s := if f.again then s.transient i 0x0A (sourceOf 1 e) else s
  let g := { g with rowRetries := g.rowRetries + b2n f.again, rows := g.rows ++ [⟨f.bag, row, sum, f.weight⟩] }
  let s := s.progress i
  let held := (g.rows.filter (fun r => r.bag == f.bag)).length
  if g.bags.any (fun b => b.1 == f.bag && b.2 == held) && !g.todo.any (fun x => x.bag == f.bag) then
    match s.poolBag e g f.bag pool rails with
    | (none, s) => s
    | (some g, s) => s.advanceGather e g (gatherFuel g)
  else s.advanceGather e g (gatherFuel g)

/-- A row fetch of an engine has come in: `ans` is the row and its tag with the outcome of its CHECK, or the status it ended with. -/
def State.rowIn (s : State) (e : Nat) (f : RowFetch) (ans : Except Status (Bytes × Bool)) (hit : Upset) (pool : Hit) (rails : Rails) : State :=
  match (s.engine e).run with
  | none => s
  | some g =>
    let d := g.entry.desc
    let g := { g with fetches := g.fetches.erase f }
    if g.stopped || !s.live g.entry.tag then s.rowDropped e g f ans hit
    else match ans with
      | .error st => s.failGather e g st
      | .ok (bs, whole) =>
        match goodRow d bs whole hit with
        | some row => s.rowPassed e g f row (field bs (gRowBytes d + 4) 4) pool rails
        | none =>
          let g := { g with rowSupply := g.rowSupply || s.inSupply }
          if f.again then s.lastingGather e { g with rowLasting := some .damagedBlock } .damagedBlock
          else match (s.bump F.geEventsRefetch e).issueRow e g { f with again := true } with
            | (some st, g, s) => s.failGather e g st
            | (none, g, s) => s.setGRun e (some g)

/-- Read the row and tag of a local fetch. -/
def State.localRow (s : State) (e : Nat) (g : GRun) (f : RowFetch) : Fetched × State :=
  match s.readVa (geOf e) g.entry.tag f.row (gRowBytes g.entry.desc) false with
  | (.data row, s) =>
    match s.readVa (geOf e) g.entry.tag f.tag 8 false with
    | (.data t, s) => (.data (row ++ t), s)
    | r => r
  | r => r

/-- The answer of a home chip comes in: for a fetch of a run under way its row and tag, or the status it ended with (R332, R333). -/
def State.gatherReply (s : State) (port : PortId) (p : Packet) (hit : Upset) (pool : Hit) (rails : Rails) : State :=
  match s.requests.find? (fun r => r.txn == p.txn && r.packet.type == 5), Status.ofCode p.status with
  | none, _ => s.lateResponse port
  | some _, none => s.bump F.lnkDropMalformed port
  | some r, some st =>
    match r.who with
    | .gather e _ =>
      match (s.engine e).run.bind (fun g => (g.fetches.find? (fun f => f.txn == some p.txn)).map (fun f => (g, f))) with
      | none => s.dropRequest r.txn
      | some (g, f) =>
        let n := gRowBytes g.entry.desc + 8
        let ans := if st = .ok then .ok (slice p.body 0 n, crc32c (slice p.body 0 n) == p.check) else .error st
        let t := (s.dropRequest r.txn).rowIn e f ans hit pool rails
        if s.overfills (tagIndex g.entry.tag) t then s.frozen.park port p else t
    | _ => s

/-- GATHER_DATA: the `k`-th fetch of an engine ends: read on this chip, or answered by the home chip's packet (R329 to R333). `hit` strikes the row on its
way, `pool` and `rails` the pooling of a bag that it completes. -/
def execGatherData (e : EngineId) (k : Nat) (reply : Reply) (hit : Upset) (pool : Hit) (rails : Rails) (s : State) : Host.Outcome State Fault Refusal :=
  match reply with
  | none =>
    match (s.engine e).run with
    | none => .next s
    | some g =>
      match g.fetches[k]? with
      | none => .next s
      | some f =>
        if f.txn.isSome then .next s
        else .next (s.unlessFull (tagIndex g.entry.tag) (match s.localRow e g f with
          | (.wait, t) => s.keepRefetch t
          | (.failed st, s) => s.rowIn e f (.error st) hit pool rails
          | (.data bs, s) => s.rowIn e f (.ok (bs, true)) hit pool rails))
  | some (port, p) => .next (s.packetIn port p (fun s => s.gatherReply port p hit pool rails))

/-- Serve a GATHER: the row and its tag, both with remote read rights (R332). -/
def State.serveGather (s : State) (n : PortId) (p : Packet) : State :=
  s.serveOr n p (match s.readVa (.link n) p.ctxTag (p.offset % 2 ^ 50) p.size false with
  | (.failed st, s) => s.answer p st
  | (.wait, s) => s.park n p
  | (.data row, s) =>
    match s.readVa (.link n) p.ctxTag (field p.body 0 8 % 2 ^ 50) 8 false with
    | (.failed st, s) => s.answer p st
    | (.wait, s) => s.park n p
    | (.data t, s) => s.answer p .ok (row ++ t))

/-- GATHER: the home chip reads a row and its tag and answers with GATHER_DATA. -/
def execGather (port : PortId) (p : Packet) (s : State) : Host.Outcome State Fault Refusal :=
  .next (s.packetIn port p (fun s => if p.type = 5 then s.serveGather port p else s))

/-! ### SEAL (R319) -/

/-- SUM of a row's tag (Table 12.1). -/
def rowSum (d row : Bytes) : Nat := code32 (r32 (FV.sum (rowElems d row)))

/-- The tag of a row. -/
def rowTag (d row : Bytes) : Bytes := natLe 4 (crc32c row) ++ natLe 4 (rowSum d row)

/-- Read one row of this chip's shard for a seal. -/
def State.sealRead (s : State) (e : Nat) (g : GRun) (x : Nat) : Fetched × State :=
  s.readVa (geOf e) g.entry.tag (gTable g.entry.desc + x * gStride g.entry.desc) (gRowBytes g.entry.desc) false

/-- Write the tag of a row that a seal has read. -/
def State.sealRow (s : State) (e : Nat) (g : GRun) (x : Nat) (row : Bytes) : Status × State :=
  s.writeVa (geOf e) g.entry.tag (gTags g.entry.desc + 8 * x) (rowTag g.entry.desc row) false

/-- A context-virtual address lies in the tide window of the context's INVOKE (R264). -/
def State.inTideWindow (s : State) (i va : Nat) : Bool :=
  match (s.ctx i).inv with
  | some v => v.usesTide && decide (v.window.1 ≤ va) && decide (va < v.window.1 + v.window.2.1)
  | none => false

/-- A seal's next row: it is read, its tag is formed on two rails, once more after a disagreement, and written; after the last row DONE goes out, as for any run. -/
def State.sealNext (s : State) (e : Nat) (g : GRun) (rails : Rails) : State :=
  let d := g.entry.desc
  let i := tagIndex g.entry.tag
  let first := field d 56 4
  let count := field d 60 4
  let finish := fun (s : State) => ((s.setGRun e none).gDone g).progress i
  if count = 0 then finish s
  else if gShardRows d < first + count then s.failGather e g .descInvalid
  else if s.inTideWindow i (gTags d) then s.failGather e g .accessViolation
  else match s.sealRead e g (first + g.rowCount) with
    | (.wait, t) => s.keepRefetch t
    | (.failed st, s) => s.failGather e g st
    | (.data row, s) =>
      if rails == .lasting then (s.suspectEngine i e 0x0C).lastingGather e g .breachLasting else
      let s := if rails == .transient then s.transient i 0x0C (sourceOf 1 e) else s
      match s.sealRow e g (first + g.rowCount) row with
      | (.ok, s) =>
        if g.rowCount + 1 < count then (s.setGRun e (some { g with rowCount := g.rowCount + 1 })).progress i else finish s
      | (st, s) => s.failGather e g st

/-- SEAL: the engine's seal run writes the tag of its next row. -/
def execSeal (e : EngineId) (rails : Rails) (s : State) : Host.Outcome State Fault Refusal :=
  match (s.engine e).run with
  | none => .next s
  | some g =>
    if gMode g.entry.desc ≠ 4 then .next s
    else .next (s.unlessFull (tagIndex g.entry.tag) (if g.stopped || !s.live g.entry.tag then s.stopGather e g else s.sealNext e g rails))

end Sys2Proof.Machine
end

