-- ==== Sys2Proof/Machine/Ledger.lean ====
section
/-! DEFINITION. The gauge ledger and the audit ring: firmware measurement, ledger body, signature, records handed to the host
(R107 to R114, R397, R402, R440). -/

namespace Sys2Proof.Machine

/-! ### Firmware identity (R440) -/

/-- The image in a slot: 0 A, 1 B. -/
def Boot.slot (b : Boot) (n : Nat) : Option Image := if n = 0 then b.slotA else b.slotB

/-- The image that runs. -/
def Boot.image (b : Boot) : Image := (b.slot b.running).getD ⟨0, 0, [], [], true, true⟩

/-- The bytes of an ASCII string. -/
def ascii (s : String) : Bytes := s.toUTF8.toList.map (fun b => BitVec.ofNat 8 b.toNat)

/-! ### The identity key (R443) -/

/-- The seed ξ: 32 bytes of SHAKE256 of the fused seed and DRUHAL-ID. -/
def identitySeed : Bytes := shakeN (Config.fusedSeed ++ ascii "DRUHAL-ID") 32

/-- The public identity key, which the identity certificate names. -/
def identityPublic : Bytes := Config.mldsaKeyGen identitySeed

/-- A signature with the identity key: context string, message, randomness draw. SEC signs alias certificates with it, and link transcripts. -/
def identitySign (context : String) (msg : Bytes) (r : Nat) : Bytes := Config.mldsaSignSeed identitySeed context msg r

/-- FW_MEASUREMENT: the four digests folded with the security version. -/
def Image.measurement (m : Image) : Bytes :=
  (List.range 4).foldl (fun acc j => shake256 (acc ++ slice (m.digests.getD j []) 0 64 ++ natLe 8 m.svn)) (zeros 64)

/-- First 32 bytes of the digest of the alias public key (Table 4.9). -/
def Boot.aliasId (b : Boot) : Bytes := slice (shake256 (Config.mldsaPublic (Config.freeValue b.aliasAt).toNat)) 0 32

/-- The DRUHAL-ALIAS record (Table 17.4), as the boot wrote it: a DEBUG unlock and the slot last for the boot, the anti-rollback value is that of the boot. -/
def Boot.aliasRecord (b : Boot) : Bytes :=
  natLe 2 1 ++ natLe 1 (b2n Config.partB) ++ natLe 1 (b2n b.dbgScope.isSome + 2 * b.running) ++ natLe 4 b.image.version ++ natLe 8 Config.serial ++
  natLe 8 b.bootRollback ++ natLe 8 b.boots ++ b.image.measurement

/-- The alias certificate: valid for all time, with the record in its extension, signed by the identity key (R444). -/
def Boot.aliasCertificate (b : Boot) : Bytes :=
  let body := Config.aliasBody (Config.mldsaPublic (Config.freeValue b.aliasAt).toNat) "19700101000000Z" "99991231235959Z" b.aliasRecord
  Config.certificate body (identitySign "" body (Config.freeValue (b.aliasAt + 1)).toNat)

/-- The certificate chain: what the flash holds from the root to the identity certificate, then the alias certificate (R444). -/
def Boot.chain (b : Boot) : Bytes := Config.identityChain ++ b.aliasCertificate

/-! ### Ledger body (Table 4.9) -/

/-- What a ledger body holds beside the device's own identity. -/
structure LedgerFields where
  tag : Nat
  status : Status
  flags : Nat
  id : Nat
  start : Nat
  kappa : Nat
  drainChk : Nat
  audit : Nat
  supply : Nat
  seed : Nat
  manifest : Bytes
  inDigest : Bytes
  outDigest : Bytes
  tally : Tally
  inputs : Nat
  outputs : Nat
  suspects : List Nat
  deriving DecidableEq, Repr

/-- A counter of 4 bytes saturates. -/
def sat4 (n : Nat) : Bytes := natLe 4 (min n (2 ^ 32 - 1))

/-- SUSPECT: one bit per core. -/
def suspectBytes (cores : List Nat) : Bytes := natLe 24 (cores.foldl (fun m c => m ||| 2 ^ c) 0)

/-- The 512-byte ledger body, closed now. -/
def State.ledgerBody (s : State) (f : LedgerFields) : Bytes :=
  let t := f.tally
  let img := s.boot.image
  natLe 2 1 ++ natLe 2 512 ++ natLe 2 f.tag ++ natLe 1 f.status.code ++ natLe 1 f.flags ++
  natLe 8 f.id ++ natLe 8 f.start ++ natLe 8 s.time ++
  natLe 2 s.chip ++ natLe 1 (b2n Config.partB) ++ natLe 1 f.kappa ++ natLe 1 f.drainChk ++ natLe 1 f.audit ++ natLe 2 (min f.supply 65535) ++
  natLe 8 Config.serial ++ natLe 8 f.seed ++ natLe 4 img.version ++ zeros 4 ++ img.measurement ++
  slice f.manifest 0 64 ++ slice f.inDigest 0 64 ++ slice f.outDigest 0 64 ++
  natLe 8 t.tiles ++ natLe 8 t.batches ++ natLe 8 t.blocks ++ natLe 8 t.bags ++ natLe 8 t.shards ++ natLe 8 t.convRows ++
  sat4 t.retries ++ sat4 t.breaches ++ sat4 t.lasting ++ sat4 t.unchecked ++
  natLe 2 t.maxRatio ++ natLe 1 t.maxType ++ zeros 1 ++ natLe 2 f.inputs ++ natLe 2 f.outputs ++
  natLe 8 t.records ++ natLe 8 t.events ++ s.boot.aliasId ++ suspectBytes f.suspects ++ zeros 48

/-- Sign a body and write the signed ledger at a host address (R113, R114). -/
def State.writeLedger (s : State) (addr : Nat) (body : Bytes) : State :=
  let (r, s) := s.draw
  let sig := slice (Config.mldsaSign (Config.freeValue s.boot.aliasAt).toNat "DRUHAL-GAUGE" body r.toNat) 0 3309
  s.emit (.hostWrite addr (body ++ sig ++ zeros 19))

/-- Digest over the tensor digests of a range, in designation order; an unfed tensor is of length zero (R112, R393). -/
def digestOver (t : Table Bytes) (first n : Nat) : Bytes :=
  shake256 (((List.range n).map (fun j => t.get (shake256 (zeros 8)) (first + j))).flatten)

/-- FLAGS of a ledger. -/
def ledgerFlags (audit : Nat) (sampled enc expert suspect seedDrawn : Bool) : Nat :=
  b2n (bit audit 0) + 2 * b2n sampled + 4 * b2n enc + 8 * b2n expert + 16 * b2n suspect + 32 * b2n seedDrawn

/-- Ledger fields of a running INVOKE that ends with a status. -/
def State.invokeFields (s : State) (i : Nat) (v : Invoke) (st : Status) : LedgerFields :=
  { tag := v.desc.ctxTag, status := st
    flags := ledgerFlags v.audit (bit v.audit 0 && bit v.audit 1) (s.flag F.secCtxCfgHbmEnc i) v.expertSeen v.unitSuspect v.seedDrawn
    id := v.id, start := v.timeStart, kappa := v.kappa, drainChk := v.drainChk, audit := v.audit, supply := v.supply, seed := v.seed
    manifest := v.manifest, inDigest := digestOver v.digests 0 v.inputs, outDigest := digestOver v.digests v.inputs v.outputs
    tally := v.tally, inputs := v.inputs, outputs := v.outputs, suspects := v.suspects }

/-! ### The audit ring (R402) -/

/-- Records of a context that wait in the collector. -/
def State.recordsOf (s : State) (i : Nat) : List Record := s.collector.filter (fun r => r.ctx == i)

/-- Room in a context's audit ring; a context without a ring takes any record, and keeps none. -/
def State.auditRoom (s : State) (i : Nat) : Nat :=
  let l := s.getF F.hiuCtxCtlAuditLog2 i
  if l = 0 then (s.recordsOf i).length
  else 2 ^ l - 1 - ringUsed l (s.getF F.hiuCtxAuditAuditHead i) (s.getF F.hiuCtxAuditAuditTail i)

/-- Take the oldest record of a context out of the collector. -/
def dropRecord (i : Nat) : List Record → List Record
  | [] => []
  | r :: rs => if r.ctx = i then rs else r :: dropRecord i rs

/-- Write one record of a context to its ring. -/
def State.writeRecord (s : State) (i : Nat) : State :=
  match (s.recordsOf i).head? with
  | none => s
  | some r =>
    let s := { s with collector := dropRecord i s.collector }
    let l := s.getF F.hiuCtxCtlAuditLog2 i
    if l = 0 then s else
    let tail := s.getF F.hiuCtxAuditAuditTail i
    let s := s.emit (.hostWrite (s.getF F.hiuAuditBaseAuditBase i + 32 * tail) r.bytes)
    let s := s.setF F.hiuCtxAuditAuditTail ((tail + 1) % 2 ^ l) i
    let c := s.ctx i
    s.setCtx i { c with auditCount := c.auditCount + 1 }

/-- Write the count of records written since enabling to AUDIT_WB; a context without a ring writes none. -/
def State.writeCount (s : State) (i : Nat) : State :=
  if s.getF F.hiuCtxCtlAuditLog2 i = 0 then s else s.emit (.hostWrite (s.getF F.hiuAuditWbAuditWb i) (natLe 8 (s.ctx i).auditCount))

/-- Records that can be written of `n` asked for. -/
def State.writable (s : State) (i n : Nat) : Nat := min n (min (s.recordsOf i).length (s.auditRoom i))

/-- Write up to `n` records in order. -/
def State.moveRecords (s : State) (i n : Nat) : State := ((List.range (s.writable i n)).foldl (fun (s : State) _ => s.writeRecord i) s).thaw

/-- Write a group of up to `n` records, then the count. -/
def State.writeRecords (s : State) (i n : Nat) : State := if s.writable i n = 0 then s else (s.moveRecords i n).writeCount i

/-- Every record of a context can be written before its ledger. No record is ever dropped, so a ledger waits for room in the ring, that of a context
being torn down too (R110, log entry 43). -/
def State.recordsFit (s : State) (i : Nat) : Bool := decide ((s.recordsOf i).length ≤ s.auditRoom i)

/-- Before a ledger: write the records of a context that are left, and the count, even where no record was left. -/
def State.flushRecords (s : State) (i : Nat) : State := (s.moveRecords i (s.recordsOf i).length).writeCount i

end Sys2Proof.Machine
end

