-- ==== Sys2Proof/Machine/Context.lean ====
section
/-! DEFINITION. Rings, doorbells, fetch and dispatch of descriptors, their checks, the control queue (R388 to R396). -/

namespace Sys2Proof.Machine

/-! ### Doorbells (R389) -/

/-- A doorbell write of a function to a context, with the size its value must stay below. -/
def State.doorbell (s : State) (i func v size : Nat) (k : State → State) : State :=
  let bad := s.bump F.hiuEventsBadDoorbell
  if s.stopped then s
  else if func ≠ s.getF F.hiuCtxCtlFunc i then (if func = 0 then bad else s)
  else if !s.flag F.hiuCtxCtlEnable i then bad
  else if s.ctxState i = 3 then s
  else if size ≤ v then bad
  else k s

/-- Host address of an entry of a context's submission ring (R388). -/
def State.sqAddr (s : State) (i n : Nat) : Nat := s.getF F.hiuSqBaseSqBase i + 64 * (n % 2 ^ s.getF F.hiuCtxCtlSqLog2 i)

/-- Descriptors of a context that the HIU has fetched and that have yet to complete. -/
def CtxSt.unfinished (c : CtxSt) : Nat :=
  c.fetched.length + c.work.length + c.loadq.length + c.control.length + b2n c.fence.isSome + b2n c.inv.isSome + c.jobs.length + b2n c.sw.isSome +
  b2n c.canceling.isSome

/-- Descriptors that may still be fetched so that, whatever ends, no more than 64 completions are ever held (R399). -/
def State.completionRoom (s : State) (i : Nat) : Nat :=
  let c := s.ctx i
  let l := s.getF F.hiuCtxCtlCqLog2 i
  2 ^ l - 1 - ringUsed l (s.getF F.hiuCtxStateCqHead i) (s.getF F.hiuCtxStateCqTail i) + 64 - (c.heldCpl.length + c.unfinished + c.inflight)

/-- Ask host memory for the descriptors that the tail covers, at most 64 ahead of dispatch (R389, R391), and none whose completion could not be held. -/
def State.askFetch (s : State) (i : Nat) : State :=
  if s.ctxState i ≠ 1 || s.stopped then s else
  let l := s.getF F.hiuCtxCtlSqLog2 i
  let head := s.getF F.hiuCtxStateSqHead i
  let c := s.ctx i
  let due := ringUsed l head (s.getF F.hiuCtxStateSqTail i) - c.inflight
  let n := min due (min (64 - c.fetched.length - c.inflight) (s.completionRoom i))
  if n = 0 then s
  else (s.setCtx i { c with inflight := c.inflight + n }).emit (.fetch i ((head + c.inflight) % 2 ^ l) ((List.range n).map (fun k => s.sqAddr i (head + c.inflight + k))))

/-- A new submission tail submits the descriptors up to it; the doorbell write is numbered, to order submissions (R230, log entry 41). -/
def State.submit (s : State) (i tail : Nat) : State :=
  let c := s.ctx i
  let upTo := c.fetches + ringUsed (s.getF F.hiuCtxCtlSqLog2 i) (s.getF F.hiuCtxStateSqHead i) tail
  let s := s.setF F.hiuCtxStateSqTail tail i
  { s.setCtx i { c with rung := c.rung ++ [(upTo, s.doorbells)] } with doorbells := s.doorbells + 1 }

/-- Number of the doorbell write that submitted a context's next descriptor. -/
def CtxSt.stamp (c : CtxSt) : Nat := ((c.rung.find? (fun r => decide (c.fetches < r.1))).map (·.2)).getD 0

/-- SQ_TAIL: a new submission tail; a write that leaves the tail where it stands does nothing. -/
def execSqTail (ctx : CtxId) (func : FuncId) (v : BitVec 32) (s : State) : Host.Outcome State Fault Refusal :=
  .next (s.doorbell ctx func v.toNat (2 ^ s.getF F.hiuCtxCtlSqLog2 ctx) (fun s =>
    if v.toNat = s.getF F.hiuCtxStateSqTail ctx then s else (s.submit ctx v.toNat).askFetch ctx))

/-! ### Checks of a descriptor (R392 to R395, Table 15.7) -/

/-- A context-virtual HBM address lies below 2^48; a base beyond fails the validation of what names it (R312). -/
def baseOk (va : Nat) : Bool := decide (va < 2 ^ 48)

/-- Zero fields and ranges of a body, by opcode (Tables 15.8 to 15.10). -/
def bodyOk (d : Bytes) : Bool :=
  let f := field d
  let z := zeroAt d
  match f 0 1 with
  | 1 => z 58 6 && f 48 8 % 256 == 0 && decide (f 56 1 + f 57 1 ≤ 256) && baseOk (f 16 8) && baseOk (f 24 8) && baseOk (f 32 8)
  | 2 | 3 => decide (f 40 1 < 2) && z 41 23 && baseOk (f 16 8) && decide (f 24 8 ≤ 2 ^ 40) && (z 32 8 || (z 8 8 && z 16 8 && z 24 8))
  | 4 => decide (f 20 1 < 2) && z 21 3 && f 24 8 % 2 ^ 21 == 0 && baseOk (f 24 8) && f 32 8 % 2 ^ 21 == 0 && !z 32 8 && z 40 24
  | 5 => decide (f 8 1 < 2) && z 9 7 && z 24 40
  | 6 => decide (f 16 4 ≤ 65535) && z 20 44
  | 8 => f 16 8 % 256 == 0 && z 24 40
  | 10 => decide (f 8 1 < 2) && z 9 55
  | _ => z 8 56

/-- First check of Table 15.7 that a descriptor fails; the Bool says that the expert gate refused it. -/
def State.descFault (s : State) (i : Nat) (d : Desc) : Option (Status × Bool) :=
  let op := d.opcode
  if op = 0 ∨ 10 < op then some (.descInvalid, false)
  else if tagIndex d.ctxTag ≠ i then some (.descInvalid, false)
  else if d.ctxTag ≠ s.tag i then some (.staleContext, false)
  else if !zeroAt d.bytes 1 1 || !bodyOk d.bytes then some (.descInvalid, false)
  else if op = 1 ∧ bit (s.auditWord i) 0 ∧ s.getF F.hiuCtxCtlAuditLog2 i = 0 then some (.descInvalid, false)
  else if (op = 2 ∨ op = 3) ∧ !zeroAt d.bytes 32 8 ∧ !s.expert then some (.accessViolation, true)
  else none

/-- A descriptor fails its checks: it completes and does nothing; an expert option refused is counted (R392, R501). -/
def State.refuseDesc (s : State) (i : Nat) (d : Desc) (f : Status × Bool) : State :=
  (if f.2 then s.bump F.glbExpertDenied else s).complete i d f.1

/-! ### Dispatch (R391) -/

/-- Send one fetched descriptor to its queue. -/
def State.route (s : State) (i : Nat) (d : Desc) : State :=
  let c := s.ctx i
  let op := d.opcode
  if op = 1 ∨ op = 2 ∨ op = 3 ∨ op = 6 ∨ op = 8 then s.setCtx i { c with work := c.work ++ [d] }
  else match s.descFault i d with
    | some f => s.refuseDesc i d f
    | none =>
      if op = 4 then s.setCtx i { c with loadq := c.loadq ++ [d] }
      else if op = 7 then s.setCtx i { c with fence := some d }
      else s.setCtx i { c with control := c.control ++ [d] }

/-- Dispatch what may go, with fuel: in order, but behind a FENCE only a CANCEL; nothing past 64 held completions, and nothing past a control descriptor
that has yet to act, for each acts as soon as it is fetched (R391, R399); in the held stage of a service hold nothing goes (R481). -/
def State.dispatch (s : State) (i : Nat) : Nat → State
  | 0 => s
  | k + 1 =>
    let c := s.ctx i
    if s.ctxState i ≠ 1 || s.stopped || s.held || decide (64 ≤ c.heldCpl.length) || !c.control.isEmpty then s else
    let next := if c.fence.isSome then c.fetched.find? (fun d => d.opcode == 9) else c.fetched.head?
    match next with
    | none => s
    | some d => ((s.setCtx i { c with fetched := c.fetched.filter (fun x => x.seq != d.seq) }).route i d).dispatch i k

/-- Dispatch, then ask for more. -/
def State.goOn (s : State) (i : Nat) : State := (s.dispatch i 65).askFetch i

/-- DESCRIPTOR_FETCH: descriptors the HIU asked for come in and are dispatched. -/
def execDescriptorFetch (ctx : CtxId) (ds : List Bytes) (s : State) : Host.Outcome State Fault Refusal :=
  let c := s.ctx ctx
  if s.ctxState ctx ≠ 1 || s.stopped then .next (s.setCtx ctx { c with inflight := 0 }) else
  let l := s.getF F.hiuCtxCtlSqLog2 ctx
  let took := ds.take c.inflight
  let s := took.foldl (fun (s : State) (b : Bytes) =>
    let head := s.getF F.hiuCtxStateSqHead ctx
    let next := (head + 1) % 2 ^ l
    let c := s.ctx ctx
    (s.setF F.hiuCtxStateSqHead next ctx).setCtx ctx
      { c with
        fetches := c.fetches + 1, inflight := c.inflight - 1, rung := c.rung.filter (fun r => decide (c.fetches + 1 < r.1))
        fetched := c.fetched ++ [⟨slice b 0 64, c.fetches, head, next, c.stamp⟩] }) s
  .next (s.goOn ctx)

/-- CQ_HEAD: the host has consumed completions; held ones follow, and dispatch goes on. -/
def execCqHead (ctx : CtxId) (func : FuncId) (v : BitVec 32) (s : State) : Host.Outcome State Fault Refusal :=
  .next (s.doorbell ctx func v.toNat (2 ^ s.getF F.hiuCtxCtlCqLog2 ctx) (fun s =>
    let s := s.setF F.hiuCtxStateCqHead v.toNat ctx
    (s.drainHeld ctx (s.ctx ctx).heldCpl.length).goOn ctx))

/-- AUDIT_HEAD: the host has consumed gauge records. -/
def execAuditHead (ctx : CtxId) (func : FuncId) (v : BitVec 32) (s : State) : Host.Outcome State Fault Refusal :=
  let l := s.getF F.hiuCtxCtlAuditLog2 ctx
  .next (s.doorbell ctx func v.toNat (if l = 0 then 0 else 2 ^ l) (fun s => s.setF F.hiuCtxAuditAuditHead v.toNat ctx))

/-! ### The control queue -/

/-- Take the first control descriptor of an opcode. -/
def State.takeControl (s : State) (i op : Nat) : Option (Desc × State) :=
  let c := s.ctx i
  match c.control.find? (fun d => d.opcode == op) with
  | none => none
  | some d => some (d, s.setCtx i { c with control := c.control.filter (fun x => x.seq != d.seq) })

/-- Restart the host heartbeat watchdog, when it is on (R395, R427). -/
def State.heartbeat (s : State) : State := if s.flag F.tmoHbHbEn then { s with hbAt := some s.time } else s

/-- NOP: completes at once; with HEARTBEAT it restarts the host heartbeat watchdog. -/
def execNop (ctx : CtxId) (s : State) : Host.Outcome State Fault Refusal :=
  match (if s.held then none else s.takeControl ctx 10) with
  | none => .next s
  | some (d, s) => .next (((if bit (field d.bytes 8 1) 0 then s.heartbeat else s).complete ctx d .ok).goOn ctx)

/-- Nothing fetched before the pending FENCE is left. -/
def CtxSt.drained (c : CtxSt) : Bool :=
  c.work.isEmpty && c.loadq.isEmpty && c.control.isEmpty && c.inv.isNone && c.copy.isNone && c.load.isNone && c.ckpt.isNone && c.sw.isNone &&
  c.canceling.isNone

/-- FENCE: completes once every descriptor fetched before it has (R391). -/
def execFence (ctx : CtxId) (s : State) : Host.Outcome State Fault Refusal :=
  let c := s.ctx ctx
  match c.fence with
  | none => .next s
  | some d =>
    if c.drained && !s.held then .next (((s.setCtx ctx { c with fence := none }).complete ctx d .ok).goOn ctx) else .next s

/-- CANCEL: every descriptor fetched before it ends; its own completion follows theirs, a withdrawn switch among them (R285, R396, Table 15.11). A message
of the withdrawal that is bound outside the context's block faults it (R378). -/
def execCancel (ctx : CtxId) (s : State) : Host.Outcome State Fault Refusal :=
  if (s.ctx ctx).canceling.isSome || s.ctxState ctx != 1 || s.held then .next s else
  match s.takeControl ctx 9 with
  | none => .next s
  | some (d, s) =>
    let outside := s.withdrawOutside ctx
    let (n, s) := (s.setCtx ctx { s.ctx ctx with canceling := some (d, 0) }).endOthers ctx .cancelled .cancelled (some d.seq)
    let c := s.ctx ctx
    let s := (s.setCtx ctx { c with canceling := c.canceling.map (fun x => (x.1, x.2 + n)) }).tryCancel ctx
    .next ((if outside then s.faultOther ctx .accessViolation else s).goOn ctx)

/-! ### RESUME and the ranges of VFs (R386, R422) -/

/-- RESUME: a faulted context is enabled again, and dispatch restarts from the submission head. -/
def takeResume (ctx : CtxId) (s : State) : Host.Outcome State Fault Refusal :=
  if s.ctxState ctx = 2 && !s.stopped then
    let s := (s.setF F.cxsCtxStateState 1 ctx).setF F.cxsCtxStateResume 1 ctx
    .next ((s.setCtx ctx { s.ctx ctx with inflight := 0 }).goOn ctx)
  else .next s

/-- The contexts of a VF's range (R386). -/
def State.vfRange (s : State) (vf : Nat) : Nat × Nat := (s.getF F.hiuVfRangeFirst vf, s.getF F.hiuVfRangeCount vf)

/-- Give every context its owner again: the VF whose range holds it, else the PF. -/
def State.ownFuncs (s : State) (first count func : Nat) : State :=
  (List.range count).foldl (fun (s : State) j => s.setF F.hiuCtxCtlFunc func (first + j)) s

/-- VF_RANGE_WRITE: a VF's range, unless SR-IOV VF Enable is set, or it overlaps another's or ends above 1,023 (R386). -/
def takeVfRangeWrite (vf : Fin 31) (w : BitVec 32) (s : State) : Host.Outcome State Fault Refusal :=
  let first := bits w.toNat 25 16
  let count := bits w.toNat 6 0
  let overlaps := (List.range 31).any (fun u => u != vf.val &&
    (let (f, n) := s.vfRange u; decide (0 < n) && decide (0 < count) && decide (first < f + n) && decide (f < first + count)))
  if s.stopped then .next s
  else if s.vfEnable || overlaps || decide (1024 < first + count) || decide (64 < count) then .next (s.bump F.hiuEventsVfReject)
  else
    let (f, n) := s.vfRange vf
    let s := s.ownFuncs f n 0
    let s := (s.setF F.hiuVfRangeFirst first vf).setF F.hiuVfRangeCount count vf
    .next (s.ownFuncs first count (vf.val + 1))

/-! ### What teardown frees (Table 16.4) -/

/-- Handles of a core whose polders belong to a context index. -/
def CoreSt.handlesOf (c : CoreSt) (i : Nat) : List Nat := (c.ht.filter (fun p => p.2.valid && tagIndex p.2.owner == i)).map (·.1)

/-- Steps 4 to 6 of Table 16.4 on one core. -/
def State.freeCore (s : State) (core i : Nat) : State :=
  let mine := fun (tag : Nat) => tagIndex tag == i
  let c := s.core core
  let s := s.setCore core { c with
    tslots := c.tslots.filter (fun p => !mine p.2.owner)
    udir := c.udir.filter (fun p => !(p.2.valid && !p.2.lib && mine p.2.owner))
    trailerOwner := c.trailerOwner.filter (fun p => !mine p.2)
    strms := c.strms.map (fun (p : Nat × Strm) => if mine p.2.owner then (p.1, p.2.unbound) else p)
    bars := c.bars.filter (fun p => !mine p.2.owner)
    tides := c.tides.filter (fun t => !mine t.tag)
    rngs := c.rngs.del i
    creds := c.creds.map (fun (p : Nat × Credit) => if mine p.2.owner && p.2.state != 0 then (p.1, ({ p.2 with timer := none, held := [] } : Credit)) else p) }
  (c.handlesOf i).foldl (fun (s : State) h => s.freePolder core h) s

/-- Steps 3 to 6 of Table 16.4, once no INVOKE of the context runs: the key is destroyed, everything it holds is freed, sluices close. -/
def State.freeContext (s : State) (i : Nat) : State :=
  let s := s.setCtx i { s.ctx i with hbmKey := none, bank0 := .empty, bank1 := .empty, members := [], prepared := none, sw := none, freed := true }
  let s := (List.range 192).foldl (fun (s : State) k => s.freeCore k i) s
  let s := { s with
    engines := s.engines.map (fun (p : Nat × GeSt) => (p.1, { p.2 with entries := p.2.entries.filter (fun y => tagIndex y.tag != i) }))
    hashBusy := s.hashBusy.filter (fun h => h.2.2 != i)
    refetch := s.refetch.filter (fun r => r.ctx != i) }
  s.setReg .tideCtx i Reg.tideCtx.resetValue

/-- Steps 3 to 6 begin once no INVOKE of a context being torn down runs, and no job whose retry is under way (R105). -/
def State.freeIfIdle (s : State) (i : Nat) : State :=
  let c := s.ctx i
  if s.ctxState i = 3 ∧ c.inv.isNone ∧ c.jobs.isEmpty ∧ !c.freed then s.freeContext i else s

end Sys2Proof.Machine
end

