-- ==== Sys2Proof/Machine/Maps.lean ====
section
/-! DEFINITION. What an INVOKE names in memory: program image, tide map, gather list, read and validated before anything is bound
(R256, R257, R260 to R264, R320, R321). -/

namespace Sys2Proof.Machine

/-- A read of device memory for the CXS, or what stops it: a status, or nothing while a refetch is under way. -/
abbrev Rd (α : Type) : Type := Except (Option Status) α × State

/-- Go on with what was read. -/
def rdThen {α β : Type} (x : Rd α) (f : α → State → Rd β) : Rd β :=
  match x with
  | (.ok a, s) => f a s
  | (.error e, s) => (.error e, s)

/-- Read one item after another. -/
def rdEach {α β : Type} (f : α → State → Rd β) (l : List α) (s : State) : Rd (List β) :=
  l.foldl (fun acc a => rdThen acc (fun bs s => rdThen (f a s) (fun b s => (.ok (bs ++ [b]), s)))) (.ok [], s)

/-- Refuse with a status when a condition fails. -/
def rdCheck {β : Type} (ok : Bool) (st : Status) (s : State) (k : Rd β) : Rd β := if ok then k else (.error (some st), s)

/-- Read bytes of the context's memory on this chip. -/
def State.cxsRead (s : State) (tag va n : Nat) : Rd Bytes :=
  if n = 0 then (.ok [], s) else
  match s.readVa .mp tag va n false with
  | (.data bs, s) => (.ok bs, s)
  | (.failed st, s) => (.error (some st), s)
  | (.wait, s) => (.error none, s)

/-! ### The program image (Tables 9.18, 9.19) -/

/-- A core record with what it locates. -/
structure CoreRec where
  core : Nat
  handle : Nat
  residentCode : Bool
  gran : Nat
  codeOffset : Nat
  words : Nat
  streams : Nat
  counters : Nat
  targets : List Nat
  tasks : List Nat
  deriving DecidableEq, Repr

/-- Ranges and zero bits of a core record of 64 bytes, in an image of a length. -/
def coreRecOk (r : Bytes) (len : Nat) : Bool :=
  let f := field r
  let gran := f 6 2
  let words := f 16 4
  decide (f 0 2 ≤ 191) && decide (f 3 1 < 2) && decide (1 ≤ f 4 2) && decide (f 4 2 ≤ 64) && decide (1 ≤ gran) && decide (gran ≤ 384) &&
  f 8 8 % 256 == 0 && decide (1 ≤ words) && decide (words ≤ 512 * gran) && zeroAt r 48 16 &&
  decide (f 8 8 + 16 * words ≤ len) && decide (f 32 8 + 256 ≤ len) && decide (f 40 8 + 8 * f 4 2 ≤ len)

/-- Read a core record and its lists. -/
def State.readCoreRec (s : State) (tag va len j : Nat) : Rd CoreRec :=
  rdThen (s.cxsRead tag (va + 64 + 64 * j) 64) (fun r s =>
    rdCheck (coreRecOk r len) .descInvalid s
    (rdThen (s.cxsRead tag (va + field r 32 8) 256) (fun tb s =>
      rdThen (s.cxsRead tag (va + field r 40 8) (8 * field r 4 2)) (fun kb s =>
        let targets := (List.range 64).map (fun c => field tb (4 * c) 4)
        let tasks := (List.range (field r 4 2)).map (fun t => field kb (8 * t) 8)
        rdCheck (targets.all (fun t => decide (t < 2 ^ 23)) && tasks.all (fun t => decide (t < 2 ^ 18) && decide (t < field r 16 4))) .descInvalid s
        (.ok ⟨field r 0 2, field r 2 1, field r 3 1 == 1, field r 6 2, field r 8 8, field r 16 4, field r 20 4, field r 24 8, targets, tasks⟩, s)))))

/-- Numbers strictly ascend. -/
def ascending : List Nat → Bool
  | a :: b :: t => decide (a < b) && ascending (b :: t)
  | _ => true

/-- Read and validate the program image (R257). -/
def State.readImage (s : State) (tag va : Nat) : Rd (List CoreRec) :=
  rdThen (s.cxsRead tag va 64) (fun h s =>
    let n := field h 4 2
    let len := field h 8 8
    rdCheck (field h 0 2 == 1 && field h 2 2 == 0x100 && decide (1 ≤ n) && decide (n ≤ 192) && zeroAt h 6 2 && zeroAt h 16 48 &&
      decide (64 + 64 * n ≤ len)) .descInvalid s
    (rdThen (rdEach (fun j s => s.readCoreRec tag va len j) (List.range n) s) (fun rs s =>
      rdCheck (ascending (rs.map (·.core))) .descInvalid s (.ok rs, s))))

/-! ### The tide map (Tables 10.1 to 10.5) -/

/-- A ring record. -/
structure RingRec where
  kind : Nat
  axis : Nat
  members : List Nat
  deriving DecidableEq, Repr

/-- An inner ring record with its index. -/
structure InnerRec where
  index : Nat
  len : Nat
  ring : Nat
  mode : Nat
  tideH : Nat
  originH : Nat
  ebbH : Nat
  tideCr : Nat
  ebbCr : Nat
  tideGran : Nat
  ebbGran : Nat
  originGran : Nat
  kvTokens : Nat
  round : Nat
  zero : Bool
  cores : List Nat
  deriving DecidableEq, Repr

/-- A tide map. -/
structure TideMap where
  mirrorOff : Bool
  window : Nat
  size : Nat
  bank0 : Nat
  bank1 : Nat
  rings : List RingRec
  inner : List InnerRec
  deriving DecidableEq, Repr

/-- DIR of an inner ring. -/
def InnerRec.down (r : InnerRec) : Bool := bit r.mode 0
/-- KV of an inner ring. -/
def InnerRec.kv (r : InnerRec) : Bool := bit r.mode 1
/-- COMPRESSED of an inner ring. -/
def InnerRec.compressed (r : InnerRec) : Bool := bit r.mode 2
/-- An ebb is present. -/
def InnerRec.ebb (r : InnerRec) : Bool := r.ebbH != 0xFF

/-- A region of a map, by its offset and length, lies in it. A map has no length of its own: it ends where the context's addresses do (R262, log entry 23). -/
def inMap (va off len : Nat) : Bool := decide (va + off + len ≤ 2 ^ 48)

/-- Read the header, rings and inner rings of a map; zero fields and header ranges hold, and every region lies in the map (first row of Table 10.5). -/
def State.readMap (s : State) (tag va : Nat) : Rd TideMap :=
  rdThen (s.cxsRead tag va 64) (fun h s =>
    let nr := field h 2 1
    let ni := field h 3 1
    rdCheck (field h 0 2 == 1 && decide (1 ≤ nr) && decide (nr ≤ 3) && decide (1 ≤ ni) && decide (ni ≤ 48) && decide (field h 4 4 < 2) &&
      field h 8 8 % 2 ^ 21 == 0 && field h 16 8 % 2 ^ 21 == 0 && !zeroAt h 16 8 && zeroAt h 56 8 &&
      baseOk (field h 8 8) && baseOk (field h 24 8) && baseOk (field h 32 8) &&
      inMap va (field h 40 8) (32 * nr) && inMap va (field h 48 8) (80 * ni)) .descInvalid s
    (rdThen (rdEach (fun j s => rdThen (s.cxsRead tag (va + field h 40 8 + 32 * j) 32) (fun r s =>
        rdCheck (zeroAt r 3 5 && zeroAt r 16 16 && inMap va (field r 8 8) (2 * field r 2 1)) .descInvalid s
        (rdThen (s.cxsRead tag (va + field r 8 8) (2 * field r 2 1)) (fun mb s =>
          (.ok ⟨field r 0 1, field r 1 1, (List.range (field r 2 1)).map (fun k => field mb (2 * k) 2)⟩, s))))) (List.range nr) s) (fun rings s =>
      rdThen (rdEach (fun j s => rdThen (s.cxsRead tag (va + field h 48 8 + 80 * j) 80) (fun r s =>
        let len := field r 0 1
        (.ok { index := j, len := len, ring := field r 1 1, mode := field r 2 1, tideH := field r 3 1, originH := field r 4 1, ebbH := field r 5 1
               tideCr := field r 6 1, ebbCr := field r 7 1, tideGran := field r 8 2, ebbGran := field r 10 2, originGran := field r 12 2
               kvTokens := field r 14 2, round := field r 16 4, zero := zeroAt r 20 12 && zeroAt r (32 + min len 48) (48 - min len 48)
               cores := (List.range (min len 48)).map (fun k => field r (32 + k) 1) }, s))) (List.range ni) s) (fun inner s =>
        rdCheck (inner.all (·.zero)) .descInvalid s
        (.ok ⟨field h 4 4 == 1, field h 8 8, field h 16 8, field h 24 8, field h 32 8, rings, inner⟩, s)))))

/-- Members of each ring of a map, from its header and ring records alone. -/
def State.ringSizes (s : State) (tag va : Nat) : Rd (List Nat) :=
  rdThen (s.cxsRead tag va 64) (fun h s =>
    rdEach (fun j s => rdThen (s.cxsRead tag (va + field h 40 8 + 32 * j) 32) (fun r s => (.ok (field r 2 1), s))) (List.range (field h 2 1)) s)

/-- Planned peer chip of a chip's torus port. -/
def State.plannedPeer (s : State) (chip n : Nat) : Option Nat :=
  match s.plan with
  | none => none
  | some p =>
    match p.entries.find? (fun e => e.chip == chip) with
    | none => none
    | some e => match e.ports[n]? with
      | some r => if r.kind = 1 then some r.peerChip else none
      | none => none

/-- Two chips are planned neighbours on one of some ports of the first. -/
def State.neighbours (s : State) (a b : Nat) (ports : List Nat) : Bool := ports.any (fun n => s.plannedPeer a n == some b)

/-- Ports a ring may use. -/
def RingRec.ports (r : RingRec) : List Nat := if r.kind = 3 then List.range 6 else [2 * r.axis, 2 * r.axis + 1]

/-- This chip's number in a member list. -/
def State.nameOf (s : State) (m : Nat) : Nat := if s.isHere m then s.chip else m

/-- Consecutive members are planned neighbours as Table 10.4 requires. -/
def State.ringLinked (s : State) (r : RingRec) : Bool :=
  let ms := r.members.map s.nameOf
  let pairs := ms.zip (ms.drop 1 ++ ms.take 1)
  let pairs := if r.kind = 1 then pairs.dropLast else pairs
  r.kind == 2 || pairs.all (fun p => s.neighbours p.1 p.2 r.ports)

/-- This chip's place in a ring. -/
def State.ringPos (s : State) (r : RingRec) : Nat := (r.members.findIdx? s.isHere).getD 0

/-- Ports of this chip that a ring's links use. -/
def State.ringPorts (s : State) (r : RingRec) : List Nat :=
  let p := r.members.length
  let k := s.ringPos r
  let near := if p ≤ 1 then [] else if r.kind = 1 then (if k + 1 < p then [k + 1] else []) ++ (if 0 < k then [k - 1] else []) else [(k + 1) % p, (k + p - 1) % p]
  let chips := near.map (fun j => r.members.getD j 0)
  r.ports.filter (fun n => match s.plannedPeer s.chip n with
    | some c => chips.contains c
    | none => false)

/-- Members of a kind (Table 10.4). -/
def membersOk (kind n : Nat) : Bool :=
  if kind = 0 then n == 4 else if kind = 1 then n == 2 || n == 3 else if kind = 2 then n == 1 else n == 64

/-- No item twice. -/
def distinct (l : List Nat) : Bool := l.eraseDups.length == l.length

/-- Field ranges of an inner ring record (Table 10.3). -/
def innerOk (rings : List RingRec) (r : InnerRec) : Bool :=
  r.len == 0 ||
  ([4, 8, 12, 16, 24, 48].contains r.len && decide (r.ring < rings.length) && decide (r.mode < 8) && decide (r.tideCr < 64) && decide (r.ebbCr < 64) &&
   decide (2 ≤ r.tideGran) && decide (r.tideGran ≤ 384) && decide (2 ≤ r.originGran) && decide (r.originGran ≤ 384) &&
   (if r.ebb then decide (1 ≤ r.ebbGran) && decide (r.ebbGran ≤ 64) else r.ebbGran == 0) &&
   (r.kv || r.kvTokens == 0) && decide (r.kvTokens ≤ 2048) && decide (1 ≤ r.round) && decide (r.round ≤ 65535) &&
   distinct r.cores && r.cores.all (fun c => decide (c ≤ 191)) &&
   !(r.down && (match rings[r.ring]? with | some g => g.kind != 0 | none => true)))

/-- The canonical record of index `n` at basic level (R262). -/
def InnerRec.canonical (r : InnerRec) : Bool := r.len == 16 && r.cores == (List.range 16).map (fun k => 16 * r.index + k)

/-- Two ranges of a length meet. -/
def meets (a b n : Nat) : Bool := decide (a < b + n) && decide (b < a + n)

/-- A ring link is neither down, diked nor quarantined: it is up, or it retrains on fewer lanes and packets wait for it (R345, R376, R379). -/
def State.linkStands (s : State) (n : Nat) : Bool := s.portState n == 3 || (s.portState n == 2 && (s.port n).degrade && !(s.port n).quarantined)

/-- First row of Table 10.5 below its first that a map fails, then the banks (R264, R395); the Bool says the expert gate refused it. -/
def State.mapFault (s : State) (i : Nat) (m : TideMap) : Option (Status × Bool) :=
  let c := s.ctx i
  let axes := (m.rings.filter (fun r => r.kind != 3)).map (·.axis)
  let bankOff := fun (b : Bank) (base : Nat) => b.digest.isSome && b.base != base
  if !m.rings.all (fun r => membersOk r.kind r.members.length) then some (.descInvalid, false)
  else if !distinct axes || (m.rings.any (fun r => r.kind == 3) && m.rings.length != 1) ||
      m.rings.any (fun r => decide (3 < r.kind) || decide (2 < r.axis) || (r.kind == 3 && r.axis != 0)) then some (.descInvalid, false)
  else if !m.rings.all (fun r => (r.members.filter s.isHere).length == 1) then some (.descInvalid, false)
  else if m.rings.any (fun r => r.members.any (fun k => !s.isHere k && (rackOf k != rackOf s.chip || !s.inBlock i k))) then some (.accessViolation, false)
  else if !m.rings.all s.ringLinked then some (.descInvalid, false)
  else if m.rings.any (fun r => (s.ringPorts r).any (fun n => !s.linkStands n)) then some (.partitioned, false)
  else if !m.inner.all (innerOk m.rings) then some (.descInvalid, false)
  else if m.inner.any (fun r => r.len != 0 && r.kv && (r.ebb || r.kvTokens == 0)) then some (.descInvalid, false)
  else if !s.expert && (m.inner.length != 12 || !m.inner.all (·.canonical) || m.mirrorOff) then some (.accessViolation, true)
  else if meets m.window m.bank0 m.size || meets m.window m.bank1 m.size || meets m.bank0 m.bank1 m.size then some (.descInvalid, false)
  else if bankOff c.bank0 m.bank0 || bankOff c.bank1 m.bank1 then some (.descInvalid, false)
  else none

/-! ### The gather list (Table 12.2) -/

/-- A polder reference of a descriptor keeps its zero bits. -/
def refOk (d : Bytes) (o : Nat) : Bool := decide (field d o 4 < 2 ^ 22)

/-- Ranges and zero fields of a gather descriptor, and of its table (R317, R320). -/
def gatherDescOk (d : Bytes) : Bool :=
  let f := field d
  let z := zeroAt d
  let mode := gMode d
  let sl := mode == 4
  decide (f 0 1 < 16) && decide (mode ≤ 4) && decide (f 1 1 < 32) && [0, 1, 8, 9, 0xB].contains (gFormat d) && z 3 1 &&
  gRowBytes d % 32 == 0 && decide (32 ≤ gRowBytes d) && decide (gRowBytes d ≤ 4096) && decide (1 ≤ gRepeat d) && (!sl || gRepeat d == 1) &&
  decide (f 8 4 < 65536) && (!sl || z 8 4) && (!sl || z 32 8) && decide (1 ≤ gShardRows d) && baseOk (gTable d) && baseOk (gTags d) && baseOk (gChips d) && gStride d % 32 == 0 && decide (gRowBytes d ≤ gStride d) &&
  (if sl then gShards d == 0 else decide (1 ≤ gShards d) && decide (gShards d ≤ 16383)) && decide (gCore d ≤ 191) && decide (f 51 1 < 64) &&
  decide (f 52 4 < 2 ^ 29) && (!bit (f 52 4) 28 || decide (bits (f 52 4) 21 14 ≤ 191)) &&
  (sl || (refOk d 56 && refOk d 60)) && (if mode == 2 then refOk d 64 else z 64 4) && (if sl then z 68 4 else refOk d 68) &&
  (if gBagFlags d then refOk d 72 else z 72 4) && z 80 48

/-- Every TRIGGER is a declared counter, and no two descriptors name the same one (R321). -/
def triggersOk (recs : List CoreRec) (ds : List Bytes) : Bool :=
  ds.all (fun d => recs.any (fun r => r.core == gCore d && bit r.counters (gTrigger d))) && distinct (ds.map (fun d => 64 * gCore d + gTrigger d))

/-- Read and validate the gather list; an address of zero means none. -/
def State.readGather (s : State) (tag va : Nat) (recs : List CoreRec) : Rd (List Bytes) :=
  if va = 0 then (.ok [], s) else
  rdThen (s.cxsRead tag va 16) (fun h s =>
    let n := field h 2 2
    rdCheck (field h 0 2 == 1 && decide (n ≤ 256) && zeroAt h 4 12) .descInvalid s
    (rdThen (rdEach (fun j s => s.cxsRead tag (va + 16 + 128 * j) 128) (List.range n) s) (fun ds s =>
      rdCheck (ds.all gatherDescOk && (List.range 16).all (fun e => decide ((ds.filter (fun d => field d 0 1 == e)).length ≤ 16)) && triggersOk recs ds)
        .descInvalid s (.ok ds, s))))

end Sys2Proof.Machine
end

