-- ==== Sys2Proof/Machine/Invoke.lean ====
section
/-! DEFINITION. The life of an INVOKE: start, binding, end, ledger; cancelling; LEDGER_CLOSE (Tables 1.6, 8.10, 9.20, R24 to R28, R230 to R233, R263, R397). -/

namespace Sys2Proof.Machine

/-- Change the running INVOKE of a context. -/
def State.setInv (s : State) (i : Nat) (f : Invoke → Invoke) : State :=
  let c := s.ctx i
  s.setCtx i { c with inv := c.inv.map f }

/-! ### Start (step 3, step 4) -/

/-- A pending switch that has committed takes effect at the start of its step: the bank turns, and it completes (R284 step 4). -/
def State.bankSwitch (s : State) (i : Nat) : State :=
  let c := s.ctx i
  match c.sw with
  | some w =>
    match w.commit with
    | some n =>
      if n ≤ s.getF F.tideCtxStep i then
        let s := (s.setF F.tideCtxBank w.bank i).setF F.tideCtxSwitch 0 i
        (s.setCtx i { s.ctx i with sw := none }).complete i w.desc .ok false n
      else s
    | none => s
  | none => s

/-- The block test of R377. -/
def State.blockOk (s : State) (i : Nat) : Bool :=
  let inside := fun (chip : Nat) => s.inBlock i chip
  s.flag F.topoCtxBlockValid i &&
  (match s.plan with
  | none => inside 0
  | some p =>
    let base := rackOf s.chip * 64
    inside s.chip && (List.range 64).all (fun k => !inside (base + k) ||
      p.entries.any (fun e => e.chip == base + k && !e.routingOnly)))

/-- A tide map names a ring of more than one member: refused while fabric time runs free, whatever else the map holds (R381). A map that cannot be read yet
makes the INVOKE wait; one that cannot be read at all is for step 5. -/
def State.freeRunRefuses (s : State) (i va : Nat) : Rd Bool :=
  if !s.flag F.lnkTimeCtlFreeRun || va == 0 then (.ok false, s) else
  match s.ringSizes (s.tag i) va with
  | (.ok ns, t) => (.ok (ns.any (fun n => decide (1 < n))), t)
  | (.error (some _), t) => (.ok false, t)
  | (.error none, t) => (.error none, s.keepRefetch t)

/-- The active bank of a context (R264). -/
def State.activeBank (s : State) (i : Nat) : Bank := if s.getF F.tideCtxBank i = 0 then (s.ctx i).bank0 else (s.ctx i).bank1

/-- An INVOKE may not start while fabric time is unlocked (R361), beside a LOAD_SHARD of the active bank that precedes it, or while a prepared switch holds it (R282, R284, R391). -/
def State.invokeHeld (s : State) (i : Nat) (d : Desc) : Bool :=
  let c := s.ctx i
  let active := s.getF F.tideCtxBank i
  !s.locked || (c.load.any (fun j => field j.desc.bytes 20 1 % 2 == active)) ||
  c.loadq.any (fun x => decide (x.seq < d.seq) && field x.bytes 20 1 % 2 == active) ||
  (match c.sw with | some w => w.preparedSent && w.commit.isNone | none => false)

/-- What an INVOKE records at its start (step 4, R48, R115). -/
def State.openInvoke (s : State) (i : Nat) (d : Desc) : State :=
  let s := s.bankSwitch i
  let step := s.getF F.tideCtxStep i
  let s := s.setF F.tideCtxStep (step + 1) i
  let f := field d.bytes
  let (r, s) := if f 40 8 = 0 then (let (x, s) := s.draw; (x.toNat, s)) else (f 40 8, s)
  let c := s.ctx i
  let v : Invoke :=
    { desc := d, bound := false, id := f 8 8, seed := r, seedDrawn := f 40 8 == 0, timeStart := s.time, kappa := s.getF F.ckuCtxCfgKappa i
      drainChk := s.getF F.ckuCtxCfgDrainChk i, audit := s.auditWord i, cmpCfg := s.reg .seCmpCtxCfg i, prio := s.getF F.cxsCtxCfgPriority i
      waits := false, needs := [], engineNeeds := [], trailNeeds := [], ending := none, endAt := none, stopped := false, tally := Tally.zero
      supply := b2n s.inSupply, expertSeen := s.expert, suspects := [], unitSuspect := false, inputs := f 56 1, outputs := f 57 1, digests := []
      manifest := (s.activeBank i).digest.getD [], ring := false, members := [], links := [], cores := [], window := (0, 0, 0, 0), usesTide := false
      breaks := [], haltSent := false, halted := [] }
  s.setCtx i { c with inv := some v }

/-- Nothing of the work queue runs. -/
def CtxSt.idleWork (c : CtxSt) : Bool := c.inv.isNone && c.copy.isNone && c.ckpt.isNone

/-- INVOKE: the work queue's next INVOKE is checked and started (steps 3 and 4 of Table 1.6). -/
def execInvoke (ctx : CtxId) (s : State) : Host.Outcome State Fault Refusal :=
  let c := s.ctx ctx
  if s.ctxState ctx ≠ 1 || s.noStart || !c.idleWork then .next s else
  match c.work with
  | [] => .next s
  | d :: rest =>
    if d.opcode ≠ 1 then .next s
    else if (s.descFault ctx d).isNone && s.invokeHeld ctx d then .next s
    -- its seed is to be drawn, and SEC holds the draw (R445)
    else if (s.descFault ctx d).isNone && s.healthAt.isSome && field d.bytes 40 8 == 0 then .next s.holdDraw
    else
      let s := s.setCtx ctx { c with work := rest }
      match s.descFault ctx d with
      | some f => .next (s.refuseDesc ctx d f)
      | none =>
        if !s.blockOk ctx then .next (s.complete ctx d .descInvalid)
        else match s.freeRunRefuses ctx (field d.bytes 24 8) with
          | (.ok true, s) => .next (s.complete ctx d .partitioned)
          | (.ok false, s) => .next (s.openInvoke ctx d)
          | (.error _, s) => .next (s.setCtx ctx { s.ctx ctx with work := d :: rest })

/-! ### Resources (R230, R277, R322) -/

/-- First of `n` free trailer entries in a row. -/
def CoreSt.freeTrail (c : CoreSt) (n : Nat) : Option Nat :=
  (List.range (513 - n)).find? (fun b => (List.range n).all (fun j => (c.trailerOwner.find (b + j)).isNone))

/-- Everything an INVOKE declares is free. -/
def State.fits (s : State) (needs : List (Nat × Nat × Nat)) (engines : List Nat) (trails : List (Nat × Nat)) : Bool :=
  needs.all (fun (k, st, ct) =>
    let c := s.core k
    (List.range 32).all (fun j => !(bit st j && (c.strm j).bound)) && (List.range 64).all (fun j => !(bit ct j && (c.bar j).bound))) &&
  (List.range 16).all (fun e => decide ((s.engine e).entries.length + (engines.filter (· == e)).length ≤ 16)) &&
  trails.all (fun (k, n) => n == 0 || ((s.core k).freeTrail n).isSome)

/-- An INVOKE of another context waits ahead of this one, and could be bound now: by priority, then by submission (R230). -/
def State.aheadOf (s : State) (i : Nat) (v : Invoke) : Bool :=
  s.ctxs.any (fun (k, c) => k != i &&
    (match c.inv with
    | some u => u.waits && !u.bound && u.ending.isNone &&
        (decide (v.prio < u.prio) || (u.prio == v.prio && decide (u.desc.order < v.desc.order))) &&
        s.fits u.needs u.engineNeeds u.trailNeeds
    | none => false))

/-- Trailer entries that a map takes on a core (R277). -/
def trailCount (m : TideMap) (core : Nat) : Nat :=
  (m.inner.filter (fun r => r.len != 0 && r.ebb && r.cores.contains core)).foldl
    (fun n r => n + 4 * r.ebbGran + (if r.cores.getLast? == some core then 4 * r.originGran else 0)) 0

/-- Cores of the enabled inner rings. -/
def TideMap.cores (m : TideMap) : List Nat := ((m.inner.filter (fun r => r.len != 0)).map (·.cores)).flatten.eraseDups

/-! ### Loading a core (Table 9.20) -/

/-- Bind a core's declared streams and counters, targets set. -/
def State.bindDeclared (s : State) (tag : Nat) (r : CoreRec) : State :=
  let c := s.core r.core
  let c := (List.range 32).foldl (fun (c : CoreSt) j =>
    if bit r.streams j then c.setStrm j { (c.strm j).unbound with owner := tag, bound := true } else c) c
  let c := (List.range 64).foldl (fun (c : CoreSt) j =>
    if bit r.counters j then c.setBar j { Bar.free with bound := true, owner := tag, target := r.targets.getD j 0 } else c) c
  s.setCore r.core { c with rngs := c.rngs.del (tagIndex tag) }

/-- Allocate a polder for the CXS, which waits while the dredger zeroes what is left of its granules (R135, log entry 18); a failure is DESC_INVALID (R134). -/
def State.cxsAlloc (s : State) (core tag : Nat) (r : AllocReq) : Rd Unit :=
  match s.alloc core tag r none with
  | .error reason => (.error (some .descInvalid), s.recordAllocFail core reason r)
  | .ok (true, s) => (.ok (), s)
  | .ok (false, s) =>
    let p := (s.core core).polder r.handle
    (.ok (), s.zeroGranules core ((List.range p.length).map (p.base + ·)))

/-- Allocate a core's code polder and copy its code, as one BLOCK_CRC event: a block damaged on its way is fetched again once (R96, R258, R259). -/
def State.loadCode (s : State) (tag va : Nat) (r : CoreRec) (hit : Hit) : Rd Unit :=
  let c := s.core r.core
  let p := c.polder r.handle
  let i := tagIndex tag
  if r.residentCode && p.valid && p.owner == tag then
    if p.code && p.resident && p.length == r.gran then (.ok (), s) else (.error (some .descInvalid), s)
  else
    rdThen (s.cxsAlloc r.core tag ⟨r.handle, r.gran, true, r.residentCode, false, false, false, true, 0, 0, 0⟩) (fun _ s =>
      rdThen (s.cxsRead tag (va + r.codeOffset) (16 * r.words)) (fun bs s =>
        let (landed, again, lost) := moveBlocks bs hit
        match s.spmWrite r.core ((s.core r.core).abs r.handle 0) landed with
        | (false, s) => (.error (some .uncorrectable), s)
        | (true, s) =>
          let s := s.movedBlocks i 7 (sourceOf 0 r.core) 0xFFFF (ceilDiv landed.length 2048) again lost false
          if lost then (.error (some .damagedBlock), s) else (.ok (), s)))

/-! ### Tide polders and bindings (Table 10.6) -/

/-- What core number `k` of an inner ring knows of it. -/
def State.tideBind (s : State) (tag : Nat) (m : TideMap) (r : InnerRec) (k ebbTrail startTrail : Nat) : TideBind :=
  let g := (m.rings[r.ring]?).getD ⟨2, 0, []⟩
  let p := g.members.length
  let me := s.ringPos g
  let step := fun (d : Nat) => g.members.getD ((me + d) % max 1 p) 0
  let downstream := if r.down then step (p - 1) else step 1
  let upstream := if r.down then step 1 else step (p - 1)
  let exit := k + 1 == r.len
  let name := fun (c : Nat) => if s.isHere c then s.self else c
  { tag := tag, index := r.index, ring := r.ring, kv := r.kv, compressed := r.compressed, bank := s.getF F.tideCtxBank (tagIndex tag), dirDown := r.down
    tideH := r.tideH, originH := r.originH, ebbH := if r.ebb then some r.ebbH else none, tideCr := r.tideCr, ebbCr := r.ebbCr, kvTokens := r.kvTokens
    round := r.round, len := r.len, pos := k, members := p, me := me, single := p ≤ 1
    fwdCore := if exit then r.cores.getD 0 0 else r.cores.getD (k + 1) 0, fwdChip := if exit then name downstream else s.self
    backCore := if k = 0 then r.cores.getD (r.len - 1) 0 else r.cores.getD (k - 1) 0, backChip := if k = 0 then name upstream else s.self
    admitted := 0, origins := 0, ebbs := 0, ebbTrail := ebbTrail, startTrail := startTrail }

/-- The polders of one core of an inner ring: handle, granules, sluice, compressed, and the sender of a sluice (Table 10.6). -/
def TideBind.polders (t : TideBind) (r : InnerRec) : List AllocReq :=
  let one := fun (h gran : Nat) (sluice compressed : Bool) (chip core credit : Nat) =>
    (⟨h, gran, true, false, compressed, sluice, false, false, chip, core, credit⟩ : AllocReq)
  (if t.entry && t.single then [] else [one r.tideH r.tideGran true r.compressed t.backChip t.backCore r.tideCr]) ++
  (if t.entry then [one r.originH r.originGran false r.compressed 0 0 0] else []) ++
  (if r.ebb then [one r.ebbH r.ebbGran true false t.fwdChip t.fwdCore r.ebbCr] else []) ++
  (if r.ebb && t.exit then [one r.originH r.originGran false false 0 0 0] else [])

/-- Bind one core of an inner ring: trailer entries, polders, the binding. -/
def State.bindTide (s : State) (tag : Nat) (m : TideMap) (r : InnerRec) (k : Nat) : Rd Unit :=
  let core := r.cores.getD k 0
  let c := s.core core
  let n := if r.ebb then 4 * r.ebbGran + (if k + 1 = r.len then 4 * r.originGran else 0) else 0
  let base := if n = 0 then 0 else (c.freeTrail n).getD 0
  let owner := (List.range n).foldl (fun (t : Table Nat) j => t.put (base + j) tag) c.trailerOwner
  let t := s.tideBind tag m r k base (base + 4 * r.ebbGran)
  let s := s.setCore core { c with trailerOwner := owner, tides := c.tides ++ [t] }
  rdThen (rdEach (fun q s => s.cxsAlloc core tag q) (t.polders r) s) (fun _ s => (.ok (), s))

/-- Bind every enabled inner ring. -/
def State.bindMap (s : State) (tag : Nat) (m : TideMap) : Rd Unit :=
  rdThen (rdEach (fun (r : InnerRec) s => rdEach (fun k s => s.bindTide tag m r k) (List.range r.len) s) (m.inner.filter (fun r => r.len != 0)) s)
    (fun _ s => (.ok (), s))

/-- Load the gather entries; each engine waits on its trigger (R322, R323). -/
def State.bindGather (s : State) (tag prio : Nat) (ds : List Bytes) : State :=
  let s := (ds.zipIdx).foldl (fun (s : State) (d : Bytes × Nat) =>
    let e := field d.1 0 1
    let x := s.engine e
    let s := s.setEngine e { x with entries := x.entries ++ [⟨d.1, tag, prio, d.2, 0, []⟩] }
    let c := s.core (gCore d.1)
    s.setCore (gCore d.1) (c.setBar (gTrigger d.1) { c.bar (gTrigger d.1) with waiter := some (.engine e) })) s
  ds.foldl (fun (s : State) d => s.serveWaiter (gCore d) (gTrigger d)) s

/-- Queue the tasks of a core for the CXS (R231). -/
def State.queueTasks (s : State) (tag prio : Nat) (r : CoreRec) : State :=
  let c := s.core r.core
  (s.setCore r.core { c with queue := c.queue ++ (r.tasks.zipIdx).map (fun x => ⟨tag, prio, x.2, x.1, r.handle, none⟩) }).cxsLoad r.core 4

/-! ### INVOKE_BIND (step 5) -/

/-- A core or engine that an INVOKE names is suspect, or its core is diked (R418, R425). -/
def State.unitsFenced (s : State) (recs : List CoreRec) (m : Option TideMap) (ds : List Bytes) : Bool :=
  let cores := recs.map (·.core) ++ (match m with | some m => m.cores | none => [])
  cores.any (fun k => s.isSuspect k || (s.core k).rst != 0) || ds.any (fun d => s.flag F.geStatusSuspect (field d 0 1))

/-- Members that the rings of a map name, this chip under its own number. -/
def State.mapMembers (s : State) (m : TideMap) : List Nat :=
  (m.rings.map (fun r => r.members.map (fun k => if s.isHere k then s.self else k))).flatten.eraseDups

/-- Keep the members of an INVOKE's rings, to tell them of its end (R275). -/
def State.noteRing (s : State) (i : Nat) (m : TideMap) : State :=
  let ms := s.mapMembers m
  s.setInv i (fun v => { v with ring := decide (1 < ms.length), members := ms })

/-- A tide map stands, but for the links of its rings: its members are then kept. While fabric time runs free a ring of several is refused (R262, R381). -/
def State.checkMap (s : State) (i : Nat) (m : Option TideMap) : Option (Status × Bool) × State :=
  match m with
  | none => (none, s)
  | some m =>
    match s.mapFault i m with
    | none =>
      let s := s.noteRing i m
      (if s.flag F.lnkTimeCtlFreeRun && m.rings.any (fun r => decide (1 < r.members.length)) then some (.partitioned, false) else none, s)
    | some f => (some f, if f.1 == .partitioned then s.noteRing i m else s)

/-- Everything validated before anything is bound (R257, R262, R264, R321, R425). -/
def State.validate (s : State) (i : Nat) (v : Invoke) : Rd (List CoreRec × Option TideMap × List Bytes) :=
  let tag := v.desc.ctxTag
  let f := field v.desc.bytes
  rdThen (s.readImage tag (f 16 8)) (fun recs s =>
    rdThen (if f 24 8 = 0 then (.ok none, s) else rdThen (s.readMap tag (f 24 8)) (fun m s => (.ok (some m), s))) (fun m s =>
      match s.checkMap i m with
      | (some (st, gate), s) => (.error (some st), if gate then s.bump F.glbExpertDenied else s)
      | (none, s) =>
        rdThen (s.readGather tag (f 32 8) recs) (fun ds s =>
          match m with
          | some t =>
            if t.cores.any (fun k => decide (512 < trailCount t k)) then (.error (some .descInvalid), s)
            else if s.unitsFenced recs m ds then (.error (some .fenced), s) else (.ok (recs, m, ds), s)
          | none => if s.unitsFenced recs m ds then (.error (some .fenced), s) else (.ok (recs, m, ds), s))))

/-- Show a bound map in TIDE_CTX and in the INVOKE. -/
def State.showMap (s : State) (i : Nat) (m : Option TideMap) : State :=
  match m with
  | none => s
  | some m =>
    let ms := s.mapMembers m
    let links := ((m.rings.zipIdx).map (fun r => (s.ringPorts r.1).map (fun n => (r.2, n)))).flatten
    let s := ((s.setF F.tideCtxMapped 1 i).setF F.tideCtxRings (m.rings.length % 4) i).setF F.tideCtxMirror (b2n (!m.mirrorOff)) i
    let s := s.setCtx i { s.ctx i with members := ms }
    (s.noteRing i m).setInv i (fun v => { v with links := links, usesTide := true, window := (m.window, m.size, m.bank0, m.bank1) })

/-- Bind an INVOKE whose declared resources are all free: every core is loaded, then its tasks (R230, R258, R263). -/
def State.bindAll (s : State) (i : Nat) (v : Invoke) (recs : List CoreRec) (m : Option TideMap) (ds : List Bytes) (hits : List (CoreId × Hit)) :
    Rd Unit :=
  let tag := v.desc.ctxTag
  let cores := (recs.map (·.core) ++ (match m with | some t => t.cores | none => [])).eraseDups
  let prio := s.getF F.cxsCtxCfgPriority i
  let s := s.setInv i (fun v => { v with bound := true, waits := false, cores := cores, prio := prio })
  let s := recs.foldl (fun (s : State) r => s.bindDeclared tag r) s
  let s := s.showMap i m
  let hit := fun (r : CoreRec) => ((hits.find? (fun h => h.1.val == r.core)).map (·.2)).getD ⟨[], []⟩
  rdThen (rdEach (fun r s => s.loadCode tag (field v.desc.bytes 16 8) r (hit r)) recs s) (fun _ s =>
    rdThen (match m with | some t => s.bindMap tag t | none => (.ok (), s)) (fun _ s =>
      let s := (recs.foldl (fun (s : State) r => s.queueTasks tag prio r) s).bindGather tag prio ds
      (.ok (), s.progress i)))

/-- Step 5 of Table 1.6 for an INVOKE. It waits, with nothing bound, while a resource is held elsewhere, while an INVOKE ahead of it could be bound,
or while memory it needs is still being repaired. -/
def State.bind (s : State) (i : Nat) (v : Invoke) (hits : List (CoreId × Hit)) : State :=
  match s.validate i v with
  | (.error none, t) => s.keepRefetch t
  | (.error (some st), s) => s.fault i st
  | (.ok (recs, m, ds), s) =>
    let needs := recs.map (fun r => (r.core, r.streams, r.counters))
    let engines := ds.map (fun d => field d 0 1)
    let trails := match m with
      | some t => t.cores.map (fun k => (k, trailCount t k))
      | none => []
    let prio := s.getF F.cxsCtxCfgPriority i
    let waiting := s.setInv i (fun v => { v with waits := true, needs := needs, engineNeeds := engines, trailNeeds := trails, prio := prio })
    if !s.fits needs engines trails || s.aheadOf i { v with prio := prio } then waiting
    else match s.bindAll i v recs m ds hits with
      | (.ok _, s) => s
      | (.error none, t) => waiting.keepRefetch t
      | (.error (some st), s) => s.fault i st

/-- INVOKE_BIND: step 5 of Table 1.6; `hits` strike the code of cores on its way from HBM. -/
def execInvokeBind (ctx : CtxId) (s : State) (hits : List (CoreId × Hit) := []) : Host.Outcome State Fault Refusal :=
  match (s.ctx ctx).inv with
  | none => .next s
  | some v =>
    if v.bound || v.ending.isSome || s.ctxState ctx != 1 || s.stopped then .next s
    else .next (s.unlessFull ctx (s.bind ctx v hits))

/-! ### Unbinding (Table 1.6 step 11, Table 8.10 step 6, R136) -/

/-- Free the polders of a tag without RESIDENT on a core, and drop their ALLOCs still pending (R136). -/
def State.freeOwned (s : State) (core tag : Nat) : State :=
  let s := ((s.core core).owned tag false).foldl (fun (s : State) h => s.freePolder core h) s
  let c := s.core core
  s.setCore core { c with allocs := c.allocs.filter (fun a => (c.polder a.handle).valid) }

/-- Remove the tasks, streams, counters, tide bindings and trailer entries of a tag from a core, and free its polders without RESIDENT. Of an INVOKE that
ends early the blocks held for RESEND are discarded (R275). -/
def State.unbindCore (s : State) (core tag : Nat) (early : Bool) : State :=
  let c := s.core core
  let mine := (List.range 4).filter (fun j => (c.slot j).tag == tag && ((c.slot j).state != 0 || (c.slot j).ending))
  let ran := c.running.any (fun j => mine.contains j)
  let c := { c with
    slots := mine.foldl (fun (t : Table Slot) j => t.put j .empty) c.slots
    running := if ran then none else c.running
    lastRan := if ran then c.running.getD c.lastRan else c.lastRan
    strms := c.strms.map (fun (p : Nat × Strm) => if p.2.owner == tag then (p.1, p.2.unbound) else p)
    creds := c.creds.map (fun (p : Nat × Credit) => if early && p.2.owner == tag then (p.1, { p.2 with held := [] }) else p)
    bars := c.bars.filter (fun p => p.2.owner != tag)
    queue := c.queue.filter (fun w => w.tag != tag)
    tides := c.tides.filter (fun t => t.tag != tag)
    trailerOwner := c.trailerOwner.filter (fun p => p.2 != tag)
    rngs := c.rngs.del (tagIndex tag) }
  (((s.setCore core c).freeOwned core tag).switch core).cxsLoad core 4

/-- Unbind an INVOKE on every core and engine of the device; its polders go on every core, one that a culvert ALLOC placed there too (R136). -/
def State.unbind (s : State) (i : Nat) (v : Invoke) : State :=
  let tag := v.desc.ctxTag
  let s := v.cores.foldl (fun (s : State) k => s.unbindCore k tag v.ending.isSome) s
  let s := ((s.cores.map (·.1)).filter (fun k => !v.cores.contains k)).foldl (fun (s : State) k => s.freeOwned k tag) s
  let s := (List.range 16).foldl (fun (s : State) e =>
    let x := s.engine e
    if x.entries.any (fun y => y.tag == tag) then s.setEngine e { x with entries := x.entries.filter (fun y => y.tag != tag) } else s) s
  let s := { s with hashBusy := s.hashBusy.filter (fun h => h.2.2 != i) }
  ((s.setF F.tideCtxMapped 0 i).setF F.tideCtxRings 0 i).setF F.tideCtxMirror 1 i

/-- A block of a tag on this device awaits its RESEND, from a sender that still honours it: this chip while no HALT has come, or a member whose HALT has not.
The wait ends at the dike timeout (R105, R275, log entry 44). -/
def State.resendDue (s : State) (v : Invoke) : Bool :=
  v.ending.isSome && !s.passed v.endAt s.dikeNs &&
  s.cores.any (fun c => c.2.ht.any (fun p =>
    let q := p.2
    q.valid && q.owner == v.desc.ctxTag && q.landed.any (·.failed) && (if s.isHere q.peerChip then v.halted.isEmpty else !v.halted.contains q.peerChip)))

/-- No operation, stream run or gather run of a tag is under way on this device, and no block of it awaits its second fetch. -/
def State.quiet (s : State) (v : Invoke) : Bool :=
  let tag := v.desc.ctxTag
  v.cores.all (fun k =>
    let c := s.core k
    !c.me.any (fun o => o.tag == tag) && !c.vu.any (fun o => o.tag == tag) && !c.strms.any (fun p => p.2.owner == tag && p.2.run.isSome)) &&
  (List.range 16).all (fun e => match (s.engine e).run with | some g => g.entry.tag != tag | none => true) && !s.resendDue v

/-- Every task of an INVOKE has ended, and every gather run that has begun has ended. -/
def State.tasksEnded (s : State) (v : Invoke) : Bool :=
  let tag := v.desc.ctxTag
  v.cores.all (fun k =>
    let c := s.core k
    !c.queue.any (fun w => w.tag == tag) && (List.range 4).all (fun j => !((c.slot j).tag == tag && ((c.slot j).state != 0 || (c.slot j).ending)))) &&
  (List.range 16).all (fun e => !(s.engine e).entries.any (fun y => y.tag == tag && !y.met.isEmpty))

/-- CANCEL_STREAMS_STOPPED: once its streams have stopped, the tasks of an INVOKE that is ending early are removed and all it holds is unbound
(step 6 of Table 8.10). -/
def execCancelStreamsStopped (ctx : CtxId) (s : State) : Host.Outcome State Fault Refusal :=
  match (s.ctx ctx).inv with
  | none => .next s
  | some v =>
    if v.bound && v.ending.isSome && !v.stopped && s.quiet v then .next ((s.unbind ctx v).setInv ctx (fun v => { v with stopped := true }))
    else .next s

/-! ### INVOKE_END (steps 11 to 14) -/

/-- Status of an INVOKE that ends without error (R27). -/
def Invoke.goodStatus (v : Invoke) : Status :=
  if 0 < v.supply then .okSupplyEvent else if v.tally.lasting < v.tally.retries then .okRetried else .ok

/-- Close, sign and write the ledger of an INVOKE, then complete it (steps 12 to 14, R25, R28, R396, R401). -/
def State.closeInvoke (s : State) (i : Nat) (v : Invoke) (st : Status) : State :=
  let s := s.flushRecords i
  let body := s.ledgerBody (s.invokeFields i v st)
  let s := s.writeLedger (field v.desc.bytes 48 8) body
  let c := s.ctx i
  let s := s.setCtx i { c with inv := none, lastBody := body }
  let s := s.complete i v.desc st true v.tally.events
  s.tryCancel i

/-- A ring member that ends early tells every other member, unless its fault has done so; one that ends before it was bound first reads its map (R275). None
within while memory is being repaired. -/
def State.haltRing (s : State) (i : Nat) (v : Invoke) (st : Status) : Rd Unit :=
  let tell := fun (s : State) =>
    match (s.ctx i).inv with
    | some v => if v.ring then (s.tellMembers v.desc.ctxTag v.members 0x18 st.code).setHalted i else s
    | none => s
  if v.ending.isNone || v.haltSent then (.ok (), s)
  else if v.bound || v.ring || field v.desc.bytes 24 8 == 0 then (.ok (), tell s)
  else match s.readMap v.desc.ctxTag (field v.desc.bytes 24 8) with
    | (.ok m, s) => (.ok (), tell (s.noteRing i m))
    | (.error none, t) => (.error none, s.keepRefetch t)
    | (.error (some _), s) => (.ok (), s)

/-- INVOKE_END: when every task, stream run and begun gather run has ended, or its winding down is done, the INVOKE closes its ledger and completes. -/
def execInvokeEnd (ctx : CtxId) (s : State) : Host.Outcome State Fault Refusal :=
  match (s.ctx ctx).inv with
  | none => .next s
  | some v =>
    let ready := if v.ending.isSome then v.stopped || !v.bound else v.bound && s.tasksEnded v && s.quiet v
    if !ready || !s.recordsFit ctx || s.boot.rom then .next s else
    if s.healthAt.isSome then .next s.holdDraw else
    let st := v.ending.getD v.goodStatus
    match s.haltRing ctx v st with
    | (.error _, s) => .next s
    | (.ok _, s) =>
      let s := if v.bound && !v.stopped then s.unbind ctx v else s
      let v := ((s.ctx ctx).inv).getD v
      let s := (s.closeInvoke ctx v st).goOn ctx
      .next (s.freeIfIdle ctx)

/-! ### LEDGER_CLOSE (R397) -/

/-- Ledger fields of the window that a LEDGER_CLOSE closes. -/
def State.windowFields (s : State) (i : Nat) (d : Desc) : LedgerFields :=
  let w := (s.ctx i).window
  let audit := s.auditWord i
  { tag := d.ctxTag, status := w.error.getD .ok, flags := ledgerFlags audit (bit audit 1) (s.flag F.secCtxCfgHbmEnc i) w.expertSeen w.unitSuspect false
    id := field d.bytes 8 8, start := w.start, kappa := s.getF F.ckuCtxCfgKappa i, drainChk := s.getF F.ckuCtxCfgDrainChk i, audit := audit
    supply := w.supply, seed := 0, manifest := (s.activeBank i).digest.getD []
    inDigest := shake256 w.inDigests.flatten, outDigest := shake256 w.outDigests.flatten, tally := w.tally
    inputs := w.inDigests.length, outputs := w.outDigests.length, suspects := w.suspects }

/-- LEDGER_CLOSE: a ledger over the copies, loads and checkpoints since the last one. -/
def execLedgerClose (ctx : CtxId) (s : State) : Host.Outcome State Fault Refusal :=
  let c := s.ctx ctx
  if s.ctxState ctx ≠ 1 || s.noStart || !c.idleWork then .next s else
  match c.work with
  | [] => .next s
  | d :: rest =>
    if d.opcode ≠ 8 then .next s else
    match s.descFault ctx d with
    | some f => .next (((s.setCtx ctx { c with work := rest }).refuseDesc ctx d f).goOn ctx)
    | none =>
      if !s.recordsFit ctx then .next s else
      if s.healthAt.isSome then .next s.holdDraw else
      let s := (s.setCtx ctx { c with work := rest }).flushRecords ctx
      let body := s.ledgerBody (s.windowFields ctx d)
      let s := s.writeLedger (field d.bytes 16 8) body
      let s := s.setCtx ctx { s.ctx ctx with window := { Window.at s.time with expertSeen := s.expert, supply := b2n s.inSupply }, lastBody := body }
      .next ((s.complete ctx d .ok true).goOn ctx)

end Sys2Proof.Machine
end

