-- ==== Sys2Proof/Machine/Dike.lean ====
section
/-! DEFINITION. Dikes and resets of a core and of an HBM stack (R143, R417 to R421, Tables 16.1 to 16.3). Log entry 20. -/

namespace Sys2Proof.Machine

/-- Log the expiry of a row of Table 16.6. -/
def State.expiry (s : State) (source tag row : Nat) : State := s.log 0x0010 source tag .timeout 2 (natLe 1 row)

/-! ### A core -/

/-- Tags of contexts with a task or a bound resource on a core: a stream, a counter, a credit entry, a polder, a table slot, a micro-program, a trailer entry or
a tide binding. -/
def CoreSt.users (c : CoreSt) : List Nat :=
  (((c.slots.filter (fun p => p.2.state != 0 || p.2.ending)).map (fun p => p.2.tag)) ++ c.queue.map (·.tag) ++
    ((c.strms.filter (fun p => p.2.bound)).map (fun p => p.2.owner)) ++ ((c.bars.filter (fun p => p.2.bound)).map (fun p => p.2.owner)) ++
    c.trailerOwner.map (·.2) ++ c.tides.map (·.tag) ++ ((c.creds.filter (fun p => p.2.state != 0)).map (fun p => p.2.owner)) ++
    ((c.ht.filter (fun p => p.2.valid)).map (fun p => p.2.owner)) ++ ((c.tslots.filter (fun p => p.2.valid)).map (fun p => p.2.owner)) ++
    ((c.udir.filter (fun p => p.2.valid && !p.2.lib)).map (fun p => p.2.owner))).eraseDups

/-- Step 1 of a core's dike: its users fault with FENCED, but `named`, which faults with the status given, and `spare`, whose teardown it serves (R417). -/
def State.dikeCore (s : State) (core : Nat) (named : Option (Nat × Status)) (spare : Option Nat) : State :=
  let c := s.core core
  if c.rst ≠ 0 then s else
  let users := c.users
  let s := s.setCore core { c with rst := 1, dikeAt := some s.time, dikeFor := s.dikeNs }
  let s := s.log 0x0020 (sourceOf 0 core) 0 .ok 0
  users.foldl (fun (s : State) tag =>
    let i := tagIndex tag
    if spare == some i || s.tag i != tag then s
    else match named with
      | some (k, st) => if k = i then s.fault i st else s.fault i .fenced
      | none => s.fault i .fenced) s

/-- What drains before a core resets: operations in the ME and the VU, stream blocks in flight (Table 16.3). -/
def CoreSt.outstanding (c : CoreSt) : Nat :=
  c.me.length + c.vu.length + c.strms.foldl (fun n p => n + (match p.2.run with | some r => r.flight.length | none => 0)) 0

/-- Step 4 of a core: everything but its resident polders, its scratchpad and its counters (R143, R420, R495). The polders that go are freed as R135
states, an open sluice through its closing state; an ALLOC still pending for one of them is answered FENCED_ABORT. -/
def State.resetCore (s : State) (core : Nat) : State :=
  let s := ((s.core core).strms.map (fun p => p.2.owner)).eraseDups.foldl (fun (s : State) tag => s.coreDigests core tag) s
  let c := s.core core
  let lost := c.allocs.filter (fun a => !(c.polder a.handle).resident)
  let gone := (c.ht.filter (fun p => p.2.valid && !p.2.resident)).map (·.1)
  let s := s.setCore core { CoreSt.idle with
    rst := 3, spm := c.spm, spmErr := c.spmErr, spmPassing := c.spmPassing, ht := c.ht, zeroing := c.zeroing, dredgeRow := c.dredgeRow, trailers := c.trailers
    progressAt := s.time, lastCtx := c.lastCtx, dikeAt := c.dikeAt, dikeFor := c.dikeFor, frees := c.frees, allocs := c.allocs.filter (fun a => (c.polder a.handle).resident) }
  let s := gone.foldl (fun (s : State) h => s.freePolder core h) s
  let s := lost.foldl (fun (s : State) a => match a.reply with
    | some m => s.reply core m a.handle .fencedAbort
    | none => s) s
  let s := { s with
    hashBusy := s.hashBusy.filter (fun h => h.1 != core)
    requests := s.requests.filter (fun r => match r.who with | .stream k _ _ => k != core | .streamWrite k _ _ => k != core | .table k _ => k != core | _ => true) }
  let s := ((s.bump F.coreResetCount core).setReg .spmAllocFail core 0).setF F.spmDredgeInterval 64 core
  ((s.setF F.seCmpDamageValid 0 core).setF F.seCmpDamageExpander 0 core).setF F.seCmpDamageCause 0 core

/-- Step 3 of a core's dike: what is still outstanding is answered FENCED_ABORT, discarded and counted, unless nothing is (R419); then the core resets. -/
def State.abortCore (s : State) (core : Nat) : State :=
  let n := (s.core core).outstanding
  if n = 0 then s.resetCore core else
  (s.log 0x0021 (sourceOf 0 core) 0 .fencedAbort 2 (natLe 4 n)).resetCore core

/-- Read every codeword of a polder and write back what needed correction; false when one is uncorrectable. -/
def State.dredgePolder (s : State) (core : Nat) (p : Polder) : Bool × State :=
  ((s.core core).damaged (p.base * granule) (p.length * granule) Noise.none).foldl (fun (acc : Bool × State) k =>
    let (ok, s) := acc.2.spmSettle core k.1
    (acc.1 && ok, s)) (true, s)

/-- The dredger pass before a core resumes: resident polders with an uncorrectable row fault their owners and are freed (R143). -/
def State.dredgePass (s : State) (core : Nat) : State :=
  let c := s.core core
  ((c.ht.filter (fun p => p.2.valid && p.2.resident))).foldl (fun (s : State) p =>
    match s.dredgePolder core p.2 with
    | (true, s) => s
    | (false, s) =>
      let s := if s.tag (tagIndex p.2.owner) = p.2.owner then s.faultOther (tagIndex p.2.owner) .uncorrectable else s
      s.freePolder core p.1) s

/-- Steps 5 and 6 of a core's dike. -/
def State.liftCore (s : State) (core : Nat) : State :=
  let s := s.dredgePass core
  let c := s.core core
  let s := s.setCore core { c with rst := 0, dikeAt := none, progressAt := s.time }
  (s.log 0x0022 (sourceOf 0 core) 0 .ok 0).cxsLoad core 4

/-! ### An HBM stack -/

/-- Step 1 of a stack's dike. -/
def State.dikeStack (s : State) (k : Nat) : State :=
  let h := s.hsc k
  if h.state ≠ 0 then s else
  (s.setHsc k { h with state := 1, dikeAt := some s.time, dikeFor := s.dikeNs }).log 0x0020 (sourceOf 4 k) 0 .ok 0

/-- Step 4 of a stack: its contents lie in self-refresh, and its recovery time starts (R417). -/
def State.resetStack (s : State) (k : Nat) : State := (s.setHsc k { s.hsc k with state := 2, resetAt := some s.time }).bump F.hscStackCtlCount k

/-- Steps 5 and 6 of a stack's dike; an HBM_RETRAIN of it is done. -/
def State.liftStack (s : State) (k : Nat) : State :=
  let s := (s.setHsc k { s.hsc k with state := 0, dikeAt := none, resetAt := none }).log 0x0022 (sourceOf 4 k) 0 .ok 0
  match s.mbx with
  | some m => if m.code = 5 ∧ m.arg = k then { s with mbx := some { m with ready := true } } else s
  | none => s

end Sys2Proof.Machine
end

