-- ==== Sys2Proof/Machine/Teardown.lean ====
section
/-! DEFINITION. Enabling and tearing down contexts, and the HBM window (R385, R387, R423, R424, R454, Tables 15.3, 16.4). Log entry 21. -/

namespace Sys2Proof.Machine

/-! ### CONTEXT_ENABLE (R387) -/

/-- The ring sizes of a context lie in range, and the bases of its rings are aligned (R388, R402). -/
def State.ringsOk (s : State) (i : Nat) : Bool :=
  let sq := s.getF F.hiuCtxCtlSqLog2 i; let cq := s.getF F.hiuCtxCtlCqLog2 i; let au := s.getF F.hiuCtxCtlAuditLog2 i
  decide (6 ≤ sq) && decide (sq ≤ 16) && decide (6 ≤ cq) && decide (cq ≤ 16) && (au == 0 || (decide (10 ≤ au) && decide (au ≤ 24))) &&
  s.getF F.hiuSqBaseSqBase i % 4096 == 0 && s.getF F.hiuCqBaseCqBase i % 4096 == 0 && s.getF F.hiuAuditBaseAuditBase i % 4096 == 0

/-- Take the sizes, the mask and the vector of a control word while ENABLE is clear. -/
def State.setSizes (s : State) (i w : Nat) : State :=
  ((((s.setF F.hiuCtxCtlSqLog2 (bits w 51 47) i).setF F.hiuCtxCtlCqLog2 (bits w 46 42) i).setF F.hiuCtxCtlAuditLog2 (bits w 41 37) i).setF
    F.hiuCtxCtlMask (bits w 36 36) i).setF F.hiuCtxCtlVector (bits w 35 25) i

/-- Enable a context: indices zero, phase 1, an HBM key drawn when it is to be encrypted (R387, R454). -/
def State.enable (s : State) (i : Nat) : State :=
  let s := ((s.setReg .hiuCtxState i 0).setReg .hiuCtxAudit i 0).setF F.hiuCtxCtlEnable 1 i
  let s := (s.setF F.cxsCtxStateState 1 i).setF F.cxsCtxStateStatus 0 i
  let key := s.free
  let enc := s.flag F.secCtxCfgHbmEnc i
  let s := if enc then s.draw.2 else s
  s.setCtx i { CtxSt.fresh with
    window := { Window.at s.time with expertSeen := s.expert, supply := b2n s.inSupply }, progressAt := s.time, lastBody := (s.ctx i).lastBody, hbmKey := if enc then some key else none }

/-- A write of the whole control word of a context by a function that reaches it: the fields take effect first, then the enable acts on them, and only if
the sizes and bases allow it (R387, R493, R496). -/
def State.writeCtl (s : State) (i w : Nat) (k : State → State) : State :=
  if s.ctxState i = 3 then s
  else if s.flag F.hiuCtxCtlEnable i then
    let s := s.setF F.hiuCtxCtlMask (bits w 36 36) i
    if bit w 63 then s else k s
  else
    let s := s.setSizes i w
    if bit w 63 && s.ringsOk i then
      -- an encrypted context's key is to be drawn, and SEC holds the draw (R445, R454)
      if s.healthAt.isSome && s.flag F.secCtxCfgHbmEnc i then s.holdDraw else s.enable i
    else s

/-! ### Teardown (R423, R424) -/

/-- Teardown begins: every descriptor ends, the generation moves on, translations go (steps 1 and 2); `st` is what a running INVOKE ends with. -/
def State.tearDown (s : State) (i : Nat) (st : Status) : State :=
  if s.ctxState i ≠ 1 ∧ s.ctxState i ≠ 2 then s else
  let s := s.log 0x0002 (sourceOf 6 0) (s.tag i) .ok 0
  let s := (s.endOthers i .cancelled st none).2
  -- a switch already committed can no longer take place on this member
  let s := match (s.ctx i).sw with
    | some w => (s.setCtx i { s.ctx i with sw := none }).complete i w.desc .cancelled
    | none => s
  let s := (s.setF F.cxsCtxStateState 3 i).setF F.hiuCtxCtlGen ((s.getF F.hiuCtxCtlGen i + 1) % 64) i
  let s := s.invalidate (some i)
  let s := s.setCtx i { s.ctx i with tearAt := some s.time, tearFor := s.dikeNs, inflight := 0, stuck := false }
  s.freeIfIdle i

/-- A function is diked, by its own reset or the PF's, or with the whole device while that is failed (R420, R430). -/
def State.funcDiked (s : State) (func : Nat) : Bool := s.failed || s.funcDikes.any (fun d => d.1 == func || d.1 == 0)

/-- The dike timeout of a context's teardown, in ns: that in force when it began (R418), capped at 50 ms under a function-level reset (Table 16.3). -/
def State.tearNs (s : State) (i : Nat) : Nat := if s.funcDiked (s.getF F.hiuCtxCtlFunc i) then min (s.ctx i).tearFor 50000000 else (s.ctx i).tearFor

/-- CONTEXT_ENABLE: a write of HIU_CTX_CTL with ENABLE set, by a function (R387, R496). -/
def takeContextEnable (ctx : CtxId) (func : FuncId) (w : BitVec 64) (s : State) : Host.Outcome State Fault Refusal :=
  if s.deaf then .next s
  else if s.funcDiked func then .next (s.bump F.glbAccessDiked)
  else if func.val ≠ s.getF F.hiuCtxCtlFunc ctx then .next (if func.val = 0 then s.bump F.glbAccessVfOwned else s)
  else .next (s.writeCtl ctx w.toNat (fun s => s.tearDown ctx .cancelled))

/-- CONTEXT_TEARDOWN: ENABLE is written 0 by the context's own function (R387, R423). -/
def takeContextTeardown (ctx : CtxId) (s : State) : Host.Outcome State Fault Refusal :=
  if s.stopped then .next s else .next (s.tearDown ctx .cancelled)

/-- Sluices of a context that still close, and credit entries that still wait for CLOSE, on a core. -/
def CoreSt.waits (c : CoreSt) (i : Nat) : List Nat × List Nat :=
  (c.handlesOf i, (c.creds.filter (fun p => p.2.state != 0 && tagIndex p.2.owner == i)).map (·.1))

/-- Nothing of a context is left on any core. -/
def State.closed (s : State) (i : Nat) : Bool :=
  s.cores.all (fun p => (p.2.waits i).1.isEmpty && (p.2.waits i).2.isEmpty)

/-- Step 7: ENABLE reads 0. Completions still held for a full ring can no longer be written, since the doorbells are discarded.
The event names the context by the tag it was torn down under. -/
def State.endTeardown (s : State) (i : Nat) : State :=
  let stuck := (s.ctx i).stuck
  let s := (s.setF F.cxsCtxStateState 0 i).setF F.hiuCtxCtlEnable 0 i
  (s.setCtx i { CtxSt.fresh with lastBody := (s.ctx i).lastBody }).log 0x0003 (sourceOf 6 0) (tagOf i (s.getF F.hiuCtxCtlGen i + 63)) .ok 0 (natLe 1 (b2n stuck))

/-- TEARDOWN_COMPLETE: once its INVOKE has closed its ledger and its retries are over, every sluice has closed and every credit entry has answered its CLOSE. -/
def execTeardownComplete (ctx : CtxId) (s : State) : Host.Outcome State Fault Refusal :=
  let s := s.freeIfIdle ctx
  if s.ctxState ctx = 3 ∧ (s.ctx ctx).freed ∧ s.closed ctx then .next (s.endTeardown ctx) else .next s

/-- A job of a context ends with its descriptor: with the status it was told to end with, if it was. -/
def State.endJob (s : State) (i : Nat) (st : Status) (j : Job) : State := s.complete i j.desc (j.ending.getD st) false (s.jobInfo i j)

/-- Free a sluice that still closes and clear a credit entry that still waits, each logged (R424). What has not come that far yet waits for its INVOKE. -/
def State.freeStuck (s : State) (i : Nat) : State :=
  if !(s.ctx i).freed then s else
  (List.range 192).foldl (fun (s : State) k =>
    let (hs, es) := (s.core k).waits i
    let s := hs.foldl (fun (s : State) h => (s.release k h).log 0x0004 (sourceOf 0 k) (s.tag i) .timeout 2 (natLe 2 h)) s
    es.foldl (fun (s : State) e =>
      let c := s.core k
      (s.setCore k { c with creds := c.creds.del e }).log 0x0004 (sourceOf 0 k) (s.tag i) .timeout 2 (natLe 2 e)) s) s

/-- Cores on which operations or streams of a running INVOKE have not stopped. -/
def State.unstopped (s : State) (v : Invoke) : List Nat :=
  v.cores.filter (fun k =>
    let c := s.core k
    c.me.any (fun o => o.tag == v.desc.ctxTag) || c.vu.any (fun o => o.tag == v.desc.ctxTag) ||
    c.strms.any (fun p => p.2.owner == v.desc.ctxTag && p.2.run.isSome))

/-- The escalation of R424 for an INVOKE that does not stop: its cores are reset. -/
def State.resetUnstopped (s : State) (i : Nat) : State :=
  match (s.ctx i).inv with
  | some v => (s.unstopped v).foldl (fun (s : State) k => s.dikeCore k none (some i)) s
  | none => s

/-- A retry of a job has not come to its end in time: the job ends without it. -/
def State.dropJobs (s : State) (i : Nat) : State :=
  let c := s.ctx i
  (c.jobs.foldl (fun (s : State) j => s.endJob i .cancelled j) (s.setCtx i { c with copy := none, load := none, ckpt := none })).freeIfIdle i

/-- What R424 does when a teardown has not completed at the dike timeout: first of all its operations are stopped, and once they are its sluices and credit
entries are freed. -/
def State.escalateTeardown (s : State) (i : Nat) : State :=
  let c := s.ctx i
  if s.ctxState i ≠ 3 then s
  else (((s.setCtx i { c with stuck := true }).resetUnstopped i).dropJobs i).freeStuck i

/-- TEARDOWN_TIMEOUT: teardown has not completed at the dike timeout (R424). -/
def execTeardownTimeout (ctx : CtxId) (s : State) : Host.Outcome State Fault Refusal :=
  if s.passed (s.ctx ctx).tearAt (s.tearNs ctx) then .next (s.escalateTeardown ctx) else .next s

/-! ### The HBM window (R385) -/

/-- What the window allows at a DPA: the access, or a refusal that the expert gate counts. -/
def State.windowAllows (s : State) (dpa : Nat) (write : Bool) : Bool × Bool :=
  match regionOf dpa with
  | .context => (s.expert, !s.expert)
  | .dump => (!write, false)
  | .tables => (true, false)
  | .firmware => (false, false)
  | .beyond => (false, false)

/-- Check a window access of some bytes: every sector of it is allowed and its stack is up, or it is refused and counted. In the failed state every stack is
diked, but a dump can still be read (R430, R435). -/
def State.windowCheck (s : State) (dpa n : Nat) (write : Bool) : Bool × State :=
  let sectors := (List.range ((dpa + n - 1) / 32 + 1 - dpa / 32)).map (fun j => (dpa / 32 + j) * 32)
  let down := fun (a : Nat) => s.stackDown a || (s.failed && (write || regionOf a != .dump))
  if sectors.all (fun a => (s.windowAllows a write).1 && !down a) then (true, s)
  else
    let s := s.bump F.hiuEventsWinRefused
    (false, if sectors.any (fun a => (s.windowAllows a write).2) then s.bump F.glbExpertDenied else s)

/-- An access lies in BAR4 as it is sized (Table 15.2); beyond it no function of the device answers. -/
def State.inWindow (s : State) (off n : Nat) : Bool := decide (off + n ≤ s.bar4)

/-- Sectors of a window read, each read once more when uncorrectable. -/
def State.windowSectors (s : State) (first count : Nat) (noise : Noise) : Option Bytes × State :=
  (List.range count).foldl (fun (acc : Option Bytes × State) j =>
    match acc.1 with
    | none => acc
    | some bs =>
      let k := stackOf s.key ((first + j) * 32)
      let nz := if j = 0 then noise else Noise.none
      match acc.2.readOnce k (first + j) nz.first with
      | (some x, s) => (some (bs ++ x), s)
      | (none, s) => match s.readOnce k (first + j) nz.second with
        | (some x, s) => (some (bs ++ x), s)
        | (none, s) => (none, s)) (some [], s)

/-- WINDOW_READ: a read of BAR4 (R385); during a warm reset it returns all ones (R431). -/
def execWindowRead (off len : Nat) (noise : Noise) (s : State) : Host.Outcome State Fault Refusal :=
  if s.warming then .next (s.emit (.windowData (some (List.replicate len 0xFF))))
  else if s.boot.rom || s.power != .on || len = 0 || !s.inWindow off len then .next s
  else
    let dpa := s.getF F.hiuWinBaseBase + off
    match s.windowCheck dpa len false with
    | (false, s) => .next (s.emit (.windowData none))
    | (true, s) =>
      let first := dpa / 32
      match s.windowSectors first ((dpa + len - 1) / 32 + 1 - first) noise with
      | (some bs, s) => .next (s.emit (.windowData (some (slice bs (dpa % 32) len))))
      | (none, s) => .next ((s.bump F.hiuEventsWinUncorr).emit (.windowData none))

/-- WINDOW_WRITE: a write of BAR4; a merge that cannot read its sector discards the write (R300, R385). -/
def execWindowWrite (off : Nat) (data : Bytes) (noise : Noise) (s : State) : Host.Outcome State Fault Refusal :=
  if s.stopped && !s.failed || data.isEmpty || !s.inWindow off data.length then .next s else
  let dpa := s.getF F.hiuWinBaseBase + off
  match s.windowCheck dpa data.length true with
  | (false, s) => .next s
  | (true, s) =>
    match s.writeOne dpa data false none noise with
    | (true, s) => .next s
    | (false, t) => .next ({ t with hbm := s.hbm, hbmErr := s.hbmErr }.bump F.hiuEventsWinUncorr)

end Sys2Proof.Machine
end

