-- ==== Sys2Proof/Machine/Switch.lean ====
section
/-! DEFINITION. Replacing weights under load, and the end of a ring's INVOKE: TIDE_SWITCH, the tide control messages, breaks (R272 to R275, R284, R285). Log entry 23. -/

namespace Sys2Proof.Machine

/-- Change a pending switch. -/
def State.setSw (s : State) (i : Nat) (f : Switch → Switch) : State :=
  let c := s.ctx i
  s.setCtx i { c with sw := c.sw.map f }

/-- Step S is fixed on this member (step 4 of Table 10.13, Table 10.15); a CANCEL no longer waits for the switch. -/
def State.commitSwitch (s : State) (i step : Nat) : State :=
  (((s.setSw i (fun w => { w with commit := some step })).setReg .tideCommit i (step % 2 ^ 32)).setF F.tideCtxSwitch 3 i).tryCancel i

/-- This member resumes without switching, and its TIDE_SWITCH completes with TIMEOUT (step 5). It does not fault its context. -/
def State.abortSwitch (s : State) (i : Nat) : State := ((s.endSwitch i .timeout).tryCancel i).goOn i

/-- The leader ends the switch everywhere. -/
def State.abortAll (s : State) (i : Nat) : State := (s.tellMembers (s.tag i) (s.ringMembers i) 0x15 0).abortSwitch i

/-- The leader has a member's answer; with every one before its deadline it commits (step 3). -/
def State.noteAnswer (s : State) (i chip step : Nat) : State :=
  match (s.ctx i).sw with
  | none => s
  | some w =>
    if w.commit.isSome || decide (w.deadline ≤ s.time) || !(s.ringMembers i).contains chip then s else
    let answers := w.answers.filter (fun a => a.1 != chip) ++ [(chip, step)]
    let s := s.setSw i (fun w => { w with answers := answers })
    if (s.ringMembers i).all (fun m => answers.any (fun a => a.1 == m)) then
      let n := answers.foldl (fun m a => max m a.2) 0 + 1
      (s.tellMembers (s.tag i) (s.ringMembers i) 0x14 (n % 2 ^ 32)).commitSwitch i n
    else s

/-- A member answers PREPARED once it has PREPARE, its own TIDE_SWITCH and a manifest bound to the bank (step 2). -/
def State.tryPrepare (s : State) (i : Nat) : State :=
  let c := s.ctx i
  match c.sw with
  | none => s
  | some w =>
    let bank := if w.bank = 0 then c.bank0 else c.bank1
    if !w.prepareSeen || w.preparedSent || bank.digest.isNone || s.ctxState i != 1 then s else
    let step := s.getF F.tideCtxStep i
    let s := (s.setSw i (fun w => { w with preparedSent := true })).setF F.tideCtxSwitch 2 i
    if s.leads i then s.noteAnswer i s.self step else s.sendNamed (s.leader i) 0xFF 0x13 (s.tag i) 0xFF 0 step

/-- TIDE_SWITCH: the descriptor is registered; a leader sends PREPARE to every member (step 1). -/
def execTideSwitch (ctx : CtxId) (s : State) : Host.Outcome State Fault Refusal :=
  if s.stopped || s.held || s.ctxState ctx != 1 then .next s else
  match s.takeControl ctx 5 with
  | none => .next s
  | some (d, s) =>
    let bank := field d.bytes 8 1 % 2
    let c := s.ctx ctx
    if c.sw.isSome || bank == s.getF F.tideCtxBank ctx then .next (((s.complete ctx d .descInvalid).faultOther ctx .descInvalid d.index).goOn ctx)
    else
      let deadline := field d.bytes 16 8
      let seen := s.leads ctx || c.prepared == some bank
      let s := s.setCtx ctx { c with sw := some ⟨d, bank, deadline, seen, false, [], none⟩, prepared := none }
      let s := s.setF F.tideCtxSwitch 1 ctx
      let s := if s.leads ctx then s.tellMembers d.ctxTag (s.ringMembers ctx) 0x12 bank (natLe 8 deadline) else s
      .next ((s.tryPrepare ctx).goOn ctx)

/-- A tide control message for the CXS of this chip, from a member, under the context's current tag. -/
def State.tideMessage (s : State) (m : Culvert) (type : Nat) (k : Nat → State → State) : State :=
  s.culvertIn m (fun s =>
    let i := tagIndex m.ctxTag
    if m.type ≠ type ∨ s.tag i ≠ m.ctxTag ∨ s.ctxState i = 0 ∨ s.ctxState i = 3 then s else k i s)

/-- It comes from the leader. -/
def State.fromLeader (s : State) (i : Nat) (m : Culvert) : Bool := m.srcChip == s.leader i || (s.leads i && s.isHere m.srcChip)

/-- PREPARE: recorded, for a TIDE_SWITCH that has come or is to come. -/
def execPrepare (m : Culvert) (s : State) : Host.Outcome State Fault Refusal :=
  .next (s.tideMessage m 0x12 (fun i s =>
    let bank := m.arg % 2
    let c := s.ctx i
    if !s.fromLeader i m then s else
    match c.sw with
    | some w => if w.bank = bank then (s.setSw i (fun w => { w with prepareSeen := true })).tryPrepare i else s
    | none => s.setCtx i { c with prepared := some bank }))

/-- PREPARED: a member's next step reaches the leader. -/
def execPrepared (m : Culvert) (s : State) : Host.Outcome State Fault Refusal :=
  .next (s.tideMessage m 0x13 (fun i s => if s.leads i then s.noteAnswer i m.srcChip m.arg else s))

/-- COMMIT: the step at which a prepared member switches. TIDE_COMMIT records one that finds nothing to commit as well (Table 10.15). -/
def execCommit (m : Culvert) (s : State) : Host.Outcome State Fault Refusal :=
  .next (s.tideMessage m 0x14 (fun i s =>
    if !s.fromLeader i m then s
    else if (s.ctx i).sw.any (fun w => w.preparedSent && w.commit.isNone) then s.commitSwitch i m.arg
    else s.setReg .tideCommit i (m.arg % 2 ^ 32)))

/-- ABORT: a member resumes without switching; a COMMIT already received stands. -/
def execAbort (m : Culvert) (s : State) : Host.Outcome State Fault Refusal :=
  .next (s.tideMessage m 0x15 (fun i s => if s.fromLeader i m then s.abortSwitch i else s))

/-- WITHDRAW: a member can no longer switch, and the leader sends ABORT (R285). -/
def execWithdraw (m : Culvert) (s : State) : Host.Outcome State Fault Refusal :=
  .next (s.tideMessage m 0x16 (fun i s =>
    if s.leads i && ((s.ringMembers i).contains m.srcChip || s.isHere m.srcChip) && (s.ctx i).sw.any (fun w => w.commit.isNone) then s.abortAll i else s))

/-- TIDE_SWITCH_DEADLINE: the leader's deadline passes without every PREPARED (step 5). -/
def execTideSwitchDeadline (ctx : CtxId) (s : State) : Host.Outcome State Fault Refusal :=
  if !s.stopped && s.leads ctx && (s.ctx ctx).sw.any (fun w => w.commit.isNone && decide (w.deadline ≤ s.time)) then .next (s.abortAll ctx) else .next s

/-- The tide break timeout in ns. -/
def State.breakNs (s : State) : Nat := s.getF F.tmoTideBreakTideBreakUs * 1000

/-- TIDE_SWITCH_MEMBER_TIMEOUT: a prepared member has heard nothing by its own deadline plus the tide break timeout (R285). -/
def execTideSwitchMemberTimeout (ctx : CtxId) (s : State) : Host.Outcome State Fault Refusal :=
  if !s.stopped && (s.ctx ctx).sw.any (fun w => w.preparedSent && w.commit.isNone && decide (w.deadline + s.breakNs ≤ s.time)) then
    .next (s.abortSwitch ctx)
  else .next s

/-! ### BREAK and HALT (R274, R275) -/

/-- The running INVOKE of a context belongs to a ring with the sender of a message. One not bound yet has a map it has not read. -/
def State.ringInvoke (s : State) (i : Nat) (m : Culvert) : Bool :=
  match (s.ctx i).inv with
  | some v => v.ending.isNone && v.desc.ctxTag == m.ctxTag && (if v.bound then v.ring && v.members.contains m.srcChip else field v.desc.bytes 24 8 != 0)
  | none => false

/-- BREAK: this member ends its INVOKE with PARTITIONED. -/
def execBreakRing (m : Culvert) (s : State) : Host.Outcome State Fault Refusal :=
  .next (s.tideMessage m 0x17 (fun i s => if s.ringInvoke i m then s.fault i .partitioned else s))

/-- A member's HALT has come: it honours no RESEND any more (R275). -/
def State.noteHalt (s : State) (i chip : Nat) : State :=
  s.setInv i (fun v => if v.halted.contains chip then v else { v with halted := v.halted ++ [chip] })

/-- HALT: this member ends its INVOKE with CANCELLED, or with a lasting status under R105. -/
def execHalt (m : Culvert) (s : State) : Host.Outcome State Fault Refusal :=
  .next (s.tideMessage m 0x18 (fun i s =>
    let t := if (s.ctx i).inv.any (fun v => v.desc.ctxTag == m.ctxTag && v.members.contains m.srcChip) then s.noteHalt i m.srcChip else s
    if s.ringInvoke i m then t.fault i .cancelled else t))

/-- Rings of an INVOKE one of whose links on this chip has been out of the up state for the tide break timeout. -/
def State.brokenRings (s : State) (v : Invoke) : List Nat := ((v.breaks.filter (fun b => s.passed (some b.2) s.breakNs)).map (·.1.1)).eraseDups

/-- Port `n` has left the up state, or has come back: the break timer of each ring link over it starts or stops (R274, Table 16.6). -/
def State.ringTimers (s : State) (n : Nat) : State :=
  (s.ctxs.map (·.1)).foldl (fun (s : State) i =>
    let c := s.ctx i
    match c.inv with
    | none => s
    | some v =>
      let since := fun (l : Nat × Nat) => (v.breaks.find? (fun b => b.1 == l)).map (·.2)
      let out := (v.links.filter (fun l => s.portState l.2 != 3 && (l.2 == n || (since l).isSome))).map (fun l => (l, (since l).getD s.time))
      if out = v.breaks then s else s.setCtx i { c with inv := some { v with breaks := out } }) s

/-- TIDE_BREAK_TIMEOUT: a ring link has stayed out of up past the timeout; BREAK goes to every member, and this one ends with PARTITIONED. -/
def execTideBreakTimeout (ctx : CtxId) (s : State) : Host.Outcome State Fault Refusal :=
  match (s.ctx ctx).inv with
  | none => .next s
  | some v =>
    if s.stopped || v.ending.isSome || !v.ring || (s.brokenRings v).isEmpty then .next s else
    let s := (s.brokenRings v).foldl (fun (s : State) r => s.tellMembers v.desc.ctxTag v.members 0x17 (r % 256)) s
    .next ((s.expiry (sourceOf 6 0) v.desc.ctxTag 4).fault ctx .partitioned)

end Sys2Proof.Machine
end

