-- ==== Sys2Proof/Machine/Storage.lean ====
section
/-! DEFINITION. Storage: starting copies, shard loads and checkpoints, refetches, targets and ports (R282, R299, R394, R407 to R416, R453). Log entry 22. -/

namespace Sys2Proof.Machine

/-! ### Starting work of the work queue -/

/-- Take the next descriptor of the work queue when it has an opcode and may start; one that fails its checks completes here (R391, R392). -/
def State.startWork (s : State) (i op : Nat) (k : Desc → State → State) : State :=
  let c := s.ctx i
  if s.ctxState i ≠ 1 || s.noStart || !c.idleWork then s else
  match c.work with
  | [] => s
  | d :: rest =>
    if d.opcode ≠ op then s else
    let s := s.setCtx i { c with work := rest }
    match s.descFault i d with
    | some f => (s.refuseDesc i d f).goOn i
    | none => k d s

/-- A descriptor that has passed the checks of R392 fails at its start: it completes, and its context faults (R394, R422). -/
def State.failStart (s : State) (i : Nat) (d : Desc) (st : Status) : State := (s.complete i d st).faultOther i st d.index

/-- A histogram pass comes first when a copy packs with compression on (R158). -/
def State.copyBegins (s : State) (i : Nat) (j : Job) : Job :=
  if j.copyDesc.pack && s.flag F.seCmpCtxCfgEnable i then { j with pass := 0, hist := List.replicate 272 0 } else j

/-- Start a copy: basic, or by the stream descriptor read from host memory. -/
def State.startCopy (s : State) (i : Nat) (d : Desc) (sd : Bytes) : State :=
  let f := field d.bytes
  let digest := f 40 1 % 2 == 1
  let begin := fun (j : Job) => s.setCtx i { s.ctx i with copy := some (s.copyBegins i j) }
  let end0 := fun (j : Job) => ((s.copyDigest i j).complete i d .ok).goOn i
  if f 32 8 = 0 then
    let j := { Job.start d none (f 24 8) with digest := digest }
    if f 24 8 = 0 then end0 j else begin j
  else
    let x := streamDesc (slice sd 0 128) 0 0
    match x.copyFault (d.opcode == 3) with
    | some st => s.failStart i d st
    | none =>
      let j := { Job.start d (some x) x.total with digest := digest || x.digest }
      if x.total = 0 then end0 j else begin j

/-- COPY_IN: `sd` is the stream descriptor that host memory gives for the expert form. -/
def execCopyIn (ctx : CtxId) (sd : Bytes) (s : State) : Host.Outcome State Fault Refusal := .next (s.startWork ctx 2 (fun d s => s.startCopy ctx d sd))

/-- COPY_OUT, likewise. -/
def execCopyOut (ctx : CtxId) (sd : Bytes) (s : State) : Host.Outcome State Fault Refusal := .next (s.startWork ctx 3 (fun d s => s.startCopy ctx d sd))

/-! ### Objects (R410 to R412) -/

/-- A header breaks Table 15.18. -/
def headerBad (h : Bytes) : Bool :=
  let f := field h
  f 0 2 != 1 || decide (1 < f 2 1) || decide (1 < f 3 1) || !zeroAt h 4 4 || !zeroAt h 40 24 ||
  (if f 2 1 = 1 then f 8 8 != 2048 * f 16 8 else f 16 8 != 0 || f 24 8 != 0)

/-- Length of an object by its header. -/
def objectLen (h : Bytes) : Nat :=
  let f := field h
  if f 2 1 = 1 then 64 + 256 * (f 3 1 % 2) + 64 * f 16 8 + f 24 8 else 64 + f 8 8

/-- Bytes of the bank that an object covers. -/
def footprint (h : Bytes) : Nat :=
  let f := field h
  if f 2 1 = 1 then 2112 * f 16 8 + 256 * (f 3 1 % 2) else f 8 8

/-- Blocks of an object: what its event counts (Table 4.7). -/
def objectBlocks (h : Bytes) : Nat := if field h 2 1 = 1 then field h 16 8 else ceilDiv (field h 8 8) 2048

/-- A manifest breaks R411, or its length is not MANIFEST_LEN. -/
def manifestBad (m : Bytes) (len : Nat) : Bool :=
  let n := field m 4 4
  m.length != len || field m 0 2 != 1 || !zeroAt m 2 2 || !zeroAt m 16 48 || n = 0 || decide (1048576 < n) || field m 8 8 != 64 + 128 * n ||
  field m 8 8 != len ||
  (chunks 128 (m.drop 64)).any (fun e => decide (16384 ≤ field e 0 2) || decide (32 ≤ field e 2 1) || !zeroAt e 3 1 || field e 16 8 % 4096 != 0 || !zeroAt e 96 32)

/-- Ranges of a list overlap. -/
def overlapping : List (Nat × Nat) → Bool
  | [] => false
  | r :: rs => rs.any (fun q => decide (r.1 < q.1 + q.2) && decide (q.1 < r.1 + r.2)) || overlapping rs

/-- Unfinished items that may be in flight: the first four of each target, in order (R412, R413). -/
def inFlight (targets : List Nat) (done : List Nat) : List Nat :=
  ((targets.zipIdx).foldl (fun (acc : List Nat × List Nat) (t : Nat × Nat) =>
    if done.contains t.2 then acc
    else if 4 ≤ acc.2.count t.1 then (acc.1, acc.2 ++ [t.1]) else (acc.1 ++ [t.2], acc.2 ++ [t.1])) ([], [])).1

/-- Storage port of a target's entry. -/
def State.targetPort (s : State) (t : Nat) : Nat := s.getF F.ethTgtPort t

/-! ### LOAD_SHARD (Table 10.11) -/

/-- Bank 0 or 1 of a context. -/
def CtxSt.bank (c : CtxSt) (b : Nat) : Bank := if b = 0 then c.bank0 else c.bank1
/-- A context with a bank replaced. -/
def CtxSt.setBank (c : CtxSt) (b : Nat) (x : Bank) : CtxSt := if b = 0 then { c with bank0 := x } else { c with bank1 := x }
/-- Bank that a LOAD_SHARD names. -/
def Desc.loadBank (d : Desc) : Nat := field d.bytes 20 1 % 2

/-- A load fails: what it wrote leaves the bank without a manifest. -/
def State.failLoad (s : State) (i : Nat) (j : Job) (st : Status) : State :=
  ((s.setCtx i { s.ctx i with load := none }).forgetReads j).jobFails i j st j.moved

/-- The last object is in: the manifest is bound, and the load completes (step 5). -/
def State.endLoad (s : State) (i : Nat) (j : Job) : State :=
  let f := field j.desc.bytes
  let c := s.ctx i
  let c := { c with load := none }
  let s := s.setCtx i (c.setBank j.desc.loadBank ⟨some (shake256 j.manifest), f 24 8, f 32 8, j.manifest, false⟩)
  ((s.tryPrepare i).complete i j.desc .ok false j.moved).goOn i

/-- Ask storage for the objects that may be in flight and have not been asked for. -/
def State.askObjects (s : State) (j : Job) (before : List Nat) : State :=
  ((inFlight (j.objects.map (fun e => field e 2 1)) j.finished).filter (fun k => !before.contains k)).foldl
    (fun (s : State) k => s.askObject (j.objects.getD k [])) s

/-- The load queue's head may start (R282, R391). -/
def State.loadMay (s : State) (i : Nat) (d : Desc) : Bool :=
  let c := s.ctx i
  s.ctxState i == 1 && !s.noStart && c.load.isNone && (d.loadBank != s.getF F.tideCtxBank i || c.inv.isNone) &&
  !c.sw.any (fun w => w.bank == d.loadBank)

/-- Read the header of every selected object, in manifest order: none within while packets fail authentication (R409, R412). -/
def State.readHeaders (s : State) (es wires : List Bytes) : Option (List Bytes) × State :=
  (es.zipIdx).foldl (fun (acc : Option (List Bytes) × State) x =>
    let f := field x.1
    let t := acc.2.askRead (f 2 1) (f 4 4) (f 8 8) 64
    match t.readText (f 2 1) (f 4 4) (f 8 8) 64 (wires.getD x.2 []), acc.1 with
    | (h, true, s), some hs => (some (hs ++ [slice h 0 64]), s)
    | (_, _, s), _ => (none, s)) (some [], s)

/-- Start a LOAD_SHARD that has left the queue: what R412 and Table 10.11 refuse, else its objects are asked for. -/
def State.startLoad (s : State) (i : Nat) (d : Desc) (manifest : Bytes) (headers : List Bytes) : State :=
  let f := field d.bytes
  let es := manifestEntries manifest s.chip
  let marks := (es.zipIdx).filterMap (fun x =>
    let h := headers.getD x.2 []
    if headerBad h || objectLen h != field x.1 24 8 then none else some (field x.1 16 8, footprint h))
  if overlapping marks || marks.any (fun r => decide (f 32 8 < r.1 + r.2)) then s.failStart i d .descInvalid
  else
    let j := { Job.start d none es.length with objects := es, manifest := manifest }
    if es.isEmpty then s.endLoad i j else (s.setCtx i { s.ctx i with load := some j }).askObjects j []

/-- LOAD_SHARD: `manifest` is what host memory gives, `headers` what storage answers for the headers of the selected objects in manifest order (step 1,
R412). -/
def execLoadShard (ctx : CtxId) (manifest : Bytes) (headers : List Bytes) (s : State) : Host.Outcome State Fault Refusal :=
  let c := s.ctx ctx
  match c.loadq with
  | [] => .next s
  | d :: rest =>
    if !s.loadMay ctx d then .next s else
    let go := s.setCtx ctx { c with loadq := rest }
    let es := manifestEntries manifest s.chip
    if manifestBad manifest (field d.bytes 16 4) || es.any (fun e => !s.flag F.ethTgtValid (field e 2 1)) then .next (go.failStart ctx d .descInvalid)
    else if es.any (fun e => s.getF F.ethTgtState (field e 2 1) == 2) then .next (go.failStart ctx d .timeout)
    else match go.readHeaders es headers with
      | (some hs, t) => .next (t.startLoad ctx d manifest hs)
      | (none, t) => .next { s with ethAuth := t.ethAuth }

/-- Bytes of an object from an offset. -/
def objPart (obj : Bytes) (off n : Nat) : Bytes := (obj.drop off).take n

/-- Place an object in its bank: plain data, or the blocks restored to their slots, tags and table after them (R149, R412). The payload and the tag of a
compressed block are data units of their own (Table 17.7). -/
def State.placeObject (s : State) (t : Translator) (tag dst : Nat) (obj : Bytes) : Status × State :=
  let f := field obj
  if f 2 1 = 0 then s.writeVa t tag dst (obj.drop 64) true
  else
    let n := f 16 8
    let tags := 64 + 256 * (f 3 1 % 2)
    let (st, _, s) := (List.range n).foldl (fun (acc : Status × Nat × State) b =>
      if acc.1 != .ok then acc else
      let g := objPart obj (tags + 64 * b) 64
      let p := objPart obj acc.2.1 (storedLen g)
      match acc.2.2.writeVa t tag (dst + 2048 * n + 64 * b) g true (.unit 0) with
      | (.ok, s) => if p.isEmpty then (.ok, acc.2.1, s) else (let (st, s) := s.writeVa t tag (dst + 2048 * b) p true (.unit 0); (st, acc.2.1 + p.length, s))
      | (st, s) => (st, acc.2.1, s)) (.ok, tags + 64 * n, s)
    if st != .ok || f 3 1 % 2 = 0 then (st, s) else s.writeVa t tag (dst + 2112 * n) (objPart obj 64 256) true

/-! ### Blocks between memory and a storage port (R96, R413) -/

/-- What moving the data of an object past damage comes to: the object that lands, blocks that passed, blocks fetched again, and whether one failed twice. -/
structure Moved where
  obj : Bytes
  passed : Nat
  again : Nat
  lost : Bool
  deriving DecidableEq, Repr

/-- The table of a compact object, when it carries one. -/
def objectTable (obj : Bytes) : Option (List Nat) :=
  if field obj 3 1 % 2 = 1 && validRecord (objPart obj 64 256) then some (recordLens (objPart obj 64 256)) else none

/-- A compressed block on its way to memory fails its check: the damage checks of Table 6.6 and the CRC over the expander's output, with the table the object
carries. What a table that is not there would expand has the checks of its tag alone (R96, R168, log entry 22). -/
def codedBad (lens : Option (List Nat)) (t payload : Bytes) : Bool :=
  let c := match lens with
    | some l => { CoreSt.idle with tslots := [(tagTable t, ⟨true, 0, tableId l, l⟩)] }
    | none => CoreSt.idle
  match c.expand 0 t payload none with
  | .damaged _ => true
  | _ => false

/-- Move the data of an object, from byte 64 on, past what strikes it: a plain block is checked by its CRC, a compressed one as `codedBad` says, or for a
checkpoint by its TAG_CRC (R413), and one that fails is fetched again once. -/
def moveObject (obj : Bytes) (hit : Hit) (checkpoint : Bool := false) : Moved :=
  let data := obj.drop 64
  if field obj 2 1 = 0 then
    let (x, again, lost) := moveBlocks data hit
    ⟨obj.take 64 ++ x, ceilDiv x.length 2048, again, lost⟩
  else
    let first := upsetBytes data hit.first
    let second := upsetBytes data hit.second
    let tags := 256 * (field obj 3 1 % 2)
    let n := field obj 16 8
    let lens := objectTable obj
    ((List.range n).foldl (fun (acc : Moved × Nat) b =>
      if acc.1.lost then acc else
      let g := tags + 64 * b
      let len := storedLen (slice data g 64)
      let from_ := fun (src : Bytes) => overlay (overlay acc.1.obj (64 + g) (slice src g 64)) (64 + acc.2) (slice src acc.2 len)
      let bad := fun (src : Bytes) =>
        if checkpoint then tagCause (slice src g 64) == some 1 else codedBad lens (slice src g 64) (slice src acc.2 len)
      if !bad first then (⟨from_ first, acc.1.passed + 1, acc.1.again, false⟩, acc.2 + len)
      else if !bad second then (⟨from_ second, acc.1.passed + 1, acc.1.again + 1, false⟩, acc.2 + len)
      else (⟨acc.1.obj, acc.1.passed, acc.1.again + 1, true⟩, acc.2 + len)) (⟨obj, 0, 0, false⟩, tags + 64 * n)).1

/-- The type of an object's check event (Table 4.1). -/
def objectType (h : Bytes) : Nat := if field h 2 1 = 1 then 8 else 7

/-- Count the blocks of an object in one event (R96, R107). -/
def State.objectMoved (s : State) (i : Nat) (j : Job) (port : Nat) (h : Bytes) (passed again : Nat) (lost : Bool) (counted : Nat := 0) (supply : Bool := false) :
    State :=
  s.movedBlocks i (objectType h) (sourceOf 3 port) j.desc.index passed again lost true counted supply

/-- An object whose digest has failed twice is damaged as a whole (step 4 of Table 10.11). -/
def State.objectDamaged (s : State) (i : Nat) (j : Job) (port k : Nat) (h : Bytes) : State :=
  (s.lastingBlock i true).gauge i { Gauge.plain (objectType h) (sourceOf 3 port) j.desc.index (objectBlocks h) with
    retries := 1, lasting := some .damagedBlock, supply := j.supplies.contains k } true

/-- An object breaks its header, its entry or its digest (R282, R412). -/
def objectBad (e obj : Bytes) : Bool :=
  headerBad obj || obj.length != field e 24 8 || objectLen obj != field e 24 8 || shake256 obj != slice e 32 64

/-- The translator of a storage port. -/
def ethOf (port : Nat) : Translator := .eth ⟨port % 2, Nat.mod_lt _ (by decide)⟩

/-- Object `k` of a load has arrived (steps 2 to 5 of Table 10.11); `hit` strikes its blocks between the port and memory. Of a load that a CANCEL or a dike
has ended only the retries still to come are counted (R105). -/
def State.objectIn (s : State) (i : Nat) (j : Job) (k : Nat) (obj : Bytes) (hit : Hit) : State :=
  let before := inFlight (j.objects.map (fun e => field e 2 1)) j.finished
  let e := j.objects.getD k []
  let port := s.targetPort (field e 2 1)
  if objectBad e obj then
    if j.tried.contains k then (s.objectDamaged i j port k obj).failLoad i j .damagedBlock
    else (s.setCtx i { s.ctx i with load := some { j with
      tried := j.tried ++ [k], supplies := if s.inSupply then j.supplies ++ [k] else j.supplies } }).askObject e
  else if field j.desc.bytes 32 8 < field e 16 8 + footprint obj then s.failLoad i j .descInvalid
  else
    -- Table 16.5: a refetch that passed is counted in the event ring alone
    let s := if j.tried.contains k then s.log 0x0031 (sourceOf 3 port) (s.tag i) .okRetried 1 (natLe 1 (objectType obj)) else s
    match j.ending with
    | some e =>
      let j := { j with finished := j.finished ++ [k] }
      if j.loadRetrying then s.setCtx i { s.ctx i with load := some j } else s.failLoad i j e
    | none =>
    let b := j.desc.loadBank
    let s := s.setCtx i ((s.ctx i).setBank b { (s.ctx i).bank b with digest := none, broken := true })
    let m := moveObject obj hit
    match s.placeObject (ethOf port) j.desc.ctxTag (field j.desc.bytes 24 8 + field e 16 8) (if m.lost then obj.take 64 else m.obj) with
    | (st, s) =>
      if m.lost then (s.objectMoved i j port obj m.passed m.again true).failLoad i j .damagedBlock
      else if st ≠ .ok then (s.objectMoved i j port obj m.passed m.again false).failLoad i j st
      else
        let s := s.objectMoved i j port obj m.passed m.again false
        let j := { j with finished := j.finished ++ [k], moved := j.moved + 1 }
        if j.finished.length = j.objects.length then s.endLoad i j
        else (s.setCtx i { s.ctx i with load := some j }).askObjects j before

/-- SHARD_OBJECT_ARRIVED: the answers of storage for object `k` of the selected ones have come in. -/
def execShardObjectArrived (ctx : CtxId) (k : Nat) (wire : Bytes) (s : State) (hit : Hit := ⟨[], []⟩) : Host.Outcome State Fault Refusal :=
  match (s.ctx ctx).load with
  | none => .next s
  | some j =>
    if s.stopped || !(inFlight (j.objects.map (fun e => field e 2 1)) j.finished).contains k || (j.ending.isSome && !j.tried.contains k) then .next s
    else match s.objectText (j.objects.getD k []) wire with
      | (_, false, s) => .next s
      | (obj, true, t) => .next (s.unlessFull ctx (t.objectIn ctx j k obj hit) true)

/-! ### CHECKPOINT (R413) -/

/-- A checkpoint entry breaks Table 15.20, names a base beyond 2^48 (R312), or names a target that is not valid. -/
def State.entryBad (s : State) (e : Bytes) : Bool :=
  decide (1 < field e 0 1) || decide (32 ≤ field e 1 1) || !zeroAt e 2 2 || !zeroAt e 56 8 ||
  (field e 0 1 == 0 && (!zeroAt e 24 8 || !zeroAt e 32 8)) || !baseOk (field e 16 8) || !baseOk (field e 24 8) || !baseOk (field e 32 8) ||
  !s.flag F.ethTgtValid (field e 1 1)

/-- A checkpoint fails. -/
def State.failCkpt (s : State) (i : Nat) (j : Job) (st : Status) : State := (s.setCtx i { s.ctx i with ckpt := none }).jobFails i j st j.moved

/-- The header of a checkpoint object (Table 15.18). -/
def ckptHeader (e : Bytes) (payload : Nat) : Bytes :=
  let f := field e
  if f 0 1 = 1 then
    natLe 2 1 ++ natLe 1 1 ++ natLe 1 (b2n (f 32 8 != 0)) ++ zeros 4 ++ natLe 8 (2048 * f 40 8) ++ natLe 8 (f 40 8) ++ natLe 8 payload ++ natLe 8 (f 16 8) ++ zeros 24
  else natLe 2 1 ++ zeros 6 ++ natLe 8 (f 40 8) ++ zeros 16 ++ natLe 8 (f 16 8) ++ zeros 24

/-- Read the tag of a block for a checkpoint: one whose TAG_CRC fails is read again once, and one that passes then is a transient unit (R96, R102, R413). The
Bool says that it was. -/
def State.readTag (s : State) (t : Translator) (tag va source : Nat) : Rd (Bytes × Bool) :=
  let get := fun (s : State) => match s.readVa t tag va 64 true (.unit 0) with
    | (.data g, s) => ((.ok g, s) : Rd Bytes)
    | (.failed st, s) => (.error (some st), s)
    | (.wait, s) => (.error none, s)
  rdThen (get s) (fun g s =>
    if tagCause g ≠ some 1 then (.ok (g, false), s)
    else rdThen (get s) (fun g s => if tagCause g = some 1 then (.ok (g, false), s) else (.ok (g, true), s.transient (tagIndex tag) 8 source true)))

/-- Read the object of an entry through its storage port, with how many of its tags passed on their second read. -/
def State.readCkpt (s : State) (t : Translator) (tag source : Nat) (e : Bytes) : Rd (Bytes × Nat) :=
  let f := field e
  let get := fun (s : State) (a n : Nat) (u : Units) =>
    if n = 0 then ((.ok [], s) : Rd Bytes) else
    match s.readVa t tag a n true u with
    | (.data bs, s) => (.ok bs, s)
    | (.failed st, s) => (.error (some st), s)
    | (.wait, s) => (.error none, s)
  if f 0 1 = 0 then rdThen (get s (f 16 8) (f 40 8) .sectors) (fun bs s => (.ok (ckptHeader e 0 ++ bs, 0), s))
  else
    rdThen (get s (f 32 8) (if f 32 8 = 0 then 0 else 256) .sectors) (fun table s =>
      rdThen (rdEach (fun b s => rdThen (s.readTag t tag (f 24 8 + 64 * b) source) (fun g s =>
          rdThen (get s (f 16 8 + 2048 * b) (storedLen g.1) (.unit 0)) (fun p s => (.ok (g, p), s)))) (List.range (f 40 8)) s) (fun bs s =>
        let ps := (bs.map (·.2)).flatten
        (.ok (ckptHeader e ps.length ++ table ++ (bs.map (·.1.1)).flatten ++ ps, (bs.filter (·.1.2)).length), s)))

/-- Write an object to storage in pieces of at most 1 MiB. -/
def State.putObject (s : State) (e obj : Bytes) : State := s.putText (field e 1 1) (field e 4 4) (field e 8 8) obj

/-- What a checkpoint keeps of an object under way: its length, its digest, how many of its blocks were fetched again, how many of its tags were read again, and
whether that met a supply event (R106). -/
def ckptNote (obj : Bytes) (again tags : Nat) (supply : Bool) : Bytes :=
  natLe 8 obj.length ++ slice (shake256 obj) 0 64 ++ natLe 8 again ++ natLe 7 tags ++ natLe 1 (b2n supply)

/-- What strikes an object on its way to the port. -/
def hitOn (hits : List (Nat × Hit)) (k : Nat) : Hit := ((hits.find? (fun h => h.1 == k)).map (·.2)).getD ⟨[], []⟩

/-- Send the objects of a checkpoint that may be in flight and have not been sent, with fuel. An object whose event finds no room waits (R110). -/
def State.pumpCkpt (s : State) (i : Nat) (hits : List (Nat × Hit)) : Nat → State
  | 0 => s
  | n + 1 =>
    match (s.ctx i).ckpt with
    | none => s
    | some j =>
      match (inFlight (j.objects.map (fun e => field e 1 1)) j.finished).find? (fun k => !j.tried.contains k) with
      | none => s
      | some k =>
        let e := j.objects.getD k []
        let port := s.targetPort (field e 1 1)
        match s.readCkpt (ethOf port) j.desc.ctxTag (sourceOf 3 port) e with
        | (.error none, t) => s.keepRefetch t
        | (.error (some st), t) => s.unlessFull i (t.failCkpt i j st) true
        | (.ok (obj, tags), t) =>
          let m := moveObject obj (hitOn hits k) true
          if m.lost then s.unlessFull i ((t.objectMoved i j port obj m.passed m.again true tags).failCkpt i j .damagedBlock) true
          else if s.overfills i t true then s.frozen
          else
            let s := t.putObject e m.obj
            let j := { j with tried := j.tried ++ [k], buffer := j.buffer ++ ckptNote m.obj m.again tags (s.inSupply && decide (0 < m.again + tags)) }
            (s.setCtx i { s.ctx i with ckpt := some j }).pumpCkpt i hits n

/-- CHECKPOINT: `list` is what host memory gives for its entries; `hits` strike objects by number. -/
def execCheckpoint (ctx : CtxId) (list : Bytes) (s : State) (hits : List (Nat × Hit) := []) : Host.Outcome State Fault Refusal :=
  .next (s.startWork ctx 6 (fun d s =>
    let n := field d.bytes 16 4
    let es := chunks 64 (slice list 0 (64 * n))
    let j := { Job.start d none n with objects := es }
    if n = 0 then (s.complete ctx d .ok).goOn ctx
    else if es.any s.entryBad then s.failStart ctx d .descInvalid
    else if es.any (fun e => s.getF F.ethTgtState (field e 1 1) == 2) then s.failStart ctx d .timeout
    else (s.setCtx ctx { s.ctx ctx with ckpt := some j }).pumpCkpt ctx hits n))

/-- Object `k` of a checkpoint is in storage: its 72-byte result goes to RESULT, and the next objects follow. -/
def State.ckptDone (s : State) (i : Nat) (j : Job) (k : Nat) (hits : List (Nat × Hit)) : State :=
  let e := j.objects.getD k []
  let note := slice j.buffer (88 * (j.tried.takeWhile (fun x => x != k)).length) 88
  let s := s.emit (.hostWrite (field e 48 8) (slice note 0 72))
  let h := ckptHeader e 0
  let s := s.objectMoved i j (s.targetPort (field e 1 1)) h (objectBlocks h) (field note 72 8) false (field note 80 7) (field note 87 1 == 1)
  let j := { j with finished := j.finished ++ [k], moved := j.moved + 1 }
  if j.finished.length = j.objects.length then ((s.setCtx i { s.ctx i with ckpt := none }).complete i j.desc .ok false j.moved).goOn i
  else (s.setCtx i { s.ctx i with ckpt := some j }).pumpCkpt i hits j.objects.length

/-- CHECKPOINT_OBJECT_DONE: every RDMA WRITE of object `k` has been acknowledged. -/
def execCheckpointObjectDone (ctx : CtxId) (k : Nat) (s : State) (hits : List (Nat × Hit) := []) : Host.Outcome State Fault Refusal :=
  match (s.ctx ctx).ckpt with
  | none => .next s
  | some j =>
    if s.stopped || !j.tried.contains k || j.finished.contains k then .next s
    else .next (s.unlessFull ctx (s.ckptDone ctx j k hits) true)

/-! ### MEMORY_REFETCH_DONE (R299 step 3) -/

/-- Serve again the requests that waited for a repair or for room in the collector's buffer, and go on with checkpoints. -/
def State.serveParked (s : State) : State :=
  let ps := s.parked
  let s := ps.foldl (fun (s : State) (x : PortId × Packet) =>
    let (n, p) := x
    if p.type = 1 then s.serveRead n p
    else if p.type = 2 then s.serveWrite n p
    else if p.type = 5 then s.serveGather n p
    else s.gatherReply n p [] ⟨[], []⟩ .agree) { s with parked := [] }
  (s.ctxs.map (·.1)).foldl (fun (s : State) i => s.pumpCkpt i [] ((s.ctx i).ckpt.map (fun j => j.objects.length)).toList.sum) s

/-- READs of other chips that waited for a block to pass its landing check are served again (R270). -/
def State.retryReads (s : State) : State :=
  (s.parked.filter (fun x => x.2.type == 1)).foldl (fun (s : State) x => s.serveRead x.1 x.2) { s with parked := s.parked.filter (fun x => x.2.type != 1) }

/-- BLOCK: a block from the on-chip network or from a port; a READ that waited for it is served. -/
def execBlock (core : CoreId) (came : Option PortId) (p : Packet) (hit : Hit) (s : State) : Host.Outcome State Fault Refusal :=
  let t := s.blockIn core came p hit
  .next (if t.parked.isEmpty then t else t.retryReads)

/-- The second source of every waiting read of a context and target has failed: the reads reach step 4. -/
def State.failRefetch (s : State) (hit : Refetch → Bool) : State :=
  ({ s with refetch := s.refetch.map (fun r => if hit r then { r with failed := true } else r) }).serveParked

/-- MEMORY_REFETCH_DONE: the object that covers the oldest failed sector of a context has been read again; its digest is checked, it is rewritten,
and the waiting reads are served. -/
def execMemoryRefetchDone (ctx : CtxId) (wire : Bytes) (s : State) : Host.Outcome State Fault Refusal :=
  match s.refetch.find? (fun r => r.ctx == ctx.val && !r.failed) with
  | none => .next s
  | some r =>
    if s.stopped then .next s else
    let bank := (s.ctx ctx).bankAt r.va
    let entry := bank.bind (fun b => (b.covering s.chip r.va).map (fun e => (b, e)))
    match entry with
    | none => .next (s.failRefetch (fun x => x == r))
    | some (b, e) =>
      let same := fun (x : Refetch) => x.ctx == r.ctx && !x.failed && ((s.ctx ctx).bankAt x.va).bind (fun b => b.covering s.chip x.va) == some e
      let off := b.base + field e 16 8
      match s.objectText e wire with
      | (_, false, s) => .next s
      | (obj, true, s) =>
      if objectBad e obj || decide (off + footprint obj ≤ r.va) then .next (s.failRefetch same)
      else
        let hits := s.refetch.filter same
        match s.placeObject .mp (s.tag ctx) off obj with
        | (.ok, s) =>
          let s := hits.foldl (fun (s : State) (x : Refetch) =>
            let k := stackOf s.key (x.sector * 32)
            let s := (s.bump F.hscStackCorrRepaired k).transient ctx 0x0D (sourceOf 4 k) x.win
            s.sectorEvent ctx k x.win none x.supply) s
          .next ({ s with refetch := s.refetch.filter (fun x => !hits.contains x) }).serveParked
        | (_, s) => .next (s.failRefetch same)

/-! ### Targets, queue pairs and ports (R407 to R409, R453) -/

/-- Clear a target's queue pair, and connect it again when its entry is valid: its packets are numbered from the start. -/
def State.reconnect (s : State) (t : Nat) : State :=
  let s := { s with psn := s.psn.del t, asked := s.asked.filter (fun a => a.target != t) }
  if s.flag F.ethTgtValid t then (s.setF F.ethTgtState 1 t).setF F.ethTgtLocalQpn (Config.localQpn t) t else s.setF F.ethTgtState 0 t

/-- Take a whole ETH_TGT entry: its writable fields first, then VALID acts (R492, R493). -/
def State.writeTarget (s : State) (t w : Nat) : State :=
  let s := [F.ethTgtIp, F.ethTgtNextHop, F.ethTgtRemoteQpn, F.ethTgtSendPsn, F.ethTgtRecvPsn, F.ethTgtVlan, F.ethTgtPcp, F.ethTgtDscp, F.ethTgtPort,
    F.ethTgtEncrypt, F.ethTgtValid].foldl (fun (s : State) (f : Fld) => s.setF f (bits w f.hi f.lo) t) s
  s.reconnect t

/-- TGT_CONNECT: a write of an ETH_TGT entry by the PF. -/
def takeTgtConnect (path : Path) (t : TargetId) (w : BitVec 512) (s : State) : Host.Outcome State Fault Refusal :=
  if s.stopped || path != .pf then .next s else .next (s.writeTarget t w.toNat)

/-- Take a whole SEC_TGT_KEY entry. -/
def State.writeTargetKey (s : State) (t w : Nat) : State :=
  ((s.setF F.secTgtKeyKey (bits w 255 0) t).setF F.secTgtKeySalt (bits w 287 256) t).reconnect t

/-- TGT_KEY_WRITE: a target's 32-byte key and 4-byte salt, by the PF. -/
def takeTgtKeyWrite (path : Path) (t : TargetId) (key : Bytes) (s : State) : Host.Outcome State Fault Refusal :=
  if s.stopped || path != .pf then .next s else .next (s.writeTargetKey t (field key 0 36))

/-- A job uses a target for something that is not finished. -/
def Job.uses (j : Job) (byte t : Nat) : Bool := (j.objects.zipIdx).any (fun x => !j.finished.contains x.2 && field x.1 byte 1 == t)

/-- The work that used a queue pair ends with a status; refetches through it have failed. -/
def State.targetFails (s : State) (t : Nat) (st : Status) : State :=
  let s := (s.ctxs.map (·.1)).foldl (fun (s : State) i =>
    let s := match (s.ctx i).load with
      | some j => if j.uses 2 t then s.failLoad i j st else s
      | none => s
    match (s.ctx i).ckpt with
    | some j => if j.uses 1 t then s.failCkpt i j st else s
    | none => s) s
  s.failRefetch (fun r => (((s.ctx r.ctx).bankAt r.va).bind (fun b => b.covering s.chip r.va)).any (fun e => field e 2 1 == t))

/-- RDMA_TRANSPORT_ERROR: a queue pair's retries run out, and it enters its error state; or a remote access error ends the work. -/
def execRdmaTransportError (t : TargetId) (remoteAccess : Bool) (s : State) : Host.Outcome State Fault Refusal :=
  if s.stopped || s.getF F.ethTgtState t ≠ 1 then .next s
  else if remoteAccess then .next (s.targetFails t .accessViolation)
  else .next ((s.setF F.ethTgtState 2 t).targetFails t .timeout)

/-- RDMA_INBOUND_REQUEST: the DX1 is never a responder. -/
def execRdmaInboundRequest (eth : EthId) (req : Bytes) (s : State) : Host.Outcome State Fault Refusal :=
  if s.stopped || s.getF F.ethPortState eth ≠ 2 then .next s else .next (s.emit (.rdmaRefuse eth req))

/-- TRANSPORT_RETRANSMIT: a queue pair sends its unacknowledged requests again. -/
def execTransportRetransmit (t : TargetId) (s : State) : Host.Outcome State Fault Refusal :=
  if s.stopped || s.getF F.ethTgtState t ≠ 1 then .next s else .next (s.emit (.retransmit t))

/-- STORAGE_LINK_CHANGE: ETH_PORT.STATE follows the link (Table 15.27); 3 is reserved. -/
def execStorageLinkChange (eth : EthId) (st : Fin 4) (s : State) : Host.Outcome State Fault Refusal :=
  if st.val = 3 then .next s else .next (s.setF F.ethPortState st.val eth)

/-- The TCP port that the MP listens on (Table 15.29): 0 selects 7,810. -/
def State.diagTcp (s : State) : Nat := if s.getF F.ethDiagTcpPort = 0 then 7810 else s.getF F.ethDiagTcpPort

/-- A request of a diagnostic session is relayed over a port to the management processor of its planned neighbour: in a MGMT packet, while the port is up or
quarantined (R414). -/
def State.relayMgmt (s : State) (n : Nat) (body : Bytes) : State :=
  if s.getF F.topoPortExpKind n = 0 || !(s.portState n == 3 || s.portState n == 4) then s
  else (s.egress n { packetOf 9 (s.getF F.topoPortExpChip n) 0xFF 0 0xFF body with srcChip := s.chip } none).2

/-- DIAG_SESSION: a session opens on the diagnostic endpoint, one at a time, at the listening port, for the key that ETH_DIAG_KEY names; its relays go out (R414,
log entry 32). -/
def execDiagSession (eth : EthId) (keyDigest : Bytes) (s : State) (tcp : Nat := 7810) (relays : List (PortId × Bytes) := []) : Host.Outcome State Fault Refusal :=
  let want := ((List.range 8).map (fun i => natLe 8 (s.getF F.ethDiagKeyDigest i))).flatten
  if s.stopped || !s.flag F.ethDiagEnable || s.getF F.ethPortState eth ≠ 2 || tcp ≠ s.diagTcp || slice keyDigest 0 64 != want then .next s
  else .next (relays.foldl (fun (s : State) r => s.relayMgmt r.1 r.2) { s with diag := true })

/-! ### Ends of requests, and room for gauge records (R110, R346, R402, R427) -/

/-- A request of this chip has ended with a status, whoever issued it. -/
def State.requestEnded (s : State) (r : Request) (st : Status) : State :=
  let s := s.dropRequest r.txn
  match r.who with
  | .gather e _ =>
    match (s.engine e).run.bind (fun g => g.fetches.find? (fun f => f.txn == some r.txn)) with
    | none => s
    | some f => s.rowIn e f (.error st) [] ⟨[], []⟩ .agree
  | _ => s.requestEnds r st

/-- A request of this chip ends with a status; its late response will find no request. When the collector's buffer has no room for the event that this makes,
its unit freezes, and the request ends once there is (R110). -/
def State.endRequest (s : State) (r : Request) (st : Status) : State :=
  let t := s.requestEnded r st
  if s.overfills (tagIndex r.tag) t || s.overfills (tagIndex r.tag) t true then
    { s.frozen with requests := s.requests.map (fun x => if x.txn == r.txn then { x with ended := some st } else x) }
  else t

/-- Units that froze at a full buffer go on: requests that waited end or are served. -/
def State.unfreeze (s : State) : State :=
  (s.requests.filter (fun r => r.ended.isSome)).foldl (fun (s : State) r => s.endRequest r (r.ended.getD .timeout)) s.serveParked

/-- AUDIT_RECORDS_WRITTEN: the HIU writes the next `n` records of a context that the ring has room for, and frozen units go on as space frees (R110). -/
def execAuditRecordsWritten (ctx : CtxId) (n : Nat) (s : State) : Host.Outcome State Fault Refusal :=
  let s := s.writeRecords ctx n
  .next (if s.collector.length < 2048 then s.unfreeze else s)

end Sys2Proof.Machine
end

