-- ==== Sys2Proof/Machine/Link.lean ====
section
/-! DEFINITION. Omgopin ports: flits, acknowledgements, replay, credit, arbitration; the dike, the training and the going up and down of a port
(R335 to R353, R371, R376, R448, R484). Log entries 24, 45. -/

namespace Sys2Proof.Machine

/-- A moment has passed, for timers that a fixed time of the manual sets. -/
def State.after (s : State) (since : Option Nat) (ns : Nat) : Bool := s.passed since ns

/-! ### Packets that a port discards (R346) -/

/-- A packet that a port discards is counted, by R379 when the port is down and by R346 else; a request is answered, to this chip's own requester or by a
response; others are lost. -/
def State.discard (s : State) (n : Nat) (st : Status) (p : Packet) : State :=
  let s := if st == .partitioned then s.bump F.topoUnreachCount else s.bump F.lnkDropDiked n
  if isRequest p.type then
    if p.srcChip = s.chip then
      match s.requests.find? (fun r => r.txn == p.txn) with
      | some r => s.endRequest r st
      | none => s
    else s.answer p st
  else s

/-- Packets a port holds, by their order of arrival: with bytes in its replay buffer, under way, queued. -/
def PortSt.packets (x : PortSt) : List (Nat × Packet) :=
  ((x.held.map (·.parts)).flatten ++ x.started.map (fun t => (t.order, t.p))).eraseDups ++ x.queue.map (fun q => (q.order, q.p))

/-- The port's queues, replay buffer, sequence and credit state go; each packet in them ends (R346). -/
def State.flushPort (s : State) (n : Nat) (st : Status) : State :=
  let x := s.port n
  let ps := x.packets
  let s := s.setPort n { PortSt.off with
    quarantined := x.quarantined, dikeAt := x.dikeAt, dikeFor := x.dikeFor, trainAt := x.trainAt, resetBy := x.resetBy, overdue := x.overdue }
  ps.foldl (fun (s : State) p => s.discard n st p.2) s

/-! ### States of a port -/

/-- Set LNK_STATUS.STATE, log the change, and start or stop tide break timers (R274, Table 16.12). -/
def State.setPortState (s : State) (n v : Nat) : State :=
  if s.portState n = v then s else
  let s := s.setF F.lnkStatusState v n
  let s := if v = 3 then s else s.setF F.lnkStatusWidth 0 n
  (s.log 0x0040 (sourceOf 2 n) 0 .ok (if v = 3 then 0 else 1) (natLe 1 v)).ringTimers n

/-- The fields of a port's page that its reset returns to their reset values: neither counters nor what Table 16.1 keeps (R495). -/
def State.resetPortPage (s : State) (n : Nat) : State :=
  [F.lnkCtlLaneLimit, F.lnkCtlForceWidth, F.lnkLanesForceLanes, F.lnkLanesActive].foldl (fun (s : State) f => s.setF f f.reset n) s

/-- A port trains: its STATE says so, or its dike's timeout has passed meanwhile and its STATE says down or quarantined (R379). -/
def State.trains (s : State) (n : Nat) : Bool := s.portState n == 2 || (s.port n).late

/-- The reset of a port runs: it is diked, or trains within its dike (R421). -/
def State.portResets (s : State) (n : Nat) : Bool := s.portState n == 5 || ((s.port n).dikeAt.isSome && s.trains n)

/-- A port is diked: everything it holds ends at once, and with nothing to drain its reset follows (R346, R420). While its reset runs another has no effect
(R421). -/
def State.dikePort (s : State) (n : Nat) : State :=
  if s.portState n = 0 ∨ s.portResets n then s else
  let s := s.setPort n { s.port n with dikeAt := some s.time, dikeFor := s.dikeNs, trainAt := none, locked := none, degrade := false, overdue := false }
  (((s.log 0x0020 (sourceOf 2 n) 0 .ok 1).setPortState n 5).flushPort n .fencedAbort).resetPortPage n

/-- A port starts to train from nothing (R344, R371, R373). -/
def State.trainPort (s : State) (n : Nat) : State :=
  let s := s.flushPort n .partitioned
  let s := s.setPort n { s.port n with trainAt := some s.time }
  let s := (s.setF F.lnkLanesFailed 0 n).setF F.lnkLanesActive 0 n
  ((s.setF F.topoPortOutcome 0 n).setF F.topoPortPeerVerdict 0 n).setPortState n 2

/-- A port that does not come up is down, or quarantined again (R343, R379); within its dike it stays diked until the dike's timeout. No lane is active, and what
waited for it is refused. -/
def State.portDown (s : State) (n : Nat) : State :=
  let x := s.port n
  let diked := x.diked && !x.quarantined
  let s := s.setPort n { x with trainAt := none, locked := none, degrade := false, late := false }
  ((s.setF F.lnkLanesActive 0 n).setPortState n (if x.quarantined then 4 else if diked then 5 else 1)).flushPort n
    (if diked then .fencedAbort else .partitioned)

/-- The timeout of a port's dike passes before the port is up: it is down, or quarantined again, and may train on (R379). -/
def State.portLost (s : State) (n : Nat) : State :=
  let x := s.port n
  (s.setPort n { x with overdue := true, late := s.portState n == 2 }).setPortState n (if x.quarantined then 4 else 1)

/-- A port is quarantined (R376). What it holds ends, but its lanes go on, and so do their superframes (R339). -/
def State.quarantine (s : State) (n : Nat) : State :=
  let x := s.port n
  let s := s.setPort n { x with quarantined := true, trainAt := none, locked := none, degrade := false, late := false }
  let s := (s.setPortState n 4).flushPort n .partitioned
  s.setPort n { s.port n with rxPos := x.rxPos, rxBad := x.rxBad, txData := x.txData, laneBits := x.laneBits, laneErr := x.laneErr }

/-- The port carries data: it is up, or quarantined and carries MGMT packets. -/
def State.carries (s : State) (n : Nat) : Bool := s.portState n == 3 || s.portState n == 4

/-- A port that carries data retrains for a lane degrade: its replay buffer, sequence state and credits are kept, and its packets wait (R344, R345). -/
def State.degradePort (s : State) (n : Nat) : State :=
  if !s.carries n then s else
  let x := s.port n
  let s := s.setPort n { x with
    degrade := true, trainAt := some s.time, locked := none, ident := [], seen := false, replays := 0
    rxPos := 0, rxBad := false, txData := [], laneBits := [], identAt := none, ctlAt := none }
  let s := (s.setF F.topoPortOutcome 0 n).setF F.topoPortPeerVerdict 0 n
  (s.bump F.lnkReplayDegrades n).setPortState n 2

/-- A port comes up: its credits are the buffer sizes, unless a degrade kept them (R345, R347). A quarantined port is quarantined again (R376). -/
def State.portUp (s : State) (n width : Nat) : State :=
  let x := s.port n
  let x := if x.degrade then { x with resend := x.held, ackAt := s.time } else { x with credit := vcBuffers }
  let s := s.setPort n { x with degrade := false, trainAt := none, locked := none, late := false }
  let ours := Config.omgVersion
  let minor := min ours.2 (s.getF F.topoPortActOmg n % 16)
  let s := if s.port n |>.seen then s.setF F.topoPortNegOmg (ours.1 % 16 * 16 + minor % 16) n else s
  if x.quarantined then s.setPortState n 4 else (s.setPortState n 3).setF F.lnkStatusWidth width n

/-! ### Lanes and width (R344, Table 13.3) -/

/-- Lanes of a mask, in ascending order. -/
def lanesOf (mask : Nat) : List Nat := (List.range 32).filter (fun i => bit mask i)

/-- Width for a number of failed lanes under FORCE_WIDTH; 0 when the port cannot come up. -/
def widthFor (failed force : Nat) : Nat :=
  let w := if failed = 0 then 32 else if failed ≤ 16 then 16 else if failed ≤ 24 then 8 else 0
  if force = 1 then min w 16 else if force = 2 then min w 8 else w

/-- The union of failed lanes is formed and the width chosen; a degrade never widens the port. Answers the width. -/
def State.chooseLanes (s : State) (n peer : Nat) : Nat × State :=
  let failed := s.getF F.lnkLanesFailed n ||| s.getF F.lnkLanesForceLanes n ||| peer
  let w := widthFor (lanesOf failed).length (s.getF F.lnkCtlForceWidth n)
  let before := (lanesOf (s.getF F.lnkLanesActive n)).length
  let w := if (s.port n).degrade && before != 0 then min w before else w
  let good := ((List.range 32).filter (fun i => !bit failed i)).take w
  (w, (s.setF F.lnkLanesFailed failed n).setF F.lnkLanesActive (good.foldl (fun m i => m ||| 2 ^ i) 0) n)

/-- A lane fails: it joins the port's failed lanes, and a port that is up retrains (R344). -/
def State.failLane (s : State) (n lane : Nat) : State :=
  if s.portState n = 0 then s else
  (s.setF F.lnkLanesFailed (s.getF F.lnkLanesFailed n ||| 2 ^ lane) n).degradePort n

/-- LANE_FAIL: a lane loses symbol lock. -/
def execLaneFail (port : PortId) (lane : LaneId) (s : State) : Host.Outcome State Fault Refusal :=
  if s.stopped then .next s else .next (s.failLane port lane)

/-- LANE_LIMIT in force: 0 selects the default (Table 13.10). -/
def State.laneLimit (s : State) (n : Nat) : Nat := if s.getF F.lnkCtlLaneLimit n = 0 then 2800 else s.getF F.lnkCtlLaneLimit n

/-- LANE_ERROR_WINDOW: a 1 ms window ends; a lane that has counted more symbol errors than the limit fails, and the counts start again. -/
def execLaneErrorWindow (port : PortId) (more : List (LaneId × Nat)) (s : State) : Host.Outcome State Fault Refusal :=
  if s.stopped || s.portState port = 0 then .next s else
  let x := s.port port
  let counts := more.foldl (fun c m => c.modify m.1.val (· + m.2)) x.laneErr
  let worn := ((counts.zipIdx).filter (fun c => decide (s.laneLimit port < c.1))).map (·.2)
  let s := s.setPort port { x with laneErr := List.replicate 32 0 }
  let s := worn.foldl (fun (s : State) l => s.setF F.lnkLanesFailed (s.getF F.lnkLanesFailed port ||| 2 ^ l) port) s
  .next (if worn.isEmpty then s else s.degradePort port)

/-- A training that cannot end well takes the port down: handled as a port reset when it was up before, unless the reset before it still runs (R343, R421). -/
def State.retrainFails (s : State) (n : Nat) : State := if (s.port n).degrade && !s.portResets n then s.dikePort n else s.portDown n

/-- PORT_RETRAIN_DONE: a retrain ends. One that leaves fewer than 8 lanes, or fails, takes the port down, handled as a port reset when it was up before
(R343); a degrade retrain brings the port back with its replay state once the new exchange has ended well (R345, R451). -/
def execPortRetrainDone (port : PortId) (ok : Bool) (peerFailed : BitVec 32) (s : State) : Host.Outcome State Fault Refusal :=
  if s.stopped || !s.trains port then .next s else
  let (w, s) := s.chooseLanes port peerFailed.toNat
  if !ok || w = 0 then .next (s.retrainFails port)
  else .next (if (s.port port).degrade && (s.port port).keys.step == 5 then s.portUp port w else s)

/-! ### Acknowledgement and replay (R342, R343) -/

/-- SEQ modulo 4,096. -/
def seqNext (n : Nat) : Nat := (n + 1) % 4096

/-- ACK and NAK of a received flit: what it covers leaves the replay buffer; a NAK starts a replay of what is left, unless one is under way. -/
def State.takeAck (s : State) (n ack : Nat) (nak : Bool) : State :=
  let x := s.port n
  let covered := fun (f : SentFlit) => decide ((ack + 4096 - f.seq) % 4096 < 2048)
  let advanced := x.held.any covered
  let keep := fun (l : List SentFlit) => l.filter (fun f => !covered f)
  let x := { x with held := keep x.held, resend := keep x.resend }
  let x := if advanced then { x with ackAt := s.time, replays := 0 } else x
  if nak && !x.held.isEmpty && x.resend.isEmpty then
    let s := (s.setPort n { x with resend := x.held, replays := x.replays + 1 }).bump F.lnkReplayCount n
    if 64 ≤ x.replays + 1 then s.degradePort n else s
  else s.setPort n x

/-- A credit field returns credits of a virtual channel, up to the peer's buffer (Table 13.2, R347). -/
def State.takeCredit (s : State) (n c : Nat) : State :=
  if !bit c 3 then s else
  let v := bits c 2 0
  let x := s.port n
  s.setPort n { x with credit := x.credit.modify v (fun k => min (k + bits c 15 4) (vcBuffers.getD v 0)) }

/-! ### Receiving (R338 to R342) -/

/-- Codewords reach this port: it carries data, or trains with its lanes locked. -/
def State.lineUp (s : State) (n : Nat) : Bool := s.carries n || (s.trains n && (s.port n).locked.isSome)

/-- The physical lane of a logical one: the active lanes in ascending order (R344). -/
def State.physicalLane (s : State) (n l : Nat) : Nat := (lanesOf (s.getF F.lnkLanesActive n)).getD l 32

/-- The codewords of the next flit of a superframe: corrected symbols, uncorrectable codewords and pairs that never occur are counted. Answers whether every
codeword the flit lies in has decoded. -/
def State.takeLine (s : State) (n : Nat) (l : Line) : Bool × State :=
  let x := s.port n
  let k := x.rxPos
  let w := (lanesOf (s.getF F.lnkLanesActive n)).length
  let fixed := if fecBegins k then fecDecode l.struck else some []
  let wrong := if fecBegins k then l.pairs.filter (fun p => (pam6Read p.2.1 p.2.2).isNone) else []
  let hurt := ((fixed.getD []).map (fun j => s.physicalLane n (j % w))) ++ wrong.map (fun p => s.physicalLane n p.1)
  let good := !(x.rxBad && fecInside k) && fixed.isSome
  let s := s.setPort n { x with
    rxPos := (k + 1) % 20, rxBad := if fecBegins k then fixed.isNone else x.rxBad
    laneErr := hurt.foldl (fun c i => c.modify i (· + 1)) x.laneErr }
  match fixed with
  | none => (good, s.bump F.lnkFecUncorrCw n)
  | some js => (good, s.bump F.lnkFecCorrSym n js.length)

/-- The ACK and the credits of an intact flit, on a port that carries data. -/
def State.takeHead (s : State) (n : Nat) (f : Flit) : State :=
  if s.carries n then ((s.takeAck n f.ack f.nak).takeCredit n f.credA).takeCredit n f.credB else s

/-- A flit goes into the receive buffer of its virtual channel until its packets leave; one that carries nothing leaves at once (R347). -/
def PortSt.store (x : PortSt) (f : Flit) : PortSt :=
  if f.fill = 0 then { x with owed := x.owed.modify (f.vc % 8) (· + 1) } else { x with rxHeld := x.rxHeld ++ [(f.vc % 8, 16 * f.fill)] }

/-- DATA_FLIT: passed on if its codewords decode, its CRC matches and it is next in order, else refused; its ACK and credits are applied when it is intact.
The packets it carries arrive as packet commands. -/
def execDataFlit (port : PortId) (f : Flit) (s : State) : Host.Outcome State Fault Refusal :=
  if s.stopped || !s.lineUp port then .next s else
  let (good, s) := s.takeLine port f.line
  if !s.carries port then .next s
  else if !good || !flitIntact false f then .next (s.setPort port { s.port port with nak := true })
  else
    let s := s.takeHead port f
    let x := s.port port
    if f.seq = x.seqRx then .next (s.setPort port ({ x with seqRx := seqNext x.seqRx, nak := false }.store f))
    else if (f.seq + 4096 - x.seqRx) % 4096 < 2048 then .next (s.setPort port { x with nak := true })
    else .next s

/-- A control flit arrives: a damaged one is discarded, an intact one's ACK and credits are applied. Answers whether it is intact and its content begins
as given (R341). -/
def State.takeCtl (s : State) (n : Nat) (f : Flit) (head : Bytes) : Bool × State :=
  if s.stopped || !s.lineUp n then (false, s) else
  let (good, s) := s.takeLine n f.line
  if !good || !flitIntact true f then (false, s) else (f.payload.take head.length == head, s.takeHead n f)

/-- IDLE: a control flit's acknowledgement and credits; a damaged one is discarded (R341). -/
def execIdle (port : PortId) (f : Flit) (s : State) : Host.Outcome State Fault Refusal := .next (s.takeCtl port f [0]).2

/-- REPLAY_TIMEOUT: no ACK has advanced for 1 µs while flits are held; the sender replays from the oldest. -/
def execReplayTimeout (port : PortId) (s : State) : Host.Outcome State Fault Refusal :=
  let x := s.port port
  if s.stopped || !s.carries port || x.held.isEmpty || !s.passed (some x.ackAt) 1000 then .next s else
  let s := (s.setPort port { x with resend := x.held, replays := x.replays + 1, ackAt := s.time }).bump F.lnkReplayCount port
  .next (if 64 ≤ x.replays + 1 then s.degradePort port else s)

/-! ### Sending (R340, R341, R347, R348, R353) -/

/-- The 32-byte header of a packet (Table 13.5). -/
def headerBytes (p : Packet) (enc : Bool) : Bytes :=
  natLe 2 (p.dstChip % 16384) ++ natLe 2 (p.srcChip % 16384) ++ natLe 1 p.type ++ natLe 1 (p.route % 32 + 32 * b2n enc) ++ natLe 2 p.ctxTag ++
  natLe 4 p.deadline ++ natLe 2 p.length ++ natLe 1 p.status ++ natLe 1 p.dstUnit ++ natLe 8 (p.offset % 2 ^ 50 + 2 ^ 50 * (p.size % 2 ^ 13)) ++
  natLe 2 p.txn ++ natLe 1 p.srcUnit ++ [0] ++ natLe 4 p.check

/-- A packet as it crosses a port: encrypted with the direction's key, and counted, on a port that is up; in the clear on a quarantined one (R353, R449). -/
def State.wire (s : State) (n vc : Nat) (p : Packet) : Bytes × State :=
  if s.portState n ≠ 3 then (headerBytes p false ++ p.body, s) else
  let x := s.port n
  let k := x.keys
  let c := k.sent.getD vc 0
  let h := headerBytes p true
  let nonce := slice k.saltTx 0 4 ++ natLe 1 vc ++ natLe 7 c
  (h ++ gcmSeal k.keyTx nonce h p.body, s.setPort n { x with keys := { k with sent := k.sent.set vc (c + 1) } })

/-- Order of two waiting packets of one class: the data class by deadline then arrival (R223, R224). -/
def State.urgency (s : State) (p : Packet) : Int := signed 32 (p.deadline + 2 ^ 32 - s.time % 2 ^ 32)

/-- A packet belongs to the service class. -/
def inService (p : Packet) : Bool := bit p.route 4

/-- The better of two candidates: virtual channel, packet, order of arrival. `floor` gives the service class its turn. -/
def State.better (s : State) (floor : Bool) (a b : Nat × Packet × Nat) : Nat × Packet × Nat :=
  let cm := fun (c : Nat × Packet × Nat) => decide (6 ≤ c.1)
  if cm a != cm b then (if cm a then a else b)
  else if cm a then (if b.2.2 < a.2.2 then b else a)
  else
    let sa := inService a.2.1; let sb := inService b.2.1
    if sa != sb then (if sa == floor then a else b)
    else if !sa && s.urgency b.2.1 < s.urgency a.2.1 then b
    else if !sa && s.urgency a.2.1 < s.urgency b.2.1 then a
    else if b.2.2 < a.2.2 then b else a

/-- Packets of one class between one source unit and one destination unit keep their order (R357). -/
def QPkt.flow (q : QPkt) : List Nat := [q.p.srcChip, q.p.srcUnit, q.p.dstChip, q.p.dstUnit, packetClass q.p.type]

/-- A virtual channel of a keyed port may begin no packet: a key change waits for its KEY_ACK, or the key has served 2^32 packets less one (R450). -/
def LinkKeys.spent (k : LinkKeys) (v : Nat) : Bool := k.switchTx.isSome || decide (2 ^ 32 ≤ k.sent.getD v 0 + 1 - k.firstTx.getD v 0)

/-- Queued packets with none ahead of them that they may not pass. -/
def PortSt.fronts (x : PortSt) (v : Nat) : List (Nat × Packet × Nat) :=
  (x.queue.filter (fun q => q.vc == v && (x.queue.find? (fun r => r.flow == q.flow)).any (fun r => r.order == q.order))).map (fun q => (v, q.p, q.order))

/-- What each virtual channel could carry next: the packet under way on it, else one queued for it. -/
def PortSt.candidates (x : PortSt) (keyed : Bool) : List (Nat × Packet × Nat) :=
  ((List.range 8).map (fun v =>
    if x.credit.getD v 0 = 0 then []
    else match x.started.find? (fun t => t.vc == v) with
      | some t => [(v, t.p, t.order)]
      | none => if keyed && x.keys.spent v then [] else x.fronts v)).flatten

/-- The best of a list of candidates. -/
def State.pick (s : State) (floor : Bool) : List (Nat × Packet × Nat) → Option (Nat × Packet × Nat)
  | [] => none
  | c :: cs => some (cs.foldl (s.better floor) c)

/-- Fill a flit of one virtual channel: the packet under way, then packets that begin in it, with fuel. Answers payload, first begin, packets with bytes in
it. -/
def State.fill (s : State) (n v : Nat) (floor keyed : Bool) : Nat → Bytes → Option Nat → List (Nat × Packet) → (Bytes × Option Nat × List (Nat × Packet)) × State
  | 0, bs, st, ps => ((bs, st, ps), s)
  | k + 1, bs, st, ps =>
    let x := s.port n
    let room := 320 - bs.length
    if room = 0 then ((bs, st, ps), s) else
    match x.started.find? (fun t => t.vc == v) with
    | some t =>
      let rest := t.rest.drop room
      let others := x.started.filter (fun u => u.vc != v)
      let s := s.setPort n { x with started := if rest.isEmpty then others else others ++ [{ t with rest := rest }] }
      s.fill n v floor keyed k (bs ++ t.rest.take room) st (ps ++ [(t.order, t.p)])
    | none =>
      if keyed && x.keys.spent v then ((bs, st, ps), s) else
      match s.pick floor (x.fronts v) with
      | none => ((bs, st, ps), s)
      | some (_, p, o) =>
        let s := s.setPort n { x with queue := x.queue.filter (fun q => q.order != o) }
        let (w, s) := s.wire n v p
        let x := s.port n
        let s := s.setPort n { x with started := x.started ++ [⟨v, w, p, o⟩] }
        s.fill n v floor keyed k bs (st.or (some (bs.length / 16))) ps

/-- Credits to return in the two fields of the next flit, and what is still owed (Table 13.2). -/
def owedNow (owed : List Nat) : List (Nat × Nat) × List Nat :=
  let due := (((owed.zipIdx).filter (fun c => decide (0 < c.1))).take 2).map (fun c => (c.2, min c.1 4095))
  (due, due.foldl (fun l d => l.modify d.1 (· - d.2)) owed)

/-- Last good SEQ, which every flit sent acknowledges. -/
def PortSt.lastGood (x : PortSt) : Nat := (x.seqRx + 4095) % 4096

/-- A flit joins the port's data; 960 bytes of it make a codeword, which goes out on the lanes (R338, R339). -/
def State.sendLine (s : State) (n : Nat) (flit : Bytes) : State :=
  let x := s.port n
  let data := x.txData ++ flit
  if data.length < 960 then s.setPort n { x with txData := data } else
  let w := (lanesOf (s.getF F.lnkLanesActive n)).length
  let lanes := fecLanes w x.laneBits (fecCodeword (data.take 960))
  (s.setPort n { x with txData := data.drop 960, laneBits := lanes.map (·.2) }).emit (.line n (lanes.map (·.1)))

/-- Bytes of the control flit that a port would send now (Table 13.2). -/
def State.ctrlBytes (s : State) (n : Nat) (content : Bytes) : Bytes :=
  let x := s.port n
  flitBytes x.seqTx 0 true x.lastGood x.nak (owedNow x.owed).1 31 0 content

/-- A control flit goes out, with the acknowledgement and credits due (R341); its content begins with its kind. -/
def State.sendCtrl (s : State) (n : Nat) (content : Bytes) : State :=
  let x := s.port n
  let (due, owed) := owedNow x.owed
  ((s.setPort n { x with owed := owed }).emit (.ctrl n x.seqTx x.lastGood x.nak due content)).sendLine n (s.ctrlBytes n content)

/-- A data flit goes out, with the acknowledgement and credits due (R340). -/
def State.sendFlit (s : State) (n : Nat) (f : SentFlit) : State :=
  let x := s.port n
  let (due, owed) := owedNow x.owed
  ((s.setPort n { x with owed := owed }).emit (.flit n x.lastGood x.nak due f)).sendLine n
    (flitBytes f.seq f.vc false x.lastGood x.nak due f.start f.fill f.payload)

/-- Something sent every 1 µs is due. -/
def State.due (s : State) (at' : Option Nat) : Bool := at'.isNone || s.passed at' 1000

end Sys2Proof.Machine
end

