-- ==== Sys2Proof/Machine/Train.lean ====
section
/-! DEFINITION. Identity at training, the link key exchange and key rotation (R373 to R376, R448 to R451, Tables 14.5 to 14.7, 17.6). Log entry 24. -/

namespace Sys2Proof.Machine

/-! ### IDENT and VERDICT (R374, Table 14.6). Content begins at byte 12 of the flit. -/

/-- A field of MGMT_CTL content at a byte offset of Table 14.6. -/
def identField (c : Bytes) (off n : Nat) : Nat := field c (off - 12) n

/-- This chip's IDENT or VERDICT content on a port. -/
def State.identContent (s : State) (n msg : Nat) (seen : Bool) (outcome : Nat) : Bytes :=
  let v := s.boot.image.version
  let (seq, digest) := match s.plan with
    | some p => (p.seq, slice p.digest 0 64)
    | none => (0, zeros 64)
  slice (natLe 1 3 ++ natLe 1 msg ++ natLe 1 (b2n seen) ++ natLe 1 outcome ++ natLe 8 Config.serial ++ natLe 1 n ++ natLe 1 1 ++ natLe 2 s.chip ++
    natLe 4 v ++ natLe 1 Config.omgVersion.1 ++ natLe 1 Config.omgVersion.2 ++ zeros 6 ++ natLe 8 seq ++ digest) 0 320

/-- Send IDENT, and keep its flit for the transcript. -/
def State.sendIdent (s : State) (n : Nat) : State :=
  let content := s.identContent n 1 (s.port n).seen 0
  (s.setPort n { s.port n with identAt := some s.time, identTx := s.ctrlBytes n content }).sendCtrl n content

/-- Send VERDICT with this end's outcome. -/
def State.sendVerdict (s : State) (n : Nat) : State :=
  (s.setPort n { s.port n with ctlAt := some s.time }).sendCtrl n (s.identContent n 2 true (s.getF F.topoPortOutcome n))

/-- LANE_LOCK: the lanes have locked with their failed masks exchanged, and the identity exchange starts (steps 1 and 2 of Table 14.5). -/
def execLaneLock (port : PortId) (peerFailed : BitVec 32) (s : State) : Host.Outcome State Fault Refusal :=
  if s.stopped || !s.trains port then .next s else
  let (w, s) := s.chooseLanes port peerFailed.toNat
  let degrade := (s.port port).degrade
  if w = 0 then .next (s.retrainFails port) else
  let x := s.port port
  let keys := { LinkKeys.none with keyTx := x.keys.keyTx, keyRx := x.keys.keyRx, saltTx := x.keys.saltTx, saltRx := x.keys.saltRx, sent := x.keys.sent, got := x.keys.got, firstTx := x.keys.firstTx }
  let s := s.setPort port { x with locked := some s.time, ident := [], seen := false, identAt := none, ctlAt := none, keys := if degrade then keys else LinkKeys.none }
  .next (((s.setF F.topoPortOutcome 0 port).setF F.topoPortPeerVerdict 0 port).sendIdent port)

/-- The plan's entry for this device. -/
def State.ownEntry (s : State) : Option ChipEntry := s.plan.bind (fun p => p.entries.find? (fun e => e.serial == Config.serial))

/-- Outcome of Table 14.7 for an IDENT on a port: the first condition that holds. -/
def State.outcomeOf (s : State) (n : Nat) (c : Bytes) : Nat :=
  let f := identField c
  let serial := f 16 8; let kind := f 25 1; let chip := f 26 2; let pport := f 24 1
  match s.plan, s.ownEntry with
  | some plan, some own =>
    let known := if kind = 1 then slice c (48 - 12) 64 == slice plan.digest 0 64 && plan.entries.any (fun e => e.serial == serial && e.chip == chip)
      else kind == 2 && plan.entries.any (fun e => e.ports.any (fun r => r.kind == 2 && r.peerSerial == serial))
    let e := own.ports.getD n ⟨0, 0, 0, 0⟩
    if f 32 1 ≠ Config.omgVersion.1 % 256 then 4
    else if !known then 3
    else if e.kind = kind ∧ e.peerSerial = serial ∧ e.peerPort = pport ∧ e.peerChip = chip then 1
    else 2
  | _, _ => if f 32 1 ≠ Config.omgVersion.1 % 256 then 4 else 3

/-- This end is the initiator of the key exchange: its SERIAL is the lower (R448). -/
def State.initiates (s : State) (n : Nat) : Bool := decide (Config.serial < identField (s.port n).ident 16 8)

/-- Change the key exchange of a port. -/
def State.setKeys (s : State) (n : Nat) (f : LinkKeys → LinkKeys) : State := let x := s.port n; s.setPort n { x with keys := f x.keys }

/-- Content of fragment `k` of a message: its number, whether it is the last, its length and its bytes (log entry 45). -/
def keyxContent (k : Nat) (last : Bool) (f : Bytes) : Bytes := slice (natLe 1 3 ++ natLe 1 3 ++ natLe 2 k ++ natLe 1 (b2n last) ++ natLe 2 f.length ++ f) 0 320

/-- Send a message of the key exchange in fragments of 300 bytes; the peer's next message acknowledges them all (R448, log entry 45). -/
def State.sendKeyx (s : State) (n : Nat) (msg : Bytes) : State :=
  let s := s.setPort n { s.port n with ctlAt := some s.time, keys := { (s.port n).keys with msg := msg } }
  let fs := chunks 300 msg
  (fs.zipIdx).foldl (fun (s : State) f => s.sendCtrl n (keyxContent f.2 (f.2 + 1 == fs.length) f.1)) s

/-- Both ends have reported MATCH: the key exchange starts; the initiator sends its encapsulation key and its chain (step 1 of Table 17.6). -/
def State.startKeyx (s : State) (n : Nat) : State :=
  let s := s.setKeys n (fun k => { k with step := 1, since := s.time, partsIn := [], lastIn := none, encaps := [], ciphertext := [], peerChain := [] })
  if s.initiates n then
    if s.healthAt.isSome then s.holdDraw else
    let (r, s) := s.draw
    let ek := slice (Config.mlkemPublic r.toNat) 0 1184
    (s.setKeys n (fun k => { k with step := 2, draw := r.toNat, encaps := ek })).sendKeyx n (ek ++ s.boot.chain)
  else s

/-- Both VERDICTs are known: keys on double MATCH, else quarantine. A port under quarantine stays so, whatever they say, and its degrade retrain ends
(steps 4 and 5, R345, R376). -/
def State.settleVerdicts (s : State) (n : Nat) : State :=
  let ours := s.getF F.topoPortOutcome n
  let theirs := s.getF F.topoPortPeerVerdict n
  if ours = 0 ∨ theirs = 0 ∨ (s.port n).keys.step ≠ 0 then s
  else if (s.port n).quarantined ∧ (s.port n).degrade then s.portUp n 0
  else if ours = 1 ∧ theirs = 1 ∧ !(s.port n).quarantined then s.startKeyx n
  else s.quarantine n

/-- Record the actual peer in TOPO_PORT (Table 14.13). -/
def State.noteActual (s : State) (n : Nat) (c : Bytes) : State :=
  let f := identField c
  [(F.topoPortActSerial, f 16 8), (F.topoPortActChip, f 26 2), (F.topoPortActPort, f 24 1), (F.topoPortActKind, f 25 1), (F.topoPortActFw, f 28 4),
   (F.topoPortActOmg, f 32 1 % 16 * 16 + f 33 1 % 16)].foldl (fun (s : State) x => s.setF x.1 x.2 n) s

/-- A control flit of the training of a port whose lanes have locked: its content when it is intact and begins as given. -/
def State.training (s : State) (n : Nat) (f : Flit) (msg : Nat) : Option Bytes × State :=
  let trains := s.trains n
  let (ok, s) := s.takeCtl n f (natLe 1 3 ++ natLe 1 msg)
  (if ok && trains then some f.payload else none, s)

/-- IDENT: an intact IDENT has come. This end's IDENTs carry SEEN from then on; with SEEN set in it the outcome is decided once, recorded and sent
(steps 2 and 3). -/
def execIdent (port : PortId) (f : Flit) (s : State) : Host.Outcome State Fault Refusal :=
  match s.training port f 1 with
  | (none, s) => .next s
  | (some c, s) =>
    let s := s.setPort port { s.port port with ident := slice c 0 320, seen := true, identRx := flitText f true }
    if identField c 14 1 % 2 = 0 || s.getF F.topoPortOutcome port ≠ 0 then .next s
    else .next ((((s.noteActual port c).setF F.topoPortOutcome (s.outcomeOf port c) port).sendVerdict port).settleVerdicts port)

/-- VERDICT: the peer's outcome, byte 15 of its flit (steps 3 to 5). -/
def execVerdict (port : PortId) (f : Flit) (s : State) : Host.Outcome State Fault Refusal :=
  match s.training port f 2 with
  | (none, s) => .next s
  | (some c, s) => .next ((s.setF F.topoPortPeerVerdict (identField c 15 1) port).settleVerdicts port)

/-- The exchange of a port has not ended in time: it goes down, and trains again later (R373, R451). -/
def State.trainLater (s : State) (n : Nat) : State :=
  let s := s.portDown n
  s.setPort n { s.port n with trainAt := some s.time }

/-- IDENT_TIMEOUT: steps 2 and 3 did not end within 10 ms of lock; the port goes down, and training starts again after 100 ms (R373). -/
def execIdentTimeout (port : PortId) (s : State) : Host.Outcome State Fault Refusal :=
  let x := s.port port
  if s.stopped || !s.trains port || x.keys.step ≠ 0 || !s.passed x.locked 10000000 then .next s else
  .next ((s.bump F.topoPortIdTimeouts port).trainLater port)

/-- IDENT_RETRY_TIMER: 100 ms later the port trains again, while a cable is present. -/
def execIdentRetryTimer (port : PortId) (s : State) : Host.Outcome State Fault Refusal :=
  let st := s.portState port
  if s.stopped || s.trains port || !(st == 1 || st == 4 || st == 5) || !s.passed (s.port port).trainAt 100000000 || !s.flag F.lnkStatusPresent port then .next s
  else .next (s.trainPort port)

/-! ### The key exchange (Table 17.6) -/

/-- Transcript of R449: both ends' last IDENT flits in initiator-then-responder order, the encapsulation key, both chains in the order sent, the ciphertext. -/
def State.transcript (s : State) (n : Nat) : Bytes :=
  let k := (s.port n).keys
  let ours := (s.port n).identTx
  let theirs := (s.port n).identRx
  let chain := s.boot.chain
  if s.initiates n then ours ++ theirs ++ k.encaps ++ chain ++ k.peerChain ++ k.ciphertext
  else theirs ++ ours ++ k.encaps ++ k.peerChain ++ chain ++ k.ciphertext

/-- The peer's chain validates to its root, and carries the SERIAL of its IDENT (R448). -/
def State.chainGood (s : State) (n : Nat) (chain : Bytes) : Bool :=
  let c := (s.port n).ident
  let root := if identField c 25 1 = 2 then ((List.range 8).map (fun i => natLe 8 (s.getF F.secSwitchRootDigest i))).flatten else Config.brodsoRoot
  Config.chainValid chain root (identField c 16 8)

/-- The exchange has failed: the port is quarantined, and it is counted (R451). -/
def State.failKeyx (s : State) (n : Nat) : State := (s.bump F.secKeyxAuthFail).quarantine n

/-- Derive the keys of both directions (R449). -/
def State.deriveKeys (s : State) (n : Nat) : State :=
  let k := (s.port n).keys
  let t := shake256 (s.transcript n)
  let km := shakeN (Config.mlkemSecret k.ciphertext ++ t ++ ascii "DRUHAL-LINK-KEYS") 72
  let i2r := (slice km 0 32, slice km 64 4)
  let r2i := (slice km 32 32, slice km 68 4)
  let (tx, rx) := if s.initiates n then (i2r, r2i) else (r2i, i2r)
  s.setKeys n (fun k => { k with
    step := 5, keyTx := tx.1, saltTx := tx.2, keyRx := rx.1, saltRx := rx.2, sent := List.replicate 8 0, got := List.replicate 8 0, firstTx := List.replicate 8 0, switchTx := none, nextRx := none,
    partsIn := [], lastIn := none })

/-- The exchange has ended well: keys are derived, and the port is up; a degrade retrain has yet to end. -/
def State.endKeyx (s : State) (n : Nat) : State :=
  let s := s.deriveKeys n
  if (s.port n).degrade then s else s.portUp n (lanesOf (s.getF F.lnkLanesActive n)).length

/-- A whole message of the exchange has come in. -/
def State.keyxMessage (s : State) (n : Nat) (msg : Bytes) : State :=
  let sigLen := 3309
  if s.initiates n then
    -- step 3: ciphertext, chain, signature of the responder
    let chain := (msg.drop 1088).take (msg.length - 1088 - sigLen)
    let sig := msg.drop (msg.length - sigLen)
    let s := s.setKeys n (fun k => { k with ciphertext := slice msg 0 1088, peerChain := chain, partsIn := [], lastIn := none })
    if decide (msg.length < 1088 + sigLen) || !s.chainGood n chain || !Config.chainVerify chain (s.transcript n) sig then s.failKeyx n
    else
      let (r, s) := s.draw
      (s.sendKeyx n (identitySign "DRUHAL-LINK" (s.transcript n) r.toNat)).endKeyx n
  else if (s.port n).keys.step = 1 then
    -- step 2: encapsulation key and chain of the initiator
    let chain := msg.drop 1184
    if decide (msg.length < 1184) || !s.chainGood n chain then s.failKeyx n
    else
      let (r, s) := s.draw
      let ek := slice msg 0 1184
      let ct := slice (Config.mlkemEncaps ek r.toNat) 0 1088
      let s := s.setKeys n (fun k => { k with step := 3, draw := r.toNat, encaps := ek, ciphertext := ct, peerChain := chain, partsIn := [], lastIn := none })
      let (r, s) := s.draw
      s.sendKeyx n (ct ++ s.boot.chain ++ identitySign "DRUHAL-LINK" (s.transcript n) r.toNat)
  else if msg = (s.port n).keys.encaps ++ (s.port n).keys.peerChain then
    -- the initiator has not had this end's message
    (s.setKeys n (fun k => { k with partsIn := [], lastIn := none })).sendKeyx n (s.port n).keys.msg
  else
    -- step 4: the initiator's signature
    if Config.chainVerify (s.port n).keys.peerChain (s.transcript n) msg then (s.setKeys n (fun k => { k with msg := [] })).endKeyx n else s.failKeyx n

/-- The fragments of a message that have come in, and the message once none of them is missing. -/
def LinkKeys.take (k : LinkKeys) (n : Nat) (last : Bool) (bs : Bytes) : LinkKeys × Option Bytes :=
  let k := { k with partsIn := k.partsIn.put n bs, lastIn := if last then some n else k.lastIn }
  let whole := k.lastIn.bind (fun m => (List.range (m + 1)).mapM k.partsIn.find)
  (k, whole.map List.flatten)

/-- LINK_KEY_EXCHANGE: fragment `n` of a message; the one that was missing completes it. A peer that repeats its last message has not had this end's: it goes
again. -/
def execLinkKeyExchange (port : PortId) (f : Flit) (last : Bool) (s : State) (len : Nat) (n : Nat := 0) : Host.Outcome State Fault Refusal :=
  match s.takeCtl port f (natLe 1 3 ++ natLe 1 3) with
  | (false, s) => .next s
  | (true, s) =>
    let k := (s.port port).keys
    if s.portState port = 3 then .next (if last && !k.msg.isEmpty then s.sendKeyx port k.msg else s)
    else if !s.trains port || !(k.step == 1 || k.step == 2 || k.step == 3) then .next s
    else if s.healthAt.isSome then .next s.holdDraw
    else
      let (k, whole) := k.take n last (slice f.payload 7 (min len 300))
      let s := s.setKeys port (fun _ => k)
      match whole with
      | some msg => .next (s.keyxMessage port msg)
      | none => .next s

/-- KEYX_TIMEOUT: the exchange did not end within 20 ms; the port goes down, and trains again (R451). -/
def execKeyxTimeout (port : PortId) (s : State) : Host.Outcome State Fault Refusal :=
  let x := s.port port
  if s.stopped || !s.trains port || !(x.keys.step == 1 || x.keys.step == 2 || x.keys.step == 3) || !s.passed (some x.keys.since) 20000000 then .next s else
  .next ((s.bump F.secKeyxTimeouts).trainLater port)

/-! ### Key rotation (R450) -/

/-- Send KEY_UPDATE with the switch points. -/
def State.sendKeyUpdate (s : State) (n : Nat) (pts : List Nat) : State :=
  (s.setPort n { s.port n with ctlAt := some s.time }).sendCtrl n (slice (natLe 1 3 ++ natLe 1 4 ++ (pts.map (natLe 8)).flatten) 0 320)

/-- KEY_ROTATION_DUE: the sender gives its switch points, here its next packet on every virtual channel, and sends no packet until KEY_ACK. -/
def execKeyRotationDue (port : PortId) (s : State) : Host.Outcome State Fault Refusal :=
  let k := (s.port port).keys
  if s.stopped || s.portState port ≠ 3 || k.switchTx.isSome then .next s else
  .next ((s.setKeys port (fun k => { k with switchTx := some k.sent })).sendKeyUpdate port k.sent)

/-- KEY_UPDATE: the peer's switch points, 8 bytes for each virtual channel; answered with KEY_ACK. One that the peer sends again is only answered. -/
def execKeyUpdate (port : PortId) (f : Flit) (s : State) : Host.Outcome State Fault Refusal :=
  match s.takeCtl port f (natLe 1 3 ++ natLe 1 4) with
  | (false, s) => .next s
  | (true, s) =>
    if s.portState port ≠ 3 then .next s else
    let pts := (List.range 8).map (fun v => field f.payload (2 + 8 * v) 8)
    let s := if pts = (s.port port).keys.lastRx then s else s.setKeys port (fun k => { k with nextRx := some pts, lastRx := pts })
    .next ((s.sendCtrl port (slice (natLe 1 3 ++ natLe 1 5) 0 320)).keysPassed port)

/-- KEY_ACK: packets at and beyond the switch points may go, under the next key. -/
def execKeyAck (port : PortId) (f : Flit) (s : State) : Host.Outcome State Fault Refusal :=
  match s.takeCtl port f (natLe 1 3 ++ natLe 1 5) with
  | (false, s) => .next s
  | (true, s) =>
    if s.portState port ≠ 3 || (s.port port).keys.switchTx.isNone then .next s
    else .next (s.setKeys port (fun k => { k with keyTx := nextKey k.keyTx, firstTx := k.switchTx.getD k.firstTx, switchTx := none }))

/-! ### What a port sends (R340, R341, R347, R348, R373, R448, R450) -/

/-- What a port in training sends: IDENT every 1 µs until the peer's VERDICT is known, VERDICT every 1 µs from its own outcome until then, the message of the
key exchange every 1 µs until the peer has answered it, else an idle control flit. -/
def State.sendTraining (s : State) (n : Nat) : State :=
  let x := s.port n
  let open' := s.getF F.topoPortPeerVerdict n == 0
  if open' && s.due x.identAt then s.sendIdent n
  else if open' && s.getF F.topoPortOutcome n != 0 && s.due x.ctlAt then s.sendVerdict n
  else if !x.keys.msg.isEmpty && s.due x.ctlAt then s.sendKeyx n x.keys.msg
  else s.sendCtrl n [0]

/-- LINK_TRANSMIT: a port that trains sends what its exchange calls for. One that carries data sends its next flit: a KEY_UPDATE that waits for its answer,
one to replay, one of the virtual channel that R348 chooses, or an idle control flit. -/
def execLinkTransmit (port : PortId) (s : State) : Host.Outcome State Fault Refusal :=
  let st := s.portState port
  if s.stopped || !s.lineUp port then .next s
  else if s.trains port then .next (s.sendTraining port)
  else
    let x := s.port port
    match (if s.due x.ctlAt then x.keys.switchTx else none) with
    | some pts => .next (s.sendKeyUpdate port pts)
    | none =>
      match x.resend with
      | f :: rest => .next ((s.setPort port { x with resend := rest }).sendFlit port f)
      | [] =>
        let all := x.candidates (st == 3)
        let waits := all.any (fun c => decide (c.1 < 6) && inService c.2.1)
        let floor := waits && decide (15 ≤ x.grants)
        match if decide (2048 ≤ x.held.length) then none else s.pick floor all with
        | none => .next (s.sendCtrl port [0])
        | some (v, p, _) =>
          let ((bs, first, parts), s) := s.fill port v floor (st == 3) 41 [] none []
          let x := s.port port
          let f : SentFlit := ⟨x.seqTx, v, first.getD 31, ceilDiv bs.length 16, slice bs 0 320, parts⟩
          let grants := if 6 ≤ v then x.grants else if inService p then 0 else if waits then x.grants + 1 else 0
          let x := { x with
            seqTx := seqNext x.seqTx, held := x.held ++ [f], ackAt := if x.held.isEmpty then s.time else x.ackAt
            credit := x.credit.modify v (· - 1), grants := grants }
          .next ((s.setPort port x).sendFlit port f)

end Sys2Proof.Machine
end

