-- ==== Sys2Proof/Machine/Time.lean ====
section
/-! DEFINITION. Fabric time and the topology plan: exchange, RACK_SYNC, free run and resync; LOAD_PLAN and its checks (R359 to R364, R367 to R372). Log entry 25. -/

namespace Sys2Proof.Machine

/-! ### The time root and the parent (R360, R362) -/

/-- Chips of this rack in the plan, routing-only member included. -/
def State.rackChips (s : State) : List Nat := match s.plan with
  | some p => (p.entries.filter (fun e => rackOf e.chip == rackOf s.chip)).map (·.chip)
  | none => []

/-- The time root: the lowest chip number of the rack; this chip's own number without a plan. -/
def State.timeRoot (s : State) : Nat := (s.rackChips.min?).getD s.chip

/-- Machine mode is in force. -/
def State.machineMode (s : State) : Bool := s.flag F.topoPlanStatusMode

/-- Ports in the order R362 tries them for a parent: the first hop of the route of R354, then X, Y, Z, plus before minus. Every neighbour is tried: one that lies
no nearer the root may still have a path to it. -/
def State.parentPorts (s : State) : List Nat :=
  let here := s.chip; let root := s.timeRoot
  ((nextHop (s.routeBits none here root) here root).toList ++ List.range 6).eraseDups

/-- The parent port in use: the first of them that is up and whose neighbour has a path to the root. `reach` says which neighbours have one. -/
def State.parentPort (s : State) (reach : BitVec 8) : Option Nat := s.parentPorts.find? (fun n => s.portState n == 3 && reach.getLsbD n)

/-- Ask for the time on a port (step 1 of Table 13.8). -/
def State.askTime (s : State) (n : Nat) : State := ((s.setPort n { s.port n with timeReq := some s.time }).sendCtrl n [1])

/-- The locking step (R361, R364). -/
def State.lockAt (s : State) (t : Nat) : State := { s with time := t % 2 ^ 64, unlocked := false }

/-- An unlocked root asks its neighbours, lowest chip number first; when none has answered it steps to zero (R361). -/
def State.rootLocks (s : State) : State :=
  let up := ((List.range 6).filter (fun n => s.portState n == 3)).filter (fun n => (s.port n).timeReq.isNone)
  match (up.map (fun n => (s.getF F.topoPortExpChip n, n))).foldl (fun (b : Option (Nat × Nat)) c =>
      match b with
      | none => some c
      | some d => if c.1 < d.1 then some c else b) none with
  | some (_, n) => s.askTime n
  | none => (List.range 6).foldl (fun (s : State) n => s.setPort n { s.port n with timeReq := none }) (s.lockAt 0)

/-- RESYNC and STEP, once written, read 1 until an answer comes or the exchange finds nothing to join (R14; log entry 46). -/
def State.joined (s : State) : State := (s.setF F.lnkTimeCtlResync 0).setF F.lnkTimeCtlStep 0

/-- TIME_EXCHANGE_TIMER: every 1 ms a chip asks its parent; with no path to the root it runs free (R360, R362). -/
def execTimeExchangeTimer (s : State) (reach : BitVec 8 := BitVec.allOnes 8) : Host.Outcome State Fault Refusal :=
  if s.stopped || s.plan.isNone || s.machineMode then .next s
  else if s.timeRoot = s.chip then .next (if s.unlocked then s.rootLocks else s.joined)
  else if s.flag F.lnkTimeCtlFreeRun then .next s
  else match s.parentPort reach with
    | some n => .next (s.askTime n)
    | none => .next { (s.setF F.lnkTimeCtlFreeRun 1).joined with stepDue := false }

/-- TIME_REQ: a parent answers with its times of receipt and sending (step 2). An unlocked chip has no time to give, and one that runs free shares none
(R362). -/
def execTimeReq (port : PortId) (s : State) (f : Flit := Flit.blank) : Host.Outcome State Fault Refusal :=
  match s.takeCtl port f [1] with
  | (false, s) => .next s
  | (true, s) =>
    if s.portState port ≠ 3 || s.machineMode || s.unlocked || s.flag F.lnkTimeCtlFreeRun then .next s
    else .next (s.sendCtrl port (natLe 1 2 ++ natLe 8 s.time ++ natLe 8 s.time))

/-- OFFSET as the register holds it. -/
def State.noteOffset (s : State) (d : Int) : State := s.setF F.lnkTimeOffsetOffset (unsigned 64 d)

/-- TIME_RSP: the child forms the offset from the moment the flit came in (steps 3 and 4): an unlocked chip steps by it, a chip told to STEP steps forward or holds, any other slews.
A chip in FREE_RUN runs on its own reference, and an answer that comes late moves nothing (R362, R363). -/
def execTimeRsp (port : PortId) (f : Flit) (late : Nat) (s : State) : Host.Outcome State Fault Refusal :=
  match s.takeCtl port f [2] with
  | (false, s) => .next s
  | (true, s) =>
  match (s.port port).timeReq with
  | none => .next s
  | some t1 =>
    if s.portState port ≠ 3 || s.machineMode then .next s else
    if s.flag F.lnkTimeCtlFreeRun then .next (s.setPort port { s.port port with timeReq := none }) else
    let t2 := field f.payload 1 8
    let t3 := field f.payload 9 8
    let t4 : Int := (s.time : Int) - late
    let d : Int := (((t2 : Int) - t1) - (t4 - t3)) / 2
    let s := ((s.setPort port { s.port port with timeReq := none }).noteOffset d).joined
    if s.unlocked then .next { s.lockAt ((s.time : Int) + d).toNat with slew := 0 }
    else if s.stepDue then
      let s := { s with stepDue := false, slew := 0 }
      if 0 ≤ d then .next { s with time := ((s.time : Int) + d).toNat } else .next { s with holdNs := (-d).toNat }
    else .next { s with slew := d }

/-- RACK_SYNC_EDGE: machine mode; the first edge locks, every later one is measured; one more than 100 ns away sets UNLOCKED_REF (R364). -/
def execRackSyncEdge (s : State) : Host.Outcome State Fault Refusal :=
  if s.stopped then .next s else
  let s := s.setF F.clkRefSyncSeen 1
  if !s.machineMode then .next s else
  let next := s.getF F.lnkTimeNextNext
  let d : Int := (s.time : Int) - next
  let first := s.unlocked
  let s := s.setF F.lnkTimeNextNext ((next + 10 ^ 9) % 2 ^ 64)
  if first then .next ((s.lockAt next).setF F.lnkTimeCtlUnlockedRef 0)
  else
    let s := (s.noteOffset d).setF F.lnkTimeCtlUnlockedRef (b2n (decide (d < -100) || decide (100 < d)))
    .next { s with slew := -d }

/-- RACK_SYNC_MISSING: the edge that was expected has not come; the next is expected a second later. -/
def execRackSyncMissing (s : State) : Host.Outcome State Fault Refusal :=
  if s.stopped || !s.machineMode || s.unlocked || decide (s.time ≤ s.getF F.lnkTimeNextNext + 100) then .next s
  else .next ((s.setF F.lnkTimeCtlUnlockedRef 1).setF F.lnkTimeNextNext ((s.getF F.lnkTimeNextNext + 10 ^ 9) % 2 ^ 64))

/-- RESYNC: the bit is set; a chip in FREE_RUN leaves it and asks its parent, with `step` for a step to the answer. With no port up it sets FREE_RUN again at
the next exchange (R14, R362, R363; log entry 46). -/
def State.rejoin (s : State) (step : Bool) : State :=
  let t := s.setF F.lnkTimeCtlResync 1
  if s.flag F.lnkTimeCtlFreeRun then
    let t := { t.setF F.lnkTimeCtlFreeRun 0 with stepDue := step }
    match s.parentPort (BitVec.allOnes 8) with
    | some n => t.askTime n
    | none => t
  else t

/-- RESYNC: a chip in FREE_RUN slews to its parent's time. -/
def takeResync (path : Path) (s : State) : Host.Outcome State Fault Refusal :=
  if s.stopped || path != .pf then .next s else .next (s.rejoin false)

/-- An INVOKE of some context runs. -/
def State.anyInvoke (s : State) : Bool := s.ctxs.any (fun p => p.2.inv.isSome)

/-- STEP is written: the bit is set, except while an INVOKE runs, when it is ignored (R14, R363). -/
def State.noteStep (s : State) : State := if s.anyInvoke then s else s.setF F.lnkTimeCtlStep 1

/-- RESYNC_STEP: with STEP, and no INVOKE running, the time is corrected at once when the parent answers (R363). -/
def takeResyncStep (path : Path) (s : State) : Host.Outcome State Fault Refusal :=
  if s.stopped || path != .pf then .next s else .next (s.noteStep.rejoin (!s.anyInvoke))

/-! ### The counter runs (R359, R363) -/

/-- One nanosecond of the reference passes: fabric time counts it; every 5 µs a slewing chip adds or omits one; a held counter stands still. -/
def State.tick (s : State) : State :=
  if s.power ≠ .on then s
  else if 0 < s.holdNs then { s with holdNs := s.holdNs - 1 }
  else
    let n := s.ticks + 1
    if n < 5000 then { s with time := (s.time + 1) % 2 ^ 64, ticks := n }
    else if 0 < s.slew then { s with time := (s.time + 2) % 2 ^ 64, ticks := 0, slew := s.slew - 1 }
    else if s.slew < 0 then { s with ticks := 0, slew := s.slew + 1 }
    else { s with time := (s.time + 1) % 2 ^ 64, ticks := 0 }

/-! ### The plan (R368 to R370) -/

/-- A port record (Table 14.3). -/
def portRec (b : Bytes) : PortRec := ⟨field b 0 1, field b 1 1, field b 2 2, field b 8 8⟩

/-- A chip entry (Table 14.2). -/
def chipEntry (b : Bytes) : ChipEntry :=
  ⟨field b 0 8, field b 8 2, field b 10 1, field b 11 1, field b 12 1, bit (field b 13 1) 0, (List.range 8).map (fun n => portRec (slice b (16 + 16 * n) 16))⟩

/-- The entries of a plan. -/
def planEntries (p : Bytes) : List Bytes := chunks 144 ((p.drop 2080).take (144 * field p 18 2))

/-- A zero field of an entry is not zero (Tables 14.2, 14.3). -/
def entryMalformed (b : Bytes) : Bool :=
  decide (16384 ≤ field b 8 2) || decide (1 < field b 13 1) || !zeroAt b 14 2 ||
  (List.range 8).any (fun n =>
    let r := slice b (16 + 16 * n) 16
    !zeroAt r 4 4 || (field r 0 1 == 2 && !zeroAt r 2 2))

/-- Condition 1 of Table 14.4. -/
def planMalformed (p : Bytes) : Bool :=
  let f := field p
  let es := planEntries p
  f 0 2 != 1 || f 2 2 != 128 || decide (1 < f 4 4) || f 8 8 == 0 || !zeroAt p 20 4 || f 24 8 != 2080 || !zeroAt p 40 88 ||
  f 18 2 == 0 || decide (16384 < f 18 2) || f 32 8 != 2080 + 144 * f 18 2 + 3309 || p.length != f 32 8 || es.any entryMalformed ||
  f 16 2 != ((es.map (fun e => rackOf (field e 8 2))).eraseDups).length

/-- Values rise strictly. -/
def rising : List Nat → Bool
  | a :: b :: r => decide (a < b) && rising (b :: r)
  | _ => true

/-- Condition 6 of Table 14.4: order, repeats, coordinates, the routing-only member. -/
def planDisordered (es : List ChipEntry) : Bool :=
  !rising (es.map (·.chip)) || decide ((es.map (·.serial)).eraseDups.length ≠ es.length) ||
  es.any (fun e => decide (3 < e.x) || decide (3 < e.y) || decide (3 < e.z) || e.chip % 64 != 16 * e.z + 4 * e.y + e.x || e.routingOnly != (e.chip == 16383))

/-- Chip one hop from a chip out of a torus port (R354, R367). -/
def neighbour (chip n : Nat) : Nat :=
  let a := n / 2
  let w := 4 ^ a
  let c := coordOf chip a
  chip - c * w + (if n % 2 = 0 then (c + 1) % 4 else (c + 3) % 4) * w

/-- Condition 7 of Table 14.4: a record of a wrong kind, of a wrong neighbour, or that its peer does not mirror. -/
def planUnpaired (es : List ChipEntry) : Bool :=
  es.any (fun e => (e.ports.zipIdx).any (fun x =>
    let (r, n) := x
    if r.kind = 0 then
      -- an off port that a peer's entry names
      decide (n < 6) && (es.any (fun q => q.chip == neighbour e.chip n && (q.ports.getD (n ^^^ 1) ⟨0, 0, 0, 0⟩).kind == 1))
    else if 6 ≤ n then r.kind != 2
    else
      r.kind != 1 || r.peerChip != neighbour e.chip n || r.peerPort != (n ^^^ 1) ||
      !es.any (fun q => q.chip == r.peerChip && q.serial == r.peerSerial &&
        (let m := q.ports.getD (n ^^^ 1) ⟨0, 0, 0, 0⟩; m.kind == 1 && m.peerChip == e.chip && m.peerPort == n && m.peerSerial == e.serial))))

/-- TOPO_PLAN_KEY as bytes. -/
def State.planKey (s : State) : Bytes := ((List.range 8).map (fun i => natLe 8 (s.getF F.topoPlanKeyDigest i))).flatten

/-- Any context has ENABLE set in HSC_PT_ROOT. -/
def State.anyEnabled (s : State) : Bool := (List.range 1024).any (fun i => s.flag F.hscPtRootEnable i)

/-- Table 14.4: the first condition that holds, with its status. -/
def State.planFault (s : State) (p : Bytes) : Option (Nat × Status) :=
  let signed := p.take (p.length - 3309)
  let es := (planEntries p).map chipEntry
  let digest := shake256 signed
  let mine := es.filter (fun e => e.serial == Config.serial)
  let key := slice p 128 1952
  if !s.flag F.topoPlanStatusKeyLock then some (9, .accessViolation)
  else if planMalformed p then some (1, .descInvalid)
  else if shake256 key ≠ s.planKey then some (2, .accessViolation)
  else if !Config.mldsaVerify key "DRUHAL-PLAN" signed (p.drop (p.length - 3309)) then some (3, .accessViolation)
  else if s.plan.any (fun q => decide (field p 8 8 < q.seq) || (field p 8 8 == q.seq && q.digest != digest)) then some (4, .descInvalid)
  else if mine.length ≠ 1 then some (5, .descInvalid)
  else if planDisordered es then some (6, .descInvalid)
  else if planUnpaired es then some (7, .descInvalid)
  else if s.anyEnabled && (match s.plan with
    | none => true
    | some q => q.mode != field p 4 4 % 2 || q.entries.find? (fun e => e.serial == Config.serial) != mine.head?) then some (8, .descInvalid)
  else none

/-! ### A plan takes effect (R335, R336, R371) -/

/-- Show a port's record: its role, the expected peer (Tables 13.9, 14.13). -/
def State.showPort (s : State) (n : Nat) (r : PortRec) : State :=
  let s := s.setF F.lnkStatusRole (if r.kind = 0 then 15 else n) n
  ((s.setF F.topoPortExpKind r.kind n).setF F.topoPortExpPort (if r.kind = 0 then 0 else r.peerPort) n).setF F.topoPortExpChip (if r.kind = 0 then 0 else r.peerChip) n

/-- Power a port down (R336). -/
def State.portOff (s : State) (n : Nat) : State :=
  let s := (s.setPortState n 0).flushPort n .fencedAbort
  (s.setF F.lnkLanesActive 0 n).setPort n .off

/-- What the new plan does to a port, given its old record. -/
def State.replanPort (s : State) (n : Nat) (old : Option PortRec) (r : PortRec) : State :=
  let s := s.showPort n r
  let st := s.portState n
  let s := s.setPort n { s.port n with quarantined := false }
  if r.kind = 0 then (if st = 0 then s else s.portOff n)
  else if st = 3 ∨ (st = 2 ∧ (s.port n).degrade) then (if old = some r then s else s.dikePort n)
  else if st = 5 ∨ (st = 2 ∧ old = some r) then s
  else s.trainPort n

/-- A plan that passes Table 14.4 takes effect at once; the same plan again only retrains the down and quarantined ports (R371). -/
def State.adoptPlan (s : State) (p : Bytes) : State :=
  let digest := shake256 (p.take (p.length - 3309))
  let es := (planEntries p).map chipEntry
  let old := s.ownEntry
  match es.find? (fun e => e.serial == Config.serial) with
  | none => s
  | some e =>
    let same := s.plan.any (fun q => q.seq == field p 8 8 && q.digest == digest)
    let first := s.plan.isNone
    let s := if same then s else
      let s := { s with plan := some ⟨field p 4 4 % 2, field p 8 8, digest, es⟩, unlocked := s.unlocked || first }
      let s := ((s.setF F.topoPlanStatusLoaded 1).setF F.topoPlanStatusMode (field p 4 4 % 2)).setF F.topoPlanStatusRoutingOnly (b2n e.routingOnly)
      ((s.setF F.topoPlanStatusChip e.chip).setF F.topoPlanSeqSequence (field p 8 8)).log 0x0060 (sourceOf 7 0) 0 .ok 0 (natLe 8 (field p 8 8))
    (e.ports.zipIdx).foldl (fun (s : State) x => s.replanPort x.2 (old.map (fun o => o.ports.getD x.2 ⟨0, 0, 0, 0⟩)) x.1) s

/-- The work of LOAD_PLAN: its status, and the state with the plan in force or the error recorded. -/
def State.loadPlan (s : State) (p : Bytes) : Status × State :=
  match s.planFault p with
  | some (code, st) => (st, s.setF F.topoPlanStatusError code)
  | none => (.ok, s.adoptPlan p)

/-- KEY_LOCK: TOPO_PLAN_KEY is locked until cold reset; by the PF or the sideband (R369). -/
def takeKeyLock (path : Path) (s : State) : Host.Outcome State Fault Refusal :=
  if s.stopped || !(path == .pf || path == .sideband) then .next s else .next (s.setF F.topoPlanStatusKeyLock 1)

end Sys2Proof.Machine
end

