-- ==== Sys2Proof/Machine/Regs.lean ====
section
/-! DEFINITION. What a read of a set-up register returns: the stored word, or for a field that shows a unit's state, that state (R491, R494, R495, R499).
Log entry 26. -/

namespace Sys2Proof.Machine

/-! ### Power, clocks and lamp, as their registers show them (R470, R476, R477, R485) -/

/-- The part's maximum power in W (Table 18.11). -/
def maxWatts : Nat := if Config.partB then 4600 else 5600
/-- The part's maximum core clock in MHz (Table 15.15). -/
def maxMhz : Nat := if Config.partB then 2600 else 3000
/-- The cap in force; the part's maximum until POWER_CAP sets one (R470). -/
def State.capWatts (s : State) : Nat := if s.getF F.pwrCapCapW = 0 then maxWatts else s.getF F.pwrCapCapW
/-- The power limit during a supply throttle: 40% of the part's maximum (R471). -/
def throttleWatts : Nat := maxWatts * 2 / 5
/-- Power limit in force: the cap, or the throttle where it is lower. -/
def State.limitWatts (s : State) : Nat := if s.getF F.pwrSupplyState = 1 then min s.capWatts throttleWatts else s.capWatts

/-- A reticle field. -/
def State.clkField (s : State) (f : Nat) : FieldSt := s.fields.get .cool f
/-- The state with a field replaced. -/
def State.setField (s : State) (f : Nat) (x : FieldSt) : State := { s with fields := s.fields.put f x }

/-- Some field is in the 105 °C stage: every field then runs at 500 MHz (Table 18.5). -/
def State.hot (s : State) : Bool := (List.range 4).any (fun f => (s.clkField f).stage == 2)

/-- The set maximum: FIX_MHZ with FIX set, else the part's (R476). -/
def State.topMhz (s : State) : Nat :=
  let m := s.getF F.clkCoreFixMhz
  if s.flag F.clkCoreFix && m != 0 then m else maxMhz

/-- Core clock of a field: the lowest of the maximum, the weir's limit and the thermal steps, two thirds of it while a droop stretches the period. -/
def State.fieldMhz (s : State) (f : Nat) : Nat :=
  let x := s.clkField f
  let weir := s.getF F.clkFieldMhz f
  let m := if weir = 0 then s.topMhz else min s.topMhz weir
  let m := max 500 (min m (s.topMhz - 25 * x.steps))
  let m := if s.hot then 500 else m
  if x.droop then m * 2 / 3 else m

/-- STATUS_LAMP (Table 18.7). -/
def State.lamp (s : State) : Nat :=
  let hold := s.getF F.svcStatusHold
  if s.power = .tripped then 1
  else if s.power = .off then 0
  else if s.failed || s.boot.rom then 1
  else if hold = 3 then 2
  else if hold = 1 then 3
  else if hold = 2 then 4
  else if s.warming || !s.flag F.topoPlanStatusLoaded then 5
  else 6

/-- STATUS_LAMP as its outputs show it: how each of red, amber and green is driven (Table 18.7); with LAMP_TEST every one is on, while the module has power (R486). -/
def State.lampOutputs (s : State) : Drive × Drive × Drive :=
  if s.power = .on ∧ s.flag F.svcCtlLampTest then (.steady, .steady, .steady) else
  match s.lamp with
  | 1 => (.steady, .off, .off)
  | 2 => (.off, .blink 4, .off)
  | 3 => (.off, .steady, .off)
  | 4 => (.off, .blink 1, .off)
  | 5 => (.off, .off, .blink 1)
  | 6 => (.off, .off, .steady)
  | _ => (.off, .off, .off)

/-- The LOCATE outputs: each blinks while its bit of SVC_PORT is set; with LAMP_TEST every one is on (R486). -/
def State.locateOutputs (s : State) : List Drive :=
  (List.range 8).map (fun n =>
    if s.power ≠ .on then .off else if s.flag F.svcCtlLampTest then .steady else if bit (s.getF F.svcPortLocate) n then .blink 2 else .off)

/-- GLB_STATUS.STATE: 2 failed, 0 booting, 1 ready. -/
def State.readiness (s : State) : Nat := if s.failed then 2 else if s.warming || s.boot.rom || s.power != .on then 0 else 1

/-! ### Reads -/

/-- A word with fields replaced. -/
def lay (w : Nat) (l : List (Fld × Nat)) : Nat := l.foldl (fun w x => setBits w x.1.hi x.1.lo x.2) w

/-- Registers of a core's page that show the core's state; `j` is the entry within the page. -/
def State.coreView (s : State) (r : Reg) (core j w : Nat) : Nat :=
  let c := s.core core
  match r with
  | .coreReset => lay w [(F.coreResetReset, b2n (c.rst != 0)), (F.coreResetState, if s.failed && c.rst == 0 then 1 else c.rst)]
  | .coreMeRowmap => lay w [(F.coreMeRowmapDisRow, Config.disRow core)]
  | .coreMeStatus => lay w [(F.coreMeStatusFiller, b2n c.filler), (F.coreMeStatusBusy, b2n (!c.me.isEmpty)), (F.coreMeStatusForm, c.meForm)]
  | .spmStatus =>
    let runs := c.joinedRuns
    lay w [(F.spmStatusRuns, min runs.length 255), (F.spmStatusFreeGran, (runs.map (·.2)).sum), (F.spmStatusLargest, (runs.map (·.2)).foldl max 0)]
  | .vuStatus => lay w [(F.vuStatusRsuBusy, b2n (c.vu.any (fun o => o.kind == .rowstat))), (F.vuStatusMicroBusy, b2n (c.vu.any (fun o => o.kind == .micro))), (F.vuStatusBusy, b2n (!c.vu.isEmpty))]
  | .tideCoreHeld => lay w [(F.tideCoreHeldBlocks, (c.creds.map (fun p => p.2.held.length)).sum)]
  | .sfuUdir =>
    let u := c.uprog j
    if u.valid then lay w [(F.sfuUdirOwner, u.owner), (F.sfuUdirBase, u.base), (F.sfuUdirLength, u.length), (F.sfuUdirLib, b2n u.lib), (F.sfuUdirValid, 1)] else w
  | .seTslot =>
    let t := c.tslots.get .clear j
    if t.valid then lay w [(F.seTslotOwner, t.owner), (F.seTslotTableId, t.id), (F.seTslotValid, 1)] else w
  | .seStrm =>
    let t := c.strm j
    let st := if !t.bound then 0 else
      match t.run with
      | none => 1
      | some r => if r.status != .ok || !s.live t.owner then 3 else 2
    lay w [(F.seStrmOwner, t.owner), (F.seStrmStatus, t.status), (F.seStrmState, st), (F.seStrmHeld, b2n (t.held.isSome && s.live t.owner)), (F.seStrmCredit, t.credit),
      (F.seStrmNextSlot, t.nextSlot)]
  | .seqSlot =>
    let t := c.slot j
    lay w [(F.seqSlotCtxTag, t.tag), (F.seqSlotTask, t.task), (F.seqSlotWaitCtr, if t.state = 3 then t.waitCtr else 0), (F.seqSlotEnding, b2n t.ending),
      (F.seqSlotPhase, b2n t.compute), (F.seqSlotState, t.state)]
  | .seqBar =>
    let b := c.bar j
    let waiting := match b.waiter with | some (.slot _) => true | _ => false
    lay w [(F.seqBarOwner, b.owner), (F.seqBarBound, b2n b.bound), (F.seqBarWaiting, b2n waiting), (F.seqBarCount, b.count), (F.seqBarTarget, b.target)]
  | .spmHt =>
    let p := c.polder j
    lay w [(F.spmHtPeerChip, p.peerChip), (F.spmHtPeerCore, p.peerCore), (F.spmHtPeerCredit, p.peerCredit), (F.spmHtCredit, p.credit),
      (F.spmHtNextSlot, p.nextSlot), (F.spmHtOwner, p.owner), (F.spmHtGen, p.gen), (F.spmHtValid, b2n p.valid), (F.spmHtResident, b2n p.resident),
      (F.spmHtCompressed, b2n p.compressed), (F.spmHtSluice, b2n p.sluice), (F.spmHtAccum, b2n p.accum), (F.spmHtCode, b2n p.code),
      (F.spmHtClass, b2n p.classW), (F.spmHtSluiceState, p.sluiceState), (F.spmHtLength, p.length), (F.spmHtBase, p.base)]
  | _ => w

/-- Registers of the device that show its state. -/
def State.deviceView (s : State) (r : Reg) (i w : Nat) : Nat :=
  match r with
  | .ckuAuditStall => (w + s.stallCycles) % 2 ^ 32
  | .hscStackStatus =>
    let h := s.hsc i
    lay w [(F.hscStackStatusTemp, h.temp), (F.hscStackStatusThrottle, b2n h.throttle), (F.hscStackStatusState, if s.failed && h.state == 0 then 1 else h.state)]
  | .hscStackCtl => lay w [(F.hscStackCtlReset, b2n ((s.hsc i).state != 0))]
  | .geStatus =>
    let g := s.engine i
    lay w [(F.geStatusEntries, g.entries.length), (F.geStatusSealing, b2n (g.run.any (fun x => gMode x.entry.desc == 4))), (F.geStatusBusy, b2n g.run.isSome)]
  | .lnkCtl => lay w [(F.lnkCtlReset, b2n (s.port i).resetBy)]
  | .lnkTimeNow => s.time % 2 ^ 64
  | .lnkTimeCtl => lay w [(F.lnkTimeCtlRoot, s.timeRoot), (F.lnkTimeCtlLocked, b2n s.locked), (F.lnkTimeCtlMode, b2n s.machineMode)]
  | .mbxStatus => lay w [(F.mbxStatusBusy, b2n s.mbx.isSome), (F.mbxStatusProgress, if s.mbx.isSome then (Config.freeValue s.free).toNat % 101 else 0)]
  | .ethPort => lay w [(F.ethPortMac, Config.mac i)]
  | .mpReset => lay w [(F.mpResetWarm, b2n s.warming)]
  | .secStatus =>
    lay w [(F.secStatusDebug, b2n s.boot.dbgScope.isSome), (F.secStatusArmed, b2n s.boot.armed.isSome), (F.secStatusDbgFused, b2n Config.dbgFused),
      (F.secStatusSlot, s.boot.running)]
  | .secChallenge => (Config.freeValue (s.boot.challengeAt + i)).toNat
  | .pwrCap => lay w [(F.pwrCapMaxW, maxWatts), (F.pwrCapCapW, s.capWatts)]
  | .pwrTherm =>
    lay w [(F.pwrThermDieMax, (s.fields.map (·.2.temp)).foldl max 0), (F.pwrThermStackMax, (s.hscs.map (·.2.temp)).foldl max 0),
      (F.pwrThermStage, (s.fields.map (·.2.stage)).foldl max 0)]
  | .weirStatus => lay w [(F.weirStatusSupply, b2n (s.getF F.pwrSupplyState == 1)), (F.weirStatusThermal, b2n (s.fields.any (fun p => p.2.stage != 0 || p.2.steps != 0)))]
  | .clkCore => lay w [(F.clkCoreFixMhz, if s.getF F.clkCoreFixMhz = 0 then maxMhz else s.getF F.clkCoreFixMhz)]
  -- a stored lock bit set means the reference was lost
  | .clkRef => w ^^^ 7
  | .clkField => lay w [(F.clkFieldMhz, s.fieldMhz i)]
  | .svcStatus => lay w [(F.svcStatusLamp, s.lamp)]
  | .glbId => lay w [(F.glbIdPart, b2n Config.partB), (F.glbIdDieRev, Config.dieRev)]
  | .glbSerial => Config.serial % 2 ^ 64
  | .glbFwVersion => s.boot.image.version % 2 ^ 32
  | .glbStatus =>
    lay w [(F.glbStatusBoots, min s.boot.boots 65535), (F.glbStatusDebug, b2n s.boot.dbgScope.isSome), (F.glbStatusLocked, b2n s.locked),
      (F.glbStatusPlan, b2n (s.flag F.topoPlanStatusLoaded)), (F.glbStatusState, s.readiness)]
  | .dbgStatus => lay w [(F.dbgStatusScope, s.boot.dbgScope.getD 0)]
  | _ => w

/-- The word that entry `i` of a register shows; a field that is only written shows zero. Entries of a core's page are numbered core by core. -/
def State.shown (s : State) (r : Reg) (i : Nat) : Nat :=
  let w := lay (s.reg r i) ((r.fields.filter (fun f => f.acc == .wo)).map (fun f => (f, 0)))
  if r.info.page = .core then
    let n := r.info.entries
    s.coreView r (i / n) (i % n) w
  else s.deviceView r i w

/-- The debug page responds: debug is unlocked for this boot with SCOPE bit 1 (R503). -/
def State.debugPage (s : State) : Bool := s.boot.dbgScope.any (fun x => bit x 1)

/-- The word that a read of entry `i` of a register returns: all ones while a device warm reset runs (R431), zero on the debug page while it does not respond
(R503), else what the register shows. -/
def State.view (s : State) (r : Reg) (i : Nat) : Nat :=
  if s.warming then 2 ^ r.info.width - 1 else if r.info.page = .dbg ∧ !s.debugPage then 0 else s.shown r i

end Sys2Proof.Machine
end

