-- ==== Sys2Proof/Machine/Dump.lean ====
section
/-! DEFINITION. The info and fuse records, and the state dump (R405, R406, R432, R433, R435, R456). Log entry 27. -/

namespace Sys2Proof.Machine

/-! ### Records of the mailbox (R405, R406) -/

/-- The info record (Table 15.15). -/
def State.infoRecord (s : State) : Bytes :=
  let img := s.boot.image
  natLe 2 1 ++ natLe 1 (b2n Config.partB) ++ natLe 1 s.boot.running ++ natLe 4 img.version ++ natLe 8 Config.serial ++ natLe 2 maxMhz ++ natLe 2 maxWatts ++
  natLe 2 s.capWatts ++ natLe 2 s.chip ++ natLe 2 1024 ++ natLe 2 192 ++ natLe 2 1280 ++ natLe 2 0x0100 ++ img.measurement ++ zeros 32

/-- Logical core number of an enabled site: its place among the enabled sites of its field, in ascending order (R17). -/
def siteCore (site : Nat) : Option Nat := ((Config.sitesOn (site / 52)).idxOf? (site % 52)).map (48 * (site / 52) + ·)

/-- Mesh column and row of a site (R16). -/
def siteMesh (site : Nat) : Nat × Nat :=
  let f := site / 52
  let i := site % 52
  let left := 8 * (f % 2)
  if f < 2 then (if i < 48 then (left + i % 8, i / 8) else (left + (i - 48), 6))
  else if i < 4 then (left + 4 + i, 6)
  else (left + (i - 4) % 8, 7 + (i - 4) / 8)

/-- A site record (Table 15.16). -/
def siteRecord (site : Nat) : Bytes :=
  let core := siteCore site
  let m := siteMesh site
  natLe 1 site ++ natLe 1 (site / 52) ++ natLe 1 (m.1 + 16 * m.2) ++ natLe 1 (b2n core.isSome) ++ natLe 1 (core.getD 0xFF) ++
  natLe 1 ((core.map Config.disRow).getD 0xF) ++ zeros 2

/-- The fuse record (R406). -/
def State.fuseRecord (s : State) : Bytes :=
  natLe 2 1 ++ natLe 2 208 ++ zeros 4 ++ natLe 8 Config.serial ++ natLe 1 (b2n Config.partB) ++ zeros 7 ++ natLe 8 (2 ^ s.boot.rollback - 1) ++ zeros 32 ++
  ((List.range 208).map siteRecord).flatten

/-! ### CRC-32C over sparse data -/

/-- The CRC register after zero bytes, as the images of its 32 bits: applying a linear map. -/
def crcApply (m : List (BitVec 32)) (c : BitVec 32) : BitVec 32 :=
  (m.zipIdx).foldl (fun (a : BitVec 32) x => if c.getLsbD x.2 then a ^^^ x.1 else a) 0

/-- The map of one zero byte. -/
def crcOneZero : List (BitVec 32) := (List.range 32).map (fun i => crcByte (BitVec.ofNat 32 (2 ^ i)) 0)

/-- The CRC register after `n` zero bytes, by squaring, with fuel for the bits of `n`. -/
def crcZeros : Nat → Nat → List (BitVec 32) → BitVec 32 → BitVec 32
  | 0, _, _, c => c
  | k + 1, n, m, c =>
    if n = 0 then c else crcZeros k (n / 2) (m.map (crcApply m)) (if n % 2 = 1 then crcApply m c else c)

/-- CRC-32C of `n` bytes from address 0, of which a sparse memory lists those that are not zero. -/
def crcSparse (n : Nat) (m : Mem) : Nat :=
  let (c, p) := m.foldl (fun (a : BitVec 32 × Nat) x => (crcByte (crcZeros 40 (x.1 - a.2) crcOneZero a.1) x.2, x.1 + 1)) ((0xFFFFFFFF : BitVec 32), 0)
  (crcZeros 40 (n - p) crcOneZero c ^^^ 0xFFFFFFFF).toNat

/-! ### Sparse contents -/

/-- Bytes as memory cells from an address, zeros left out. -/
def cellsFrom (a : Nat) : Bytes → Mem
  | [] => []
  | b :: bs => if b = Mem.blank then cellsFrom (a + 1) bs else (a, b) :: cellsFrom (a + 1) bs

/-- Cells moved up by an offset. -/
def Mem.shift (m : Mem) (k : Nat) : Mem := m.map (fun c => (c.1 + k, c.2))

/-- Cells of [lo, hi). -/
def Mem.within (m : Mem) (lo hi : Nat) : Mem := m.filter (fun c => decide (lo ≤ c.1) && decide (c.1 < hi))

/-- Memory with the range [lo, hi) replaced by the cells that lie in it. -/
def Mem.splice (m : Mem) (lo hi : Nat) (cells : Mem) : Mem := (cells.within lo hi).foldl (fun m c => m.write c.1 c.2) (m.clear lo (hi - lo))

/-! ### Sections of the dump (Table 16.11) -/

/-- A section: type, items, length in bytes, contents. -/
structure Section where
  type : Nat
  items : Nat
  length : Nat
  cells : Mem
  deriving DecidableEq, Repr

/-- A section of plain bytes, padded to a length. -/
def sectionOf (type items : Nat) (bs : Bytes) (length : Nat) : Section := ⟨type, items, length, cellsFrom 0 bs⟩

/-- Registers that hold key digests or keys, which no dump holds (R456, Table 16.11). -/
def Reg.secret (r : Reg) : Bool :=
  r == .topoPlanKey || r == .ethDiagKey || r == .secOwnerKey || r == .secSwitchRoot || r == .secTgtKey

/-- BAR0 offset of an entry's word: page instance, entry, 64-bit word. -/
def Reg.offset (r : Reg) (inst entry word : Nat) : Nat :=
  let p := r.info.page.place
  p.1 + p.2.2.1 * inst + r.info.off + r.info.stride * entry + 8 * word

/-- Records of one register: offset and value of each 64-bit word of each entry. -/
def State.regRecords (s : State) (r : Reg) : List Bytes :=
  let words := ceilDiv r.info.width 64
  ((List.range r.info.page.place.2.1).map (fun inst =>
    ((List.range r.info.entries).map (fun e =>
      let v := s.shown r (inst * r.info.entries + e)
      (List.range words).map (fun w => natLe 8 (r.offset inst e w) ++ natLe 8 (v / 2 ^ (64 * w) % 2 ^ 64)))).flatten)).flatten

/-- Section 1. The debug page has registers only while it responds (R503). -/
def State.dumpRegisters (s : State) : Section :=
  let dbg := s.boot.dbgScope.any (fun sc => bit sc 1)
  let rs := Reg.all.filter (fun r => !r.secret && (dbg || r.info.page != .dbg))
  let recs := (rs.map s.regRecords).flatten
  sectionOf 1 recs.length recs.flatten (16 * recs.length)

/-- Section 2; of an INVOKE that the fatal error or the reset ended, its names are still given. -/
def State.dumpContexts (s : State) : Section :=
  let one := fun (i : Nat) =>
    let v := ((s.ctx i).inv.map (fun v => (v.id, v.desc.index))).getD (s.ctx i).halted
    natLe 8 (s.reg .hiuCtxCtl i) ++ natLe 8 (s.reg .hiuCtxState i) ++ natLe 4 (s.reg .cxsCtxState i) ++ natLe 4 (s.reg .cxsCtxCfg i) ++
    natLe 8 (s.reg .tideCtx i) ++ natLe 8 v.1 ++ natLe 2 v.2 ++ zeros 22
  sectionOf 2 1024 ((List.range 1024).map one).flatten 65536

/-- Section 3: the ledger body last closed, or the running INVOKE's as it stands. -/
def State.dumpLedgers (s : State) : Section :=
  let one := fun (i : Nat) =>
    match (s.ctx i).inv with
    | some v => s.ledgerBody (s.invokeFields i v (v.ending.getD .fencedAbort))
    | none => slice (s.ctx i).lastBody 0 512
  sectionOf 3 1024 ((List.range 1024).map one).flatten 524288

/-- Section 4. -/
def State.dumpLinks (s : State) : Section :=
  let one := fun (n : Nat) =>
    let w := fun (r : Reg) => natLe (r.info.width / 8) (s.shown r n)
    slice (w .lnkStatus ++ w .lnkLanes ++ w .lnkFec ++ w .lnkReplay ++ w .lnkDrop ++ w .topoPort) 0 256
  sectionOf 4 8 ((List.range 8).map one).flatten 2048

/-- Section 5. -/
def State.dumpEvents (s : State) : Section := sectionOf 5 s.events.length s.events.flatten (65536 * 32)

/-- Section 6. -/
def State.dumpFuses (s : State) : Section := sectionOf 6 1 s.fuseRecord 1728

/-- A core's data without the rows of polders of encrypted contexts (R456). -/
def State.openScratch (s : State) (core : Nat) : Mem :=
  let c := s.core core
  let hidden := (c.ht.filter (fun p => p.2.valid && s.flag F.secCtxCfgHbmEnc (tagIndex p.2.owner))).map (fun p => (p.2.base * granule, p.2.length * granule))
  hidden.foldl (fun (m : Mem) r => m.clear r.1 r.2) (c.spm.within 0 0x300000)

/-- Section 7. -/
def State.dumpScratchpads (s : State) : Section :=
  ⟨7, 192, 192 * 0x300000, ((List.range 192).map (fun k => (s.openScratch k).shift (k * 0x300000))).flatten⟩

/-! ### The dump (R432, R433, R435) -/

/-- Sections laid at 4 KiB boundaries from an offset. -/
def placeSections : Nat → List Section → List (Nat × Section)
  | _, [] => []
  | o, x :: xs => (o, x) :: placeSections (o + roundUp x.length 4096) xs

/-- The 256-byte header. -/
def State.dumpHeader (s : State) (cause : Nat) (host complete : Bool) (sections length count : Nat) : Bytes :=
  let suspects := (List.range 192).filter s.isSuspect
  let engines := (List.range 16).foldl (fun m e => m + s.getF F.geStatusSuspect e * 2 ^ e) 0
  natLe 2 1 ++ natLe 2 256 ++ natLe 2 sections ++ natLe 1 cause ++ natLe 1 (b2n host + 2 * b2n complete) ++ natLe 8 Config.serial ++ natLe 8 s.time ++
  natLe 4 s.boot.image.version ++ natLe 2 s.chip ++ natLe 1 (b2n Config.partB) ++ zeros 1 ++ natLe 8 length ++ natLe 4 count ++ zeros 4 ++
  s.boot.image.measurement ++ suspectBytes suspects ++ natLe 2 engines ++ zeros 118

/-- A directory entry. -/
def directoryEntry (x : Nat × Section) : Bytes :=
  natLe 2 x.2.type ++ zeros 2 ++ natLe 4 (crcSparse x.2.length x.2.cells) ++ natLe 8 x.1 ++ natLe 8 x.2.length ++ natLe 4 x.2.items ++ zeros 4

/-- First DPA of the dump region (Table 11.2). -/
def dumpBase : Nat := 0x13C00000000

/-- The host buffer of a dump holds 64 MiB. -/
def dumpBufBytes : Nat := 64 * 2 ^ 20

/-- Sectors overwritten by a dump hold valid codes. -/
def State.clearErrs (s : State) (lo hi : Nat) : State :=
  { s with hbmErr := s.hbmErr.filter (fun e => !(decide (lo ≤ 32 * e.1 + 31) && decide (32 * e.1 < hi))) }

/-- The MP writes a dump for a cause of Table 16.10, and announces it: the whole dump, or after an MP fault its header and event section (R430). COMPLETE is set
once all of it is written (R435). -/
def State.writeDump (s : State) (cause : Nat) : State :=
  let host := cause == 2 || cause == 3
  let buf := s.getF F.mbxDumpBufMbxDumpBuf
  if host && buf == 0 then s else
  let secs :=
    if cause = 4 then [s.dumpEvents]
    else [s.dumpRegisters, s.dumpContexts, s.dumpLedgers, s.dumpLinks, s.dumpEvents, s.dumpFuses] ++ (if host then [] else [s.dumpScratchpads])
  let placed := placeSections 4096 secs
  let length := match placed.getLast? with
    | some x => x.1 + x.2.length
    | none => 4096
  let count := s.dumps + 1
  let complete := cause != 4
  let headAs := fun (done : Bool) => s.dumpHeader cause host done secs.length length count ++ (placed.map directoryEntry).flatten
  let head := headAs complete
  let body := cellsFrom 0 head ++ (placed.map (fun x => x.2.cells.shift x.1)).flatten
  let s :=
    if host then
      let bytes := fun (x : Nat × Section) => x.2.cells.readN 0 x.2.length
      (placed.foldl (fun (s : State) x => s.emit (.hostWrite (buf + x.1) (bytes x))) (s.emit (.hostWrite buf (headAs false)))).emit (.hostWrite buf head)
    else { s.clearErrs dumpBase (dumpBase + length) with hbm := s.hbm.splice dumpBase (dumpBase + length) (body.shift dumpBase) }
  let s := { s with dumps := count }
  let s := [(F.mpDumpStatusValid, 1), (F.mpDumpStatusPlace, b2n host), (F.mpDumpStatusComplete, b2n complete), (F.mpDumpStatusCause, cause),
    (F.mpDumpStatusCount, min count 255), (F.mpDumpStatusLength, length)].foldl (fun (s : State) x => s.setF x.1 x.2) s
  (s.setF F.mbxStatusDump 1).emit (.msix 0 (s.getF F.mbxVecDumpVector))

/-- Bytes of the held dump, for DUMP_FETCH: those in the dump region (R435), none through a stack that is diked (Table 16.3). -/
def State.dumpBytes (s : State) (off len : Nat) : Except Status Bytes × State :=
  if !s.flag F.mpDumpStatusValid || s.flag F.mpDumpStatusPlace || decide (s.getF F.mpDumpStatusLength < off + len) then (.error .descInvalid, s)
  else if len = 0 then (.ok [], s)
  else
    let a := dumpBase + off
    let first := a / 32
    let count := (a + len - 1) / 32 + 1 - first
    if (List.range count).any (fun j => s.stackDown (32 * (first + j))) then (.error .fenced, s) else
    match s.windowSectors first count Noise.none with
    | (some bs, s) => (.ok (slice bs (a % 32) len), s)
    | (none, s) => (.error .uncorrectable, s)

end Sys2Proof.Machine
end

