-- ==== Sys2Proof/Machine/Recovery.lean ====
section
/-! DEFINITION. Watchdogs, resets of cores, ports, stacks and functions, their dikes, escalation and fatal errors
(R139, R141, R346, R417 to R421, R427 to R430, Tables 16.1 to 16.7). Log entries 20, 28. -/

namespace Sys2Proof.Machine

/-! ### Fatal errors (R430) -/

/-- Close a running INVOKE where it stands, its tensors digested as far as they are written (R112): with its ledger while SEC works and the audit ring takes its
records, else without one (R110, step 2 of R430). The dump names it (Table 16.11). -/
def State.closeNow (s : State) (i : Nat) (st : Status) : State :=
  match (s.ctx i).inv with
  | none => s
  | some v =>
    let st := standing v.ending st
    let s := v.cores.foldl (fun (s : State) k => s.coreDigests k v.desc.ctxTag) s
    let s := s.setCtx i { s.ctx i with halted := (v.id, v.desc.index) }
    let v := ((s.ctx i).inv).getD v
    if s.healthAt.isNone && s.recordsFit i then s.closeInvoke i v st
    else
      let s := if s.healthAt.isSome then s.holdDraw else s
      let s := s.flushRecords i
      let s := s.setCtx i { s.ctx i with inv := none, lastBody := s.ledgerBody (s.invokeFields i v st) }
      let s := s.complete i v.desc st
      let c := s.ctx i
      match c.canceling with
      | some (d, n) => (s.setCtx i { c with canceling := none }).complete i d .ok false n
      | none => s

/-- Every running descriptor of a context ends with a status; those that wait stay. -/
def State.endRunning (s : State) (i : Nat) (st : Status) : State :=
  let s := s.withdraw i (some st)
  let c := s.ctx i
  let s := s.setCtx i { c with copy := none, load := none, ckpt := none, sw := none }
  let s := match c.copy with
    | some j => s.copyEarly i j
    | none => s
  let s := c.jobs.foldl (fun (s : State) j => s.endJob i st j) s
  let s := match c.sw with
    | some w => s.complete i w.desc st
    | none => s
  s.closeNow i st

/-- Contexts that have state. -/
def State.known (s : State) : List Nat := s.ctxs.map (·.1)

/-- A fatal error with a cause of Table 16.10: every domain is diked, what runs ends, the dump is written, and the device waits (R430). Its ports lose what they
hold; a core, a stack or a function is diked for as long as the device is failed. -/
def State.fatal (s : State) (cause : Nat) : State :=
  if s.failed || s.deaf then s else
  let s := s.log 0x00F0 (sourceOf 7 0) 0 .fencedAbort 3 (natLe 1 cause)
  let s := (List.range 8).foldl (fun (s : State) n => s.dikePort n) s
  let s := s.known.foldl (fun (s : State) i => s.endRunning i .fencedAbort) s
  { s.writeDump cause with failed := true }

/-- HSC_REQUEST: a stack serves one request on a sector it holds. `strike` are errors that strike the stored sector first; `noise` those of the reads, `passing`
those that the next read of the sector meets.
An uncorrectable read of the firmware region is a fatal error with cause FW_MEMORY (Table 16.10). In the failed state every stack is diked and refuses
the request (R430). -/
def execHscRequest (stack : StackId) (r : HscReq) (s : State) : Host.Outcome State Fault Refusal :=
  if stackOf s.key (32 * (r.dpa / 32)) ≠ stack ∨ regionOf r.dpa = .beyond ∨ s.power ≠ .on then .next s else
  let s := s.strikeSector (r.dpa / 32) r.strike
  let next := fun (s : State) => Host.Outcome.next (s.passSector (r.dpa / 32) r.passing)
  if s.failed then next s
  else if regionOf r.dpa = .context then next (s.serveContext r)
  else match s.servePlain stack r with
    | (true, s) => next (if regionOf r.dpa = .firmware then s.fatal 3 else s)
    | (false, s) => next s

/-! ### Watchdogs (R427, Table 16.6) -/

/-- HB_EN: a write of 1 runs the host heartbeat watchdog and restarts it. -/
def takeHbEn (path : Path) (s : State) : Host.Outcome State Fault Refusal :=
  if s.deaf || path != .pf then .next s else .next { s.setF F.tmoHbHbEn 1 with hbAt := some s.time }

/-- CONTEXT_PROGRESS_TIMEOUT: no progress of a bound INVOKE for the progress timeout. -/
def execContextProgressTimeout (ctx : CtxId) (s : State) : Host.Outcome State Fault Refusal :=
  let c := s.ctx ctx
  match c.inv with
  | none => .next s
  | some v =>
    if s.stopped || !v.bound || v.ending.isSome || !s.passed (some c.progressAt) (s.getF F.tmoProgressProgressMs * 1000000) then .next s
    else .next (((s.bump F.cxsWdogProgress).expiry (sourceOf 6 0) v.desc.ctxTag 0).fault ctx .timeout)

/-- SEQUENCER_TIMEOUT: a running task has issued nothing for the sequencer timeout; the core is reset, and its context faults with TIMEOUT. -/
def execSequencerTimeout (core : CoreId) (s : State) : Host.Outcome State Fault Refusal :=
  let c := s.core core
  match c.running with
  | none => .next s
  | some k =>
    if s.stopped || c.rst != 0 || !s.passed (some c.progressAt) (s.getF F.tmoSeqSeqMs * 1000000) then .next s
    else
      let tag := (c.slot k).tag
      .next (((s.bump F.cxsWdogSeq).expiry (sourceOf 0 core) tag 1).dikeCore core (some (tagIndex tag, .timeout)) none)

/-- BARRIER_WAIT_TIMEOUT: a task has waited on a counter for the barrier timeout. -/
def execBarrierWaitTimeout (core : CoreId) (slot : SlotId) (s : State) : Host.Outcome State Fault Refusal :=
  let x := (s.core core).slot slot
  if s.stopped || x.state ≠ 3 || !s.live x.tag || !s.passed (some x.waitSince) (s.getF F.tmoBarrierBarrierMs * 1000000) then .next s
  else .next (((s.bump F.cxsWdogBarrier).expiry (sourceOf 0 core) x.tag 2).faultTag x.tag .timeout)

/-- Streams of a core that send by a credit entry fail with a status. -/
def CoreSt.failSenders (c : CoreSt) (e tag : Nat) (st : Status) : CoreSt :=
  { c with strms := c.strms.map (fun (p : Nat × Strm) =>
      match p.2.run with
      | some r => if p.2.owner == tag && r.desc.isSluice && r.desc.creditEntry == e && r.status == .ok then (p.1, { p.2 with run := some { r with status := st } }) else p
      | none => p) }

/-- SLUICE_CREDIT_TIMEOUT: credit stayed at zero with a block due past the sluice timeout (Table 5.9, R140, R141). -/
def execSluiceCreditTimeout (core : CoreId) (credit : CreditId) (s : State) : Host.Outcome State Fault Refusal :=
  let c := s.core core
  let x := c.cred credit
  if s.stopped || x.state ≠ 2 || !s.passed x.timer (s.getF F.tmoSluiceSluiceMs * 1000000) then .next s
  else
    let s := s.expiry (sourceOf 0 core) x.owner 3
    let s := s.setCore core { c.failSenders credit x.owner .noCreditTimeout with creds := c.creds.del credit }
    .next (s.faultTag x.owner .noCreditTimeout)

/-- LINK_RESPONSE_TIMEOUT: a fabric request has had no response; its late one will find no request. -/
def execLinkResponseTimeout (txn : BitVec 16) (s : State) : Host.Outcome State Fault Refusal :=
  match s.requests.find? (fun r => r.txn == txn.toNat) with
  | none => .next s
  | some r =>
    if s.stopped || !s.passed (some r.sentAt) (s.getF F.tmoLinkRspLinkRspMs * 1000000) then .next s
    else .next ((s.expiry (sourceOf 6 0) r.tag 5).endRequest r .timeout)

/-- HEARTBEAT_TIMEOUT: every enabled context is torn down, its INVOKE ending with TIMEOUT; the timer stops, HB_EN stays. -/
def execHeartbeatTimeout (s : State) : Host.Outcome State Fault Refusal :=
  if s.stopped || !s.flag F.tmoHbHbEn || !s.passed s.hbAt (s.getF F.tmoHbHbS * 1000000000) then .next s
  else
    let s := { (s.bump F.cxsWdogHeartbeat).expiry (sourceOf 6 0) 0 6 with hbAt := none }
    .next ((List.range 1024).foldl (fun (s : State) i => s.tearDown i .timeout) s)

/-- CLOSING_SLUICE_TIMEOUT: a closing sluice is freed at the dike timeout, which is logged as TEARDOWN_STUCK (R139, R424). -/
def execClosingSluiceTimeout (core : CoreId) (handle : HandleId) (s : State) : Host.Outcome State Fault Refusal :=
  let p := (s.core core).polder handle
  if s.stopped || !p.valid || !p.sluice || p.sluiceState ≠ 2 || !s.passed p.closeAt s.dikeNs then .next s
  else .next ((s.release core handle).log 0x0004 (sourceOf 0 core) p.owner .timeout 2 (natLe 2 handle.val))

/-! ### Resets of cores, ports and stacks (R417, R420, R421) -/

/-- CORE_RESET: a write of 1 to CORE_RESET.RESET. -/
def takeCoreReset (path : Path) (core : CoreId) (s : State) : Host.Outcome State Fault Refusal :=
  if s.stopped || path != .pf then .next s else .next (s.dikeCore core none none)

/-- PORT_RESET: a write of 1 to LNK_CTL.RESET; a port that is off has nothing to reset. -/
def takePortReset (path : Path) (port : PortId) (s : State) : Host.Outcome State Fault Refusal :=
  if s.stopped || path != .pf || s.portResets port || s.portState port = 0 then .next s
  else
    let s := s.dikePort port
    .next (s.setPort port { s.port port with resetBy := true })

/-- STACK_RESET: a write of 1 to HSC_STACK_CTL.RESET. -/
def takeStackReset (path : Path) (stack : StackId) (s : State) : Host.Outcome State Fault Refusal :=
  if s.stopped || path != .pf then .next s else .next (s.dikeStack stack)

/-- HBM_TRAINING_LOSS: 16 command-address parity errors within 1 ms, or a read data timeout (Table 16.7). -/
def execHbmTrainingLoss (stack : StackId) (parity : Nat) (dataTimeout : Bool) (s : State) : Host.Outcome State Fault Refusal :=
  if s.stopped || !(decide (16 ≤ parity) || dataTimeout) then .next s else .next (s.dikeStack stack)

/-! ### Resets of a host function (R386, R420) -/

/-- Contexts that a reset of a function covers: a VF's own; for the PF, every one. -/
def State.contextsOf (s : State) (func : Nat) : List Nat := (List.range 1024).filter (fun i => func == 0 || s.getF F.hiuCtxCtlFunc i == func)

/-- FUNCTION_LEVEL_RESET: the function is diked and its contexts are torn down; a conventional PCIe reset is one of the PF, which
covers the resets of VFs that are under way (R421). -/
def execFunctionLevelReset (func : FuncId) (s : State) : Host.Outcome State Fault Refusal :=
  if s.stopped || s.funcDiked func then .next s
  else
    let s := { s with funcDikes := if func.val = 0 then [(0, false)] else s.funcDikes.put func false }
    let s := s.log 0x0020 (sourceOf 5 func) 0 .ok 0
    .next ((s.contextsOf func).foldl (fun (s : State) i => s.tearDown i .cancelled) s)

/-- The function's HIU registers, rings and MSI-X state return to their reset values; a context keeps its generation and, under a VF, its owner.
The PF's reset covers every VF: VF Enable and the ranges clear, and the window returns to its base. -/
def State.resetFunc (s : State) (func : Nat) : State :=
  let s := (s.contextsOf func).foldl (fun (s : State) i =>
    let keep := setBits (s.reg .hiuCtxCtl i) 51 0 (Reg.hiuCtxCtl.resetValue % 2 ^ 52)
    [(Reg.hiuSqBase), .hiuCqBase, .hiuAuditBase, .hiuAuditWb, .hiuCtxState, .hiuCtxAudit].foldl (fun (s : State) r => s.setReg r i r.resetValue)
      (s.setReg .hiuCtxCtl i (keep % 2 ^ 63))) s
  if func ≠ 0 then s else
  let s := (List.range 1024).foldl (fun (s : State) i => s.setF F.hiuCtxCtlFunc 0 i) s
  let s := (List.range 31).foldl (fun (s : State) v => s.setReg .hiuVfRange v 0) s
  { s.setReg .hiuWinBase 0 0 with vfEnable := false }

/-- Every context of a diked function is torn down. -/
def State.funcQuiet (s : State) (func : Nat) : Bool := (s.contextsOf func).all (fun i => s.ctxState i == 0)

/-! ### The steps of a dike (R418, Table 16.2) -/

/-- DIKE_DRAINED: no outstanding request is left, so the domain resets; a port then trains. The device and a context have no dike of this kind. -/
def execDikeDrained (d : Domain) (s : State) : Host.Outcome State Fault Refusal :=
  if s.stopped then .next s else
  match d with
  | .core c => .next (if (s.core c).rst = 1 ∧ (s.core c).outstanding = 0 then s.resetCore c else s)
  | .port p => .next (if s.portState p = 5 ∧ (s.port p).trainAt.isNone then s.trainPort p else s)
  | .stack k => .next (if (s.hsc k).state = 1 then s.resetStack k else s)
  | .func f => .next (if s.funcDikes.find f = some false ∧ s.funcQuiet f then { s.resetFunc f with funcDikes := s.funcDikes.put f true } else s)
  | .device => .next s
  | .context _ => .next s

/-- DIKE_TIMEOUT: at the dike timeout in force when the dike began (R418) what is still open is answered FENCED_ABORT, and the domain resets; a port that has
not returned is down or quarantined again, though it may still train (R379); a stack holds no request between commands, so its step 3 is skipped (R419); what is left of a function's teardown escalates (R424). -/
def execDikeTimeout (d : Domain) (s : State) : Host.Outcome State Fault Refusal :=
  if s.stopped then .next s else
  match d with
  | .core c => .next (if (s.core c).rst = 1 ∧ s.passed (s.core c).dikeAt (s.core c).dikeFor then s.abortCore c else s)
  | .port p =>
    if (s.port p).overdue || !s.passed (s.port p).dikeAt (s.port p).dikeFor then .next s
    else if s.portState p = 5 ∨ s.portState p = 2 then .next (s.portLost p)
    else .next s
  | .stack k => .next (if (s.hsc k).state = 1 ∧ s.passed (s.hsc k).dikeAt (s.hsc k).dikeFor then s.resetStack k else s)
  | .func f =>
    if s.funcDikes.find f = some false then
      .next ((s.contextsOf f).foldl (fun (s : State) i => if s.passed (s.ctx i).tearAt (s.tearNs i) then s.escalateTeardown i else s) s)
    else .next s
  | .device => .next s
  | .context _ => .next s

/-- DIKE_LIFTED: the domain has trained or verified; it lifts its dike and accepts new requests. -/
def execDikeLifted (d : Domain) (s : State) : Host.Outcome State Fault Refusal :=
  if s.stopped then .next s else
  match d with
  | .core c => .next (if (s.core c).rst = 3 then s.liftCore c else s)
  | .port p =>
    if (s.portState p = 3 ∨ (s.portState p = 4 ∧ !s.trains p ∧ s.getF F.lnkLanesActive p ≠ 0)) ∧ (s.port p).dikeAt.isSome then
      .next ((s.setPort p { s.port p with dikeAt := none, resetBy := false, overdue := false }).log 0x0022 (sourceOf 2 p) 0 .ok 0)
    else .next s
  | .stack k => .next (if (s.hsc k).state = 2 then s.liftStack k else s)
  | .func f =>
    .next (if s.funcDikes.find f = some true then { s with funcDikes := s.funcDikes.del f }.log 0x0022 (sourceOf 5 f) 0 .ok 0 else s)
  | .device => .next s
  | .context _ => .next s

/-! ### Escalation (R429, Table 16.7) -/

/-- A device warm reset that does not finish within 7 s leaves the device failed. -/
def State.warmFails (s : State) : State := if s.passed s.warmAt 7000000000 then { s with warmAt := none, failed := true } else s

/-- ESCALATION_TIMEOUT: a recovery has passed the limit of its row, and the fault moves to the next. -/
def execEscalationTimeout (d : Domain) (s : State) : Host.Outcome State Fault Refusal :=
  match d with
  | .device => .next s.warmFails
  | .context i =>
    if s.stopped then .next s
    else if s.ctxState i = 3 then .next (if s.passed (s.ctx i).tearAt (s.tearNs i) then s.escalateTeardown i else s)
    else .next (if ((s.ctx i).inv.map (fun v => s.passed v.endAt s.dikeNs)).getD false then s.resetUnstopped i else s)
  | .core c => .next (if s.stopped = false ∧ (s.core c).rst ≠ 0 ∧ s.passed (s.core c).dikeAt ((s.core c).dikeFor + 2000000) then s.fatal 1 else s)
  | .port p =>
    let x := s.port p
    if s.stopped || s.portState p = 3 || s.portState p = 0 then .next s
    else .next (if s.passed (x.dikeAt.or x.trainAt) 150000000 ∧ (s.portState p = 5 ∨ s.trains p) then
      (s.setPort p { x with overdue := x.dikeAt.isSome }).portDown p else s)
  | .stack k =>
    .next (if s.stopped = false ∧ (s.hsc k).state = 2 ∧ s.passed (s.hsc k).resetAt 1800000000 then (s.setHsc k { s.hsc k with state := 3 }).fatal 2 else s)
  | .func f =>
    if s.stopped then .next s
    else if s.funcDikes.find f = some false then
      .next ((s.contextsOf f).foldl (fun (s : State) i => if s.passed (s.ctx i).tearAt 100000000 then s.escalateTeardown i else s) s)
    else .next s

end Sys2Proof.Machine
end

