-- ==== Sys2Proof/Machine/Reset.lean ====
section
/-! DEFINITION. Device resets: warm, with or without a dump, its end, and cold; the boot chain (R291, R430 to R432, R439, R441, R495, Table 16.8).
Log entries 12, 29. -/

namespace Sys2Proof.Machine

/-! ### The flash (R437) -/

/-- What a range of the flash is for (Table 17.1). -/
inductive FlashRange where
  | bootRecord
  | identityChain
  | reserved
  | slotA
  | slotB
  deriving DecidableEq, Repr

/-- The range that a byte of the flash lies in. -/
def flashRange (a : Nat) : Option FlashRange :=
  if a < 0x10000 then some .bootRecord
  else if a < 0x20000 then some .identityChain
  else if a < 0x100000 then some .reserved
  else if a < 0x2000000 then some .slotA
  else if a < 0x3F00000 then some .slotB
  else if a < 0x4000000 then some .reserved
  else none

/-- A byte of the two ranges that nothing in the field writes: the identity chain as manufacture left it, and the reserved ranges, erased. -/
def flashFixed (a : Nat) : Option Byte :=
  match flashRange a with
  | some .identityChain => some (Config.identityChain.getD (a - 0x10000) 0xFF)
  | some .reserved => some 0xFF
  | _ => none

/-! ### The boot chain (R439, R441) -/

/-- The slot that the boot record selects: what a valid copy names, the first one's where both are valid, slot A where none is (step 1 of Table 17.3). -/
def Boot.selected (b : Boot) : Nat := ((b.records.find? SlotRecord.valid).map (fun r => leNat r.body)).getD 0

/-- Select a slot for the next reset: both copies of the boot record are written. -/
def Boot.select (b : Boot) (n : Nat) : Boot := { b with records := [.of n, .of n] }

/-- A slot holds an image that may boot: the digest of its SIGNER is the fused one, its SIGNATURE verifies, its security version is not below the anti-rollback
value, and its first two components match their digests (steps 2 and 4 of Table 17.3). -/
def Boot.bootable (b : Boot) (n : Nat) : Bool :=
  (b.slot n).any (fun m => m.signer && m.signature && decide (b.rollback ≤ m.svn) && (m.intact.take 2).all id)

/-- The SPI flash pins are at high impedance, so that the board management controller can program the flash: in ROM recovery (R441). -/
def State.spiReleased (s : State) : Bool := s.boot.rom

/-- The slot that boots: the selected one, else the other; none leaves ROM recovery. -/
def Boot.pick (b : Boot) : Option Nat :=
  if b.bootable b.selected then some b.selected else if b.bootable (1 - b.selected) then some (1 - b.selected) else none

/-- The boot chain runs: a slot is picked, the fused seed is locked once the identity key is derived, an alias key, its certificate's randomness and a challenge
are drawn. A fallback is an event, whose code the manual does not give. -/
def State.runBoot (s : State) : State :=
  let b := s.boot
  let at0 := s.free
  let s := { s with free := s.free + 6, healthAt := none, heldDraw := none }
  match b.pick with
  | none => { s with boot := { b with rom := true, seedLocked := false } }
  | some n =>
    -- the firmware starts: a chip without a plan locks on its own counter (R361)
    let s := { s with boot := { b with running := n, aliasAt := at0 + 4, bootRollback := b.rollback, challengeAt := at0, rom := false, seedLocked := true }, unlocked := s.unlocked && s.plan.isSome }
    let s := if n = b.selected then s else (let (c, s) := s.draw; s.log (c.toNat % 65536) (sourceOf 7 0) 0 .ok 0)
    -- step 6: microcode and library
    if s.boot.image.intact.all id then s else s.fatal 1

/-! ### A device warm reset begins (R431) -/

/-- A context is torn down at once: its INVOKE closes its ledger, everything it holds is freed. -/
def State.tearNow (s : State) (i : Nat) : State :=
  if s.ctxState i = 0 then s else
  let s := ((s.tearDown i .cancelled).closeNow i .cancelled).dropJobs i
  let s := if (s.ctx i).freed then s else s.freeContext i
  let halted := (s.ctx i).halted
  let s := s.endTeardown i
  s.setCtx i { s.ctx i with halted := halted }

/-- Every domain is diked, every context torn down, a dump is written where one is due, and the phases of Table 16.8 begin. -/
def State.beginWarm (s : State) (cause : Nat) (dump : Option Nat) : State :=
  let s := s.log 0x0020 (sourceOf 7 0) 0 .ok 2
  let s := (List.range 8).foldl (fun (s : State) n => s.dikePort n) s
  let s := s.known.foldl (fun (s : State) i => s.tearNow i) s
  let s := match dump with
    | some c => s.writeDump c
    | none => s
  { s.setF F.mpResetLastCause cause with warmAt := some s.time, mbx := none }

/-- Cause that MP_RESET records: 1 host, 4 sideband or diagnostic endpoint, 2 when it ends the failed state of a fatal error. -/
def State.warmCause (s : State) (path : Path) : Nat := if s.failed then 2 else if path == .pf then 1 else 4

/-- WARM_RESET: a device warm reset is asked for; one already running is not asked for again.
Only an open session of the diagnostic endpoint carries the request (R414). -/
def takeWarmReset (path : Path) (s : State) : Host.Outcome State Fault Refusal :=
  match path with
  | .vf _ => .next s
  | .diag => if s.diag && !s.deaf then .next (s.beginWarm (s.warmCause path) none) else .next s
  | _ => if s.deaf then .next s else .next (s.beginWarm (s.warmCause path) none)

/-- WARM_RESET_DUMP: MP_RESET is written with WARM and DUMP; only the PF reaches it. -/
def takeWarmResetDump (path : Path) (s : State) : Host.Outcome State Fault Refusal :=
  if s.deaf || path != .pf then .next s else .next ((s.beginWarm (s.warmCause path) (some 5)).setF F.mpResetDump 1)

/-- MP_WATCHDOG_EXPIRY: the MP has stopped; its hardware watchdog starts a warm reset, with a dump of header and events. -/
def execMpWatchdogExpiry (s : State) : Host.Outcome State Fault Refusal :=
  if s.deaf then .next s else .next (s.beginWarm 3 (some 4))

/-! ### A device warm reset ends (R495, Table 16.1) -/

/-- Mask of bits [hi:lo]. -/
def maskOf (hi lo : Nat) : Nat := (2 ^ (hi + 1 - lo) - 1) * 2 ^ lo

/-- Bits of a register that a device warm reset keeps (R372, R470, R483, R495, Table 16.1), or that show what lies outside the device. -/
def Reg.keptMask (r : Reg) : Nat :=
  match r with
  | .mpReset => maskOf 7 0
  | .mpDumpStatus => maskOf 63 0
  | .topoPlanStatus => maskOf 31 0
  | .topoPlanSeq => maskOf 63 0
  | .topoPlanKey => maskOf 63 0
  | .topoPort => maskOf 255 48 + maskOf 31 0
  | .topoCtxBlock => maskOf 31 0
  | .lnkTimeNext => maskOf 63 0
  | .lnkStatus => maskOf 7 3
  | .secStatus => maskOf 3 3
  | .pwrCap => maskOf 15 0
  | .pwrInput => maskOf 63 16
  | .pwrSupply => maskOf 31 30
  | .pwrTherm => maskOf 47 32
  | .clkRef => maskOf 2 0
  | .svcStatus => maskOf 2 0
  | .glbScratch => maskOf 63 0
  | _ => 0

/-- The digests that OWNER_LOCK locks until cold reset (Table 17.11). -/
def Reg.ownerLocked (r : Reg) : Bool := r == .secOwnerKey || r == .secSwitchRoot

/-- The register store after a device warm reset. -/
def keptRegs (t : Table Nat) : Table Nat :=
  let owner := bit (t.get 0 (Reg.secStatus.key 0)) 3
  t.filterMap (fun p =>
    match Reg.all.find? (fun r => r.info.num == p.1 / 2 ^ 20) with
    | none => none
    | some r =>
      let m := if r.ownerLocked && owner then maskOf 63 0 else r.keptMask
      if m = 0 then none
      else
        let rv := r.resetValue
        some (p.1, (rv ^^^ (rv &&& m)) ||| (p.2 &&& m)))

/-- What a device warm reset leaves: HBM, the interleave key, the plan, fabric time, events, and what lies outside the device. -/
def State.afterWarm (s : State) : State :=
  { State.reset with
    pending := s.pending, time := s.time, free := s.free, regs := keptRegs s.regs, hbm := s.hbm, hbmErr := s.hbmErr, hbmPassing := s.hbmPassing
    ctxs := (s.ctxs.filter (fun p => !p.2.lastBody.isEmpty)).map (fun p => (p.1, { CtxSt.fresh with lastBody := p.2.lastBody }))
    hscs := s.hscs.map (fun p => (p.1, { StackSt.up with temp := p.2.temp, throttle := p.2.throttle })), key := s.key, nextTxn := s.nextTxn, plan := s.plan
    boot := { s.boot with boots := s.boot.boots + 1, dbgScope := s.boot.armed, armed := none }
    ports := (s.ports.filter (fun p => p.2.quarantined)).map (fun p => (p.1, { PortSt.off with quarantined := true }))
    bar4 := s.bar4, vfEnable := s.vfEnable, dumps := s.dumps, power := s.power, supply := s.supply, trajectory := s.trajectory, otherMa := s.otherMa, bleeder := s.bleeder, fields := s.fields, holdAt := s.holdAt
    unlocked := s.unlocked, slew := s.slew, holdNs := s.holdNs, ticks := s.ticks, ide := s.ide, events := s.events, out := s.out }

/-- Ports train under the kept plan (phase 5). -/
def State.trainPlanned (s : State) : State :=
  match s.ownEntry with
  | none => s
  | some e => (e.ports.zipIdx).foldl (fun (s : State) x => if x.1.kind = 0 then s else s.trainPort x.2) s

/-- WARM_RESET_DONE: the phases of Table 16.8 are through: firmware has booted, or the device stays in ROM recovery; ports train. -/
def execWarmResetDone (s : State) : Host.Outcome State Fault Refusal :=
  if s.warming then
    let s := s.afterWarm.runBoot
    let s := if s.boot.rom then s else s.log 0x0022 (sourceOf 7 0) 0 .ok 0
    .next (if s.stopped then s else s.trainPlanned)
  else .next s

/-! ### A device cold reset (R291, R464) -/

/-- What a loss of power leaves: the flash, the fuses, and what lies outside the device; fabric time has lost its lock (R359). -/
def State.lost (s : State) : State :=
  { State.reset with
    pending := s.pending, out := s.out, free := s.free, unlocked := true
    boot := { s.boot with boots := 0, armed := none, dbgScope := none, rom := false, seedLocked := false } }

/-- The state once power is back and the boot chain has run: a new interleave key, new keys and challenge, HBM zero. -/
def State.coldStart (s : State) : State :=
  let s := s.lost
  { s with key := s.free, free := s.free + 1 }.runBoot

/-- COLD_RESET: the module is power-cycled. -/
def execColdReset (s : State) : Host.Outcome State Fault Refusal := .next s.coldStart

end Sys2Proof.Machine
end

