-- ==== Sys2Proof/Machine/Power.lean ====
section
/-! DEFINITION. Power, the weir, supply events, droop, thermal stages, references, the attention button, service hold and cables
(R462 to R486, chapter 18). Log entries 12, 30. -/

namespace Sys2Proof.Machine

/-! ### Input power (R462 to R464, R478) -/

/-- The regulators are off: every reset domain is lost. -/
def State.powerOff (s : State) (p : Power) : State := { s.lost with power := p }

/-- SOFT_START: the module, without power, charges its input and starts its regulators; it comes up as from a device cold reset. -/
def execSoftStart (s : State) : Host.Outcome State Fault Refusal := .next (if s.power = .off then { s.coldStart with bleeder := false } else s)

/-- PRESENCE_OPEN: the bleeder discharges the input; a thermal trip stays latched until the input falls below 30 V. -/
def execPresenceOpen (s : State) : Host.Outcome State Fault Refusal := .next { (if s.power = .tripped then s else s.powerOff .off) with bleeder := true }

/-- INPUT_BELOW_30V: the bleeder runs and the thermal-trip latch releases. -/
def execInputBelow30V (s : State) : Host.Outcome State Fault Refusal := .next { s.powerOff .off with bleeder := true }

/-- SUPPLY_OVERVOLTAGE: above 60 V for 10 µs the regulators turn off. -/
def execSupplyOvervoltage (s : State) : Host.Outcome State Fault Refusal := .next (if s.power = .on then s.powerOff .off else s)

/-- SUPPLY_COLLAPSE: below 40 V the regulators turn off; running INVOKEs leave no ledger. -/
def execSupplyCollapse (s : State) : Host.Outcome State Fault Refusal := .next (if s.power = .on then s.powerOff .off else s)

/-! ### Supply events (R471 to R473) -/

/-- Note an input voltage in mV; an open supply event keeps its lowest (R472). -/
def State.noteVin (s : State) (mv : Nat) : State :=
  let s := { s with supply := s.supply.map (fun (e : Supply) => { e with lowest := min e.lowest mv }) }
  let s := s.setF F.pwrInputVin (min mv 65535)
  s.setF F.pwrInputVinMin (min (s.getF F.pwrInputVinMin) mv)

/-- A supply event counts in every INVOKE that runs and in every open window (R473, R397). -/
def State.countSupply (s : State) : State :=
  { s with ctxs := s.ctxs.map (fun (p : Nat × CtxSt) => (p.1, { p.2 with
      inv := p.2.inv.map (fun v => { v with supply := v.supply + 1 }), window := { p.2.window with supply := p.2.window.supply + 1 } })) }

/-- Filler stops everywhere. -/
def State.stopFiller (s : State) : State :=
  { s.setF F.weirStatusFiller 0 with
    cores := s.cores.map (fun (p : Nat × CoreSt) => (p.1, { p.2 with filler := false }))
    hscs := s.hscs.map (fun (p : Nat × StackSt) => (p.1, { p.2 with filler := false })) }

/-- SUPPLY_DROP: the input crosses 44 V downwards; the draw is throttled, and a supply event opens, or the open one goes on. A reading below 40 V turns
the regulators off. -/
def execSupplyDrop (mv : Nat) (s : State) : Host.Outcome State Fault Refusal :=
  if s.power ≠ .on || decide (44000 ≤ mv) then .next s
  else if mv < 40000 then .next (s.powerOff .off)
  else
    let s := ((s.noteVin mv).setF F.pwrSupplyState 1).stopFiller
    match s.supply with
    | some _ => .next s
    | none => .next { s.countSupply with supply := some ⟨s.time, mv⟩ }

/-- SUPPLY_RECOVER: at or above 46 V for 1 ms the limit returns to the cap. -/
def execSupplyRecover (s : State) : Host.Outcome State Fault Refusal :=
  if s.getF F.pwrSupplyState ≠ 1 then .next s
  else .next (s.setF F.pwrSupplyState 2)

/-- SUPPLY_EVENT_CLOSE: the draw is back; the event is logged and counted. -/
def execSupplyEventClose (s : State) : Host.Outcome State Fault Refusal :=
  match s.supply with
  | none => .next s
  | some e =>
    if s.getF F.pwrSupplyState ≠ 2 then .next s
    else
      let arg := natLe 2 e.lowest ++ zeros 2 ++ natLe 4 ((s.time - e.since) / 1000) ++ zeros 8
      .next { ((s.setF F.pwrSupplyState 0).bump F.pwrSupplyEvents).log 0x0050 (sourceOf 8 0) 0 .ok 1 arg with supply := none }

/-! ### The weir (R465 to R470) -/

/-- Current in mA of a power in W at a voltage in mV. -/
def milliamps (w mv : Nat) : Nat := if mv = 0 then 0 else w * 1000000 / mv

/-- Filler reserve in W: the matrix engine line of Table 1.5 at the clock in force and its HBM line, each while the weir may use it (R468, R469). -/
def State.reserveWatts (s : State) : Nat :=
  let mhz := ((List.range 4).map s.fieldMhz).sum / 4
  (if s.flag F.weirCtlFillMe then 1730 * mhz / 3000 else 0) + (if s.flag F.weirCtlFillHbm then 1150 else 0)

/-- What is left of the trajectory once the draw of the other blocks has stepped down, which no slew holds (R468). -/
def State.steppedDown (s : State) (other : Nat) : Nat := s.trajectory - (s.otherMa - other)

/-- The trajectory after a sample, from the demand, the part of it of the other blocks and the limit in mA. A rise keeps to the slew. A fall keeps to it too, that of a
lower cap as well, as far as demand and filler can hold the draw up; the other blocks and the supply throttle fall at once (R465, R468 to R471). -/
def State.nextTrajectory (s : State) (demand other limit mv : Nat) : Nat :=
  let slew := s.getF F.weirSlewSlew
  let want := min demand limit
  let t := s.steppedDown other
  if s.trajectory ≤ want then min want (s.trajectory + slew)
  else if t ≤ want ∨ s.getF F.pwrSupplyState = 1 then want
  else max want (min (t - slew) (demand + milliamps s.reserveWatts mv))

/-- What a sample of the module's sensors shows beside the draw: the coolant's temperatures and the references that are within their limits again (Tables 18.12,
18.15). -/
def State.noteSensors (s : State) (x : WeirSample) : State :=
  let s := (s.setF F.pwrThermCoolIn x.coolIn).setF F.pwrThermCoolOut x.coolOut
  let s := if x.pcieRef then s.setF F.clkRefPcieLock 0 else s
  if x.rackRef then s.setF F.clkRefRackLock 0 else s

/-- WEIR_SAMPLE: input current and demand in mA, voltage in mV. The trajectory moves, clocks and filler follow, the flags show what holds the draw: filler groups in
idle matrix engines, and filler reads in the stacks that are up, whose data nobody gets (R467). -/
def execWeirSample (x : WeirSample) (s : State) : Host.Outcome State Fault Refusal :=
  if s.power ≠ .on then .next s else
  let s := (s.noteVin x.vin).noteSensors x
  let s := (s.setF F.pwrInputIin (min (x.iin / 10) 65535)).setF F.pwrInputPin (min (x.iin * x.vin / 1000000) 65535)
  let limit := milliamps s.limitWatts x.vin
  let want := min x.demand limit
  let next := s.nextTrajectory x.demand x.other limit x.vin
  let throttled := s.getF F.pwrSupplyState = 1
  let capped := decide (milliamps s.capWatts x.vin < x.demand) && !(throttled && decide (throttleWatts < s.capWatts))
  let unheld := !throttled && decide (x.demand + milliamps s.reserveWatts x.vin < s.steppedDown x.other - s.getF F.weirSlewSlew)
  let filler := decide (x.demand < next) && !throttled
  let held := decide (next < x.demand)
  let clock := if held then 500 + 25 * (Config.weirStep next x.demand).val else 0
  let s := if unheld then s.bump F.weirUnheldCount else s
  let s := ((s.setF F.weirStatusFiller (b2n filler)).setF F.weirStatusCap (b2n capped)).setF F.weirStatusRise (b2n (decide (next < want)))
  let s := (List.range 4).foldl (fun (s : State) f => s.setF F.clkFieldMhz clock f) s
  let fillMe := filler && s.flag F.weirCtlFillMe
  let phases := held && decide ((Config.weirStep next x.demand).val = 0) && Config.phasesHeld next x.demand
  let fillHbm := filler && s.flag F.weirCtlFillHbm
  .next { s with
    trajectory := next, otherMa := x.other, phaseHold := phases
    hscs := (List.range 20).foldl (fun (t : Table StackSt) k => let h := s.hsc k; if h.filler == (fillHbm && h.state == 0) then t else t.put k { h with filler := fillHbm && h.state == 0 }) s.hscs
    cores := s.cores.map (fun (p : Nat × CoreSt) => (p.1, { p.2 with filler := fillMe && p.2.me.isEmpty && p.2.rst == 0 })) }

/-! ### Droop, temperature, references (R474 to R478) -/

/-- DROOP_DETECT: the clock period of a field's cores is lengthened by half. -/
def execDroopDetect (f : FieldId) (s : State) : Host.Outcome State Fault Refusal :=
  let x := s.clkField f
  if s.power ≠ .on || x.droop then .next s else .next ((s.setField f { x with droop := true }).bump F.clkFieldDroop f)

/-- DROOP_RECOVER: the period is restored. -/
def execDroopRecover (f : FieldId) (s : State) : Host.Outcome State Fault Refusal := .next (s.setField f { s.clkField f with droop := false })

/-- Thermal shutdown: THERMTRIP_N is asserted, the regulators turn off; no dump, no ledger (R478). -/
def State.shutdown (s : State) : State := if s.power = .on then s.powerOff .tripped else s

/-- The hottest junction reading of the module. -/
def State.hottest (s : State) : Nat := (s.fields.map (·.2.temp)).foldl max 0

/-- Thermal stage of a field by its reading and the hottest one: the 105 °C stage lasts until that is at 100 °C or less (Table 18.5). -/
def thermalStage (stage temp hottest : Nat) : Nat :=
  if 105 ≤ temp then 2
  else if stage = 2 ∧ 100 < hottest then 2
  else if 95 ≤ temp then 1
  else if stage ≠ 0 ∧ 93 < temp then 1
  else 0

/-- A field's hottest reading: the stages follow, and the field's entry into the 95 °C stage is counted. -/
def State.readField (s : State) (f temp : Nat) : State :=
  let was := (s.clkField f).stage
  let s := s.setField f { s.clkField f with temp := min temp 255 }
  let s := { s with fields := s.fields.map (fun (p : Nat × FieldSt) => (p.1, { p.2 with stage := thermalStage p.2.stage p.2.temp s.hottest })) }
  if was = 0 ∧ (s.clkField f).stage ≠ 0 then s.bump F.pwrThermThrottles else s

/-- THERMAL_THROTTLE: a junction reading crosses a stage. -/
def execThermalThrottle (f : FieldId) (temp : Nat) (s : State) : Host.Outcome State Fault Refusal :=
  if s.power ≠ .on then .next s else if 115 ≤ temp then .next s.shutdown else .next (s.readField f temp)

/-- THERMAL_STEP_TIMER: every 100 µs the field's clock goes down 25 MHz in a stage, and back up out of it. -/
def execThermalStepTimer (f : FieldId) (temp : Nat) (s : State) : Host.Outcome State Fault Refusal :=
  if s.power ≠ .on then .next s
  else if 115 ≤ temp then .next s.shutdown
  else
    let s := s.readField f temp
    let x := s.clkField f
    .next (s.setField f { x with steps := if x.stage ≠ 0 then min (x.steps + 1) ((s.topMhz - 500) / 25) else x.steps - 1 })

/-- THERMAL_SHUTDOWN: a junction at 115 °C or a stack at 105 °C. -/
def execThermalShutdown (s : State) : Host.Outcome State Fault Refusal := .next s.shutdown

/-- HBM_TEMP_CHANGE: the command rate is halved from 95 °C and restored at 90 °C or less (R295); at 105 °C the module shuts down (Table 18.5). -/
def execHbmTempChange (stack : StackId) (temp : Nat) (s : State) : Host.Outcome State Fault Refusal :=
  if s.power ≠ .on then .next s
  else if 105 ≤ temp then .next s.shutdown
  else
    let h := s.hsc stack
    .next (s.setHsc stack { h with temp := temp, throttle := if 95 ≤ temp then true else if temp ≤ 90 then false else h.throttle })

/-- REFERENCE_LOSS: the reference's lock bit clears; the loss of the board reference is fatal (R475). -/
def execReferenceLoss (r : RefInput) (s : State) : Host.Outcome State Fault Refusal :=
  if s.power ≠ .on then .next s else
  match r with
  | .board => .next ((s.setF F.clkRefBoardLock 1).fatal 1)
  | .pcie => .next (s.setF F.clkRefPcieLock 1)
  | .rack => .next (s.setF F.clkRefRackLock 1)

/-! ### Completion of a mailbox command (R403) -/

/-- Steps 4 and 5 of R403: result, status and code, BUSY, the done vector; the sideband and the diagnostic endpoint get an answer. -/
def State.finishMbx (s : State) (m : Mbx) (st : Status) (result : Bytes) : State :=
  let s := { (s.setF F.mbxStatusLast m.code).setF F.mbxStatusStatus st.code with mbx := none }
  match m.path with
  | .pf =>
    let s := if result.isEmpty then s else s.emit (.hostWrite (s.getF F.mbxBufMbxBuf) result)
    s.emit (.msix 0 (s.getF F.mbxVecDoneVector))
  | p => (s.emit (.answer p st.code result)).emit (.msix 0 (s.getF F.mbxVecDoneVector))

/-! ### Service hold (R480 to R483) -/

/-- Raise the service vector of the PF unless it is masked. -/
def State.serviceVector (s : State) : State := if s.flag F.svcCtlMask then s else s.emit (.msix 0 (s.getF F.svcCtlVector))

/-- Change SVC_STATUS.HOLD. -/
def State.setHold (s : State) (v : Nat) : State := if s.getF F.svcStatusHold = v then s else (s.setF F.svcStatusHold v).serviceVector

/-- A service hold begins, finishing. -/
def State.enterHold (s : State) : State :=
  if s.getF F.svcStatusHold ≠ 0 then s else { s.setHold 1 with holdAt := s.time }

/-- A hold ends: the dikes lift, dispatch resumes; a SERVICE_HOLD 1 that still runs completes with CANCELLED (R483). -/
def State.endHold (s : State) : State :=
  if s.getF F.svcStatusHold = 0 then s else
  let s := s.setHold 0
  let s := match s.mbx with
    | some m => if m.code = 0x0A ∧ m.arg = 1 ∧ !m.ready then s.finishMbx m .cancelled [] else s
    | none => s
  s.known.foldl (fun (s : State) i => s.goOn i) s

/-- Some descriptor of a context runs. A switch that has committed waits for a later INVOKE, and runs no more. -/
def CtxSt.runs (c : CtxSt) : Bool := c.inv.isSome || !c.jobs.isEmpty || c.sw.any (fun w => w.commit.isNone)

/-- ATTN_BUTTON_RELEASE: a press by its length (Table 18.6); one shorter than the debounce is none. -/
def execAttnButtonRelease (ms : Nat) (s : State) : Host.Outcome State Fault Refusal :=
  if s.stopped || decide (ms < 20) || decide (8000 ≤ ms) then .next s
  else if 2000 ≤ ms then .next (s.bump F.svcStatusIgnored)
  else if s.getF F.svcStatusHold = 0 then .next s.enterHold
  else if s.time < s.holdAt + 10000000000 then .next s.endHold
  else .next (s.bump F.svcStatusIgnored)

/-- What a context runs ends with FENCED, once a retry under way has come to its end, and it faults (R105, R482). -/
def State.dikeRunning (s : State) (i : Nat) : State :=
  if !(s.ctx i).runs then s else (s.endOthers i .cancelled .fenced none .fenced).2.fault i .fenced

/-- ATTN_BUTTON_HELD: at the 8th second the immediate dike begins. -/
def execAttnButtonHeld (s : State) : Host.Outcome State Fault Refusal :=
  if s.stopped || s.getF F.svcStatusHold = 3 then .next s
  else
    let s := if s.getF F.svcStatusHold = 0 then { s with holdAt := s.time } else s
    .next ((s.known.foldl (fun (s : State) i => s.dikeRunning i) s).setHold 3)

/-- SERVICE_HOLD_HELD: no descriptor of any context runs, so the held stage begins; a SERVICE_HOLD 1 is done. -/
def execServiceHoldHeld (s : State) : Host.Outcome State Fault Refusal :=
  let h := s.getF F.svcStatusHold
  if s.stopped || !(h == 1 || h == 3) || s.ctxs.any (fun p => p.2.runs) then .next s
  else
    let s := s.setHold 2
    .next (match s.mbx with
      | some m => if m.code = 0x0A ∧ m.arg = 1 then { s with mbx := some { m with ready := true } } else s
      | none => s)

/-! ### Cables (R484) -/

/-- CABLE_REMOVED: the port is diked; PULLED during a hold, else LOST and the service vector. -/
def execCableRemoved (port : PortId) (s : State) : Host.Outcome State Fault Refusal :=
  if s.power ≠ .on then .next s else
  let s := (s.setF F.lnkStatusPresent 0 port).dikePort port
  let b := 2 ^ port.val
  if s.getF F.svcStatusHold ≠ 0 then .next (s.setF F.svcPortPulled (s.getF F.svcPortPulled ||| b))
  else .next (s.setF F.svcPortLost (s.getF F.svcPortLost ||| b)).serviceVector

/-- CABLE_INSERTED: PRESENT_N has stayed asserted for 100 ms; a port that the plan names, and that is not up, trains. -/
def execCableInserted (port : PortId) (s : State) : Host.Outcome State Fault Refusal :=
  if s.power ≠ .on then .next s else
  let s := s.setF F.lnkStatusPresent 1 port
  let planned := (s.ownEntry.map (fun e => (e.ports.getD port ⟨0, 0, 0, 0⟩).kind != 0)).getD false
  if s.stopped || !planned || s.trains port || !(s.portState port == 1 || s.portState port == 4 || s.portState port == 5) then .next s else .next (s.trainPort port)

end Sys2Proof.Machine
end

