-- ==== Sys2Proof/Machine/Mailbox.lean ====
section
/-! DEFINITION. The mailbox and its commands; firmware images and signed tokens (R403 to R406, R435, R442, R457, R458, R470, R481, Table 15.14). Log entry 31. -/

namespace Sys2Proof.Machine

/-! ### Who may issue, and what is refused (R403, R404, R430) -/

/-- The paths that may issue a command: every one but a VF's; each of the sideband and the diagnostic endpoint where Table 15.14 marks it. The
diagnostic endpoint needs its session (R414). -/
def State.mayIssue (s : State) (path : Path) (i d : Bool) : Bool :=
  match path with
  | .pf => true
  | .sideband => i
  | .diag => d && s.diag
  | .vf _ => false

/-- Answer a write or a request while BUSY is set: it is discarded and counted; a request is answered as busy. -/
def State.mailboxBusy (s : State) (path : Path) : State :=
  let s := s.bump F.mbxDiscardMbxDiscard
  match path with
  | .pf => s
  | p => s.emit (.busy p)

/-- Commands that the failed state still runs (R430): GET_INFO, FUSE_READ, DUMP_FETCH. -/
def runsFailed (code : Nat) : Bool := code == 0x01 || code == 0x07 || code == 0x0B

/-- Start a mailbox command (steps 1 to 3): refused as busy, completed with FENCED in the failed state, else run by `k`. -/
def State.issue (s : State) (path : Path) (i d : Bool) (code : Nat) (k : State → Mbx × State) : State :=
  if s.deaf || !s.mayIssue path i d then s
  else if s.mbx.isSome then s.mailboxBusy path
  else if s.failed && !runsFailed code then { s with mbx := some ⟨code, path, .fenced, [], 0, true, none⟩ }
  else let (m, s) := k s; { s with mbx := some m }

/-- A command whose work is done at once. -/
def done (code : Nat) (path : Path) (st : Status) (result : Bytes := []) (arg : Nat := 0) : Mbx := ⟨code, path, st, result, arg, true, none⟩

/-- Any context is enabled, faulted or tearing down. -/
def State.anyContext (s : State) : Bool := (List.range 1024).any (fun i => s.flag F.hiuCtxCtlEnable i)

/-! ### The commands (Table 15.14) -/

/-- GET_INFO. -/
def takeGetInfo (path : Path) (s : State) : Host.Outcome State Fault Refusal :=
  .next (s.issue path true true 0x01 (fun s => (done 0x01 path .ok s.infoRecord, s)))

/-- LOAD_PLAN. -/
def takeLoadPlan (path : Path) (plan : Bytes) (s : State) : Host.Outcome State Fault Refusal :=
  .next (s.issue path true true 0x02 (fun s => let (st, s) := s.loadPlan plan; (done 0x02 path st, s)))

/-- A component record of an image header, its number from 0 (Table 17.2). -/
def componentOk (img : Bytes) (j : Nat) : Bool :=
  let o := 64 + 96 * j
  field img o 1 == j + 1 && zeroAt img (o + 1) 7 && field img (o + 8) 8 % 4096 == 0 && decide (5709 ≤ field img (o + 8) 8) && zeroAt img (o + 24) 8 &&
  decide (field img (o + 8) 8 + field img (o + 16) 8 ≤ field img 16 8) &&
  (j == 0 || decide (field img (o - 88) 8 + field img (o - 80) 8 ≤ field img (o + 8) 8))

/-- The header of an image is well formed (Table 17.2). -/
def imageWellFormed (img : Bytes) : Bool :=
  field img 0 2 == 1 && field img 2 2 == 4 && decide (field img 8 8 ≤ 64) && decide (field img 16 8 ≤ 31 * 2 ^ 20) && img.length == field img 16 8 &&
  zeroAt img 24 40 && (List.range 4).all (componentOk img)

/-- What an image in flash is, as the boot chain will find it. -/
def imageOf (img : Bytes) : Image :=
  let digest := fun (j : Nat) => slice img (64 + 96 * j + 32) 64
  let body := fun (j : Nat) => slice img (field img (64 + 96 * j + 8) 8) (field img (64 + 96 * j + 16) 8)
  ⟨field img 4 4, field img 8 8, (List.range 4).map digest, (List.range 4).map (fun j => shake256 (body j) == digest j),
   shake256 (slice img 448 1952) == Config.fwKeyDigest, Config.mldsaVerify (slice img 448 1952) "DRUHAL-FW" (slice img 0 2400) (slice img 2400 3309)⟩

/-- The status of an FW_UPDATE (R442). -/
def State.imageStatus (s : State) (img : Bytes) : Status :=
  if !imageWellFormed img then .descInvalid
  else
    let m := imageOf img
    if !m.signer || !m.signature || decide (m.svn < s.boot.rollback) then .accessViolation
    else .ok

/-- The boot state with a slot's image set. -/
def Boot.setSlot (b : Boot) (n : Nat) (m : Option Image) : Boot := if n = 0 then { b with slotA := m } else { b with slotB := m }

/-- FW_UPDATE: the slot that is not running is emptied; a verified image is written there when the command completes. Over the sideband it is PLDM (R404). -/
def takeFwUpdate (path : Path) (image : Bytes) (s : State) : Host.Outcome State Fault Refusal :=
  .next (s.issue path true true 0x03 (fun s =>
    let st := s.imageStatus image
    let s := { s with boot := s.boot.setSlot (1 - s.boot.running) none }
    (⟨0x03, path, st, [], 0, true, if st = .ok then some (imageOf image) else none⟩, s)))

/-- FW_ACTIVATE: the slot for the next warm reset; naming the running slot commits it, so the anti-rollback value rises to its security version. -/
def takeFwActivate (path : Path) (arg : Byte) (s : State) : Host.Outcome State Fault Refusal :=
  .next (s.issue path true true 0x04 (fun s =>
    let n := arg.toNat
    let b := s.boot
    if 1 < n ∨ (b.slot n).isNone then (done 0x04 path .descInvalid, s)
    else
      let b := b.select n
      let b := if n = b.running then { b with rollback := min 64 (max b.rollback b.image.svn) } else b
      (done 0x04 path .ok, { s with boot := b })))

/-- HBM_RETRAIN: the stack is diked and retrains; the command completes when its dike lifts. -/
def takeHbmRetrain (path : Path) (arg : Byte) (s : State) : Host.Outcome State Fault Refusal :=
  .next (s.issue path false true 0x05 (fun s =>
    if 20 ≤ arg.toNat then (done 0x05 path .descInvalid, s)
    else (⟨0x05, path, .ok, [], arg.toNat, false, none⟩, s.dikeStack arg.toNat)))

/-- HBM_TEST: with no context enabled; the stack is left zero with valid codes. -/
def takeHbmTest (path : Path) (arg pattern : Byte) (s : State) : Host.Outcome State Fault Refusal :=
  .next (s.issue path false true 0x06 (fun s =>
    let k := arg.toNat
    if 20 ≤ k ∨ s.anyContext then (done 0x06 path .descInvalid, s)
    else
      let gone := fun (e : Nat × Upset) => stackOf s.key (32 * e.1) == k
      let s := { s with
        hbm := s.hbm.filter (fun c => stackOf s.key c.1 != k), hbmErr := s.hbmErr.filter (fun e => !gone e)
        hbmPassing := s.hbmPassing.filter (fun e => !gone e) }
      (done 0x06 path .ok ((List.range 64).map (Config.hbmTestSummary k pattern.toNat)), s)))

/-- FUSE_READ. -/
def takeFuseRead (path : Path) (s : State) : Host.Outcome State Fault Refusal :=
  .next (s.issue path true true 0x07 (fun s => (done 0x07 path .ok s.fuseRecord, s)))

/-- The current challenge, 32 bytes. -/
def State.challengeBytes (s : State) : Bytes := ((List.range 4).map (fun i => natLe 8 (Config.freeValue (s.boot.challengeAt + i)).toNat)).flatten

/-- A token is valid for a type and a signer's key digest (R457, Table 17.8). -/
def State.tokenValid (s : State) (t : Bytes) (type : Nat) (digest : Bytes) : Bool :=
  let scope := field t 48 8
  t.length == 5325 && field t 0 2 == 1 && field t 2 1 == type && zeroAt t 3 1 && field t 4 4 == 5325 && field t 8 8 == Config.serial &&
  slice t 16 32 == s.challengeBytes && (if type = 1 then scope == 0 else decide (scope < 8)) && zeroAt t 56 8 &&
  shake256 (slice t 64 1952) == digest && Config.mldsaVerify (slice t 64 1952) "DRUHAL-TOKEN" (slice t 0 2016) (slice t 2016 3309)

/-- SEC draws a new challenge after a token that it accepts. -/
def State.newChallenge (s : State) : State := { s with boot := { s.boot with challengeAt := s.free }, free := s.free + 4 }

/-- SEC_OWNER_KEY as bytes. -/
def State.ownerKey (s : State) : Bytes := ((List.range 8).map (fun i => natLe 8 (s.getF F.secOwnerKeyDigest i))).flatten

/-- EXPERT_ENABLE: four zero bytes clear the gate, a valid EXPERT token sets it while OWNER_LOCK is set; the gate changes as the command completes
(R458, R500). Only the PF issues it. -/
def takeExpertEnable (path : Path) (token : Bytes) (s : State) : Host.Outcome State Fault Refusal :=
  .next (s.issue path false false 0x08 (fun s =>
    if token.length == 4 && zeroAt token 0 4 then (done 0x08 path .ok [] 1, s)
    else if s.flag F.secStatusOwnerLock && s.tokenValid token 1 s.ownerKey then
      -- the next challenge is to be drawn
      if s.healthAt.isSome then (⟨0x08, path, .ok, [], 2, false, none⟩, s.holdDraw) else (⟨0x08, path, .ok, [], 2, true, none⟩, s.newChallenge)
    else (done 0x08 path .accessViolation, s)))

/-- POWER_CAP: from 1,500 W to the part's maximum. -/
def takePowerCap (path : Path) (watts : BitVec 32) (s : State) : Host.Outcome State Fault Refusal :=
  .next (s.issue path true false 0x09 (fun s =>
    if watts.toNat < 1500 ∨ maxWatts < watts.toNat then (done 0x09 path .descInvalid, s)
    else (done 0x09 path .ok, s.setF F.pwrCapCapW watts.toNat)))

/-- SERVICE_HOLD: 1 enters a hold and completes when the held stage begins; 0 leaves it. -/
def takeServiceHold (path : Path) (arg : Byte) (s : State) : Host.Outcome State Fault Refusal :=
  .next (s.issue path true true 0x0A (fun s =>
    if arg.toNat = 1 then
      let s := s.enterHold
      (⟨0x0A, path, .ok, [], 1, s.getF F.svcStatusHold == 2, none⟩, s)
    else if arg.toNat = 0 then (done 0x0A path .ok, s.endHold)
    else (done 0x0A path .descInvalid, s)))

/-- DUMP_FETCH. -/
def takeDumpFetch (path : Path) (off len : BitVec 64) (s : State) : Host.Outcome State Fault Refusal :=
  .next (s.issue path true true 0x0B (fun s =>
    match s.dumpBytes off.toNat len.toNat with
    | (.ok bs, s) => (done 0x0B path .ok bs, s)
    | (.error st, s) => (done 0x0B path st, s)))

/-- SELF_TEST: with no context enabled. -/
def takeSelfTest (path : Path) (arg : Byte) (s : State) : Host.Outcome State Fault Refusal :=
  .next (s.issue path false true 0x0C (fun s =>
    if s.anyContext then (done 0x0C path .descInvalid, s)
    else (done 0x0C path .ok ((List.range 256).map (Config.selfTestReport arg.toNat)), s)))

/-- MAILBOX_RESERVED: codes 0x00 and 0x0D to 0xFF complete with DESC_INVALID. -/
def takeMailboxReserved (path : Path) (code : Byte) (s : State) : Host.Outcome State Fault Refusal :=
  if code.toNat ≠ 0 ∧ code.toNat < 0x0D then .next s
  else .next (s.issue path true true code.toNat (fun s => (done code.toNat path .descInvalid, s)))

/-- MAILBOX_BUSY_WRITE: a mailbox write, or a request of the sideband or the diagnostic endpoint, while BUSY is set. -/
def takeMailboxBusyWrite (path : Path) (s : State) : Host.Outcome State Fault Refusal :=
  .next (if s.deaf || s.mbx.isNone || !s.mayIssue path true true then s else s.mailboxBusy path)

/-! ### Completion (R403, R430, R500) -/

/-- The gate opens: every running INVOKE and every open window has seen it (R501). -/
def State.seenExpert (s : State) : State :=
  { s with ctxs := s.ctxs.map (fun (p : Nat × CtxSt) => (p.1, { p.2 with
      inv := p.2.inv.map (fun v => { v with expertSeen := true }), window := { p.2.window with expertSeen := true } })) }

/-- Set or clear GLB_EXPERT. -/
def State.setExpert (s : State) (v : Bool) : State :=
  let s := s.setF F.glbExpertExpert (b2n v)
  if v then (s.setF F.glbExpertSinceReset 1).seenExpert else s

/-- What a command changes as it completes. -/
def State.mailboxEffect (s : State) (m : Mbx) : State :=
  if m.code = 0x08 ∧ m.arg = 1 then s.setExpert false
  else if m.code = 0x08 ∧ m.arg = 2 then s.setExpert true
  else match m.image with
    | some i => { s with boot := s.boot.setSlot (1 - s.boot.running) (some i) }
    | none => s

/-- MAILBOX_COMPLETE: the running command's work is done; a result longer than MBX_LEN completes with DESC_INVALID and writes nothing. -/
def execMailboxComplete (s : State) : Host.Outcome State Fault Refusal :=
  match s.mbx with
  | none => .next s
  | some m =>
    if s.failed && !runsFailed m.code then .next (s.finishMbx m .fenced [])
    else if !m.ready then .next s
    else if m.path = .pf ∧ s.getF F.mbxLenMbxLen < m.result.length then .next (s.finishMbx m .descInvalid [])
    else .next ((s.mailboxEffect m).finishMbx m m.status m.result)

end Sys2Proof.Machine
end

