-- ==== Sys2Proof/Machine/Security.lean ====
section
/-! DEFINITION. Attestation over SPDM, IDE keys, platform monitoring, the debug token, health tests, the owner lock and the debug page
(R415, R445 to R447, R452, R457, R459, R460, R503). Log entry 32. -/

namespace Sys2Proof.Machine

/-- OWNER_LOCK: a write of 1 locks SEC_OWNER_KEY and SEC_SWITCH_ROOT; by the PF or the sideband (R460, R494). -/
def takeOwnerLock (path : Path) (s : State) : Host.Outcome State Fault Refusal :=
  if s.deaf || !(path == .pf || path == .sideband) then .next s else .next (s.setF F.secStatusOwnerLock 1)

/-! ### SPDM (R446, R447) -/

/-- An endpoint's key in the table of endpoints. -/
def epKey : SpdmEp → Nat
  | .pcie => 0
  | .sideband => 1
  | .diag => 2

/-- An endpoint as it stands before any request. -/
def Spdm.fresh : Spdm := ⟨0, false, false⟩

/-- An endpoint. -/
def State.endpoint (s : State) (ep : SpdmEp) : Spdm := s.spdm.get .fresh (epKey ep)

/-- The state with an endpoint replaced. -/
def State.setEndpoint (s : State) (ep : SpdmEp) (x : Spdm) : State := { s with spdm := s.spdm.put (epKey ep) x }

/-- Measurement blocks 1 to 8 (Table 17.5). -/
def State.measurementBlocks (s : State) : List Bytes :=
  let img := s.boot.image
  [img.measurement] ++ (List.range 4).map (fun j => slice (img.digests.getD j []) 0 64) ++
  [(match s.plan with | some p => slice p.digest 0 64 | none => zeros 64),
   natLe 1 (b2n s.expert + 2 * b2n s.boot.dbgScope.isSome + 4 * b2n s.boot.armed.isSome + 8 * s.boot.running),
   natLe 8 s.boot.rollback]

/-- Answer a request on an endpoint: the response is the standard's function of the request and of what the device puts into it (log entry 7). -/
def State.respond (s : State) (ep : SpdmEp) (code : Nat) (msg content : Bytes) : State := s.emit (.spdm ep (Config.spdmResponse code (msg ++ content)))

/-- The endpoint answers: the device has booted, and the diagnostic endpoint is open. -/
def State.spdmOpen (s : State) (ep : SpdmEp) : Bool := !s.deaf && (ep != .diag || s.flag F.ethDiagEnable)

/-- Run a request that needs a stage of the negotiation; one out of order gets the standard's error response. -/
def State.request3 (s : State) (ep : SpdmEp) (stage : Nat) (msg : Bytes) (k : Spdm → State → State) : State :=
  if !s.spdmOpen ep then s
  else
    let x := s.endpoint ep
    if x.stage < stage then s.respond ep 0x7F msg [] else k x s

/-- The response needs a random draw: SEC holds it while a health test has failed (R445). -/
def State.drawn (s : State) (k : Bytes → State → State) : State :=
  if s.healthAt.isSome then s.holdDraw else let (r, s) := s.draw; k (natLe 8 r.toNat) s

/-- Param1 and Param2 of a request: its bytes 2 and 3, as SPDM has them (log entry 32). -/
def spdmParam (msg : Bytes) (k : Nat) : Nat := field msg (1 + k) 1

/-- The one set of algorithms of R446: signatures, key exchange, base hash, secured messages. -/
def spdmAlgorithms : List String := ["ML-DSA-65", "ML-KEM-768", "SHA3-512", "AES-256-GCM"]

/-- A request's signature by the alias key, over what the response says and the request: the draws of the nonce and of the signature come with it (R447). -/
def State.aliasSigned (s : State) (context : String) (signed : Bytes) : Bytes × State :=
  let (r, s) := s.draw
  (slice (Config.mldsaSign (Config.freeValue s.boot.aliasAt).toNat context signed r.toNat) 0 3309, s)

/-- GET_VERSION: the negotiation starts again, and a session on the endpoint is gone. -/
def execGetVersion (ep : SpdmEp) (msg : Bytes) (s : State) : Host.Outcome State Fault Refusal :=
  .next (s.request3 ep 0 msg (fun _ s => (s.setEndpoint ep ⟨1, false, false⟩).respond ep 0x84 msg []))

/-- GET_CAPABILITIES. -/
def execGetCapabilities (ep : SpdmEp) (msg : Bytes) (s : State) : Host.Outcome State Fault Refusal :=
  .next (s.request3 ep 1 msg (fun x s => (s.setEndpoint ep { x with stage := max x.stage 2 }).respond ep 0xE1 msg []))

/-- NEGOTIATE_ALGORITHMS: the one supported set is selected where the request offers all of it; any other request gets the standard's error response. -/
def execNegotiateAlgorithms (ep : SpdmEp) (msg : Bytes) (s : State) : Host.Outcome State Fault Refusal :=
  .next (s.request3 ep 2 msg (fun x s =>
    if spdmAlgorithms.all (Config.spdmOffers msg) then (s.setEndpoint ep { x with stage := 3 }).respond ep 0xE3 msg (ascii (String.intercalate "," spdmAlgorithms))
    else s.respond ep 0x7F msg []))

/-- GET_DIGESTS: the digest of the chain in slot 0. -/
def execGetDigests (ep : SpdmEp) (msg : Bytes) (s : State) : Host.Outcome State Fault Refusal :=
  .next (s.request3 ep 3 msg (fun _ s => s.respond ep 0x81 msg s.boot.chain))

/-- GET_CERTIFICATE: the chain of R444, which ends in the alias certificate, from slot 0; no other slot is provisioned (R446). -/
def execGetCertificate (ep : SpdmEp) (msg : Bytes) (s : State) : Host.Outcome State Fault Refusal :=
  .next (s.request3 ep 3 msg (fun _ s => if spdmParam msg 1 % 16 = 0 then s.respond ep 0x82 msg s.boot.chain else s.respond ep 0x7F msg []))

/-- CHALLENGE of slot 0: a nonce, the measurements and a signature of the alias key over them and the request. -/
def execChallenge (ep : SpdmEp) (msg : Bytes) (s : State) : Host.Outcome State Fault Refusal :=
  .next (s.request3 ep 3 msg (fun _ s =>
    if spdmParam msg 1 % 16 ≠ 0 then s.respond ep 0x7F msg [] else s.drawn (fun r s =>
      let content := r ++ s.measurementBlocks.flatten
      let (sig, s) := s.aliasSigned "responder-challenge_auth signing" (msg ++ content)
      s.respond ep 0x83 msg (content ++ sig))))

/-- GET_MEASUREMENTS: the blocks of Table 17.5; with a nonce, and signed with the alias key, where Param1 bit 0 asks for a signature (R447). -/
def execGetMeasurements (ep : SpdmEp) (msg : Bytes) (s : State) : Host.Outcome State Fault Refusal :=
  .next (s.request3 ep 3 msg (fun _ s =>
    if !bit (spdmParam msg 1) 0 then s.respond ep 0xE0 msg s.measurementBlocks.flatten else s.drawn (fun r s =>
      let content := s.measurementBlocks.flatten ++ r
      let (sig, s) := s.aliasSigned "responder-measurements signing" (msg ++ content)
      s.respond ep 0xE0 msg (content ++ sig))))

/-- ETH_DIAG_KEY as bytes. -/
def State.diagKey (s : State) : Bytes := ((List.range 8).map (fun i => natLe 8 (s.getF F.ethDiagKeyDigest i))).flatten

/-- KEY_EXCHANGE with slot 0, Param2 of the request: a secured session begins to be set up. The response says whether the requester must prove itself: on the
diagnostic endpoint it must (R446). -/
def execKeyExchange (ep : SpdmEp) (msg : Bytes) (s : State) : Host.Outcome State Fault Refusal :=
  .next (s.request3 ep 3 msg (fun x s =>
    if spdmParam msg 2 % 16 ≠ 0 then s.respond ep 0x7F msg [] else s.drawn (fun r s =>
      (s.setEndpoint ep { x with exchange := true }).respond ep 0xE4 msg (natLe 1 (b2n (ep == .diag)) ++ r))))

/-- FINISH: the session is set up; on the diagnostic endpoint only for a requester whose proof ends at the key of ETH_DIAG_KEY (R414, R446). -/
def execFinish (ep : SpdmEp) (msg : Bytes) (s : State) : Host.Outcome State Fault Refusal :=
  .next (s.request3 ep 3 msg (fun x s =>
    if x.exchange && (ep != .diag || Config.spdmProves msg s.diagKey) then
      (s.setEndpoint ep { x with exchange := false, session := true }).respond ep 0xE5 msg []
    else s.respond ep 0x7F msg []))

/-- END_SESSION: the session closes; that of the diagnostic endpoint is its one session (R414). -/
def execEndSession (ep : SpdmEp) (msg : Bytes) (s : State) : Host.Outcome State Fault Refusal :=
  .next (s.request3 ep 3 msg (fun x s =>
    if x.session then
      let s := if ep == .diag then { s with diag := false } else s
      (s.setEndpoint ep { x with session := false }).respond ep 0xEC msg []
    else s.respond ep 0x7F msg []))

/-- The stream an IDE_KM message names, byte 3 of it, and the key sub-stream, byte 5 (log entry 32). -/
def ideStream (msg : Bytes) : Nat := field msg 3 1

/-- An IDE stream as it stands without keys. -/
def IdeStream.fresh : IdeStream := ⟨[], false⟩

/-- What an IDE_KM message does to its stream, by the object number in byte 0: 2 programs a key, 4 turns the stream on once it holds a key, 5 turns it off;
0 asks and changes nothing; the standard has no other request (R452, log entry 32). -/
def IdeStream.take (x : IdeStream) (msg : Bytes) : Option IdeStream :=
  match field msg 0 1 with
  | 0 => some x
  | 2 => if msg.length = 47 then some { x with keys := x.keys.put (field msg 5 1) (slice msg 7 40) } else none
  | 4 => if x.keys.isEmpty then none else some { x with on := true }
  | 5 => some { x with on := false }
  | _ => none

/-- IDE is on: some stream encrypts the PCI Express link. -/
def State.ideOn (s : State) : Bool := s.ide.any (fun p => p.2.on)

/-- IDE_KM: key messages over a secured session on the PF's DOE mailbox, for the one link stream and the eight selective ones (R452, Table 15.1). -/
def execIdeKm (ep : SpdmEp) (msg : Bytes) (s : State) : Host.Outcome State Fault Refusal :=
  .next (s.request3 ep 3 msg (fun x s =>
    if ep == .pcie && x.session && decide (ideStream msg < Config.ideStreams) then
      match (s.ide.get .fresh (ideStream msg)).take msg with
      | some y => { s with ide := s.ide.put (ideStream msg) y }.respond ep 0xFE msg []
      | none => s.respond ep 0x7F msg []
    else s.respond ep 0x7F msg []))

/-- PLDM_MONITOR: input voltage, current and power, die and stack temperatures (R415). -/
def execPldmMonitor (req : Bytes) (s : State) : Host.Outcome State Fault Refusal :=
  if s.deaf then .next s
  else
    let t := s.view .pwrTherm 0
    .next (s.emit (.pldm (req ++ natLe 2 (s.getF F.pwrInputVin) ++ natLe 2 (s.getF F.pwrInputIin) ++ natLe 2 (s.getF F.pwrInputPin) ++
      natLe 1 (bits t F.pwrThermDieMax.hi F.pwrThermDieMax.lo) ++ natLe 1 (bits t F.pwrThermStackMax.hi F.pwrThermStackMax.lo))))

/-! ### Debug token and health tests (R445, R459) -/

/-- DEBUG_TOKEN: a valid token arms debug with its SCOPE for the next device warm reset. -/
def execDebugToken (token : Bytes) (s : State) : Host.Outcome State Fault Refusal :=
  if s.deaf || !s.flag F.secStatusJtagAllow || Config.dbgFused || !s.tokenValid token 2 Config.debugAuthority then .next s
  else if s.healthAt.isSome then .next s.holdDraw
  else
    let s := s.newChallenge
    .next { s with boot := { s.boot with armed := some (field token 48 8) } }

/-- An instruction of the JTAG port's test access point (R459). -/
inductive Tap where
  | bypass
  | idcode
  | samplePreload
  | auth
  | extest
  | debug
  deriving DecidableEq, Repr

/-- IDCODE of the device (R459). -/
def tapIdcode : BitVec 32 := 0x1D100A3F

/-- The test access point offers an instruction: EXTEST from a cold reset until the first plan is loaded, or under SCOPE bit 2; JTAG debug under SCOPE bit 0;
the rest always (R459, Table 17.8). -/
def State.tapOffers (s : State) (t : Tap) : Bool :=
  match t with
  | .bypass | .idcode | .samplePreload | .auth => true
  | .extest => s.plan.isNone || s.boot.dbgScope.any (fun x => bit x 2)
  | .debug => s.boot.dbgScope.any (fun x => bit x 0)

/-- HEALTH_TEST_FAIL: from now on SEC holds every draw. -/
def execHealthTestFail (s : State) : Host.Outcome State Fault Refusal :=
  if s.deaf || s.healthAt.isSome then .next s else .next { s with healthAt := some s.time }

/-- DRAW_HELD_TIMEOUT: a draw has been held for longer than 10 ms. -/
def execDrawHeldTimeout (s : State) : Host.Outcome State Fault Refusal :=
  if s.healthAt.isSome && s.passed s.heldDraw 10000000 then .next (s.fatal 1) else .next s

/-! ### The debug page (R503) -/

/-- A scratchpad row as it stands in the array: each codeword's 32 data bytes and 4 check bytes, with the errors that struck it. -/
def CoreSt.rawRow (c : CoreSt) (row : Nat) : Bytes :=
  ((List.range 8).map (fun j =>
    let data := c.spm.readN (row * 256 + 32 * j) 32
    upsetBytes (data ++ (rsCheck 4 data).map (fun b => BitVec.ofNat 8 b)) (c.errs (row * 8 + j)))).flatten

/-- Write a row raw: the data as given, and as errors whatever the check bytes differ by from its code. -/
def CoreSt.putRaw (c : CoreSt) (row : Nat) (raw : Bytes) : CoreSt :=
  (List.range 8).foldl (fun (c : CoreSt) j =>
    let data := slice raw (36 * j) 32
    let check := slice raw (36 * j + 32) 4
    let off := ((rsCheck 4 data).zip check).zipIdx.map (fun x => (32 + x.2, x.1.1 ^^^ x.1.2.toNat))
    let off := off.filter (fun e => e.2 != 0)
    let k := row * 8 + j
    { c with spm := c.spm.writeN (row * 256 + 32 * j) data, spmErr := if off.isEmpty then c.spmErr.del k else c.spmErr.put k off }) c

/-- An access to the debug page by a path that reaches it; while it does not respond the access is counted as unmapped. -/
def State.onDebugPage (s : State) (path : Path) (k : State → State) : State :=
  if s.deaf then s else if !s.debugPage then s.bump F.glbAccessUnmapped else if path != .pf then s else k s

/-- DBG_SPM_SEL: the selected row is read raw, without decoding. -/
def takeDbgSpmSel (path : Path) (w : BitVec 32) (s : State) : Host.Outcome State Fault Refusal :=
  .next (s.onDebugPage path (fun s =>
    let core := bits w.toNat 23 16
    let row := bits w.toNat 13 0
    if 191 < core ∨ 12287 < row then s
    else
      let s := (s.setF F.dbgSpmSelCore core).setF F.dbgSpmSelRow row
      s.setReg .dbgSpmRow 0 (leNat ((s.core core).rawRow row))))

/-- DBG_SPM_ROW: with its last word the row is written back raw. -/
def takeDbgSpmRow (path : Path) (row : Bytes) (s : State) : Host.Outcome State Fault Refusal :=
  .next (s.onDebugPage path (fun s =>
    let raw := slice row 0 288
    let core := s.getF F.dbgSpmSelCore
    (s.setReg .dbgSpmRow 0 (leNat raw)).setCore core ((s.core core).putRaw (s.getF F.dbgSpmSelRow) raw)))

end Sys2Proof.Machine
end

