-- ==== Sys2Proof/Machine/RegWrite.lean ====
section
/-! DEFINITION. Register writes: widths, halves and staged words, the paths, diked pages, access types, the expert gate, and the fields that act
(R436, R490 to R503). Log entry 33. -/

namespace Sys2Proof.Machine

/-! ### Where an offset lies (R490, R497) -/

/-- A place in the register map: a register, its entry as the store numbers it, the byte within it. -/
structure RegPlace where
  reg : Reg
  inst : Nat
  entry : Nat
  byte : Nat
  deriving DecidableEq, Repr

/-- Index of an entry in the register store. -/
def RegPlace.index (p : RegPlace) : Nat := p.inst * p.reg.info.entries + p.entry

/-- The place of a BAR0 offset; none where no register lies. -/
def findReg (off : Nat) : Option RegPlace :=
  match Page.all.find? (fun p => let (base, n, stride, size) := p.place; decide (base ≤ off) && decide (off < base + (n - 1) * stride + size)) with
  | none => none
  | some p =>
    let (base, _, stride, _) := p.place
    let inst := if stride = 0 then 0 else (off - base) / stride
    let o := if stride = 0 then off - base else (off - base) % stride
    Reg.all.findSome? (fun r =>
      let x := r.info
      if x.page ≠ p ∨ o < x.off then none
      else
        let e := if x.stride = 0 then 0 else (o - x.off) / x.stride
        let b := if x.stride = 0 then o - x.off else (o - x.off) % x.stride
        if e < x.entries ∧ b < x.width / 8 then some ⟨r, inst, e, b⟩ else none)

/-! ### Field values (Tables 16.16, 18.13, 18.15 and the tables of each block) -/

/-- The value a field takes when it is written, none when the write leaves it unchanged because the value is out of range (R436, R501). The second rule
of R428 is checked apart. -/
def State.inRange (s : State) (f : Fld) (v : Nat) : Option Nat :=
  let within := fun (lo hi : Nat) => if lo ≤ v ∧ v ≤ hi then some v else none
  let timeout := fun (lo hi : Nat) => if v = 0 then some f.reset else within lo hi
  if f = F.tmoDikeDikeMs then timeout 1 1000
  else if f = F.tmoSluiceSluiceMs then timeout 1 10000
  else if f = F.tmoTideBreakTideBreakUs then timeout 100 1000000
  else if f = F.tmoProgressProgressMs then timeout 10 60000
  else if f = F.tmoSeqSeqMs then timeout 1 1000
  else if f = F.tmoBarrierBarrierMs then timeout 1 60000
  else if f = F.tmoLinkRspLinkRspMs then timeout 2 10000
  else if f = F.tmoHbHbS then timeout 1 600
  else if f = F.ckuCtxCfgKappa then within 1 64
  else if f = F.spmDredgeInterval then within 16 65535
  else if f = F.hscScrubPeriod then within 1 168
  else if f = F.weirSlewSlew then within 25 400
  else if f = F.clkCoreFixMhz then (if 500 ≤ v ∧ v ≤ maxMhz ∧ v % 25 = 0 then some v else none)
  else some v

/-- The link response timeout must stay above the dike timeout (R428). -/
def State.breaks428 (s : State) (f : Fld) (v : Nat) : Bool :=
  (f == F.tmoDikeDikeMs && decide (s.getF F.tmoLinkRspLinkRspMs ≤ v)) || (f == F.tmoLinkRspLinkRspMs && decide (v ≤ s.getF F.tmoDikeDikeMs))

/-- Write one field of entry `i` with the value `x`; `ones` are the bits of it written as 1. Answers whether the expert gate refused it. -/
def State.writeField (s : State) (f : Fld) (i x ones : Nat) : Bool × State :=
  match f.acc with
  | .rw =>
    match s.inRange f x with
    | some y => (false, s.setF f y i)
    | none => (false, s)
  | .rwx =>
    match s.inRange f x with
    | none => (false, s)
    | some y => if !s.expert then (true, s) else if s.breaks428 f y then (false, s) else (false, s.setF f y i)
  | .w1c => (false, s.setF f (s.getF f i - (s.getF f i &&& ones)) i)
  | .ro => (false, s)
  | .wo => (false, s)
  | .w1s => (false, s)

/-- Write the bits under a mask of entry `i` of a register: each field the mask reaches. Answers whether the expert gate refused one of them. -/
def State.writeFields (s : State) (r : Reg) (i mask v : Nat) : Bool × State :=
  let old := s.reg r i
  let w := old ^^^ ((old ^^^ v) &&& mask)
  r.fields.foldl (fun (acc : Bool × State) f =>
    if maskOf f.hi f.lo &&& mask = 0 then acc
    else
      let (d, s) := acc.2.writeField f i (bits w f.hi f.lo) (bits (v &&& mask) f.hi f.lo)
      (acc.1 || d, s)) (false, s)

/-! ### Fields that act -/

/-- The state after a command of this model that a register write stands for. -/
def State.after1 (s : State) (o : Host.Outcome State Fault Refusal) : State :=
  match o with
  | .next t => t
  | .fault _ => s
  | .refused _ => s

/-- A write has no effect on these words while a lock or an enable holds (R369, R377, R387, R403, R414, R454, R460). -/
def State.wordHeld (s : State) (r : Reg) (i : Nat) : Bool :=
  match r with
  | .hiuSqBase => s.flag F.hiuCtxCtlEnable i
  | .hiuCqBase => s.flag F.hiuCtxCtlEnable i
  | .hiuAuditBase => s.flag F.hiuCtxCtlEnable i
  | .hiuAuditWb => s.ctxState i == 3
  | .secCtxCfg => s.flag F.hiuCtxCtlEnable i
  | .topoCtxBlock => (s.ctx i).inv.isSome
  | .topoPlanKey => s.flag F.topoPlanStatusKeyLock
  | .secOwnerKey => s.flag F.secStatusOwnerLock
  | .secSwitchRoot => s.flag F.secStatusOwnerLock
  | .ethDiagKey => s.diag
  | _ => false

/-- What the bits of a write do beside setting fields; `w` are the bits written as 1. -/
def State.act (s : State) (path : Path) (r : Reg) (i w : Nat) : State :=
  match r with
  | .coreReset => if bit w 31 then s.after1 (takeCoreReset path (Fin.ofNat 192 i) s) else s
  | .lnkCtl => if bit w 0 then s.after1 (takePortReset path (Fin.ofNat 8 i) s) else s
  | .hscStackCtl => if bit w 31 then s.after1 (takeStackReset path (Fin.ofNat 20 i) s) else s
  | .cxsCtxState => if bit w 31 then s.after1 (takeResume (Fin.ofNat 1024 i) s) else s
  | .hscPtInval => if bit w 10 then s.invalidate none else s.invalidate (some (bits w 9 0))
  | .lnkTimeCtl => if bit w 6 then (if bit w 7 then s.after1 (takeResyncStep path s) else s.after1 (takeResync path s)) else if bit w 7 then s.noteStep else s
  | .mpReset =>
    if bit w 31 then (if bit w 30 then s.after1 (takeWarmResetDump path s) else s.after1 (takeWarmReset path s)) else if bit w 30 then s.setF F.mpResetDump 1 else s
  | .secStatus => if bit w 3 then s.after1 (takeOwnerLock path s) else s
  | .topoPlanStatus => if bit w 24 then s.after1 (takeKeyLock path s) else s
  | .tmoHb => if s.flag F.tmoHbHbEn then (if bit w 31 then { s with hbAt := some s.time } else s) else { s with hbAt := none }
  | .ethDiag => if s.flag F.ethDiagEnable then s else { s with diag := false }
  -- the cycles of a stall under way are counted from the write on
  | .ckuAuditStall => { s with stallAt := s.stallAt.map (fun _ => s.time) }
  | _ => s

/-- A write of the whole word of a register whose fields act together. -/
def State.writeWhole (s : State) (path : Path) (r : Reg) (i w : Nat) : Option State :=
  match r with
  | .hiuCtxCtl => some (s.writeCtl i w (fun s => s.tearDown i .cancelled))
  | .hiuVfRange => some (s.after1 (takeVfRangeWrite (Fin.ofNat 31 i) (BitVec.ofNat 32 w) s))
  | .ethTgt => some (s.after1 (takeTgtConnect path (Fin.ofNat 32 i) (BitVec.ofNat 512 w) s))
  | .secTgtKey => some (s.after1 (takeTgtKeyWrite path (Fin.ofNat 32 i) (natLe 36 w) s))
  | .dbgSpmSel => some (s.after1 (takeDbgSpmSel path (BitVec.ofNat 32 w) s))
  | .dbgSpmRow => some (s.after1 (takeDbgSpmRow path (natLe 288 w) s))
  | _ => none

/-- Mailbox registers that BUSY closes (R403). -/
def Reg.closedByBusy (r : Reg) : Bool := r == .mbxCmd || r == .mbxBuf || r == .mbxLen || r == .mbxVec || r == .mbxDumpBuf

/-- A write takes effect on entry `i` of a register, under a mask. Answers the count that the gate's refusal of a field adds to (R501). -/
def State.takeWrite (s : State) (path : Path) (r : Reg) (i mask v : Nat) : Option Fld × State :=
  if r.closedByBusy && s.mbx.isSome then (none, s.mailboxBusy path)
  else if s.wordHeld r i then (none, s)
  else
    let old := s.reg r i
    match s.writeWhole path r i (old ^^^ ((old ^^^ v) &&& mask)) with
    | some t => (none, t)
    | none =>
      let (denied, t) := s.writeFields r i mask v
      (if denied then some F.glbExpertDenied else none, t.act path r i (v &&& mask))

/-! ### Refusals by page and path (R494 to R496) -/

/-- Domain's own RESET bit is written. -/
def resetBit (r : Reg) (mask v : Nat) : Bool :=
  (r == .coreReset && bit (v &&& mask) 31) || (r == .lnkCtl && bit (v &&& mask) 0) || (r == .hscStackCtl && bit (v &&& mask) 31)

/-- The page of a register belongs to a domain that is diked or resetting. -/
def State.pageDiked (s : State) (p : RegPlace) : Bool :=
  match p.reg.info.page with
  | .core => s.failed || (s.core p.inst).rst != 0
  | .lnkp => s.failed || (s.port p.inst).diked
  | .hscs => s.failed || (s.hsc p.inst).state != 0
  | .hiu => s.failed || (if p.reg.info.entries = 1024 then s.funcDiked (s.getF F.hiuCtxCtlFunc p.entry) else s.funcDiked 0)
  | _ => false

/-- Bits of a register that the sideband may write (R494). -/
def Reg.sidebandMask (r : Reg) : Nat :=
  match r with
  | .topoPlanKey => maskOf 63 0
  | .ethDiagKey => maskOf 63 0
  | .secOwnerKey => maskOf 63 0
  | .secSwitchRoot => maskOf 63 0
  | .topoPlanStatus => maskOf 24 24
  | .secStatus => maskOf 3 3
  | _ => 0

/-- A write reaches a register by a path. Answers the count that it adds to, if it is turned away or a field of it is. -/
def State.reach1 (s : State) (path : Path) (p : RegPlace) (mask v : Nat) : Option Fld × State :=
  let r := p.reg
  let i := p.index
  let ctxBlock := r.info.page == .hiu && r.info.entries == 1024
  match path with
  | .diag => (none, s)
  | .sideband =>
    let m := mask &&& r.sidebandMask
    if r.info.page = .dbg ∧ !s.debugPage then (some F.glbAccessUnmapped, s)
    else if m = 0 then (none, s) else s.takeWrite path r i m v
  | .pf =>
    if r.info.page = .dbg ∧ !s.debugPage then (some F.glbAccessUnmapped, s)
    else if s.pageDiked p then (if resetBit r mask v then (none, s.act path r i (v &&& mask)) else (some F.glbAccessDiked, s))
    else if ctxBlock && s.getF F.hiuCtxCtlFunc i != 0 then (some F.glbAccessVfOwned, s)
    else s.takeWrite path r i mask v
  | .vf _ => if s.pageDiked p then (some F.glbAccessDiked, s) else s.takeWrite path r i mask v

/-- Add one to a count. -/
def State.counted (s : State) (f : Option Fld) : State := match f with
  | some f => s.bump f
  | none => s

/-- A write reaches a register, and is counted where it is to be. -/
def State.reach (s : State) (path : Path) (p : RegPlace) (mask v : Nat) : State := let (f, t) := s.reach1 path p mask v; t.counted f

/-- One 8-byte write reaches two 32-bit registers, the lower first; it is one write, and adds one to a count that both halves call for (R491, R501). -/
def State.reach2 (s : State) (path : Path) (p q : RegPlace) (lo hi : Nat) : State :=
  let (f, t) := s.reach1 path p (2 ^ 32 - 1) lo
  let (g, u) := t.reach1 path q (2 ^ 32 - 1) hi
  (u.counted f).counted (if g = f then none else g)

/-! ### Words, halves and staged words (R491, R492) -/

/-- Number of the highest 64-bit word of a register with a writable field. -/
def Reg.lastWord (r : Reg) : Nat := (r.fields.filter (fun f => f.acc != .ro)).foldl (fun m f => max m (f.hi / 64)) 0

/-- Key of a register entry among staged words. -/
def RegPlace.key (p : RegPlace) : Nat := p.reg.key p.index

/-- A write to a 64-bit word of a register wider than 64 bits is staged; the last writable word lets every staged one take effect. -/
def State.stage (s : State) (p : RegPlace) (mask v : Nat) : State :=
  let word := p.byte / 8
  let kept := s.staged.filter (fun x => !(x.1 == p.key && x.2.1 == word))
  let cur := match s.staged.find? (fun x => x.1 == p.key && x.2.1 == word) with
    | some x => x.2.2
    | none => bits (s.reg p.reg p.index) (64 * word + 63) (64 * word)
  let w := cur ^^^ ((cur ^^^ v) &&& mask)
  if word ≠ p.reg.lastWord then { s with staged := kept ++ [(p.key, word, w)] }
  else
    let mine := kept.filter (fun x => x.1 == p.key) ++ [(p.key, word, w)]
    let s := { s with staged := kept.filter (fun x => x.1 != p.key) }
    let full := mine.foldl (fun m x => m + x.2.2 * 2 ^ (64 * x.2.1)) 0
    let fm := mine.foldl (fun m x => m + maskOf 63 0 * 2 ^ (64 * x.2.1)) 0
    s.reach .pf p fm full

/-- A write to one 64-bit word, under a mask of its bits. Only the PF reaches a register wider than that, and a word of one is staged only where a write may take
effect (R494 to R496, R503). -/
def State.word64 (s : State) (path : Path) (p : RegPlace) (mask v : Nat) : State :=
  if p.reg.info.width ≤ 64 then s.reach path p mask v
  else if path ≠ .pf then (if p.reg.info.page = .dbg ∧ !s.debugPage ∧ path = .sideband then s.bump F.glbAccessUnmapped else s)
  else if p.reg.info.page = .dbg ∧ !s.debugPage then s.bump F.glbAccessUnmapped
  else if s.pageDiked p then s.bump F.glbAccessDiked
  else s.stage p mask v

/-- Low and high halves of a word. -/
def lowMask : Nat := 2 ^ 32 - 1
/-- The upper half of a word. -/
def highMask : Nat := (2 ^ 32 - 1) * 2 ^ 32

/-- A held lower half takes effect alone. -/
def State.flushHalf (s : State) (path : Path) : State :=
  match s.halves.find? (fun h => h.1 == path) with
  | none => s
  | some (_, off, v) =>
    let s := { s with halves := s.halves.filter (fun h => h.1 != path) }
    match findReg off with
    | some p => s.word64 path p lowMask v
    | none => s

/-- A 4-byte write: to a 32-bit register; to the lower half of a word, where it is held; to the upper half, with a half held for it or alone. -/
def State.write4 (s : State) (path : Path) (off v : Nat) : Bool × State :=
  match findReg off with
  | none => (false, s.flushHalf path)
  | some p =>
    if p.reg.info.width = 32 then (true, (s.flushHalf path).reach path p lowMask v)
    else if off % 8 = 0 then
      let s := s.flushHalf path
      (true, { s with halves := s.halves ++ [(path, off, v)] })
    else
      match s.halves.find? (fun h => h.1 == path && h.2.1 + 4 == off) with
      | some h =>
        let s := { s with halves := s.halves.filter (fun h => h.1 != path) }
        (true, s.word64 path { p with byte := p.byte - 4 } (lowMask + highMask) (h.2.2 + v * 2 ^ 32))
      | none => (true, (s.flushHalf path).word64 path { p with byte := p.byte - 4 } highMask (v * 2 ^ 32))

/-- An 8-byte write: to one word, or to two 32-bit registers, the lower first. -/
def State.write8 (s : State) (path : Path) (off v : Nat) : Bool × State :=
  let s := s.flushHalf path
  match findReg off with
  | some p =>
    if 64 ≤ p.reg.info.width then (true, s.word64 path p (lowMask + highMask) v)
    else
      match findReg (off + 4) with
      | some q => (true, s.reach2 path p q (v % 2 ^ 32) (v / 2 ^ 32))
      | none => (true, s.reach path p lowMask (v % 2 ^ 32))
  | none =>
    match findReg (off + 4) with
    | some q => (true, s.reach path q lowMask (v / 2 ^ 32))
    | none => (false, s)

/-- BAR0 offset of an offset in a VF's own BAR0: the blocks of its range; none beyond them (R384, R496). -/
def State.vfOffset (s : State) (vf off : Nat) : Option Nat :=
  let (first, count) := s.vfRange vf
  if off / 64 < count then some (0x50000 + 64 * (first + off / 64) + off % 64) else none

/-! ### Reads (R490, R491, R494, R496, R503) -/

/-- Forget the upper half that a path's last read latched. -/
def State.unlatch (s : State) (path : Path) : State := { s with latch := s.latch.filter (fun h => h.1 != path) }

/-- What a read of a register finds at a byte of its entry, over `n` bits; the debug page counts a read while it does not respond. -/
def State.readPart (s : State) (p : RegPlace) (n : Nat) : Nat × State :=
  let b := p.byte / (n / 8) * n
  (bits (s.view p.reg p.index) (b + n - 1) b, if p.reg.info.page = .dbg ∧ !s.debugPage then s.bump F.glbAccessUnmapped else s)

/-- A 4-byte read: of a 32-bit register; of the lower half of a word, which latches the upper; of the upper half, as latched or as it stands. Answers whether
a register lies there. -/
def State.read4 (s : State) (path : Path) (off : Nat) : Option Nat × State :=
  let t := s.unlatch path
  match findReg off with
  | none => (none, t)
  | some p =>
    match s.latch.find? (fun h => h.1 == path && h.2.1 == off) with
    | some h => (some h.2.2, t)
    | none =>
      let (v, u) := t.readPart p 32
      if 64 ≤ p.reg.info.width ∧ off % 8 = 0 then
        (some v, { u with latch := u.latch ++ [(path, off + 4, (t.readPart { p with byte := p.byte + 4 } 32).1)] })
      else (some v, u)

/-- An 8-byte read: of one word, or of two 32-bit registers; a half where none lies reads zero. -/
def State.read8 (s : State) (path : Path) (off : Nat) : Option Nat × State :=
  let t := s.unlatch path
  match findReg off with
  | some p =>
    if 64 ≤ p.reg.info.width then let (v, u) := t.readPart p 64; (some v, u)
    else
      let (v, u) := t.readPart p 32
      match findReg (off + 4) with
      | some q => (some (v + 2 ^ 32 * (u.readPart q 32).1), u)
      | none => (some v, u)
  | none =>
    match findReg (off + 4) with
    | some q => let (v, u) := t.readPart q 32; (some (2 ^ 32 * v), u)
    | none => (none, t)

/-- A read of BAR0 by a path: all ones while a device warm reset runs, and not counted; a path that has no latch reads 8 bytes at once (R431, R494). The held
half of a write has taken effect before it. -/
def State.barRead (s : State) (path : Path) (off size : Nat) : State :=
  if s.warming then s.emit (.registerData path off size (2 ^ (8 * size) - 1))
  else if s.deaf then s
  else
    let s := s.flushHalf path
    let once := path == .sideband || path == .diag
    if !(size == 8 || (size == 4 && !once)) || off % size != 0 then (((s.unlatch path).bump F.glbAccessBadWidth).emit (.registerData path off size 0))
    else match (if size = 4 then s.read4 path off else s.read8 path off) with
      | (some v, s) => s.emit (.registerData path off size v)
      | (none, s) => (s.bump F.glbAccessUnmapped).emit (.registerData path off size 0)

/-- A read that a path may make: a VF's goes to its range, and reads zero beyond it; the diagnostic endpoint reads through its session (R414, R496). -/
def State.readOf (s : State) (path : Path) (off size : Nat) : State :=
  match path with
  | .vf n => match s.vfOffset n off with
    | some o => s.barRead path o size
    | none => if s.warming then s.emit (.registerData path off size (2 ^ (8 * size) - 1)) else ((s.flushHalf path).unlatch path).emit (.registerData path off size 0)
  | .diag => if s.diag then s.barRead path off size else s
  | p => s.barRead p off size

/-! ### Writes -/

/-- A write of a path that may write. -/
def State.barWrite (s : State) (path : Path) (off size v : Nat) : State :=
  if !(size == 4 || size == 8) || off % size != 0 then (s.flushHalf path).bump F.glbAccessBadWidth
  else
    let (ok, s) := if size = 4 then s.write4 path off (v % 2 ^ 32) else s.write8 path off (v % 2 ^ 64)
    if ok then s else s.bump F.glbAccessUnmapped

/-- A register write of a path: nothing while a warm reset runs; a VF's goes to its range, and is discarded beyond it, once a held half has taken effect. -/
def State.writeOf (s : State) (path : Path) (off size v : Nat) : State :=
  if s.deaf then s else
  match path with
  | .diag => s
  | .vf n =>
    match s.vfOffset n off with
    | some o => (s.unlatch path).barWrite path o size v
    | none => (s.unlatch path).flushHalf path
  | p => (s.unlatch path).barWrite p off size v

/-- REGISTER_WRITE: a write of BAR0, or over the sideband, with the reads that its path makes before it; the diagnostic endpoint only reads (log entry 26). -/
def execRegisterWrite (path : Path) (off : Nat) (size : Nat) (v : Nat) (s : State) (reads : List (Nat × Nat) := []) : Host.Outcome State Fault Refusal :=
  .next ((reads.foldl (fun (s : State) r => s.readOf path r.1 r.2) s).writeOf path off size v)

/-! ### Register writes that have a command of their own

Each is the next access of its path: the latch of a read is gone, and a half that waits for its upper half takes effect first (R491). -/

/-- What the next access of a path finds: no latch and no held half of that path. -/
def State.flushed (s : State) (path : Path) : State := if s.deaf then s else (s.unlatch path).flushHalf path

/-- The path of a function's BAR0. -/
def pathOf (func : Nat) : Path := if func = 0 then .pf else .vf (Fin.ofNat 31 (func - 1))

/-- A whole register is written: the words of it staged before are overwritten with it (R492). -/
def State.unstage (s : State) (r : Reg) (i : Nat) : State := { s with staged := s.staged.filter (fun x => x.1 != r.key i) }

/-- The same, for a path that may write it. -/
def State.unstaged (s : State) (path : Path) (r : Reg) (i : Nat) : State := if s.deaf || path != .pf then s else s.unstage r i

/-- CONTEXT_ENABLE, as the next access of its path. -/
def execContextEnable (ctx : CtxId) (func : FuncId) (w : BitVec 64) (s : State) : Host.Outcome State Fault Refusal := takeContextEnable ctx func w (s.flushed (pathOf func))

/-- CONTEXT_TEARDOWN, as the next access of its path. -/
def execContextTeardown (ctx : CtxId) (s : State) : Host.Outcome State Fault Refusal := takeContextTeardown ctx (s.flushed (pathOf (s.getF F.hiuCtxCtlFunc ctx)))

/-- RESUME, as the next access of its path. -/
def execResume (ctx : CtxId) (s : State) : Host.Outcome State Fault Refusal := takeResume ctx (s.flushed .pf)

/-- VF_RANGE_WRITE, as the next access of its path. -/
def execVfRangeWrite (vf : Fin 31) (w : BitVec 32) (s : State) : Host.Outcome State Fault Refusal := takeVfRangeWrite vf w (s.flushed .pf)

/-- PT_INVAL, as the next access of its path. -/
def execPtInval (ctx : CtxId) (s : State) : Host.Outcome State Fault Refusal := takePtInval ctx (s.flushed .pf)

/-- PT_INVAL_ALL, as the next access of its path. -/
def execPtInvalAll (s : State) : Host.Outcome State Fault Refusal := takePtInvalAll (s.flushed .pf)

/-- GET_INFO, as the next access of its path. -/
def execGetInfo (path : Path) (s : State) : Host.Outcome State Fault Refusal := takeGetInfo path (s.flushed path)

/-- LOAD_PLAN, as the next access of its path. -/
def execLoadPlan (path : Path) (plan : Bytes) (s : State) : Host.Outcome State Fault Refusal := takeLoadPlan path plan (s.flushed path)

/-- FW_UPDATE, as the next access of its path. -/
def execFwUpdate (path : Path) (image : Bytes) (s : State) : Host.Outcome State Fault Refusal := takeFwUpdate path image (s.flushed path)

/-- FW_ACTIVATE, as the next access of its path. -/
def execFwActivate (path : Path) (arg : Byte) (s : State) : Host.Outcome State Fault Refusal := takeFwActivate path arg (s.flushed path)

/-- HBM_RETRAIN, as the next access of its path. -/
def execHbmRetrain (path : Path) (arg : Byte) (s : State) : Host.Outcome State Fault Refusal := takeHbmRetrain path arg (s.flushed path)

/-- HBM_TEST, as the next access of its path. -/
def execHbmTest (path : Path) (arg pattern : Byte) (s : State) : Host.Outcome State Fault Refusal := takeHbmTest path arg pattern (s.flushed path)

/-- FUSE_READ, as the next access of its path. -/
def execFuseRead (path : Path) (s : State) : Host.Outcome State Fault Refusal := takeFuseRead path (s.flushed path)

/-- EXPERT_ENABLE, as the next access of its path. -/
def execExpertEnable (path : Path) (token : Bytes) (s : State) : Host.Outcome State Fault Refusal := takeExpertEnable path token (s.flushed path)

/-- POWER_CAP, as the next access of its path. -/
def execPowerCap (path : Path) (watts : BitVec 32) (s : State) : Host.Outcome State Fault Refusal := takePowerCap path watts (s.flushed path)

/-- SERVICE_HOLD, as the next access of its path. -/
def execServiceHold (path : Path) (arg : Byte) (s : State) : Host.Outcome State Fault Refusal := takeServiceHold path arg (s.flushed path)

/-- DUMP_FETCH, as the next access of its path. -/
def execDumpFetch (path : Path) (off len : BitVec 64) (s : State) : Host.Outcome State Fault Refusal := takeDumpFetch path off len (s.flushed path)

/-- SELF_TEST, as the next access of its path. -/
def execSelfTest (path : Path) (arg : Byte) (s : State) : Host.Outcome State Fault Refusal := takeSelfTest path arg (s.flushed path)

/-- MAILBOX_RESERVED, as the next access of its path. -/
def execMailboxReserved (path : Path) (code : Byte) (s : State) : Host.Outcome State Fault Refusal := takeMailboxReserved path code (s.flushed path)

/-- MAILBOX_BUSY_WRITE, as the next access of its path. -/
def execMailboxBusyWrite (path : Path) (s : State) : Host.Outcome State Fault Refusal := takeMailboxBusyWrite path (s.flushed path)

/-- RESYNC, as the next access of its path. -/
def execResync (path : Path) (s : State) : Host.Outcome State Fault Refusal := takeResync path (s.flushed path)

/-- RESYNC_STEP, as the next access of its path. -/
def execResyncStep (path : Path) (s : State) : Host.Outcome State Fault Refusal := takeResyncStep path (s.flushed path)

/-- KEY_LOCK, as the next access of its path. -/
def execKeyLock (path : Path) (s : State) : Host.Outcome State Fault Refusal := takeKeyLock path (s.flushed path)

/-- OWNER_LOCK, as the next access of its path. -/
def execOwnerLock (path : Path) (s : State) : Host.Outcome State Fault Refusal := takeOwnerLock path (s.flushed path)

/-- TGT_KEY_WRITE, as the next access of its path. -/
def execTgtKeyWrite (path : Path) (t : TargetId) (key : Bytes) (s : State) : Host.Outcome State Fault Refusal := takeTgtKeyWrite path t key ((s.flushed path).unstaged path .secTgtKey t)

/-- TGT_CONNECT, as the next access of its path. -/
def execTgtConnect (path : Path) (t : TargetId) (w : BitVec 512) (s : State) : Host.Outcome State Fault Refusal := takeTgtConnect path t w ((s.flushed path).unstaged path .ethTgt t)

/-- DBG_SPM_SEL, as the next access of its path. -/
def execDbgSpmSel (path : Path) (w : BitVec 32) (s : State) : Host.Outcome State Fault Refusal := takeDbgSpmSel path w (s.flushed path)

/-- DBG_SPM_ROW, as the next access of its path. -/
def execDbgSpmRow (path : Path) (row : Bytes) (s : State) : Host.Outcome State Fault Refusal := takeDbgSpmRow path row ((s.flushed path).unstaged path .dbgSpmRow 0)

/-- HB_EN, as the next access of its path. -/
def execHbEn (path : Path) (s : State) : Host.Outcome State Fault Refusal := takeHbEn path (s.flushed path)

/-- CORE_RESET, as the next access of its path. -/
def execCoreReset (path : Path) (core : CoreId) (s : State) : Host.Outcome State Fault Refusal := takeCoreReset path core (s.flushed path)

/-- PORT_RESET, as the next access of its path. -/
def execPortReset (path : Path) (port : PortId) (s : State) : Host.Outcome State Fault Refusal := takePortReset path port (s.flushed path)

/-- STACK_RESET, as the next access of its path. -/
def execStackReset (path : Path) (stack : StackId) (s : State) : Host.Outcome State Fault Refusal := takeStackReset path stack (s.flushed path)

/-- WARM_RESET, as the next access of its path. -/
def execWarmReset (path : Path) (s : State) : Host.Outcome State Fault Refusal := takeWarmReset path (s.flushed path)

/-- WARM_RESET_DUMP, as the next access of its path. -/
def execWarmResetDump (path : Path) (s : State) : Host.Outcome State Fault Refusal := takeWarmResetDump path (s.flushed path)

end Sys2Proof.Machine
end

