-- ==== Sys2Proof/Machine/Dispatch.lean ====
section
/-! DEFINITION. One arm per command: each calls its own meaning. -/

namespace Sys2Proof.Machine

/-- The effect of a command on everything but the queue. -/
def exec (i : Instr) (s : State) : Host.Outcome State Fault Refusal :=
  match i with
  | .sqTail ctx func v => Sys2Proof.Machine.execSqTail ctx func v s
  | .cqHead ctx func v => Sys2Proof.Machine.execCqHead ctx func v s
  | .auditHead ctx func v => Sys2Proof.Machine.execAuditHead ctx func v s
  | .descriptorFetch ctx ds => Sys2Proof.Machine.execDescriptorFetch ctx ds s
  | .invoke ctx => Sys2Proof.Machine.execInvoke ctx s
  | .invokeBind ctx hits => Sys2Proof.Machine.execInvokeBind ctx s hits
  | .invokeEnd ctx => Sys2Proof.Machine.execInvokeEnd ctx s
  | .copyIn ctx sd => Sys2Proof.Machine.execCopyIn ctx sd s
  | .copyOut ctx sd => Sys2Proof.Machine.execCopyOut ctx sd s
  | .copyBlock ctx host hit => Sys2Proof.Machine.execCopyBlock ctx host hit s
  | .loadShard ctx manifest headers => Sys2Proof.Machine.execLoadShard ctx manifest headers s
  | .shardObjectArrived ctx k obj hit => Sys2Proof.Machine.execShardObjectArrived ctx k obj s hit
  | .tideSwitch ctx => Sys2Proof.Machine.execTideSwitch ctx s
  | .checkpoint ctx list hits => Sys2Proof.Machine.execCheckpoint ctx list s hits
  | .checkpointObjectDone ctx k hits => Sys2Proof.Machine.execCheckpointObjectDone ctx k s hits
  | .fence ctx => Sys2Proof.Machine.execFence ctx s
  | .ledgerClose ctx => Sys2Proof.Machine.execLedgerClose ctx s
  | .cancel ctx => Sys2Proof.Machine.execCancel ctx s
  | .cancelStreamsStopped ctx => Sys2Proof.Machine.execCancelStreamsStopped ctx s
  | .nop ctx => Sys2Proof.Machine.execNop ctx s
  | .contextEnable ctx func w => Sys2Proof.Machine.execContextEnable ctx func w s
  | .contextTeardown ctx => Sys2Proof.Machine.execContextTeardown ctx s
  | .teardownComplete ctx => Sys2Proof.Machine.execTeardownComplete ctx s
  | .teardownTimeout ctx => Sys2Proof.Machine.execTeardownTimeout ctx s
  | .resume ctx => Sys2Proof.Machine.execResume ctx s
  | .vfRangeWrite vf w => Sys2Proof.Machine.execVfRangeWrite vf w s
  | .ptInval ctx => Sys2Proof.Machine.execPtInval ctx s
  | .ptInvalAll => Sys2Proof.Machine.execPtInvalAll s
  | .ptInvalDone => Sys2Proof.Machine.execPtInvalDone s
  | .windowRead off len noise => Sys2Proof.Machine.execWindowRead off len noise s
  | .windowWrite off data noise => Sys2Proof.Machine.execWindowWrite off data noise s
  | .registerWrite path off size v reads => Sys2Proof.Machine.execRegisterWrite path off size v s reads
  | .getInfo path => Sys2Proof.Machine.execGetInfo path s
  | .loadPlan path plan => Sys2Proof.Machine.execLoadPlan path plan s
  | .fwUpdate path image => Sys2Proof.Machine.execFwUpdate path image s
  | .fwActivate path arg => Sys2Proof.Machine.execFwActivate path arg s
  | .hbmRetrain path arg => Sys2Proof.Machine.execHbmRetrain path arg s
  | .hbmTest path arg pattern => Sys2Proof.Machine.execHbmTest path arg pattern s
  | .fuseRead path => Sys2Proof.Machine.execFuseRead path s
  | .expertEnable path token => Sys2Proof.Machine.execExpertEnable path token s
  | .powerCap path watts => Sys2Proof.Machine.execPowerCap path watts s
  | .serviceHold path arg => Sys2Proof.Machine.execServiceHold path arg s
  | .dumpFetch path off len => Sys2Proof.Machine.execDumpFetch path off len s
  | .selfTest path arg => Sys2Proof.Machine.execSelfTest path arg s
  | .mailboxReserved path code => Sys2Proof.Machine.execMailboxReserved path code s
  | .mailboxBusyWrite path => Sys2Proof.Machine.execMailboxBusyWrite path s
  | .mailboxComplete => Sys2Proof.Machine.execMailboxComplete s
  | .controlNop core => Sys2Proof.Machine.execControlNop core s
  | .endTask core => Sys2Proof.Machine.execEnd core s
  | .loop core => Sys2Proof.Machine.execLoop core s
  | .pset core => Sys2Proof.Machine.execPset core s
  | .matrix core => Sys2Proof.Machine.execMatrix core s
  | .meSwap core feed => Sys2Proof.Machine.execMeSwap core feed s
  | .meGroupDrain core drain hit => Sys2Proof.Machine.execMeGroupDrain core drain hit s
  | .vector core => Sys2Proof.Machine.execVector core s
  | .vectorBatch core rails => Sys2Proof.Machine.execVectorBatch core rails s
  | .sfu core => Sys2Proof.Machine.execSfu core s
  | .micro core => Sys2Proof.Machine.execMicro core s
  | .uload core => Sys2Proof.Machine.execUload core s
  | .momentsUpdate core rails => Sys2Proof.Machine.execMomentsUpdate core rails s
  | .momentsMerge core rails => Sys2Proof.Machine.execMomentsMerge core rails s
  | .momentsFinal core rails => Sys2Proof.Machine.execMomentsFinal core rails s
  | .softmaxUpdate core rails => Sys2Proof.Machine.execSoftmaxUpdate core rails s
  | .softmaxMerge core rails => Sys2Proof.Machine.execSoftmaxMerge core rails s
  | .softmaxFinal core rails => Sys2Proof.Machine.execSoftmaxFinal core rails s
  | .streamArm core => Sys2Proof.Machine.execStreamArm core s
  | .streamBlockIssue core strm => Sys2Proof.Machine.execStreamBlockIssue core strm s
  | .streamBlockWrite core strm ext hit => Sys2Proof.Machine.execStreamBlockWrite core strm ext hit s
  | .streamRunEnd core strm => Sys2Proof.Machine.execStreamRunEnd core strm s
  | .tableLoad core strm ext => Sys2Proof.Machine.execTableLoad core strm s ext
  | .tableBuildDone core strm => Sys2Proof.Machine.execTableBuildDone core strm s
  | .expandBlock core strm hit => Sys2Proof.Machine.execExpandBlock core strm hit s
  | .barrierWait core => Sys2Proof.Machine.execBarrierWait core s
  | .barrierArrive core => Sys2Proof.Machine.execBarrierArrive core s
  | .barrierTarget core => Sys2Proof.Machine.execBarrierTarget core s
  | .barrierTest core => Sys2Proof.Machine.execBarrierTest core s
  | .phaseMove core => Sys2Proof.Machine.execPhaseMove core s
  | .phaseCompute core => Sys2Proof.Machine.execPhaseCompute core s
  | .handleAlloc core => Sys2Proof.Machine.execHandleAlloc core s
  | .handleFree core => Sys2Proof.Machine.execHandleFree core s
  | .handleRelease core => Sys2Proof.Machine.execHandleRelease core s
  | .checkSettle core => Sys2Proof.Machine.execCheckSettle core s
  | .slotFree core slot => Sys2Proof.Machine.execSlotFree core slot s
  | .dredgerRead core noise strike passing => Sys2Proof.Machine.execDredgerRead core noise strike passing s
  | .dredgerZeroGranule core => Sys2Proof.Machine.execDredgerZeroGranule core s
  | .arrive core m => Sys2Proof.Machine.execArrive core m s
  | .put core m => Sys2Proof.Machine.execPut core m s
  | .grant core m => Sys2Proof.Machine.execGrant core m s
  | .returnCredit core m => Sys2Proof.Machine.execReturnCredit core m s
  | .close core m => Sys2Proof.Machine.execClose core m s
  | .culvertAlloc core m => Sys2Proof.Machine.execCulvertAlloc core m s
  | .culvertFree core m => Sys2Proof.Machine.execCulvertFree core m s
  | .reply core m => Sys2Proof.Machine.execReply core m s
  | .stale core m => Sys2Proof.Machine.execStale core m s
  | .task core m => Sys2Proof.Machine.execTask core m s
  | .culvertReserved core m => Sys2Proof.Machine.execCulvertReserved core m s
  | .land core m => Sys2Proof.Machine.execLand core m s
  | .resend core m => Sys2Proof.Machine.execResend core m s
  | .prepare m => Sys2Proof.Machine.execPrepare m s
  | .prepared m => Sys2Proof.Machine.execPrepared m s
  | .commit m => Sys2Proof.Machine.execCommit m s
  | .abort m => Sys2Proof.Machine.execAbort m s
  | .withdraw m => Sys2Proof.Machine.execWithdraw m s
  | .breakRing m => Sys2Proof.Machine.execBreakRing m s
  | .halt m => Sys2Proof.Machine.execHalt m s
  | .block core came p hit => Sys2Proof.Machine.execBlock core came p hit s
  | .blockForward core handle => Sys2Proof.Machine.execBlockForward core handle s
  | .landTimer core handle => Sys2Proof.Machine.execLandTimer core handle s
  | .read port p => Sys2Proof.Machine.execRead port p s
  | .write port p => Sys2Proof.Machine.execWrite port p s
  | .readData port p => Sys2Proof.Machine.execReadData port p s
  | .writeAck port p => Sys2Proof.Machine.execWriteAck port p s
  | .gather port p => Sys2Proof.Machine.execGather port p s
  | .gatherData e k reply hit pool rails => Sys2Proof.Machine.execGatherData e k reply hit pool rails s
  | .mgmt port p => Sys2Proof.Machine.execMgmt port p s
  | .pageWalk unit ctx va write noise => Sys2Proof.Machine.execPageWalk unit ctx va write noise s
  | .hscRequest stack r => Sys2Proof.Machine.execHscRequest stack r s
  | .memoryRefetchDone ctx obj => Sys2Proof.Machine.execMemoryRefetchDone ctx obj s
  | .scrubRead stack noise => Sys2Proof.Machine.execScrubRead stack noise s
  | .hbmTempChange stack temp => Sys2Proof.Machine.execHbmTempChange stack temp s
  | .hbmTrainingLoss stack parity dataTimeout => Sys2Proof.Machine.execHbmTrainingLoss stack parity dataTimeout s
  | .gatherRunStart e => Sys2Proof.Machine.execGatherRunStart e s
  | .seal e rails => Sys2Proof.Machine.execSeal e rails s
  | .dataFlit port f => Sys2Proof.Machine.execDataFlit port f s
  | .idle port f => Sys2Proof.Machine.execIdle port f s
  | .linkTransmit port => Sys2Proof.Machine.execLinkTransmit port s
  | .replayTimeout port => Sys2Proof.Machine.execReplayTimeout port s
  | .laneFail port lane => Sys2Proof.Machine.execLaneFail port lane s
  | .laneErrorWindow port more => Sys2Proof.Machine.execLaneErrorWindow port more s
  | .portRetrainDone port ok peerFailed => Sys2Proof.Machine.execPortRetrainDone port ok peerFailed s
  | .laneLock port peerFailed => Sys2Proof.Machine.execLaneLock port peerFailed s
  | .ident port f => Sys2Proof.Machine.execIdent port f s
  | .verdict port f => Sys2Proof.Machine.execVerdict port f s
  | .identTimeout port => Sys2Proof.Machine.execIdentTimeout port s
  | .identRetryTimer port => Sys2Proof.Machine.execIdentRetryTimer port s
  | .linkKeyExchange port f last len n => Sys2Proof.Machine.execLinkKeyExchange port f last s len n
  | .keyxTimeout port => Sys2Proof.Machine.execKeyxTimeout port s
  | .keyRotationDue port => Sys2Proof.Machine.execKeyRotationDue port s
  | .keyUpdate port f => Sys2Proof.Machine.execKeyUpdate port f s
  | .keyAck port f => Sys2Proof.Machine.execKeyAck port f s
  | .timeExchangeTimer reach => Sys2Proof.Machine.execTimeExchangeTimer s reach
  | .timeReq port f => Sys2Proof.Machine.execTimeReq port s f
  | .timeRsp port f late => Sys2Proof.Machine.execTimeRsp port f late s
  | .rackSyncEdge => Sys2Proof.Machine.execRackSyncEdge s
  | .rackSyncMissing => Sys2Proof.Machine.execRackSyncMissing s
  | .resync path => Sys2Proof.Machine.execResync path s
  | .resyncStep path => Sys2Proof.Machine.execResyncStep path s
  | .keyLock path => Sys2Proof.Machine.execKeyLock path s
  | .ownerLock path => Sys2Proof.Machine.execOwnerLock path s
  | .tgtKeyWrite path t key => Sys2Proof.Machine.execTgtKeyWrite path t key s
  | .tgtConnect path t w => Sys2Proof.Machine.execTgtConnect path t w s
  | .rdmaTransportError t remoteAccess => Sys2Proof.Machine.execRdmaTransportError t remoteAccess s
  | .rdmaInboundRequest eth req => Sys2Proof.Machine.execRdmaInboundRequest eth req s
  | .diagSession eth keyDigest tcp relays => Sys2Proof.Machine.execDiagSession eth keyDigest s tcp relays
  | .getVersion ep msg => Sys2Proof.Machine.execGetVersion ep msg s
  | .getCapabilities ep msg => Sys2Proof.Machine.execGetCapabilities ep msg s
  | .negotiateAlgorithms ep msg => Sys2Proof.Machine.execNegotiateAlgorithms ep msg s
  | .getDigests ep msg => Sys2Proof.Machine.execGetDigests ep msg s
  | .getCertificate ep msg => Sys2Proof.Machine.execGetCertificate ep msg s
  | .challenge ep msg => Sys2Proof.Machine.execChallenge ep msg s
  | .getMeasurements ep msg => Sys2Proof.Machine.execGetMeasurements ep msg s
  | .keyExchange ep msg => Sys2Proof.Machine.execKeyExchange ep msg s
  | .finish ep msg => Sys2Proof.Machine.execFinish ep msg s
  | .endSession ep msg => Sys2Proof.Machine.execEndSession ep msg s
  | .ideKm ep msg => Sys2Proof.Machine.execIdeKm ep msg s
  | .pldmMonitor req => Sys2Proof.Machine.execPldmMonitor req s
  | .debugToken token => Sys2Proof.Machine.execDebugToken token s
  | .dbgSpmSel path w => Sys2Proof.Machine.execDbgSpmSel path w s
  | .dbgSpmRow path row => Sys2Proof.Machine.execDbgSpmRow path row s
  | .hbEn path => Sys2Proof.Machine.execHbEn path s
  | .contextProgressTimeout ctx => Sys2Proof.Machine.execContextProgressTimeout ctx s
  | .sequencerTimeout core => Sys2Proof.Machine.execSequencerTimeout core s
  | .barrierWaitTimeout core slot => Sys2Proof.Machine.execBarrierWaitTimeout core slot s
  | .sluiceCreditTimeout core credit => Sys2Proof.Machine.execSluiceCreditTimeout core credit s
  | .tideBreakTimeout ctx => Sys2Proof.Machine.execTideBreakTimeout ctx s
  | .linkResponseTimeout txn => Sys2Proof.Machine.execLinkResponseTimeout txn s
  | .heartbeatTimeout => Sys2Proof.Machine.execHeartbeatTimeout s
  | .tideSwitchDeadline ctx => Sys2Proof.Machine.execTideSwitchDeadline ctx s
  | .tideSwitchMemberTimeout ctx => Sys2Proof.Machine.execTideSwitchMemberTimeout ctx s
  | .closingSluiceTimeout core handle => Sys2Proof.Machine.execClosingSluiceTimeout core handle s
  | .coreReset path core => Sys2Proof.Machine.execCoreReset path core s
  | .portReset path port => Sys2Proof.Machine.execPortReset path port s
  | .stackReset path stack => Sys2Proof.Machine.execStackReset path stack s
  | .functionLevelReset func => Sys2Proof.Machine.execFunctionLevelReset func s
  | .dikeDrained d => Sys2Proof.Machine.execDikeDrained d s
  | .dikeTimeout d => Sys2Proof.Machine.execDikeTimeout d s
  | .dikeLifted d => Sys2Proof.Machine.execDikeLifted d s
  | .escalationTimeout d => Sys2Proof.Machine.execEscalationTimeout d s
  | .mpWatchdogExpiry => Sys2Proof.Machine.execMpWatchdogExpiry s
  | .warmReset path => Sys2Proof.Machine.execWarmReset path s
  | .warmResetDump path => Sys2Proof.Machine.execWarmResetDump path s
  | .warmResetDone => Sys2Proof.Machine.execWarmResetDone s
  | .coldReset => Sys2Proof.Machine.execColdReset s
  | .softStart => Sys2Proof.Machine.execSoftStart s
  | .presenceOpen => Sys2Proof.Machine.execPresenceOpen s
  | .inputBelow30V => Sys2Proof.Machine.execInputBelow30V s
  | .supplyOvervoltage => Sys2Proof.Machine.execSupplyOvervoltage s
  | .supplyCollapse => Sys2Proof.Machine.execSupplyCollapse s
  | .supplyDrop mv => Sys2Proof.Machine.execSupplyDrop mv s
  | .supplyRecover => Sys2Proof.Machine.execSupplyRecover s
  | .supplyEventClose => Sys2Proof.Machine.execSupplyEventClose s
  | .weirSample sample => Sys2Proof.Machine.execWeirSample sample s
  | .droopDetect f => Sys2Proof.Machine.execDroopDetect f s
  | .droopRecover f => Sys2Proof.Machine.execDroopRecover f s
  | .thermalThrottle f temp => Sys2Proof.Machine.execThermalThrottle f temp s
  | .thermalStepTimer f temp => Sys2Proof.Machine.execThermalStepTimer f temp s
  | .thermalShutdown => Sys2Proof.Machine.execThermalShutdown s
  | .referenceLoss r => Sys2Proof.Machine.execReferenceLoss r s
  | .attnButtonRelease ms => Sys2Proof.Machine.execAttnButtonRelease ms s
  | .attnButtonHeld => Sys2Proof.Machine.execAttnButtonHeld s
  | .serviceHoldHeld => Sys2Proof.Machine.execServiceHoldHeld s
  | .cableRemoved port => Sys2Proof.Machine.execCableRemoved port s
  | .cableInserted port => Sys2Proof.Machine.execCableInserted port s
  | .healthTestFail => Sys2Proof.Machine.execHealthTestFail s
  | .drawHeldTimeout => Sys2Proof.Machine.execDrawHeldTimeout s
  | .storageLinkChange eth st => Sys2Proof.Machine.execStorageLinkChange eth st s
  | .transportRetransmit t => Sys2Proof.Machine.execTransportRetransmit t s
  | .auditRecordsWritten ctx n => Sys2Proof.Machine.execAuditRecordsWritten ctx n s

end Sys2Proof.Machine
end

