-- ==== Sys2Proof/Safety.lean ====
section
/-! DEFINITION. The terms claims are made in: memory in canonical form, a task standing at an operation, what a step puts on the interfaces. -/

namespace Sys2Proof.Machine

/-- The device memory and every scratchpad are in canonical form. -/
def State.memWf (s : State) : Bool := s.hbm.wf && s.cores.all (fun p => p.2.spm.wf)

/-- The running task of a core stands at an operation that is not skipped: its slot and what the slot holds, the operation with its words, and the state
once the words have been read, with whatever corrections that read counted. -/
def State.atOp (s : State) (core i : Nat) (sl : Slot) (k : OpKind) (w v : Nat) (u : State) : Prop :=
  s.ready core = some (i, sl) ∧ s.decodeAt core sl = (.op k false w v, u)

/-- A register access finds nothing of the one before it: no half of a word is held, and no upper half of one is latched (R491). -/
def State.barQuiet (s : State) : Bool := s.halves.isEmpty && s.latch.isEmpty

/-- An operation of the matrix engine without the tile that fills its shadow. -/
def MeOp.bare (o : MeOp) : MeOp := { o with shadow := none }

/-- The operations of a core's matrix engine, front first, without the tiles that fill the shadow. -/
def CoreSt.ops (c : CoreSt) : List MeOp := c.me.map MeOp.bare

/-- Between two states the block has put something on its interfaces. -/
def State.puts (s t : State) (o : Out) : Prop := ∃ l, t.out = s.out ++ l ∧ o ∈ l

/-- Between two states a port has sent a control flit of this content, with the SEQ, acknowledgement and credits that the port has to send in the first of them
(R341, Table 13.2). -/
def State.putsCtrl (s t : State) (n : Nat) (content : Bytes) : Prop :=
  let x := s.port n
  s.puts t (.ctrl n x.seqTx x.lastGood x.nak (owedNow x.owed).1 content)

/-- Between two states a descriptor of a context has completed: its entry has been written to host memory, with some phase, or is held for a full ring (R398, R399). -/
def State.completes (s t : State) (i : Nat) (d : Desc) (st : Status) (ledger : Bool) (info : Nat) : Prop :=
  (∃ a ph, s.puts t (.hostWrite a ((completionBytes d st ledger info s.time).modify 6 (fun b => b ||| ph)))) ∨
  completionBytes d st ledger info s.time ∈ (t.ctx i).heldCpl

/-- Between two states an event of a code, from a source, has been recorded (R434). -/
def State.records (s t : State) (code source tag : Nat) (st : Status) (severity : Nat) (arg : Bytes) : Prop :=
  eventBytes s.time code source tag st.code severity arg ∈ t.events

/-- Between two states the enabled context of a live tag has faulted with a status: its state is 2 and the status stands in its register (R422). -/
def State.faults (s t : State) (tag : Nat) (st : Status) : Prop :=
  s.ctxState (tagIndex tag) = 1 → s.tag (tagIndex tag) = tag →
    t.ctxState (tagIndex tag) = 2 ∧ t.getF F.cxsCtxStateStatus (tagIndex tag) = st.code

/-- A packet arrives at a port in service, authentic, of the form of its type, from inside its context's block, for this chip, which takes requests: the state
once it has left the receive buffer and been counted (R347, R351, R353, R378, R430, R449). -/
def State.delivered (s : State) (n : Nat) (p : Packet) (u : State) : Prop :=
  s.portState n = 3 ∧ p.tagOk = true ∧ packetFits p = true ∧ packetZeros p = true ∧
  (p.type = 9 ∨ rackOf p.srcChip ≠ rackOf u.chip ∨ u.isEdge (tagIndex p.ctxTag) n = false) ∧ u.isHere p.dstChip = true ∧
  (isRequest p.type = true → u.getF F.svcStatusHold ≠ 2 ∧ u.failed = false) ∧ u = (s.leaveBuffer n p).countPacket n p

/-- A culvert message reaches its core, from the on-chip network of a running device or from a port (R378). -/
def State.receives (s : State) (m : Culvert) (u : State) : Prop :=
  (m.came = none ∧ s.stopped = false ∧ u = s) ∨
  ∃ n b, m.came = some (n, b) ∧
    s.delivered n { packetOf 8 m.dstChip m.dstCore m.ctxTag m.srcCore (culvertBytes m) with
      srcChip := m.srcChip, vcBit := b, route := m.route, deadline := m.deadline } u

/-- A safe run of a claim never stops: no step of it faults or is refused. -/
def State.goes (s : State) : Prop := ∃ t, step s = .next t

end Sys2Proof.Machine
end

