-- ==== Sys2Proof/Certificates/Slice0/Obligations.lean ====
section
/-! DEFINITION. The statements for the provers. Each names the commands it is about and the chapter of the manual it follows. -/

open Sys2Proof Sys2Proof.Machine

/-- A step with a command at the front of the queue is that command run on the state with the rest of the queue: the queue is the model's own (log entry 5),
first in, first out. -/
def Obligations.StepRunsFrontCommand : Prop :=
  ∀ (s : State) (c : Instr) (rest : List Instr), s.pending = c :: rest → step s = exec c { s with pending := rest }

/-- With no command waiting a step is one nanosecond of the reference clock (DESIGN CHOICE, log entry 2): with power, no slew due and none held back, fabric
time and the count of ticks go up by one, and nothing else changes; without power nothing changes. -/
def Obligations.EmptyQueueIsATick : Prop :=
  ∀ s : State, s.pending = [] →
    (s.power = .on → s.holdNs = 0 → s.ticks + 1 < 5000 → step s = .next { s with time := (s.time + 1) % 2 ^ 64, ticks := s.ticks + 1 }) ∧
    (s.power = .on → s.holdNs = 0 → s.ticks + 1 = 5000 → 0 < s.slew →
      step s = .next { s with time := (s.time + 2) % 2 ^ 64, ticks := 0, slew := s.slew - 1 }) ∧
    (s.power = .on → s.holdNs = 0 → s.ticks + 1 = 5000 → s.slew < 0 → step s = .next { s with ticks := 0, slew := s.slew + 1 }) ∧
    (s.power ≠ .on → step s = .next s)

/-- After reset the device memory and every scratchpad list nothing, which is the canonical form (zero after power-on, R131, R291). -/
def Obligations.ResetMemoryCanonical : Prop :=
  State.reset.memWf = true ∧ State.reset.hbm = [] ∧ ∀ c : Nat, (State.reset.core c).spm = []

/-- Whatever command runs, from any state whose device memory and scratchpads are in canonical form (addresses rise strictly, no listed byte is zero), the
next state's are too: equal contents stay equal data. -/
def Obligations.MemoryStaysCanonical : Prop :=
  ∀ s t : State, s.memWf = true → step s = .next t → t.memWf = true

/-- After reset every register word holds the reset value of the register map; so every context is disabled, with GEN zero and rings of 64 entries, expert
features are off, every port is off, no core is suspect; the device runs, and nothing waits, is logged or is on an interface. -/
def Obligations.ResetRegisters : Prop :=
  (∀ i : CtxId, State.reset.ctxState i = 0 ∧ State.reset.getF F.hiuCtxCtlEnable i = 0 ∧ State.reset.getF F.hiuCtxCtlGen i = 0 ∧
    State.reset.getF F.hiuCtxCtlSqLog2 i = 6 ∧ State.reset.getF F.hiuCtxCtlCqLog2 i = 6) ∧
  State.reset.expert = false ∧ (∀ n : PortId, State.reset.portState n = 0) ∧ State.reset.stopped = false ∧
  State.reset.events = [] ∧ State.reset.out = [] ∧ State.reset.pending = [] ∧
  (∀ c : CoreId, State.reset.isSuspect c = false) ∧ (∀ (r : Reg) (i : Nat), State.reset.reg r i = r.resetValue)

/-- REGISTER_WRITE by the PF with no half held: an 8-byte write of HIU_SQ_BASE of a context of the PF that is not enabled sets it and no other register, and has no effect
once ENABLE is set; TMO_DIKE, in range and below TMO_LINK_RSP, takes the value with expert features on and is refused and counted without; a 4-byte write to the lower half
of a longer word is held, and takes effect alone before the command of the next register access; a write of a wrong width or of a place without a register is only counted.
A read that its path makes before it answers the register's word; two 4-byte reads of a word answer its halves, the upper one as the read of the lower latched it; during a
warm reset a read answers all ones. The diagnostic endpoint reads in its session and writes nothing (R428, R431, R490, R491, R501). -/
def Obligations.RegisterWritesComplete : Prop :=
  ∀ (s : State) (off v : Nat), s.deaf = false → s.latch = [] →
    (∀ p, s.halves = [] → off % 8 = 0 → findReg off = some p → p.reg = .hiuSqBase → s.pageDiked p = false → s.getF F.hiuCtxCtlFunc p.index = 0 →
      s.flag F.hiuCtxCtlEnable p.index = false →
      ∃ t, exec (.registerWrite .pf off 8 v) s = .next t ∧ t.getF F.hiuSqBaseSqBase p.index = v % 2 ^ 64 ∧ t = { s with regs := t.regs } ∧
        ∀ r i, r ≠ .hiuSqBase → t.reg r i = s.reg r i) ∧
    (∀ p, s.halves = [] → off % 8 = 0 → findReg off = some p → p.reg = .hiuSqBase → s.pageDiked p = false → s.getF F.hiuCtxCtlFunc p.index = 0 →
      s.flag F.hiuCtxCtlEnable p.index = true → exec (.registerWrite .pf off 8 v) s = .next s) ∧
    (∀ p, s.halves = [] → off % 4 = 0 → findReg off = some p → p.reg = .tmoDike → s.expert = true → 1 ≤ v → v ≤ 1000 → v < s.getF F.tmoLinkRspLinkRspMs →
      ∃ t, exec (.registerWrite .pf off 4 v) s = .next t ∧ t.getF F.tmoDikeDikeMs p.index = v ∧ t = { s with regs := t.regs } ∧
        ∀ r i, r ≠ .tmoDike → t.reg r i = s.reg r i) ∧
    (∀ p, s.halves = [] → off % 4 = 0 → findReg off = some p → p.reg = .tmoDike → s.expert = false → 1 ≤ v → v ≤ 1000 →
      exec (.registerWrite .pf off 4 v) s = .next (s.bump F.glbExpertDenied)) ∧
    (∀ p, s.halves = [] → off % 8 = 0 → findReg off = some p → p.reg.info.width ≠ 32 →
      exec (.registerWrite .pf off 4 v) s = .next { s with halves := [(.pf, off, v % 2 ^ 32)] }) ∧
    (∀ size, s.halves = [] → (size ≠ 4 ∧ size ≠ 8 ∨ off % size ≠ 0) → exec (.registerWrite .pf off size v) s = .next (s.bump F.glbAccessBadWidth)) ∧
    (∀ size, s.halves = [] → (size = 4 ∨ size = 8) → off % size = 0 → findReg off = none → findReg (off + 4) = none →
      exec (.registerWrite .pf off size v) s = .next (s.bump F.glbAccessUnmapped)) ∧
    (∀ (p : RegPlace) (c : Instr), s.halves = [(.pf, off, v)] → off % 8 = 0 → v < 2 ^ 32 → findReg off = some p → p.reg = .hiuSqBase → p.byte = 0 → s.pageDiked p = false →
      s.getF F.hiuCtxCtlFunc p.index = 0 → s.flag F.hiuCtxCtlEnable p.index = false →
      c ∈ [Instr.getInfo .pf, .fuseRead .pf, .resync .pf, .keyLock .pf, .ptInvalAll, .warmReset .pf, .hbEn .pf] →
      ∃ u, u = { s with halves := [], regs := u.regs } ∧ u.getF F.hiuSqBaseSqBase p.index = s.getF F.hiuSqBaseSqBase p.index / 2 ^ 32 * 2 ^ 32 + v ∧
        (∀ r i, r ≠ .hiuSqBase → u.reg r i = s.reg r i) ∧ exec c s = exec c u) ∧
    (∀ p, s.halves = [] → findReg off = some p → p.byte = 0 → p.reg.info.width = 64 → p.reg.info.page ≠ .dbg → off % 8 = 0 →
      exec (.registerWrite .diag off 8 v [(off, 8)]) { s with diag := true } =
        .next { s with diag := true, out := s.out ++ [.registerData .diag off 8 (State.view { s with diag := true } p.reg p.index % 2 ^ 64)] }) ∧
    (∀ p q, s.halves = [] → findReg off = some p → findReg (off + 4) = some q → p.byte = 0 → p.reg.info.width = 64 → p.reg.info.page ≠ .dbg → off % 8 = 0 →
      exec (.registerWrite .pf off 3 v [(off, 4), (off + 4, 4)]) s =
        .next (State.bump { s with out := s.out ++ [.registerData .pf off 4 (s.view p.reg p.index % 2 ^ 32),
          .registerData .pf (off + 4) 4 (s.view p.reg p.index / 2 ^ 32 % 2 ^ 32)] } F.glbAccessBadWidth)) ∧
    (∀ r : State, r.warming = true → exec (.registerWrite .pf off 8 v [(off, 8)]) r = .next { r with out := r.out ++ [.registerData .pf off 8 (2 ^ 64 - 1)] }) ∧
    (∀ size, exec (.registerWrite .diag off size v) s = .next s)

/-- With the mailbox free and the device running, the PF's GET_INFO, FUSE_READ, DUMP_FETCH of held bytes, HBM_TEST and SELF_TEST with no context enabled, and reserved codes
set the command under way with its status and result; HBM_TEST leaves its stack zero and the others as they were. A write while BUSY is set is discarded and counted.
MAILBOX_COMPLETE of a command that is done writes the result to MBX_BUF, shows code and status, raises the vector and frees the mailbox. -/
def Obligations.MailboxReportsComplete : Prop :=
  ∀ (s : State), s.deaf = false → s.failed = false → s.barQuiet = true →
    (s.mbx = none →
      (∃ t, exec (.getInfo .pf) s = .next t ∧ t.mbx = some (done 0x01 .pf .ok s.infoRecord) ∧ t = { s with mbx := t.mbx }) ∧
      (∃ t, exec (.fuseRead .pf) s = .next t ∧ t.mbx = some (done 0x07 .pf .ok s.fuseRecord) ∧ t = { s with mbx := t.mbx }) ∧
      (∀ (off len : BitVec 64) (bs : Bytes) (u : State), s.dumpBytes off.toNat len.toNat = (.ok bs, u) →
        ∃ t, exec (.dumpFetch .pf off len) s = .next t ∧ t.mbx = some (done 0x0B .pf .ok bs) ∧ t.hbm = u.hbm ∧ t.ctxs = s.ctxs ∧ t.cores = s.cores) ∧
      (∀ arg : Byte, s.anyContext = false → ∃ t m, exec (.selfTest .pf arg) s = .next t ∧ t.mbx = some m ∧ m.status = .ok ∧ m.result.length = 256 ∧
        m.ready = true ∧ t = { s with mbx := t.mbx }) ∧
      (∀ arg pattern : Byte, arg.toNat < 20 → s.anyContext = false → s.memWf = true → ∃ t m, exec (.hbmTest .pf arg pattern) s = .next t ∧ t.mbx = some m ∧
        m.status = .ok ∧ m.result.length = 64 ∧ ∀ a, t.hbm.read a = (if stackOf s.key a = arg.toNat then 0 else s.hbm.read a)) ∧
      (∀ code : Byte, (code.toNat = 0 ∨ 0x0D ≤ code.toNat) → ∃ t, exec (.mailboxReserved .pf code) s = .next t ∧
        t.mbx = some (done code.toNat .pf .descInvalid) ∧ t = { s with mbx := t.mbx })) ∧
    (s.mbx.isSome = true → exec (.mailboxBusyWrite .pf) s = .next (s.bump F.mbxDiscardMbxDiscard)) ∧
    (∀ m, s.mbx = some m → m.path = .pf → m.ready = true → m.result.length ≤ s.getF F.mbxLenMbxLen → m.result ≠ [] →
      ∃ t, exec .mailboxComplete s = .next t ∧ t.mbx = none ∧ s.puts t (.hostWrite (s.getF F.mbxBufMbxBuf) m.result) ∧
        s.puts t (.msix 0 (s.getF F.mbxVecDoneVector)) ∧ t.getF F.mbxStatusLast = m.code % 256 ∧ t.getF F.mbxStatusStatus = m.status.code)

/-- With the mailbox free and the device running, the PF's LOAD_PLAN adopts a plan without a fault, and records the error of one with; FW_UPDATE empties the slot that does
not run and keeps the one that does; FW_ACTIVATE selects a slot that holds an image, and commits the running one; HBM_RETRAIN dikes its stack; POWER_CAP in range sets the
cap; SERVICE_HOLD 1 begins a hold and 0 ends it; EXPERT_ENABLE with four zero bytes clears the gate as it completes, a valid token sets it, once the next challenge can be drawn,
and any other argument is refused. -/
def Obligations.MailboxActionsComplete : Prop :=
  ∀ (s : State), s.deaf = false → s.failed = false → s.barQuiet = true →
    (s.mbx = none →
      (∀ plan : Bytes, ∃ t, exec (.loadPlan .pf plan) s = .next t ∧ (match s.planFault plan with
        | some (code, st) => t.mbx = some (done 0x02 .pf st) ∧ t.getF F.topoPlanStatusError = code % 16 ∧ t.plan = s.plan
        | none => t.mbx = some (done 0x02 .pf .ok) ∧
          (s.plan = none → ∃ q, t.plan = some q ∧ q.seq = field plan 8 8 ∧ q.entries = (planEntries plan).map chipEntry))) ∧
      (∀ image, ∃ t m, exec (.fwUpdate .pf image) s = .next t ∧ t.mbx = some m ∧ m.status = s.imageStatus image ∧
        t.boot.slot (1 - s.boot.running) = none ∧ (s.boot.running ≤ 1 → t.boot.slot s.boot.running = s.boot.slot s.boot.running) ∧
        m.image = (if s.imageStatus image = .ok then some (imageOf image) else none)) ∧
      (∀ arg : Byte, arg.toNat ≤ 1 → (s.boot.slot arg.toNat).isSome = true → ∃ t, exec (.fwActivate .pf arg) s = .next t ∧ t.mbx = some (done 0x04 .pf .ok) ∧
        t.boot.selected = arg.toNat ∧
        t.boot.rollback = (if arg.toNat = s.boot.running then min 64 (max s.boot.rollback s.boot.image.svn) else s.boot.rollback)) ∧
      (∀ arg : Byte, arg.toNat < 20 → (s.hsc arg.toNat).state = 0 → ∃ t m, exec (.hbmRetrain .pf arg) s = .next t ∧ t.mbx = some m ∧ m.ready = false ∧
        (t.hsc arg.toNat).state = 1 ∧ (t.hsc arg.toNat).dikeAt = some s.time ∧ t.hbm = s.hbm) ∧
      (∀ watts : BitVec 32, 1500 ≤ watts.toNat → watts.toNat ≤ maxWatts → ∃ t, exec (.powerCap .pf watts) s = .next t ∧ t.mbx = some (done 0x09 .pf .ok) ∧
        t.getF F.pwrCapCapW = watts.toNat) ∧
      (s.getF F.svcStatusHold = 0 → ∃ t m, exec (.serviceHold .pf 1) s = .next t ∧ t.getF F.svcStatusHold = 1 ∧ t.holdAt = s.time ∧ t.mbx = some m ∧ m.ready = false) ∧
      (s.getF F.svcStatusHold ≠ 0 → ∃ t, exec (.serviceHold .pf 0) s = .next t ∧ t.getF F.svcStatusHold = 0 ∧ t.mbx = some (done 0x0A .pf .ok)) ∧
      (∀ token : Bytes, token.length = 4 → zeroAt token 0 4 = true → ∃ t, exec (.expertEnable .pf token) s = .next t ∧ t.mbx = some (done 0x08 .pf .ok [] 1) ∧
        t = { s with mbx := t.mbx }) ∧
      (∀ token : Bytes, (token.length ≠ 4 ∨ zeroAt token 0 4 = false) → ∃ t m, exec (.expertEnable .pf token) s = .next t ∧ t.mbx = some m ∧ m.code = 0x08 ∧
        t.expert = s.expert ∧ (if s.flag F.secStatusOwnerLock && s.tokenValid token 1 s.ownerKey then m.arg = 2 ∧ m.status = .ok ∧ m.ready = s.healthAt.isNone
          else m.arg = 0 ∧ m.status = .accessViolation ∧ t = { s with mbx := t.mbx }))) ∧
    (∀ m, s.mbx = some m → m.path = .pf → m.ready = true → m.result = [] → m.code = 0x08 →
      (m.arg = 1 → ∃ t, exec .mailboxComplete s = .next t ∧ t.mbx = none ∧ t.expert = false) ∧
      (m.arg = 2 → ∃ t, exec .mailboxComplete s = .next t ∧ t.mbx = none ∧ t.expert = true))

/-- SQ_TAIL, CQ_HEAD and AUDIT_HEAD written by the context's own function, while it is enabled and not tearing down, with a value below the ring's size: the index takes
the value; the others stay; no core, no memory, no other context and none of its registers change. A tail written where it stands does nothing. A value at or above the
ring's size, a write while ENABLE is clear, or one through the PF for a context of a VF, only counts a bad doorbell. The fetch that a tail asks for names the host addresses
of the entries it covers, at most 64, and no more than completions can be held for (log entry 18). DESCRIPTOR_FETCH puts a fetched work descriptor into its queue and moves the head past it (R389, R391). -/
def Obligations.DoorbellsComplete : Prop :=
  ∀ (s : State) (ctx : CtxId) (func : FuncId) (v : BitVec 32), s.stopped = false → func.val = s.getF F.hiuCtxCtlFunc ctx →
    (s.flag F.hiuCtxCtlEnable ctx = true → s.ctxState ctx ≠ 3 → v.toNat < 2 ^ s.getF F.hiuCtxCtlSqLog2 ctx → v.toNat = s.getF F.hiuCtxStateSqTail ctx →
      exec (.sqTail ctx func v) s = .next s) ∧
    (s.flag F.hiuCtxCtlEnable ctx = true → s.ctxState ctx ≠ 3 → v.toNat < 2 ^ s.getF F.hiuCtxCtlSqLog2 ctx → v.toNat ≠ s.getF F.hiuCtxStateSqTail ctx →
      ∃ t, exec (.sqTail ctx func v) s = .next t ∧ t.getF F.hiuCtxStateSqTail ctx = v.toNat % 65536 ∧
        t.getF F.hiuCtxStateSqHead ctx = s.getF F.hiuCtxStateSqHead ctx ∧
        t.getF F.hiuCtxStateCqHead ctx = s.getF F.hiuCtxStateCqHead ctx ∧ t.getF F.hiuCtxStateCqTail ctx = s.getF F.hiuCtxStateCqTail ctx ∧
        (∀ r i, i < 2 ^ 20 → (r ≠ .hiuCtxState ∨ i ≠ ctx) → t.reg r i = s.reg r i) ∧ (∀ i, i ≠ ctx → t.ctx i = s.ctx i) ∧
        t = { s with regs := t.regs, ctxs := t.ctxs, doorbells := s.doorbells + 1, out := t.out } ∧
        (s.ctxState ctx = 1 → (s.ctx ctx).fetched = [] → (s.ctx ctx).inflight = 0 →
          ringUsed (s.getF F.hiuCtxCtlSqLog2 ctx) (s.getF F.hiuCtxStateSqHead ctx) (v.toNat % 65536) ≠ 0 → s.completionRoom ctx ≠ 0 →
          t.out = s.out ++ [.fetch ctx (s.getF F.hiuCtxStateSqHead ctx % 2 ^ s.getF F.hiuCtxCtlSqLog2 ctx)
            ((List.range (min (min (ringUsed (s.getF F.hiuCtxCtlSqLog2 ctx) (s.getF F.hiuCtxStateSqHead ctx) (v.toNat % 65536)) 64) (s.completionRoom ctx))).map
              (fun k => s.sqAddr ctx (s.getF F.hiuCtxStateSqHead ctx + k)))])) ∧
    (s.flag F.hiuCtxCtlEnable ctx = true → s.ctxState ctx ≠ 3 → v.toNat < 2 ^ s.getF F.hiuCtxCtlCqLog2 ctx →
      ∃ t, exec (.cqHead ctx func v) s = .next t ∧ t.getF F.hiuCtxStateCqHead ctx = v.toNat % 65536 ∧
        t.getF F.hiuCtxStateSqHead ctx = s.getF F.hiuCtxStateSqHead ctx ∧ t.getF F.hiuCtxStateSqTail ctx = s.getF F.hiuCtxStateSqTail ctx ∧
        (∀ r i, i < 2 ^ 20 → (r ≠ .hiuCtxState ∨ i ≠ ctx) → r ≠ .glbExpert → t.reg r i = s.reg r i) ∧ t.expert = s.expert ∧ (∀ i, i ≠ ctx → t.ctx i = s.ctx i) ∧
        t = { s with regs := t.regs, ctxs := t.ctxs, out := t.out }) ∧
    (s.flag F.hiuCtxCtlEnable ctx = true → s.ctxState ctx ≠ 3 → s.getF F.hiuCtxCtlAuditLog2 ctx ≠ 0 → v.toNat < 2 ^ s.getF F.hiuCtxCtlAuditLog2 ctx →
      ∃ t, exec (.auditHead ctx func v) s = .next t ∧ t.getF F.hiuCtxAuditAuditHead ctx = v.toNat % 2 ^ 24 ∧ t = { s with regs := t.regs } ∧
        (∀ r i, i < 2 ^ 20 → (r ≠ .hiuCtxAudit ∨ i ≠ ctx) → t.reg r i = s.reg r i) ∧
        t.getF F.hiuCtxAuditAuditTail ctx = s.getF F.hiuCtxAuditAuditTail ctx) ∧
    (s.flag F.hiuCtxCtlEnable ctx = true → s.ctxState ctx ≠ 3 →
      (2 ^ s.getF F.hiuCtxCtlSqLog2 ctx ≤ v.toNat → exec (.sqTail ctx func v) s = .next (s.bump F.hiuEventsBadDoorbell)) ∧
      (2 ^ s.getF F.hiuCtxCtlCqLog2 ctx ≤ v.toNat → exec (.cqHead ctx func v) s = .next (s.bump F.hiuEventsBadDoorbell)) ∧
      (s.getF F.hiuCtxCtlAuditLog2 ctx = 0 ∨ 2 ^ s.getF F.hiuCtxCtlAuditLog2 ctx ≤ v.toNat →
        exec (.auditHead ctx func v) s = .next (s.bump F.hiuEventsBadDoorbell))) ∧
    (s.getF F.hiuCtxCtlFunc ctx ≠ 0 →
      exec (.sqTail ctx 0 v) s = .next (s.bump F.hiuEventsBadDoorbell) ∧ exec (.cqHead ctx 0 v) s = .next (s.bump F.hiuEventsBadDoorbell) ∧
      exec (.auditHead ctx 0 v) s = .next (s.bump F.hiuEventsBadDoorbell)) ∧
    (s.flag F.hiuCtxCtlEnable ctx = false →
      exec (.sqTail ctx func v) s = .next (s.bump F.hiuEventsBadDoorbell) ∧ exec (.cqHead ctx func v) s = .next (s.bump F.hiuEventsBadDoorbell) ∧
      exec (.auditHead ctx func v) s = .next (s.bump F.hiuEventsBadDoorbell)) ∧
    (∀ b : Bytes, s.ctxState ctx = 1 → s.held = false → (s.ctx ctx).inflight ≠ 0 → (s.ctx ctx).fetched = [] → (s.ctx ctx).control = [] → (s.ctx ctx).fence = none →
      (s.ctx ctx).heldCpl.length < 64 → (field b 0 1 = 1 ∨ field b 0 1 = 2 ∨ field b 0 1 = 3 ∨ field b 0 1 = 6 ∨ field b 0 1 = 8) →
      ∃ t, exec (.descriptorFetch ctx [b]) s = .next t ∧
        t.getF F.hiuCtxStateSqHead ctx = (s.getF F.hiuCtxStateSqHead ctx + 1) % 2 ^ s.getF F.hiuCtxCtlSqLog2 ctx % 65536 ∧
        (t.ctx ctx).work = (s.ctx ctx).work ++ [⟨slice b 0 64, (s.ctx ctx).fetches, s.getF F.hiuCtxStateSqHead ctx,
          (s.getF F.hiuCtxStateSqHead ctx + 1) % 2 ^ s.getF F.hiuCtxCtlSqLog2 ctx, (s.ctx ctx).stamp⟩])

/-- Control descriptors, outside the held stage of a service hold (R481): NOP completes, and restarts the heartbeat watchdog when it is asked to; FENCE completes when nothing fetched before it is left, and waits while
something is; CANCEL, with no INVOKE running, no switch pending and no retry of a copy or a load under way, completes every work descriptor fetched before it with CANCELLED and then itself with OK and the number of descriptors it ended; LEDGER_CLOSE writes at its
address the ledger of its window, the body of Table 4.9 with the alias key's ML-DSA-65 signature over it under DRUHAL-GAUGE, opens a new window, and completes with LEDGER set (R391, R395 to R397, Table 15.11). -/
def Obligations.ControlDescriptorsComplete : Prop :=
  ∀ (s : State) (ctx : CtxId) (d : Desc), s.held = false →
    ((s.ctx ctx).control.find? (fun x => x.opcode == 10) = some d →
      ∃ t, exec (.nop ctx) s = .next t ∧ s.completes t ctx d .ok false 0 ∧
        t.hbAt = (if bit (field d.bytes 8 1) 0 && s.flag F.tmoHbHbEn then some s.time else s.hbAt)) ∧
    ((s.ctx ctx).fence = some d → (s.ctx ctx).drained = true → ∃ t, exec (.fence ctx) s = .next t ∧ s.completes t ctx d .ok false 0) ∧
    ((s.ctx ctx).drained = false → exec (.fence ctx) s = .next s) ∧
    (s.ctxState ctx = 1 → (s.ctx ctx).canceling = none → (s.ctx ctx).inv = none → (s.ctx ctx).sw = none →
      (∀ j ∈ (s.ctx ctx).copy, s.copyRetrying ctx j = false) → (∀ j ∈ (s.ctx ctx).load, j.loadRetrying = false) →
      (s.ctx ctx).control.find? (fun x => x.opcode == 9) = some d →
      let c := s.ctx ctx
      let ends := (c.work ++ c.loadq ++ c.control ++ c.fence.toList ++ c.fetched ++ c.jobs.map (·.desc)).filter (fun x => decide (x.seq < d.seq))
      ∃ t, exec (.cancel ctx) s = .next t ∧ s.completes t ctx d .ok false ends.length ∧
        (∀ x ∈ (s.ctx ctx).work, x.seq < d.seq → s.completes t ctx x .cancelled false 0) ∧ ∀ x ∈ (t.ctx ctx).work, d.seq ≤ x.seq) ∧
    (∀ rest, s.ctxState ctx = 1 → s.noStart = false → (s.ctx ctx).idleWork = true → (s.ctx ctx).work = d :: rest → d.opcode = 8 →
      s.descFault ctx d = none → s.recordsFit ctx = true → s.healthAt = none →
      ∃ t n, exec (.ledgerClose ctx) s = .next t ∧
        let body := s.ledgerBody (s.windowFields ctx d)
        s.puts t (.hostWrite (field d.bytes 16 8)
          (body ++ slice (Config.mldsaSign (Config.freeValue s.boot.aliasAt).toNat "DRUHAL-GAUGE" body (Config.freeValue n).toNat) 0 3309 ++ zeros 19)) ∧
        body.length = 512 ∧ field body 4 2 = d.ctxTag % 65536 ∧ field body 6 1 = ((s.ctx ctx).window.error.getD .ok).code ∧ field body 8 8 = field d.bytes 8 8 ∧
        field body 16 8 = (s.ctx ctx).window.start % 2 ^ 64 ∧ field body 24 8 = s.time % 2 ^ 64 ∧ (t.ctx ctx).lastBody = body ∧ (t.ctx ctx).window.start = s.time ∧ s.completes t ctx d .ok true 0)

/-- INVOKE starts when nothing of the work queue runs and its checks pass: it is the context's running INVOKE, not yet bound, with its identity, seed and start time, and
the step count goes up. With fabric time not running free no tide map is read for it (R381). INVOKE_BIND, while the collector has room for its event, binds it when all it declares is free, and leaves it waiting, unbound, when not. CANCEL_STREAMS_STOPPED unbinds one that ends early: no
stream of it stays bound, no counter, no task in a slot or in a queue of it stays on its cores. INVOKE_END closes it: at its address the ledger of its fields, the body of Table 4.9 with the alias
key's ML-DSA-65 signature over it under DRUHAL-GAUGE; completion with LEDGER set and the count of its gauge events. -/
def Obligations.InvokeLifeComplete : Prop :=
  ∀ (s : State) (ctx : CtxId) (d : Desc) (rest : List Desc) (v : Invoke),
    (s.ctxState ctx = 1 → s.noStart = false → (s.ctx ctx).idleWork = true → (s.ctx ctx).work = d :: rest → d.opcode = 1 → s.descFault ctx d = none →
      s.invokeHeld ctx d = false → (s.healthAt = none ∨ field d.bytes 40 8 ≠ 0) → s.blockOk ctx = true →
      ∀ r : State, (s.setCtx ctx { s.ctx ctx with work := rest }).freeRunRefuses ctx (field d.bytes 24 8) = (.ok false, r) →
      (s.flag F.lnkTimeCtlFreeRun = false → (r.ctx ctx).work = rest ∧ r.time = s.time ∧ r.getF F.tideCtxStep ctx = s.getF F.tideCtxStep ctx) ∧
      ∃ t u, exec (.invoke ctx) s = .next t ∧ (t.ctx ctx).inv = some u ∧ u.desc = d ∧ u.bound = false ∧ u.ending = none ∧ u.id = field d.bytes 8 8 ∧
        u.timeStart = r.time ∧ (field d.bytes 40 8 ≠ 0 → u.seed = field d.bytes 40 8) ∧ u.tally = Tally.zero ∧ (t.ctx ctx).work = (r.ctx ctx).work ∧
        t.getF F.tideCtxStep ctx = (r.getF F.tideCtxStep ctx + 1) % 2 ^ 32) ∧
    (∀ hits u recs m ds, (s.ctx ctx).inv = some v → v.bound = false → v.ending = none → s.ctxState ctx = 1 → s.stopped = false →
      s.overfills ctx (s.bind ctx v hits) = false → s.validate ctx v = (.ok (recs, m, ds), u) →
      u.fits (recs.map (fun r => (r.core, r.streams, r.counters))) (ds.map (fun x => field x 0 1))
        (match m with | some t => t.cores.map (fun k => (k, trailCount t k)) | none => []) = false →
      ∃ t x, exec (.invokeBind ctx hits) s = .next t ∧ (t.ctx ctx).inv = some x ∧ x.waits = true ∧ x.bound = false ∧ t.core = u.core) ∧
    (∀ hits u recs m ds r t, (s.ctx ctx).inv = some v → v.bound = false → v.ending = none → s.ctxState ctx = 1 → s.stopped = false →
      s.overfills ctx (s.bind ctx v hits) = false → s.validate ctx v = (.ok (recs, m, ds), u) →
      u.fits (recs.map (fun r => (r.core, r.streams, r.counters))) (ds.map (fun x => field x 0 1))
        (match m with | some t => t.cores.map (fun k => (k, trailCount t k)) | none => []) = true →
      u.aheadOf ctx { v with prio := u.getF F.cxsCtxCfgPriority ctx } = false → u.bindAll ctx v recs m ds hits = (.ok r, t) →
      exec (.invokeBind ctx hits) s = .next t ∧ ∃ x, (t.ctx ctx).inv = some x ∧ x.bound = true ∧ x.waits = false) ∧
    ((s.ctx ctx).inv = some v → v.bound = true → v.ending.isSome = true → v.stopped = false → s.quiet v = true →
      ∃ t, exec (.cancelStreamsStopped ctx) s = .next t ∧ (∃ x, (t.ctx ctx).inv = some x ∧ x.stopped = true ∧ x.desc = v.desc) ∧
        ∀ k ∈ v.cores, (∀ p ∈ (t.core k).strms, p.2.owner = v.desc.ctxTag → p.2.bound = false) ∧ (∀ p ∈ (t.core k).bars, p.2.owner ≠ v.desc.ctxTag) ∧
          (∀ w ∈ (t.core k).queue, w.tag ≠ v.desc.ctxTag) ∧ ∀ j : SlotId, ((t.core k).slot j).tag = v.desc.ctxTag → ((t.core k).slot j).state = 0 ∧
            ((t.core k).slot j).ending = false) ∧
    ((s.ctx ctx).inv = some v → v.bound = true → v.ending = none → s.tasksEnded v = true → s.quiet v = true → s.recordsFit ctx = true → s.boot.rom = false →
      s.healthAt = none → s.ctxState ctx = 1 →
      ∃ t n, exec (.invokeEnd ctx) s = .next t ∧ (t.ctx ctx).inv = none ∧
        let body := s.ledgerBody (s.invokeFields ctx v v.goodStatus)
        (t.ctx ctx).lastBody = body ∧ body.length = 512 ∧ field body 4 2 = v.desc.ctxTag % 65536 ∧ field body 6 1 = v.goodStatus.code ∧
        field body 8 8 = v.id % 2 ^ 64 ∧ field body 16 8 = v.timeStart % 2 ^ 64 ∧ field body 24 8 = s.time % 2 ^ 64 ∧
        s.puts t (.hostWrite (field v.desc.bytes 48 8)
          (body ++ slice (Config.mldsaSign (Config.freeValue s.boot.aliasAt).toNat "DRUHAL-GAUGE" body (Config.freeValue n).toNat) 0 3309 ++ zeros 19)) ∧ s.completes t ctx v.desc v.goodStatus true v.tally.events)

/-- CONTEXT_ENABLE by the context's own function with sizes and bases in range: the context is enabled, its ring indices are zero, its phase 1; where its key is to be drawn and
a health test has failed, the sizes are set and the draw is held. CONTEXT_TEARDOWN: the
context tears down, its generation moves on, every waiting work descriptor completes with CANCELLED, and event 0x0002 is recorded under the old tag. TEARDOWN_COMPLETE,
with no INVOKE left, once what it holds is freed and nothing of the context is on any core: it is disabled; with its INVOKE still running, nothing. TEARDOWN_TIMEOUT marks it stuck and no credit entry of it is left. RESUME enables a faulted
context again. No half of a register word is held, nor one latched (R385 to R387, R422 to R424, R445). -/
def Obligations.ContextsComplete : Prop :=
  ∀ (s : State) (ctx : CtxId), s.barQuiet = true →
    (∀ (func : FuncId) (w : BitVec 64), s.stopped = false → s.healthAt = none → s.funcDiked func = false → func.val = s.getF F.hiuCtxCtlFunc ctx →
      s.ctxState ctx = 0 → s.flag F.hiuCtxCtlEnable ctx = false → bit w.toNat 63 = true → (s.setSizes ctx w.toNat).ringsOk ctx = true →
      ∃ t, exec (.contextEnable ctx func w) s = .next t ∧ t.ctxState ctx = 1 ∧ t.flag F.hiuCtxCtlEnable ctx = true ∧ t.reg .hiuCtxState ctx = 0 ∧
        t.reg .hiuCtxAudit ctx = 0 ∧ (t.ctx ctx).phase = true ∧ (t.ctx ctx).inv = none ∧ t.tag ctx = s.tag ctx ∧
        t = { s with regs := t.regs, ctxs := t.ctxs, free := t.free }) ∧
    (∀ (func : FuncId) (w : BitVec 64), s.stopped = false → s.healthAt.isSome = true → s.flag F.secCtxCfgHbmEnc ctx = true → s.funcDiked func = false →
      func.val = s.getF F.hiuCtxCtlFunc ctx → s.ctxState ctx = 0 → s.flag F.hiuCtxCtlEnable ctx = false → bit w.toNat 63 = true →
      (s.setSizes ctx w.toNat).ringsOk ctx = true →
      exec (.contextEnable ctx func w) s = .next { s.setSizes ctx w.toNat with heldDraw := some (s.heldDraw.getD s.time) }) ∧
    (s.stopped = false → (s.ctxState ctx = 1 ∨ s.ctxState ctx = 2) → (s.ctx ctx).sw = none →
      ∃ t, exec (.contextTeardown ctx) s = .next t ∧ t.ctxState ctx = 3 ∧ t.tag ctx = tagOf ctx ((s.getF F.hiuCtxCtlGen ctx + 1) % 64) ∧
        (∀ d ∈ (s.ctx ctx).work, s.completes t ctx d .cancelled false 0) ∧ s.records t 0x0002 (sourceOf 6 0) (s.tag ctx) .ok 0 []) ∧
    (s.ctxState ctx = 3 → (s.ctx ctx).freed = true → s.closed ctx = true →
      ∃ t, exec (.teardownComplete ctx) s = .next t ∧ t.ctxState ctx = 0 ∧ t.flag F.hiuCtxCtlEnable ctx = false ∧
        t.ctx ctx = { CtxSt.fresh with lastBody := (s.ctx ctx).lastBody } ∧ t.cores = s.cores) ∧
    (s.ctxState ctx = 3 → (s.ctx ctx).freed = true → s.closed ctx = false → exec (.teardownComplete ctx) s = .next s) ∧
    (s.ctxState ctx = 3 → (s.ctx ctx).freed = false → (s.ctx ctx).inv = none → (s.ctx ctx).jobs = [] →
      exec (.teardownComplete ctx) s = exec (.teardownComplete ctx) (s.freeContext ctx)) ∧
    (s.ctxState ctx = 3 → (s.ctx ctx).freed = false → (s.ctx ctx).inv.isSome = true → exec (.teardownComplete ctx) s = .next s) ∧
    (s.ctxState ctx = 3 → (s.ctx ctx).inv = none → s.passed (s.ctx ctx).tearAt (s.tearNs ctx) = true →
      ∃ t, exec (.teardownTimeout ctx) s = .next t ∧ (t.ctx ctx).stuck = true ∧ t.ctxState ctx = 3 ∧
        ∀ k : CoreId, ((t.core k).waits ctx).2 = []) ∧
    (s.ctxState ctx = 2 → s.stopped = false → ∃ t, exec (.resume ctx) s = .next t ∧ t.ctxState ctx = 1 ∧ t.cores = s.cores ∧ t.hbm = s.hbm) ∧
    (s.ctxState ctx ≠ 2 → exec (.resume ctx) s = .next s)

/-- VF_RANGE_WRITE: an allowed range is the VF's, and its contexts belong to it; while VF Enable is set it is only counted. PT_INVAL and PT_INVAL_ALL drop the cached
translations of one context index or of all, and BUSY reads 1 until PT_INVAL_DONE. PAGE_WALK: a walk that succeeds touches only caches, counts and the sectors that its reads correct, and with no
error about only the caches; a failed local one faults an enabled context with its status, a failed remote one does not. No half of a register word is held, nor one latched. -/
def Obligations.MapsComplete : Prop :=
  ∀ (s : State), s.barQuiet = true →
    (∀ (vf : Fin 31) (w : BitVec 32), s.stopped = false → s.vfEnable = false → bits w.toNat 25 16 + bits w.toNat 6 0 ≤ 1024 → bits w.toNat 6 0 ≤ 64 →
      (∀ u : Fin 31, u ≠ vf → (s.vfRange u).2 = 0 ∨ bits w.toNat 6 0 = 0 ∨ bits w.toNat 25 16 + bits w.toNat 6 0 ≤ (s.vfRange u).1 ∨
        (s.vfRange u).1 + (s.vfRange u).2 ≤ bits w.toNat 25 16) →
      ∃ t, exec (.vfRangeWrite vf w) s = .next t ∧ t.vfRange vf = (bits w.toNat 25 16, bits w.toNat 6 0) ∧
        (∀ j, j < bits w.toNat 6 0 → t.getF F.hiuCtxCtlFunc (bits w.toNat 25 16 + j) = vf.val + 1) ∧ t = { s with regs := t.regs }) ∧
    (∀ (vf : Fin 31) (w : BitVec 32), s.stopped = false → s.vfEnable = true → exec (.vfRangeWrite vf w) s = .next (s.bump F.hiuEventsVfReject)) ∧
    (∀ ctx : CtxId, s.stopped = false → ∃ t, exec (.ptInval ctx) s = .next t ∧ (∀ u x, x ∈ t.tlb.get [] u ↔ x ∈ s.tlb.get [] u ∧ tagIndex x.tag ≠ ctx) ∧
      (∀ f x, x ∈ t.slices.get [] f ↔ x ∈ s.slices.get [] f ∧ tagIndex x.tag ≠ ctx) ∧ (∀ f x, x ∈ t.nodes.get [] f ↔ x ∈ s.nodes.get [] f ∧ x.ctx ≠ ctx) ∧ t.flag F.hscPtInvalBusy = true ∧ t.inval.isSome = true ∧
      t = { s with regs := t.regs, tlb := t.tlb, slices := t.slices, nodes := t.nodes, inval := t.inval }) ∧
    (s.stopped = false → ∃ t, exec .ptInvalAll s = .next t ∧ t.tlb = [] ∧ t.slices = [] ∧ t.nodes = [] ∧ t.flag F.hscPtInvalBusy = true ∧ t.inval = some none ∧
      t = { s with regs := t.regs, tlb := t.tlb, slices := t.slices, nodes := t.nodes, inval := t.inval }) ∧
    (∀ w, s.inval = some w → ∃ t, exec .ptInvalDone s = .next t ∧ t.flag F.hscPtInvalBusy = false ∧ t.inval = none ∧
      t = { s with regs := t.regs, tlb := t.tlb, slices := t.slices, nodes := t.nodes, inval := t.inval }) ∧
    (∀ (unit : Translator) (ctx : CtxId) (va : Nat) (write : Bool) (noise : Noise) (p : Place) (u : State), s.stopped = false →
      s.translate unit (s.tag ctx) va write noise = (.ok p, u) → ∃ t, exec (.pageWalk unit ctx va write noise) s = .next t ∧
        t = { s with regs := t.regs, hbm := t.hbm, hbmErr := t.hbmErr, hbmPassing := t.hbmPassing, tlb := t.tlb, slices := t.slices, nodes := t.nodes } ∧
        p.dpa % 2 ^ 21 = p.va % 2 ^ 21 ∧
        (s.hbmErr = [] → s.hbmPassing = [] → noise = Noise.none → t = { s with tlb := t.tlb, slices := t.slices, nodes := t.nodes })) ∧
    (∀ (unit : Translator) (ctx : CtxId) (va : Nat) (write : Bool) (noise : Noise) (st : Status) (u : State), s.stopped = false → s.ctxState ctx = 1 →
      fromFabric unit = false → s.translate unit (s.tag ctx) va write noise = (.error st, u) → ∃ t, exec (.pageWalk unit ctx va write noise) s = .next t ∧ t.ctxState ctx = 2 ∧
        t.getF F.cxsCtxStateStatus ctx = st.code ∧ t.cores = s.cores) ∧
    (∀ (unit : Translator) (ctx : CtxId) (va : Nat) (write : Bool) (noise : Noise) (st : Status) (u : State), s.stopped = false →
      fromFabric unit = true → s.translate unit (s.tag ctx) va write noise = (.error st, u) → ∃ t, exec (.pageWalk unit ctx va write noise) s = .next t ∧ t.ctxs = s.ctxs ∧
        t.ctxState ctx = s.ctxState ctx)

/-- WINDOW_READ and WINDOW_WRITE inside BAR4, in the page-table area with its stack up and no errors about: a read answers the bytes of device memory there and changes none; a write
puts its bytes there and leaves every other byte. During a warm reset a read answers all ones; an access to an area the window may not reach is counted in WIN_REFUSED, a read of one
answered with Completer Abort and a write discarded (R385, R431). -/
def Obligations.WindowComplete : Prop :=
  ∀ (s : State) (off len : Nat) (data : Bytes),
    let dpa := s.getF F.hiuWinBaseBase + off
    (s.warming = true → ∃ t, exec (.windowRead off len Noise.none) s = .next t ∧ t.out = s.out ++ [.windowData (some (List.replicate len 0xFF))] ∧
      t = { s with out := t.out }) ∧
    (s.stopped = false → len ≠ 0 → off + len ≤ s.bar4 → s.hscs = [] → s.hbmErr = [] → s.hbmPassing = [] → 0x13F00000000 ≤ dpa → dpa + len ≤ 0x14000000000 →
      ∃ t, exec (.windowRead off len Noise.none) s = .next t ∧ t.out = s.out ++ [.windowData (some (s.hbm.readN dpa len))] ∧ t.hbm = s.hbm ∧ t.regs = s.regs) ∧
    (s.stopped = false → len ≠ 0 → off + len ≤ s.bar4 → 0x13E00000000 ≤ dpa → dpa < 0x13F00000000 →
      ∃ t, exec (.windowRead off len Noise.none) s = .next t ∧ t = { s.bump F.hiuEventsWinRefused with out := s.out ++ [.windowData none] }) ∧
    (s.stopped = false → data ≠ [] → off + data.length ≤ s.bar4 → 0x13E00000000 ≤ dpa → dpa < 0x13F00000000 →
      exec (.windowWrite off data Noise.none) s = .next (s.bump F.hiuEventsWinRefused)) ∧
    (s.stopped = false → data ≠ [] → off + data.length ≤ s.bar4 → s.memWf = true → s.hscs = [] → s.hbmErr = [] → s.hbmPassing = [] → 0x13F00000000 ≤ dpa → dpa + data.length ≤ 0x14000000000 →
      ∃ t, exec (.windowWrite off data Noise.none) s = .next t ∧ t.hbm.readN dpa data.length = data ∧
        (∀ a, a < dpa ∨ dpa + data.length ≤ a → t.hbm.read a = s.hbm.read a) ∧ t.cores = s.cores ∧ t.ctxs = s.ctxs ∧ t.out = s.out)

/-- Control operations of chapter 9 at a running task: NOP and SETTLE move past their word, PSET also sets its predicate, END frees the sequencer and
leaves the slot ending, LOOP opens a loop or skips its body when COUNT is zero (R239 to R241, R253). -/
def Obligations.ControlOperationsComplete : Prop :=
  ∀ (s u : State) (core : CoreId) (i : Nat) (sl : Slot) (w v : Nat),
    (s.atOp core i sl .nop w v u → ∃ t, exec (.controlNop core) s = .next t ∧ (t.core core).slot i = sl.advance 1) ∧
    (s.atOp core i sl .settle w v u → (u.core core).busy i = false →
      ∃ t, exec (.checkSettle core) s = .next t ∧ (t.core core).slot i = sl.advance 1) ∧
    (s.atOp core i sl .pset w v u → ∃ t, exec (.pset core) s = .next t ∧
      (t.core core).slot i = Slot.advance { sl with
        preds := sl.preds.set (bits w 115 114) (psetHolds (bits w 110 109) (sl.lcs.getD (bits w 113 111) 0)
          (if bit w 108 then sl.lasts.getD (bits w 113 111) 0 else bits w 107 92)) } 1) ∧
    (s.atOp core i sl .endTask w v u → ∃ t, exec (.endTask core) s = .next t ∧
      ((t.core core).slot i).state = 0 ∧ ((t.core core).slot i).ending = true ∧ ((t.core core).slot i).loops = [] ∧
      (t.core core).running ≠ some i) ∧
    (s.atOp core i sl .loop w v u → ∀ last u', sl.loops.all (fun l => l.lc != bits w 115 113 && decide (sl.pc + 1 + bits w 96 79 ≤ l.stop)) = true →
      bits w 96 79 ≠ 0 → 16 * (sl.pc + 1 + bits w 96 79) ≤ ((u.core core).polder sl.codeHandle).length * granule →
      u.word core sl.codeHandle (sl.pc + bits w 96 79) = (some last, u') → (∀ k, opOf last = some k → k.two = false) →
      ∃ t, exec (.loop core) s = .next t ∧
        (t.core core).slot i =
          (if bits w 112 97 = 0 then
            Slot.advance { sl with lcs := sl.lcs.set (bits w 115 113) 0, lasts := sl.lasts.set (bits w 115 113) 65535 } (1 + bits w 96 79)
          else
            Slot.advance { sl with
              lcs := sl.lcs.set (bits w 115 113) 0, lasts := sl.lasts.set (bits w 115 113) (bits w 112 97 - 1)
              loops := ⟨bits w 115 113, sl.pc + 1, sl.pc + 1 + bits w 96 79, bits w 112 97⟩ :: sl.loops } 1))

/-- Phases and the end of a task: MOVE and COMPUTE set the phase, COMPUTE once the weir holds no phase back (R225, R466); a slot whose task has ended
frees when nothing of it is left in the ME and the VU (R231). -/
def Obligations.PhasesAndSlotFreeComplete : Prop :=
  ∀ (s u : State) (core : CoreId) (i : Nat) (sl : Slot) (w v : Nat),
    (s.atOp core i sl .move w v u → ∃ t, exec (.phaseMove core) s = .next t ∧ (t.core core).slot i = Slot.advance { sl with compute := false } 1) ∧
    (s.atOp core i sl .compute w v u → u.phaseHold = false →
      ∃ t, exec (.phaseCompute core) s = .next t ∧ (t.core core).slot i = Slot.advance { sl with compute := true } 1) ∧
    (s.atOp core i sl .compute w v u → u.phaseHold = true → exec (.phaseCompute core) s = .next u) ∧
    (∀ slot : SlotId, ((s.core core).slot slot).ending = true → (s.core core).busy slot = false →
      ∃ t, exec (.slotFree core slot) s = .next t ∧ ((t.core core).slot slot).ending = false ∧ ((t.core core).slot slot).state = 0) ∧
    (∀ slot : SlotId, (s.core core).busy slot = true → exec (.slotFree core slot) s = .next s)

/-- Barrier operations on a counter bound to the task's context: WAIT consumes the target when the count has reached it and waits in its slot when not;
TARGET sets the target; TEST sets a predicate; ARRIVE sends one message, to its own core through the on-chip network (R227, R252, Table 8.8). -/
def Obligations.BarrierOperationsComplete : Prop :=
  ∀ (s u : State) (core : CoreId) (i : Nat) (sl : Slot) (w v : Nat),
    (s.atOp core i sl .wait w v u → (u.core core).boundBar sl.tag (bits w 115 110) = true →
      ((u.core core).bar (bits w 115 110)).waiter = none →
      ((u.core core).bar (bits w 115 110)).target ≤ ((u.core core).bar (bits w 115 110)).count →
      ∃ t, exec (.barrierWait core) s = .next t ∧ (t.core core).slot i = sl.advance 1 ∧
        (t.core core).bar (bits w 115 110) = { (u.core core).bar (bits w 115 110) with
          count := ((u.core core).bar (bits w 115 110)).count - ((u.core core).bar (bits w 115 110)).target }) ∧
    (s.atOp core i sl .wait w v u → (u.core core).boundBar sl.tag (bits w 115 110) = true →
      ((u.core core).bar (bits w 115 110)).waiter = none →
      ((u.core core).bar (bits w 115 110)).count < ((u.core core).bar (bits w 115 110)).target →
      ∃ t, exec (.barrierWait core) s = .next t ∧ ((t.core core).slot i).state = 3 ∧ ((t.core core).slot i).waitCtr = bits w 115 110 ∧
        ((t.core core).slot i).pc = (sl.advance 1).pc ∧ ((t.core core).bar (bits w 115 110)).waiter = some (.slot i)) ∧
    (s.atOp core i sl .target w v u → (u.core core).boundBar sl.tag (bits w 115 110) = true →
      ∃ t, exec (.barrierTarget core) s = .next t ∧ ((t.core core).bar (bits w 115 110)).target = bits w 109 87) ∧
    (s.atOp core i sl .test w v u → (u.core core).boundBar sl.tag (bits w 115 110) = true →
      ∃ t, exec (.barrierTest core) s = .next t ∧
        (t.core core).slot i = Slot.advance { sl with
          preds := sl.preds.set (bits w 64 63) (decide (((u.core core).bar (bits w 115 110)).target ≤ ((u.core core).bar (bits w 115 110)).count)) } 1) ∧
    (s.atOp core i sl .arrive w v u → bits w 109 87 ≠ 0 → bits w 72 65 ≤ 191 → (u.core core).busy i = false → u.isHere (bits w 86 73) = true →
      ∃ t, exec (.barrierArrive core) s = .next t ∧ (t.core core).slot i = sl.advance 1 ∧
        t.out = u.out ++ [.culvert (u.message (bits w 86 73) (bits w 72 65) 0x01 sl.tag core 0 (bits w 115 110 + 256 * bits w 109 87))])

/-- MATRIX whose operands validate in the COMPUTE phase queues in the matrix engine and the task moves past both words, at once when M is zero; alone in the engine, its first
tile and its check vectors fill the shadow. In the MOVE phase, or with a fault at validation, its context faults. ME_SWAP makes the shadow the active tile, or ends the operation
with the status its fill met. ME_GROUP_DRAIN of a group whose rows all pass commits accumulators, check states and converted outputs, and moves to the next group, the next pass
or the end; a first breach commits nothing and the pass is tried once more from this group; a lasting one makes the core suspect. -/
def Obligations.MatrixComplete : Prop :=
  ∀ (s : State) (core : CoreId),
    (∀ (u : State) (i : Nat) (sl : Slot) (w v : Nat), s.atOp core i sl .matrix w v u → sl.compute = true →
      (matrixOp i sl w v).fault (u.core core) sl w v = none →
      ((matrixOp i sl w v).m = 0 → ∃ t, exec (.matrix core) s = .next t ∧ (t.core core).slot i = sl.advance 2 ∧ (t.core core).me = (u.core core).me) ∧
      ((matrixOp i sl w v).m ≠ 0 → (u.core core).me.length < 2 → (matrixOp i sl w v).handles.any (fun h => (u.core core).accumulating i h) = false →
        (u.core core).awaits (matrixOp i sl w v).regions = false →
        ((matrixOp i sl w v).draws && (u.core core).vu.any (fun x => x.slot == i && x.draws)) = false →
        ∃ t, exec (.matrix core) s = .next t ∧ (t.core core).slot i = sl.advance 2 ∧ (t.core core).ops = (u.core core).ops ++ [matrixOp i sl w v] ∧
          (t.core core).spm = (u.core core).spm ∧ t.hbm = u.hbm ∧
          ((u.core core).me = [] → (t.core core).me = [{ matrixOp i sl w v with
            shadow := some ((u.setCore core { u.core core with me := [matrixOp i sl w v] }).fillTile core (matrixOp i sl w v) 0).1 }]))) ∧
    (∀ (u : State) (i : Nat) (sl : Slot) (w v : Nat) (st : Status), s.atOp core i sl .matrix w v u →
      (sl.compute = false ∧ st = .descInvalid ∨ sl.compute = true ∧ (matrixOp i sl w v).fault (u.core core) sl w v = some st) →
      ∃ t, exec (.matrix core) s = .next t ∧ u.faults t sl.tag st ∧ t.cores = u.cores ∧ t.hbm = u.hbm) ∧
    (∀ (o : MeOp) (rest : List MeOp) (feed : Nat) (f : MeShadow) (u : State), (s.core core).me = o :: rest → o.active = false → (s.core core).rst < 2 →
      (match o.shadow with
        | some f => (f, s)
        | none => s.fillTile core o o.pass) = (f, u) →
      (f.error = none → ∃ t, exec (.meSwap core feed) s = .next t ∧
        (t.core core).ops = { o with active := true, tile := f.tile, shadow := none } :: rest.map MeOp.bare ∧ (t.core core).meForm = o.form ∧
        (t.core core).spm = (u.core core).spm ∧ t.hbm = u.hbm) ∧
      (∀ st, f.error = some st → ∃ t, exec (.meSwap core feed) s = .next t ∧ s.faults t o.tag st ∧ (t.core core).ops = rest.map MeOp.bare)) ∧
    (∀ (o : MeOp) (rest : List MeOp) (drain : Nat) (hit : GroupHit) (inv : Invoke) (mv ms : Bytes) (buf : List (Nat × Bytes))
      (olds : List (List Nat × RowCheck)) (u1 u2 u : State),
      (s.core core).me = o :: rest → o.active = true → (s.core core).rst < 2 →
      s.overfills (tagIndex o.tag) ((s.bump F.coreMeFrzDrainCount core drain).runGroup core o hit) = false → (s.ctx (tagIndex o.tag)).inv = some inv →
      ¬ (o.pass = 0 ∧ o.group = 0 ∧ o.start = false ∧ o.firstGroupBad (s.chainCounts core o) = true) →
      (s.bump F.coreMeFrzDrainCount core drain).bufferedRead core o.tag (o.handles.getD 1 0)
        (o.mv + (o.pass * o.mPad + 8 * o.group) * o.kForm * bitsOf o.mfmt / 8) (o.kForm * bitsOf o.mfmt) o.buffer = (.ok mv, buf, u1) →
      u1.movingScales core { o with buffer := buf } = (.ok ms, u2) →
      u2.drainRead core { o with buffer := buf } (min 8 (o.m - 8 * o.group)) = (some olds, u) →
      let rows := o.rowResults inv.kappa mv ms olds hit
      let converts := o.final && o.pass + 1 == o.count && o.ofmt != 0
      (rows.any (fun r => !r.ok) = true → o.retrying = false →
        ∃ t, exec (.meGroupDrain core drain hit) s = .next t ∧
          (t.core core).ops = { o with
            buffer := buf, active := false, shadow := none, retrying := true, retries := o.retries + 1, supply := o.supply || s.inSupply } :: rest.map MeOp.bare ∧
          (t.core core).spm = (u.core core).spm ∧ t.hbm = u.hbm) ∧
      (rows.any (fun r => !r.ok) = true → o.retrying = true →
        ∃ t, exec (.meGroupDrain core drain hit) s = .next t ∧ (t.core core).ops = rest.map MeOp.bare ∧ t.isSuspect core = true ∧
          u.faults t o.tag .breachLasting ∧ (t.core core).spm = (u.core core).spm ∧ t.hbm = u.hbm) ∧
      (∀ (outs : Option (List (List Nat))) (u' u'' : State), rows.any (fun r => !r.ok) = false →
        (converts = false ∧ outs = none ∧ u' = u ∨
          ∃ f codes ratio after, converts = true ∧ outFormat o.ofmt = some f ∧ outs = some codes ∧ u' = u.setRng core (tagIndex o.tag) after ∧
            convertGroup o f inv.kappa (bit inv.drainChk (4 - o.ofmt)) (u.rng core (tagIndex o.tag))
              (rows.map (fun r => r.acc.map (fun v => if o.cls = .int then ofInt32 v else fp32.decode v))) hit.conv = (codes, true, ratio, after)) →
        u'.commitGroup core o rows outs = (true, u'') →
        ∃ t, exec (.meGroupDrain core drain hit) s = .next t ∧ (t.core core).spm = (u''.core core).spm ∧ t.hbm = u''.hbm ∧
          (8 * (o.group + 1) < o.m → ∃ x, (t.core core).ops = x :: rest.map MeOp.bare ∧ x.group = o.group + 1 ∧ x.pass = o.pass ∧ x.active = true) ∧
          (o.m ≤ 8 * (o.group + 1) → o.pass + 1 < o.count →
            ∃ x, (t.core core).ops = x :: rest.map MeOp.bare ∧ x.group = 0 ∧ x.pass = o.pass + 1 ∧ x.active = false ∧ x.retrying = false) ∧
          (o.m ≤ 8 * (o.group + 1) → o.count ≤ o.pass + 1 → (t.core core).ops = rest.map MeOp.bare)))

/-- VECTOR, SFU and MICRO in the COMPUTE phase whose fields and regions pass their checks queue in the vector unit with their word and operands, and the task moves past
both words; no memory changes. In the MOVE phase or with fields the function does not take the context faults with DESC_INVALID, as MICRO of a program that the store
does not hold does; a program of another tag gives ACCESS_VIOLATION. -/
def Obligations.VectorIssueComplete : Prop :=
  ∀ (s u : State) (core : CoreId) (i : Nat) (sl : Slot) (w v : Nat),
    let c := u.core core
    let ops := vecOperands sl v
    let f := sfuFields w
    let fl := fun (x : Nat) => x == 8 || x == 11
    (s.atOp core i sl .vector w v u →
      let rs := (vecFields w).regions ops
      (sl.compute = false ∨ (vecFields w).ok = false ∨ regionOk (vecFields w).rows (vecFields w).cols = false →
        ∃ t, exec (.vector core) s = .next t ∧ u.faults t sl.tag .descInvalid ∧ t.cores = u.cores ∧ t.hbm = u.hbm) ∧
      (sl.compute = true → (vecFields w).ok = true → regionOk (vecFields w).rows (vecFields w).cols = true → c.regionFault sl.tag rs = none → c.overlaps rs = false →
        c.vuWaits i rs = false →
        (∀ t r k, c.ebbSlot (ops.getD 3 (0, 0)).1 (ops.getD 3 (0, 0)).2 = some (t, r, k) →
          ebbOk (vecFields w) (ops.getD 0 (0, 0) == ops.getD 3 (0, 0)) (ops.getD 3 (0, 0)).2
            (match t.trailEntry r k with | some e => c.trailers.get (zeros 16) e | none => zeros 16) (t.members * t.len) = true) →
        (∀ e, (c.ebbSlot (ops.getD 3 (0, 0)).1 (ops.getD 3 (0, 0)).2).bind (fun p => p.1.trailEntry p.2.1 p.2.2) = some e →
          c.vu.any (fun x => x.ebb == some e) = false) →
        ((vecFields w).fn == 0x0C && isMx (vecFields w).fd && (c.ebbSlot (ops.getD 2 (0, 0)).1 (ops.getD 2 (0, 0)).2).isSome) = false →
        ((vecFields w).draws && c.me.any (fun x => x.slot == i && x.draws)) = false →
        ∃ t o, exec (.vector core) s = .next t ∧ (t.core core).vu = c.vu ++ [o] ∧ o.kind = .vector ∧ o.word = w ∧ o.batch = 0 ∧ o.tag = sl.tag ∧ o.slot = i ∧
          [(o.a), o.b, o.c, o.d] = ops.map (·.2) ∧ (t.core core).slot i = sl.advance 2 ∧ (t.core core).spm = c.spm ∧ t.hbm = u.hbm)) ∧
    (s.atOp core i sl .sfu w v u → sl.compute = true → f.prog ≤ 1 → fl f.fa = true → fl f.fd = true → regionOk f.rows f.cols = true →
      c.regionFault sl.tag (f.regions ops false) = none → c.overlaps (f.regions ops false) = false → c.vuWaits i (f.regions ops false) = false →
      ∃ t o, exec (.sfu core) s = .next t ∧ (t.core core).vu = c.vu ++ [o] ∧ o.kind = .sfu ∧ o.word = w ∧ o.batch = 0 ∧ o.program = [] ∧
        (t.core core).slot i = sl.advance 2 ∧ (t.core core).spm = c.spm ∧ t.hbm = u.hbm) ∧
    (s.atOp core i sl .sfu w v u → (sl.compute = false ∨ (decide (f.prog ≤ 1) && fl f.fa && fl f.fd && regionOk f.rows f.cols) = false) →
      ∃ t, exec (.sfu core) s = .next t ∧ u.faults t sl.tag .descInvalid ∧ t.cores = u.cores ∧ t.hbm = u.hbm) ∧
    (s.atOp core i sl .micro w v u →
      let ok := fl f.fa && (!secondSource v || fl f.fb) && fl f.fd && regionOk f.rows f.cols && f.mb != 3
      (sl.compute = false ∨ ok = false ∨ (c.uprog f.prog).valid = false →
        ∃ t, exec (.micro core) s = .next t ∧ u.faults t sl.tag .descInvalid ∧ t.cores = u.cores ∧ t.hbm = u.hbm) ∧
      (sl.compute = true → ok = true → (c.uprog f.prog).valid = true → (c.uprog f.prog).lib = false → (c.uprog f.prog).owner ≠ sl.tag →
        ∃ t, exec (.micro core) s = .next t ∧ u.faults t sl.tag .accessViolation ∧ t.cores = u.cores ∧ t.hbm = u.hbm)) ∧
    (s.atOp core i sl .micro w v u → sl.compute = true → fl f.fa = true → (secondSource v = true → fl f.fb = true) → fl f.fd = true → f.mb ≠ 3 →
      regionOk f.rows f.cols = true → (c.uprog f.prog).valid = true → ((c.uprog f.prog).lib = true ∨ (c.uprog f.prog).owner = sl.tag) →
      c.regionFault sl.tag (f.regions ops (secondSource v)) = none → c.overlaps (f.regions ops (secondSource v)) = false →
      c.vuWaits i (f.regions ops (secondSource v)) = false →
      ∃ t o, exec (.micro core) s = .next t ∧ (t.core core).vu = c.vu ++ [o] ∧ o.kind = .micro ∧ o.word = w ∧ o.batch = 0 ∧
        o.program = (List.range (c.uprog f.prog).length).map (fun k => c.uword ((c.uprog f.prog).base + k)) ∧
        (t.core core).slot i = sl.advance 2 ∧ (t.core core).spm = c.spm ∧ t.hbm = u.hbm)

/-- VECTOR_BATCH of an operation whose inputs can be read: its results are written where the operation says and nowhere else the write does not reach, the next batch
follows, and the last one ends the operation; inputs that fail end it with their status. Rails that disagree twice write nothing, make the core suspect and fault the context with BREACH_LASTING. ULOAD of a valid
program with expert features on puts its words and its entry in the store. -/
def Obligations.BatchesComplete : Prop :=
  ∀ (s : State) (core : CoreId),
    (∀ (o : VuOp) (rest : List VuOp) (rails : Rails), (s.core core).vu = o :: rest → (s.core core).rst < 2 →
      s.overfills (tagIndex o.tag) (s.runBatch core o rails) = false →
      (∀ (b : BatchOut) (u v : State), rails ≠ .lasting → s.batchOut core o = (.ok b, u) →
        (match b.rng with | some r => u.setRng core (tagIndex o.tag) r | none => u).putWrites core b.writes = (true, v) →
        ∃ t, exec (.vectorBatch core rails) s = .next t ∧ (t.core core).spm = (v.core core).spm ∧ t.hbm = v.hbm ∧
          (o.batch + 1 < o.total → (t.core core).vu = { b.op with batch := o.batch + 1, retries := o.retries + b2n (rails == .transient), supply := (b.op.supply || ((rails == .transient) && s.inSupply)) } :: rest) ∧
          (o.total ≤ o.batch + 1 → (t.core core).vu = rest)) ∧
      (∀ (b : BatchOut) (u : State), rails = .lasting → s.batchOut core o = (.ok b, u) →
        ∃ t, exec (.vectorBatch core rails) s = .next t ∧ (t.core core).vu = rest ∧ t.isSuspect core = true ∧ s.faults t o.tag .breachLasting ∧
          (t.core core).spm = (u.core core).spm ∧ t.hbm = u.hbm) ∧
      (∀ (st : Status) (u : State), s.batchOut core o = (.error st, u) →
        ∃ t, exec (.vectorBatch core rails) s = .next t ∧ (t.core core).vu = rest ∧ s.faults t o.tag st ∧
          (t.core core).spm = (u.core core).spm ∧ t.hbm = u.hbm) ∧
      (let size := o.shape.2.2
       let total := o.shape.1 * o.shape.2.1
       let first := o.batch * size
       let n := min size (total - first)
       (∀ (codes scales : List Nat) (rng : Rng) (u u1 u2 : State), rails ≠ .lasting → o.kind = .vector → o.ebb = none →
         s.vecBatch core o first n = (some (codes, scales, rng), u) →
         (u.setRng core (tagIndex o.tag) rng).writeCodes core o.dHandle o.d (bitsOf (vecFields o.word).fd) first codes = (true, u1) →
         u1.writeCodes core (o.handles.getD 2 0) o.c 8 (first / 32) scales = (true, u2) →
         ∃ t, exec (.vectorBatch core rails) s = .next t ∧ (t.core core).spm = (u2.core core).spm ∧ t.hbm = u2.hbm) ∧
       (∀ (codes : List Nat) (u u1 : State), rails ≠ .lasting → (o.kind = .sfu ∨ o.kind = .micro) → s.sfuBatch core o first n = (some codes, u) →
         u.writeCodes core o.dHandle o.d (bitsOf (sfuFields o.word).fd) first codes = (true, u1) →
         ∃ t, exec (.vectorBatch core rails) s = .next t ∧ (t.core core).spm = (u1.core core).spm ∧ t.hbm = u1.hbm))) ∧
    (∀ (u x : State) (i : Nat) (sl : Slot) (w v : Nat) (bs : Bytes), s.atOp core i sl .uload w v u →
      let prog := bits w 115 110
      let entry := bits w 109 100
      let len := bits w 99 94
      let a := addr sl (bits w 93 65)
      let p := (u.core core).polder a.1
      let ws := (List.range len).map (fun k => field bs (8 * k) 8)
      len ≠ 0 → len ≤ 32 → 16 ≤ prog → 256 ≤ entry → entry + len ≤ 1024 → p.valid = true → p.owner = sl.tag → p.code = true →
      256 * a.2 + 8 * len ≤ p.length * granule → (u.core core).vu.any (fun o => o.kind == .micro && (sfuFields o.word).prog == prog) = false →
      (((u.core core).uprog prog).valid = true → ((u.core core).uprog prog).owner = sl.tag) →
      (∀ x ∈ (u.core core).udir, x.2.valid = true → x.1 = prog ∨ entry + len ≤ x.2.base ∨ x.2.base + x.2.length ≤ entry) →
      u.spmRead core ((u.core core).abs a.1 (256 * a.2)) (8 * len) = (some bs, x) → (∀ k, k < len → microOk (ws.getD k 0) (k + 1 == len) = true) →
      ∃ t, exec (.uload core) s = .next t ∧ (t.core core).uprog prog = ⟨true, false, sl.tag, entry, len⟩ ∧
        (∀ k, k < len → (t.core core).uword (entry + k) = field bs (8 * k) 8) ∧ (t.core core).slot i = sl.advance 1 ∧ t.hbm = x.hbm)

/-- The six row statistics operations in the COMPUTE phase, with fields their function takes, regions that pass their checks and nothing to wait for, queue in the vector unit with
their word and operands, and the task moves past both words; in an empty vector unit the first batch runs at once (log entry 14), else no memory changes; with no element per row an
UPDATE is complete at once. A batch of rows that take one batch
each, with data and records that can be read, writes the records of the function (MOMENTS_FINAL writes none), then C, then D, where they are enabled, and the
last batch ends the operation; a batch whose records or data end in a fault writes nothing, and its context faults with that status; rails that disagree twice fault with
BREACH_LASTING. -/
def Obligations.RowStatisticsComplete : Prop :=
  (∀ (s u : State) (core : CoreId) (rails : Rails) (i : Nat) (sl : Slot) (w v : Nat) (cmd : CoreId → Rails → Instr),
    (cmd, bits w 115 112) ∈ [(Instr.momentsUpdate, 0), (Instr.momentsMerge, 1), (Instr.momentsFinal, 2), (Instr.softmaxUpdate, 3), (Instr.softmaxMerge, 4),
      (Instr.softmaxFinal, 5)] →
    s.atOp core i sl .rowstat w v u → sl.compute = true → (rowFields w).ok = true →
    let f := rowFields w
    let ops := vecOperands sl v
    let rs := f.regions ops
    (f.isUpdate = true → f.e = 0 → ∃ t, exec (cmd core rails) s = .next t ∧ (t.core core).slot i = sl.advance 2 ∧ (t.core core).spm = (u.core core).spm ∧
      t.hbm = u.hbm ∧ (t.core core).vu = (u.core core).vu) ∧
    ((f.isUpdate = true → f.e ≠ 0) → (u.core core).regionFault sl.tag rs = none → (u.core core).overlaps rs = false → (u.core core).vuWaits i rs = false →
      ∃ t o, (t.core core).vu = (u.core core).vu ++ [o] ∧ o.kind = .rowstat ∧ o.word = w ∧ o.batch = 0 ∧ o.tag = sl.tag ∧ o.slot = i ∧
        o.row = none ∧ o.handles = ops.map (·.1) ∧ [o.a, o.b, o.c, o.d] = ops.map (·.2) ∧ (t.core core).slot i = sl.advance 2 ∧
        (t.core core).spm = (u.core core).spm ∧ t.hbm = u.hbm ∧
        ((u.core core).vu ≠ [] → exec (cmd core rails) s = .next t) ∧
        ((u.core core).vu = [] → exec (cmd core rails) s = exec (.vectorBatch core rails) t))) ∧
  (∀ (s : State) (core : CoreId) (o : VuOp) (rest : List VuOp) (rails : Rails), (s.core core).vu = o :: rest → (s.core core).rst < 2 → o.kind = .rowstat → o.row = none →
    let f := rowFields o.word
    let first := o.batch * f.perBatch
    f.parts = 1 → s.overfills (tagIndex o.tag) (s.runBatch core o rails) = false →
    (∀ (st : Status) (u : State), s.rowPart core o f first (min f.perBatch (f.rows - first)) = (.error st, u) →
      ∃ t, exec (.vectorBatch core rails) s = .next t ∧ s.faults t o.tag st ∧ (t.core core).vu = rest ∧ (t.core core).spm = (u.core core).spm ∧ t.hbm = u.hbm) ∧
    (∀ (r : RowPart) (u : State), s.rowPart core o f first (min f.perBatch (f.rows - first)) = (.ok r, u) →
      (rails = .lasting → ∃ t, exec (.vectorBatch core rails) s = .next t ∧ s.faults t o.tag .breachLasting ∧ t.isSuspect core = true ∧ (t.core core).vu = rest ∧
        (t.core core).spm = (u.core core).spm ∧ t.hbm = u.hbm) ∧
      (∀ v : State, rails ≠ .lasting →
        u.putWrites core ((if r.probs.isEmpty then [] else [⟨o.handles.getD 2 0, o.c, bitsOf f.cfmt, first * f.e, r.probs⟩]) ++ r.rest) = (true, v) →
        ∃ t, exec (.vectorBatch core rails) s = .next t ∧ (t.core core).spm = (v.core core).spm ∧ t.hbm = v.hbm ∧
          (o.batch + 1 < f.batches → (t.core core).vu = { o with batch := o.batch + 1, retries := o.retries + b2n (rails == .transient), supply := (o.supply || ((rails == .transient) && s.inSupply)) } :: rest) ∧
          (f.batches ≤ o.batch + 1 → (t.core core).vu = rest))))

/-- ALLOC by best fit makes the polder the task's own, at a base that no valid polder holds and with its generation kept; one that fails records its reason and faults the
context. FREE of a polder nothing still uses clears its entry with GEN one up and queues its granules. RELEASE of no slots moves on. DREDGER_READ of an undamaged row
moves to the next, the last one counting a sweep; DREDGER_ZERO_GRANULE writes the oldest freed granule with zeros and leaves every other byte. -/
def Obligations.HandlesComplete : Prop :=
  ∀ (s u : State) (core : CoreId) (i : Nat) (sl : Slot) (w v : Nat),
    (s.atOp core i sl .alloc w v u →
      (∀ reason, (u.core core).allocFail (allocWord w) = some reason →
        ∃ t, exec (.handleAlloc core) s = .next t ∧ u.faults t sl.tag .descInvalid ∧ t.cores = u.cores ∧
          (u.flag F.spmAllocFailValid core = false → t.flag F.spmAllocFailValid core = true ∧ t.getF F.spmAllocFailReason core = reason ∧
            t.getF F.spmAllocFailHandle core = bits w 115 108)) ∧
      ((u.core core).allocFail (allocWord w) = none →
        ∃ t p, exec (.handleAlloc core) s = .next t ∧ (t.core core).slot i = sl.advance 1 ∧ (t.core core).polder (bits w 115 108) = p ∧ p.valid = true ∧
          p.owner = sl.tag ∧ p.length = bits w 107 99 ∧ p.gen = ((u.core core).polder (bits w 115 108)).gen ∧
          bestFit (u.core core).freeRuns (bits w 107 99) = some p.base ∧ (∀ g, p.base ≤ g → g < p.base + p.length → inRuns (u.core core).used g = false) ∧
          (∀ h, h ≠ bits w 115 108 → (t.core core).polder h = (u.core core).polder h) ∧ (t.core core).spm = (u.core core).spm ∧ t.hbm = u.hbm)) ∧
    (s.atOp core i sl .free w v u → (u.core core).check sl.tag (bits w 115 108) 0 0 = none → (u.core core).touches i (bits w 115 108) = false →
      (u.core core).armedOn (bits w 115 108) = false → (u.core core).allocating (bits w 115 108) = false → ((u.core core).polder (bits w 115 108)).sluice = false →
      ∃ t, exec (.handleFree core) s = .next t ∧ (t.core core).slot i = sl.advance 1 ∧
        (t.core core).polder (bits w 115 108) = { Polder.empty with gen := (((u.core core).polder (bits w 115 108)).gen + 1) % 64 } ∧
        (∀ h, h ≠ bits w 115 108 → (t.core core).polder h = (u.core core).polder h) ∧
        (∀ k, k < ((u.core core).polder (bits w 115 108)).length → ((u.core core).polder (bits w 115 108)).base + k ∈ (t.core core).zeroing) ∧
        (t.core core).spm = (u.core core).spm ∧ t.hbm = u.hbm) ∧
    (s.atOp core i sl .release w v u → bits w 107 97 = 0 → ∃ t, exec (.handleRelease core) s = .next t ∧ (t.core core).slot i = sl.advance 1 ∧
      (t.core core).ht = (u.core core).ht ∧ (t.core core).spm = (u.core core).spm ∧ t.hbm = u.hbm) ∧
    (s.atOp core i sl .release w v u → bits w 107 97 ≠ 0 → (u.core core).check sl.tag (bits w 115 108) 0 0 = none →
      (u.core core).touches i (bits w 115 108) = false → ∀ x, u.releaseSlots core (bits w 115 108) (bits w 107 97) = .ok x →
      ∃ t, exec (.handleRelease core) s = .next t ∧ (t.core core).slot i = sl.advance 1 ∧ (t.core core).ht = (x.core core).ht ∧ (t.core core).spm = (x.core core).spm) ∧
    ((s.core core).rst = 0 → s.stopped = false → (s.core core).spmErr = [] → (s.core core).spmPassing = [] →
      ∃ t, exec (.dredgerRead core Noise.none [] []) s = .next t ∧ (t.core core).spm = (s.core core).spm ∧ t.hbm = s.hbm ∧
        ((s.core core).dredgeRow + 1 < 12288 → (t.core core).dredgeRow = (s.core core).dredgeRow + 1 ∧ t.regs = s.regs) ∧
        (12288 ≤ (s.core core).dredgeRow + 1 → (t.core core).dredgeRow = 0 ∧
          t.getF F.spmDredgeSweeps core = (s.getF F.spmDredgeSweeps core + 1) % 2 ^ 16)) ∧
    (∀ g gs, (s.core core).zeroing = g :: gs → (s.core core).spm.wf = true →
      ∃ t, exec (.dredgerZeroGranule core) s = .next t ∧ ((s.core core).frees = [] → (t.core core).zeroing = gs.filter (fun x => x != g)) ∧ t.hbm = s.hbm ∧
        ∀ a, (t.core core).spm.read a = (if granule * g ≤ a ∧ a < granule * (g + 1) then 0 else (s.core core).spm.read a))

/-- STREAM_ARM of a bound, idle stream with a descriptor that validates starts its run with nothing issued, or of no elements completes at once; a busy stream holds it; one that does not validate faults the
context. STREAM_BLOCK_ISSUE with room and its source read puts the next block in flight, and issues again the reads of a block in flight that still needs them; no next block
goes out while the weir throttles phases. STREAM_RUN_END of a run that has written all and been acknowledged ends it with
OK and records its digest; a failed one, once its requests to other chips are answered, ends with its status, and the context faults, and till then nothing. -/
def Obligations.StreamsComplete : Prop :=
  ∀ (s : State) (core : CoreId),
    (∀ (u y : State) (i : Nat) (sl : Slot) (w v : Nat) (bs : Bytes), s.atOp core i sl .arm w v u →
      let j := bits w 115 111
      let a := addr sl (bits w 109 81)
      let off := 256 * a.2 + 128 * b2n (bit w 110)
      let p := (u.core core).polder a.1
      let x := (u.core core).strm j
      let ix := fun (f sh : Nat) => if sh = 31 then 0 else sl.lcs.getD f 0 * 2 ^ sh
      let d := streamDesc bs (unsigned 64 (signed 32 (bits w 63 32)) + ix (bits w 80 78) (bits w 77 73)) (unsigned 64 (signed 32 (bits w 31 0)) + ix (bits w 72 70) (bits w 69 65))
      p.valid = true → p.owner = sl.tag → p.code = true → off + 128 ≤ p.length * granule → x.bound = true → x.owner = sl.tag →
      u.spmRead core ((u.core core).abs a.1 off) 128 = (some bs, y) → (u.core core).me = [] → (u.core core).vu = [] →
      (x.run = none → (y.step1 core i 1).streamFault core j sl.tag d = none → d.total ≠ 0 →
        ∃ t r, exec (.streamArm core) s = .next t ∧ (t.core core).slot i = sl.advance 1 ∧ ((t.core core).strm j).run = some r ∧ r.desc = d ∧ r.total = d.blocks ∧
          r.issued = 0 ∧ r.written = 0 ∧ r.flight = [] ∧ (t.core core).spm = (u.core core).spm ∧ t.hbm = u.hbm) ∧
      (x.run = none → (y.step1 core i 1).streamFault core j sl.tag d = none → d.total = 0 →
        ∃ t, exec (.streamArm core) s = .next t ∧ (t.core core).slot i = sl.advance 1 ∧ ((t.core core).strm j).run = none ∧ ((t.core core).strm j).status = 0 ∧
          (t.core core).spm = (u.core core).spm ∧ t.hbm = u.hbm) ∧
      (x.run = none → ∀ st, (y.step1 core i 1).streamFault core j sl.tag d = some st →
        ∃ t, exec (.streamArm core) s = .next t ∧ y.faults t sl.tag st ∧ ((t.core core).strm j).run = none ∧ ((t.core core).strm j).status = st.code) ∧
      (∀ r, x.run = some r → x.held = none →
        ∃ t, exec (.streamArm core) s = .next t ∧ (t.core core).slot i = sl.advance 1 ∧ (t.core core).strm j = { x with held := some (d, off / 128) })) ∧
    (∀ (strm : StreamId) (r : Run) (src : Sourced) (u1 u : State), ((s.core core).strm strm).run = some r → (s.core core).rst = 0 →
      r.flight.find? (fun b => !b.asked) = none →
      s.live ((s.core core).strm strm).owner = true → s.phaseHold = false → r.status = .ok → r.loaded = true → (s.core core).moving = true →
      r.issued < s.passBlocks ((s.core core).strm strm).owner r → ((s.core core).strm strm).inFlight < 16 →
      (s.core core).strms.foldl (fun n p => n + p.2.inFlight) 0 < 64 → (r.pass = 1 → r.desc.isRing = true → ((s.core core).strm strm).credit ≠ 0) →
      s.overfills (tagIndex ((s.core core).strm strm).owner) (s.issueBlock core strm r) = false →
      (if r.desc.digest && r.pass == 1 then s.takeHash core strm (tagIndex ((s.core core).strm strm).owner) else (true, s)) = (true, u1) →
      u1.readBlock (seOf core) core ((s.core core).strm strm).owner r.desc r.issued [] = (src, u) → src.later = false →
      ∃ t b, exec (.streamBlockIssue core strm) s = .next t ∧ ((t.core core).strm strm).run = some { r with issued := r.issued + 1, flight := r.flight ++ [b] } ∧
        b.index = r.issued ∧ b.asked = true ∧ b.data = src.data ∧ b.tag = src.tag ∧ (src.remote = [] → b.waiting = 0 ∧ b.status = src.status) ∧
        (t.core core).spm = (u.core core).spm ∧ t.hbm = u.hbm) ∧
    (∀ (strm : StreamId) (r : Run) (b : StrmBlock) (src : Sourced) (u : State), ((s.core core).strm strm).run = some r → (s.core core).rst = 0 →
      r.flight.find? (fun b => !b.asked) = some b → r.desc.srcKind ≠ 2 →
      s.overfills (tagIndex ((s.core core).strm strm).owner) ((s.fillBlock core strm ((s.core core).strm strm).owner r.desc b).2.setBlock core strm
        (s.fillBlock core strm ((s.core core).strm strm).owner r.desc b).1) = false →
      s.readBlock (seOf core) core ((s.core core).strm strm).owner r.desc b.index b.tag = (src, u) → src.later = false →
      ∃ t x, exec (.streamBlockIssue core strm) s = .next t ∧
        ((t.core core).strm strm).run = some { r with flight := r.flight.map (fun y => if y.index == b.index then x else y) } ∧
        x.index = b.index ∧ x.asked = true ∧ x.data = src.data ∧ x.tag = src.tag ∧ x.status = src.status) ∧
    (∀ strm : StreamId, s.phaseHold = true → (∀ r, ((s.core core).strm strm).run = some r → r.flight.find? (fun b => !b.asked) = none) →
      exec (.streamBlockIssue core strm) s = .next s) ∧
    (∀ (strm : StreamId) (r : Run), ((s.core core).strm strm).run = some r → r.status = .ok → s.live ((s.core core).strm strm).owner = true →
      ((s.core core).strm strm).held = none → r.pass ≠ 0 → r.total ≤ r.written → r.flight = [] → r.acks = [] →
      s.overfills (tagIndex ((s.core core).strm strm).owner) (s.runEnd core strm r) = false →
      (bit r.desc.ctrl 9 = false →
        ∃ t, exec (.streamRunEnd core strm) s = .next t ∧ ((t.core core).strm strm).run = none ∧ ((t.core core).strm strm).status = 0 ∧ t.hbm = s.hbm ∧
          (t.core core).spm = (s.core core).spm ∧
          (r.desc.digest = true → ∀ v, (s.ctx (tagIndex ((s.core core).strm strm).owner)).inv = some v → v.desc.ctxTag = ((s.core core).strm strm).owner →
            ∃ v', (t.ctx (tagIndex ((s.core core).strm strm).owner)).inv = some v' ∧
              v'.digests.find r.desc.digestIndex = some (shake256 (natLe 8 r.digest.length ++ r.digest)))) ∧
      (∀ u, bit r.desc.ctrl 9 = true →
        (s.core core).check ((s.core core).strm strm).owner (r.desc.crcDst % 256) (r.desc.crcDst / 256) 4 true true = none →
        s.spmWrite core ((s.core core).abs (r.desc.crcDst % 256) (r.desc.crcDst / 256)) (natLe 4 (r.crc ^^^ 0xFFFFFFFF).toNat) = (true, u) →
        ∃ t, exec (.streamRunEnd core strm) s = .next t ∧ ((t.core core).strm strm).run = none ∧ ((t.core core).strm strm).status = 0 ∧
          (t.core core).spm = (u.core core).spm)) ∧
    (∀ (strm : StreamId) (r : Run), ((s.core core).strm strm).run = some r → r.status ≠ .ok → r.flight = [] → s.strmAsks core strm = true →
      exec (.streamRunEnd core strm) s = .next s) ∧
    (∀ (strm : StreamId) (r : Run), ((s.core core).strm strm).run = some r → r.status ≠ .ok → r.flight = [] → s.strmAsks core strm = false →
      s.overfills (tagIndex ((s.core core).strm strm).owner) (s.runEnd core strm r) = false →
      ∃ t, exec (.streamRunEnd core strm) s = .next t ∧ ((t.core core).strm strm).run = none ∧ ((t.core core).strm strm).status = r.status.code ∧
        s.faults t ((s.core core).strm strm).owner r.status ∧ (t.core core).spm = (s.core core).spm)

/-- STREAM_BLOCK_WRITE of an undamaged block writes it at its destination and takes it out of flight; one that fails its check goes back to its source once, and failing again
writes nothing and fails the run; the histogram pass only counts. EXPAND_BLOCK of a good block gives it the bytes it expands to; a damaged one goes back to its source once.
TABLE_LOAD puts a valid record's table in its slot; TABLE_BUILD_DONE ends the histogram pass, writes the record of the table built and puts the table in its slot. -/
def Obligations.StreamBlocksComplete : Prop :=
  ∀ (s : State) (core : CoreId) (strm : StreamId) (r : Run),
    let c := s.core core
    let d := r.desc
    let tag := (c.strm strm).owner
    (c.strm strm).run = some r → r.status = .ok → s.live tag = true →
    (∀ (b : StrmBlock) (rest : List StrmBlock) (ext : Bytes) (hit : Upset), r.flight = b :: rest → rest.all (fun y => y.index != b.index) = true → b.waiting = 0 →
      b.asked = true → b.status = .ok → c.rst < 2 → s.overfills (tagIndex tag) (s.writeBlock core strm r b ext hit) = false →
      let b' := b.take d ext
      (r.pass = 0 → d.srcCmp = false → ∃ t, exec (.streamBlockWrite core strm ext hit) s = .next t ∧ t.hbm = s.hbm ∧ (t.core core).spm = c.spm ∧
        ((t.core core).strm strm).run = some { r with hist := blockHistogram r.hist b'.data, written := r.written + 1, flight := rest }) ∧
      (r.pass ≠ 0 → d.srcCmp = false → crc32c (upsetBytes b'.data hit) ≠ crc32c b'.data →
        ∃ t x, exec (.streamBlockWrite core strm ext hit) s = .next t ∧ ((t.core core).strm strm).run = some x ∧ x.written = r.written ∧
          (b.again = false → x.status = .ok ∧ x.flight = b'.refetch d :: rest) ∧ (b.again = true → x.status = .damagedBlock) ∧
          t.hbm = s.hbm ∧ (t.core core).spm = c.spm) ∧
      (∀ (plain : Bytes) (u : State), r.pass ≠ 0 → (d.srcCmp = true → b.index < r.expanded ∧ plain = b.plain) →
        (d.srcCmp = false → crc32c (upsetBytes b'.data hit) = crc32c b'.data ∧ plain = upsetBytes b'.data hit) →
        let packed := packBlock (c.packTable r) (if d.dstKind = 0 then (c.polder d.dstHandle).classW else false) plain
        (s.setBlock core strm b').commitBlock core strm tag d b' plain
          (if d.stored then some (b'.tag, b'.data) else if d.pack then some (packed.tag, packed.payload) else none) = some (.ok, u) →
        ∃ t x, exec (.streamBlockWrite core strm ext hit) s = .next t ∧ ((t.core core).strm strm).run = some x ∧ x.written = r.written + 1 ∧ x.flight = rest ∧
          x.status = .ok ∧ (d.digest = true → x.digest = r.digest ++ plain) ∧ (t.core core).spm = (u.core core).spm ∧ t.hbm = u.hbm)) ∧
    (∀ (b : StrmBlock) (hit : Upset), r.flight.find? (fun x => x.index == r.expanded) = some b → d.srcCmp = true → b.asked = true → b.waiting = 0 → b.status = .ok →
      b.tag ≠ [] → c.rst < 2 →
      let all := upsetBytes (b.tag ++ b.data) hit
      let got := c.expand tag (slice all 0 64) (all.drop 64) (if d.dstKind = 0 then some (c.polder d.dstHandle).classW else none)
      (∀ bs, got = .bytes bs → ∃ t x, exec (.expandBlock core strm hit) s = .next t ∧ ((t.core core).strm strm).run = some x ∧ x.expanded = r.expanded + 1 ∧
        (∀ y ∈ x.flight, y.index = b.index → y.plain = slice bs 0 (d.blockLen b.index)) ∧ t.hbm = s.hbm ∧ (t.core core).spm = c.spm) ∧
      (∀ k, got = .damaged k → b.again = false → ∃ t x, exec (.expandBlock core strm hit) s = .next t ∧ ((t.core core).strm strm).run = some x ∧
        x.expanded = r.expanded ∧ (∀ y ∈ x.flight, y.index = b.index → y = b.refetch d) ∧ t.hbm = s.hbm ∧ (t.core core).spm = c.spm)) ∧
    (∀ (ext bs : Bytes) (u : State), r.loaded = false → c.rst = 0 → c.expanding d.tableSlot = false → c.foreign d.tableSlot tag = false →
      s.overfills (tagIndex tag) (s.tableLoad core strm r ext) = false → s.tableBytes core strm tag r ext = (some (.data bs), u) → validRecord bs = true →
      ∃ t, exec (.tableLoad core strm ext) s = .next t ∧ ((t.core core).strm strm).run = some { r with loaded := true } ∧
        (t.core core).tslots.get .clear d.tableSlot = ⟨true, tag, tableId (recordLens bs), recordLens bs⟩ ∧ t.hbm = u.hbm ∧ (t.core core).spm = c.spm) ∧
    (r.pass = 0 → s.passBlocks tag r ≤ r.written → c.rst = 0 → c.expanding d.tableSlot = false → c.foreign d.tableSlot tag = false →
      s.overfills (tagIndex tag) (s.tableBuild core strm r) = false →
      (buildTable r.hist = none → ∃ t, exec (.tableBuildDone core strm) s = .next t ∧
        ((t.core core).strm strm).run = some { r with pass := 1, issued := 0, written := 0 } ∧ t.hbm = s.hbm) ∧
      (∀ lens u, buildTable r.hist = some lens →
        (s.setRun core strm { r with pass := 1, issued := 0, written := 0, tableSlot := some d.tableSlot }).writeSide core strm tag
          { d with ctrl := setBits d.ctrl 3 2 d.tableKind } r.total d.table 0 (tableRecord lens) = (.ok, u) →
        ∃ t, exec (.tableBuildDone core strm) s = .next t ∧ ((t.core core).strm strm).run = ((u.core core).strm strm).run ∧
          (d.tableKind ≠ 2 → ((t.core core).strm strm).run = some { r with pass := 1, issued := 0, written := 0, tableSlot := some d.tableSlot }) ∧
          (t.core core).tslots.get .clear d.tableSlot = ⟨true, tag, tableId lens, lens⟩ ∧ t.hbm = u.hbm ∧ t.out = u.out))

/-- A culvert message that reaches a core. ARRIVE on a counter of its context adds its count, and is discarded and counted by a diked core; PUT writes its payload into
the polder and no other byte; a binding GRANT binds an idle entry, another adds credit to the entry of its sluice; RETURN takes a closing sluice's credit back, and frees
it at zero; CLOSE makes the entry idle. -/
def Obligations.CulvertsComplete : Prop :=
  ∀ (s u : State) (core : CoreId) (m : Culvert), s.receives m u →
    let c := u.core core
    ((u.core core).rst = 0 → (c.bar (bits m.arg 5 0)).bound = true → (c.bar (bits m.arg 5 0)).owner = m.ctxTag → (c.bar (bits m.arg 5 0)).waiter = none →
      (c.bar (bits m.arg 5 0)).count + bits m.arg 31 8 < 2 ^ 23 →
      ∃ t, exec (.arrive core m) s = .next t ∧
        (t.core core).bar (bits m.arg 5 0) = { c.bar (bits m.arg 5 0) with count := (c.bar (bits m.arg 5 0)).count + bits m.arg 31 8 } ∧
        (t.core core).spm = c.spm ∧ t.hbm = u.hbm ∧ t.regs = u.regs) ∧
    (c.rst ≠ 0 → exec (.arrive core m) s = .next (u.bump F.seqEventsBarDrop core) ∧ exec (.put core m) s = .next (u.bump F.seqEventsBarDrop core)) ∧
    (let p := c.polder (bits m.arg 7 0)
     c.rst = 0 → p.gen = m.gen → 1 ≤ m.len → m.len ≤ 48 → p.valid = true → p.owner = m.ctxTag → p.code = false →
      bits m.arg 31 8 + m.len ≤ p.length * granule → c.spmErr = [] → c.spmPassing = [] → c.spm.wf = true →
      ∃ t, exec (.put core m) s = .next t ∧ t.hbm = u.hbm ∧ t.regs = u.regs ∧
        (t.core core).spm.readN (c.abs (bits m.arg 7 0) (bits m.arg 31 8)) m.len = slice m.payload 0 m.len ∧
        ∀ a, a < c.abs (bits m.arg 7 0) (bits m.arg 31 8) ∨ c.abs (bits m.arg 7 0) (bits m.arg 31 8) + m.len ≤ a → (t.core core).spm.read a = c.spm.read a) ∧
    (let x := c.cred (bits m.arg 5 0)
     let n := bits m.arg 31 8
     (bit m.arg 6 = true → x.state = 0 →
      ∃ t, exec (.grant core m) s = .next t ∧ (t.core core).cred (bits m.arg 5 0) = { Credit.idle with
        state := if n = 0 then 2 else 1, owner := m.ctxTag, chip := m.srcChip, core := m.srcCore, gen := m.gen
        addr := field m.payload 0 8, slots := field m.payload 8 2, handle := field m.payload 10 1, credit := n } ∧ t.hbm = u.hbm ∧ t.regs = u.regs) ∧
     (bit m.arg 6 = false → c.boundTo m = true →
      ∃ t, exec (.grant core m) s = .next t ∧
        (t.core core).cred (bits m.arg 5 0) = { x with credit := x.credit + n, state := if x.credit + n = 0 then x.state else 1, timer := none } ∧
        t.hbm = u.hbm ∧ t.regs = u.regs) ∧
     (bit m.arg 6 = false → c.boundTo m = false →
      exec (.grant core m) s = .next (u.bump F.spmEventsStale core) ∧ exec (.close core m) s = .next (u.bump F.spmEventsStale core)) ∧
     (c.boundTo m = true → u.isHere x.chip = true →
      ∃ t, exec (.close core m) s = .next t ∧ (t.core core).cred (bits m.arg 5 0) = Credit.idle ∧
        t.out = u.out ++ [.culvert (u.message x.chip x.core 0x04 x.owner core x.gen (x.handle + 256 * x.credit))])) ∧
    (let p := c.polder (bits m.arg 7 0)
     p.gen = m.gen → p.valid = true → p.sluice = true → p.sluiceState = 2 →
      ∃ t, exec (.returnCredit core m) s = .next t ∧
        (bits m.arg 31 8 < p.credit → (t.core core).polder (bits m.arg 7 0) = { p with credit := p.credit - bits m.arg 31 8 }) ∧
        (p.credit ≤ bits m.arg 31 8 → (t.core core).polder (bits m.arg 7 0) = { Polder.empty with gen := (p.gen + 1) % 64 }) ∧
        (t.core core).spm = c.spm ∧ t.hbm = u.hbm)

/-- A culvert message that reaches a core of a running context. ALLOC places the polder, or not, and FREE frees it, and each is answered; from another chip in the held stage
of a service hold both are answered FENCED; REPLY with an error faults its context, once a refused binding GRANT has closed its sluice, and one without changes nothing; STALE for a task faults it; TASK loads the waiting task into its free slot, and an idle core runs it; a reserved type is
only counted. -/
def Obligations.HandleMessagesComplete : Prop :=
  ∀ (s u : State) (core : CoreId) (m : Culvert), s.receives m u →
    let c := u.core core
    (c.rst = 0 → (m.came.isSome = true → u.held = false) → u.alive m.ctxTag = true → u.isHere m.srcChip = true →
      (∀ x, u.alloc core m.ctxTag (allocMessage m) (some m) = .ok (true, x) →
        ∃ t, exec (.culvertAlloc core m) s = .next t ∧ t.cores = x.cores ∧
          x.puts t (.culvert (x.message m.srcChip m.srcCore 0x08 m.ctxTag core ((x.core core).polder (bits m.arg 7 0)).gen (256 * bits m.arg 7 0 + 65536 * m.type)))) ∧
      (∀ reason, u.alloc core m.ctxTag (allocMessage m) (some m) = .error reason →
        ∃ t, exec (.culvertAlloc core m) s = .next t ∧ t.cores = u.cores ∧ t.hbm = u.hbm ∧
          u.puts t (.culvert (u.message m.srcChip m.srcCore 0x08 m.ctxTag core (c.polder (bits m.arg 7 0)).gen
            (Status.descInvalid.code + 256 * bits m.arg 7 0 + 65536 * m.type))))) ∧
    (c.rst = 0 → m.came.isSome = true → u.held = true → u.isHere m.srcChip = true →
      ∀ k ∈ [Instr.culvertAlloc core m, .culvertFree core m], ∃ t, exec k s = .next t ∧ t.cores = u.cores ∧ t.hbm = u.hbm ∧
        u.puts t (.culvert (u.message m.srcChip m.srcCore 0x08 m.ctxTag core (c.polder (bits m.arg 7 0)).gen
          (Status.fenced.code + 256 * bits m.arg 7 0 + 65536 * m.type)))) ∧
    (let p := c.polder (bits m.arg 7 0)
     c.rst = 0 → (m.came.isSome = true → u.held = false) → p.gen = m.gen → p.valid = true → p.owner = m.ctxTag → p.sluice = false →
      c.armedOn (bits m.arg 7 0) = false → c.allocating (bits m.arg 7 0) = false → u.isHere m.srcChip = true →
      ∃ t, exec (.culvertFree core m) s = .next t ∧ (t.core core).polder (bits m.arg 7 0) = { Polder.empty with gen := (p.gen + 1) % 64 } ∧
        u.puts t (.culvert (u.message m.srcChip m.srcCore 0x08 m.ctxTag core ((p.gen + 1) % 64) (256 * bits m.arg 7 0 + 65536 * m.type))) ∧
        (t.core core).spm = c.spm ∧ t.hbm = u.hbm) ∧
    (∀ st, Status.ofCode (bits m.arg 7 0) = some st →
      (st.good = true → exec (.reply core m) s = .next u) ∧
      (st.good = false → bits m.arg 23 16 ≠ 3 → ∃ t, exec (.reply core m) s = .next t ∧ u.faults t m.ctxTag st ∧ t.cores = u.cores ∧ t.hbm = u.hbm) ∧
      (st.good = false → bits m.arg 23 16 = 3 → (c.polder (bits m.arg 15 8)).gen = m.gen → ∃ t, exec (.reply core m) s = .next t ∧
        (u.freePolder core (bits m.arg 15 8)).faults t m.ctxTag st ∧ t.cores = (u.freePolder core (bits m.arg 15 8)).cores ∧ t.hbm = u.hbm)) ∧
    (bits m.arg 7 0 ≠ 0 → ∃ t, exec (.stale core m) s = .next t ∧ u.faults t m.ctxTag .staleContext ∧ t.cores = u.cores ∧ t.hbm = u.hbm) ∧
    (bits m.arg 7 0 = 0 → ∃ t, exec (.stale core m) s = .next t ∧ t.getF F.spmEventsStale core = (u.bump F.spmEventsStale core).getF F.spmEventsStale core ∧
      t.cores = u.cores ∧ t.hbm = u.hbm) ∧
    (∀ w, c.queue.find? (fun w => w.tag == m.ctxTag && w.task == bits m.arg 31 8 && w.slot == some (bits m.arg 7 0)) = some w → c.rst = 0 →
      (c.slot (bits m.arg 7 0)).state = 0 → (c.slot (bits m.arg 7 0)).ending = false → u.live w.tag = true → bits m.arg 7 0 < 4 →
      ∃ t, exec (.task core m) s = .next t ∧ w ∉ (t.core core).queue ∧ ((t.core core).slot (bits m.arg 7 0)).codeHandle = w.codeHandle ∧
        ((t.core core).slot (bits m.arg 7 0)).pc = w.pc ∧ ((t.core core).slot (bits m.arg 7 0)).tag = w.tag ∧
        (c.running = none → (t.core core).running.isSome = true) ∧
        (∀ i, c.running = some i → ((t.core core).slot (bits m.arg 7 0)).state = 1)) ∧
    exec (.culvertReserved core m) s = .next (u.bump F.seqEventsCulvDrop core)

/-- BLOCK with its header in order, credit and an undamaged body: it is written in the next slot, takes its place in the sluice's order as checked, and spends a credit; a
first damage is recorded and asked for again with RESEND; without credit the context faults; one from another chip in the held stage of a service hold is answered FENCED.
BLOCK_FORWARD sends the next admitted block to the next core, or lets it go at its last
hop. LAND_TIMER acknowledges 1 µs after the first unacknowledged block. LAND lets the held blocks it covers go; RESEND sends a held one again. -/
def Obligations.TideBlocksComplete : Prop :=
  ∀ (s u : State) (core : CoreId),
    (∀ (came : Option PortId) (p : Packet) (hit : Hit) (h : Nat) (q : Polder), (came = none ∧ u = s ∨ ∃ n, came = some n ∧ s.delivered n p u) → p.type = 7 →
      u.stopped = false → (u.core core).rst = 0 → hit.first = [] → u.parked = [] →
      (came.isSome = true → u.held = true → u.isHere p.srcChip = true → ∃ t, exec (.block core came p hit) s = .next t ∧ t.cores = u.cores ∧ t.hbm = u.hbm ∧
        u.puts t (.culvert (u.message p.srcChip p.srcUnit 0x08 p.ctxTag core 0 Status.fenced.code))) ∧
      let c := u.core core
      let byte := p.offset % 2 ^ 50 - (0x2000000000000 + core.val * 0x1000000)
      let hdr := slice p.body 0 16
      let rest := (slice p.body 0 16 ++ p.body.drop 16).drop 16
      (came.isSome = true → u.held = false) → 0x2000000000000 + core.val * 0x1000000 ≤ p.offset % 2 ^ 50 → byte < spmBytes → c.polderAt (byte / granule) = some (h, q) → q.owner = p.ctxTag →
      q.sluice = true → q.sluiceState ≠ 2 → q.landed.all (fun b => !b.failed) = true →
      (q.credit = 0 → ∃ t, exec (.block core came p hit) s = .next t ∧ u.faults t q.owner .accessViolation ∧ t.cores = u.cores) ∧
      (q.credit ≠ 0 → (∀ t r, c.tideRole h = some (t, r) → u.headerFault q hdr t r = none) →
        (∀ bs, landingCheck c q.owner q (c.tideRole h).isSome p.check rest = .bytes bs → c.polder h = q →
          ∃ t x, exec (.block core came p hit) s = .next t ∧ (t.core core).polder h = x ∧ x.credit = q.credit - 1 ∧ x.nextSlot = (q.nextSlot + 1) % max 1 q.slots ∧
            x.landedCount = q.landedCount + 1 ∧ (∃ b ∈ x.landed, b.seq = q.landedCount ∧ b.slot = q.nextSlot ∧ b.checked = true ∧ b.header = hdr) ∧
            (t.core core).spm = ((u.putBlock core h q.nextSlot rest ((c.tideRole h).bind (fun (t, r) => t.trailEntry r q.nextSlot))).core core).spm ∧ t.hbm = u.hbm) ∧
        (∀ k, landingCheck c q.owner q (c.tideRole h).isSome p.check rest = .damaged k → c.polder h = q →
          ∃ t b, exec (.block core came p hit) s = .next t ∧ b ∈ ((t.core core).polder h).landed ∧ b.seq = q.landedCount ∧ b.failed = true ∧ b.checked = false ∧
            (t.core core).spm = c.spm ∧ t.hbm = u.hbm ∧ t.getF F.tideCoreResendCount core = (u.bump F.tideCoreResendCount core).getF F.tideCoreResendCount core ∧
            (u.isHere q.peerChip = true → u.puts t (.culvert (u.message q.peerChip q.peerCore 0x11 q.owner core q.gen
              (q.peerCredit + q.landedCount % 2 ^ 24 * 256))))))) ∧
    (∀ (handle : HandleId) (t0 : TideBind) (r : TideRole) (b : Landed), let c := s.core core
      c.tideRole handle = some (t0, r) → c.rst = 0 → (c.polder handle).valid = true → s.live t0.tag = true →
      (c.polder handle).landed.find? (fun b => !b.forwarded) = some b → b.checked = true →
      let ebb := r == .ebb || r == .ebbStart
      let leaves := if ebb then t0.entry else t0.exit
      let last := leaves && (if ebb then hdrOrigin b.header == t0.me else decide (t0.members ≤ hdrHops b.header + 1))
      (ebb = true → b.released = true) → (ebb = false → t0.nextAdmit = handle) →
      (last = true → ∃ t, exec (.blockForward core handle) s = .next t ∧ (t.core core).spm = c.spm ∧
        ∀ y ∈ ((t.core core).polder handle).landed, y.seq = b.seq → y.forwarded = true ∧ y.covered = true) ∧
      (∀ rest check x, let e := if ebb then t0.ebbCr else t0.tideCr
        last = false → (c.cred e).state ≠ 0 → (c.cred e).owner = (c.polder handle).owner → (c.cred e).credit ≠ 0 →
        s.slotBody core handle b.slot (t0.trailEntry r b.slot) = (some (rest, check), x) → s.isHere (c.cred e).chip = true →
        ∃ t, exec (.blockForward core handle) s = .next t ∧ ((t.core core).cred e).credit = (c.cred e).credit - 1 ∧ ((t.core core).cred e).sent = (c.cred e).sent + 1 ∧
          (∃ p, s.puts t (.block (c.cred e).core p) ∧ p.body.drop 16 = rest ∧ p.ctxTag = (c.cred e).owner) ∧ (t.core core).spm = c.spm)) ∧
    (∀ (handle : HandleId) (t0 : Nat), let p := (s.core core).polder handle
      p.firstUnacked = some t0 → p.valid = true → p.sluiceState = 1 → t0 + 1000 ≤ s.time → s.isHere p.peerChip = true →
      ∃ t, exec (.landTimer core handle) s = .next t ∧ (t.core core).polder handle = { p with ackedCount := p.passed, firstUnacked := none } ∧
        t.out = s.out ++ [.culvert (s.message p.peerChip p.peerCore 0x10 p.owner core p.gen (p.peerCredit + p.passed % 2 ^ 24 * 256))]) ∧
    (∀ (m : Culvert) (x : Credit), s.receives m u → (u.core core).creditFrom m = some x →
      (∃ t, exec (.land core m) s = .next t ∧ ((t.core core).cred (bits m.arg 5 0)).held = x.held.filter (fun b => !coveredBy (bits m.arg 31 8) b.seq) ∧
        ((t.core core).cred (bits m.arg 5 0)).credit = x.credit ∧ (t.core core).spm = (u.core core).spm ∧ t.hbm = u.hbm) ∧
      (∀ b, x.held.find? (fun b => b.seq == bits m.arg 31 8) = some b → u.honours x.owner = true → u.isHere x.chip = true →
        ∃ t p, exec (.resend core m) s = .next t ∧ t = { u with out := u.out ++ [.block x.core p] } ∧ p.body = b.bytes ∧ p.ctxTag = x.owner ∧
          p.offset = (x.addr + 2048 * b.slot) % 2 ^ 50)) ∧
    (∀ (m : Culvert), s.receives m u → (u.core core).creditFrom m = none → exec (.land core m) s = .next u ∧ exec (.resend core m) s = .next u)

/-- TIDE_SWITCH is registered, unless a service hold is held; PREPARE, from the leader, is kept or makes a member with a bound bank answer; PREPARED at the leader, with every member's answer in time,
commits to the step after the latest; COMMIT fixes the step, and one that finds nothing to commit is recorded only; ABORT, WITHDRAW and the two timeouts end it with TIMEOUT and fault no context. BREAK and HALT from a ring
member, and a ring link out of up past its timeout, end the ring's INVOKE and fault the context. -/
def Obligations.SwitchComplete : Prop :=
  ∀ (s u : State),
    (∀ (ctx : CtxId) (d : Desc), s.stopped = false → s.held = false → s.ctxState ctx = 1 → s.takeControl ctx 5 = some (d, u) → (s.ctx ctx).sw = none →
      field d.bytes 8 1 % 2 ≠ s.getF F.tideCtxBank ctx → s.leads ctx = false → (s.ctx ctx).prepared = none →
      ∃ t, exec (.tideSwitch ctx) s = .next t ∧ (t.ctx ctx).sw = some ⟨d, field d.bytes 8 1 % 2, field d.bytes 16 8, false, false, [], none⟩ ∧
        t.getF F.tideCtxSwitch ctx = 1 ∧ t.hbm = s.hbm ∧ t.cores = s.cores) ∧
    (∀ (m : Culvert), let i := tagIndex m.ctxTag
      s.receives m u → u.tag i = m.ctxTag → u.ctxState i = 1 →
      (m.type = 0x12 → u.fromLeader i m = true → (u.ctx i).sw = none →
        ∃ t, exec (.prepare m) s = .next t ∧ (t.ctx i).prepared = some (m.arg % 2) ∧ t = { u with ctxs := t.ctxs }) ∧
      (∀ w, m.type = 0x12 → u.fromLeader i m = true → (u.ctx i).sw = some w → w.bank = m.arg % 2 → w.preparedSent = false → u.leads i = false →
        (if w.bank = 0 then (u.ctx i).bank0 else (u.ctx i).bank1).digest.isSome = true → u.outside m.ctxTag (u.leader i) = false →
        ∃ t, exec (.prepare m) s = .next t ∧ (t.ctx i).sw = some { w with prepareSeen := true, preparedSent := true } ∧ t.getF F.tideCtxSwitch i = 2) ∧
      (∀ w, m.type = 0x13 → u.leads i = true → (u.ctx i).sw = some w → w.commit = none → u.time < w.deadline → (u.ringMembers i).contains m.srcChip = true →
        let answers := w.answers.filter (fun a => a.1 != m.srcChip) ++ [(m.srcChip, m.arg)]
        (∃ k ∈ u.ringMembers i, answers.all (fun a => a.1 != k) = true) →
        ∃ t, exec (.prepared m) s = .next t ∧ (t.ctx i).sw = some { w with answers := answers } ∧ t = { u with ctxs := t.ctxs }) ∧
      (∀ w, m.type = 0x13 → u.leads i = true → (u.ctx i).sw = some w → w.commit = none → u.time < w.deadline → (u.ringMembers i).contains m.srcChip = true →
        let answers := w.answers.filter (fun a => a.1 != m.srcChip) ++ [(m.srcChip, m.arg)]
        (∀ k ∈ u.ringMembers i, answers.any (fun a => a.1 == k) = true) → (∀ k ∈ u.ringMembers i, u.outside m.ctxTag k = false) →
        ∃ t n, exec (.prepared m) s = .next t ∧ (t.ctx i).sw = some { w with answers := answers, commit := some n } ∧ (∀ a ∈ answers, a.2 < n) ∧
          (∃ a ∈ answers, n = a.2 + 1) ∧ t.getF F.tideCtxSwitch i = 3) ∧
      (∀ w, m.type = 0x14 → u.fromLeader i m = true → (u.ctx i).sw = some w → w.preparedSent = true → w.commit = none → (u.ctx i).canceling = none →
        ∃ t, exec (.commit m) s = .next t ∧ (t.ctx i).sw = some { w with commit := some m.arg } ∧ t.getF F.tideCtxSwitch i = 3 ∧
          t = { u with regs := t.regs, ctxs := t.ctxs }) ∧
      (m.type = 0x14 → u.fromLeader i m = true → (u.ctx i).sw = none → ∃ t, exec (.commit m) s = .next t ∧ t.getF F.tideCommitStep i = m.arg % 2 ^ 32 ∧
        t = { u with regs := t.regs }) ∧
      (∀ w, (u.ctx i).sw = some w → w.commit = none →
        (m.type = 0x15 → u.fromLeader i m = true → ∃ t, exec (.abort m) s = .next t ∧ (t.ctx i).sw = none ∧ t.getF F.tideCtxSwitch i = 4 ∧
          u.completes t i w.desc .timeout false 0 ∧ t.ctxState i = 1) ∧
        (m.type = 0x16 → u.leads i = true → (u.ringMembers i).contains m.srcChip = true → (∀ k ∈ u.ringMembers i, u.outside m.ctxTag k = false) → ∃ t, exec (.withdraw m) s = .next t ∧ (t.ctx i).sw = none ∧
          t.getF F.tideCtxSwitch i = 4 ∧ u.completes t i w.desc .timeout false 0 ∧ t.ctxState i = 1)) ∧
      (m.type = 0x17 → u.ringInvoke i m = true → ∃ t, exec (.breakRing m) s = .next t ∧ u.faults t m.ctxTag .partitioned ∧ t.cores = u.cores ∧ t.hbm = u.hbm) ∧
      (m.type = 0x18 → u.ringInvoke i m = true → ∃ t, exec (.halt m) s = .next t ∧ u.faults t m.ctxTag .cancelled ∧ t.cores = u.cores ∧ t.hbm = u.hbm)) ∧
    (∀ (ctx : CtxId) (w : Switch), s.stopped = false → (s.ctx ctx).sw = some w → w.commit = none →
      (s.leads ctx = true → w.deadline ≤ s.time → (∀ k ∈ s.ringMembers ctx, s.outside (s.tag ctx) k = false) → ∃ t, exec (.tideSwitchDeadline ctx) s = .next t ∧ (t.ctx ctx).sw = none ∧ t.getF F.tideCtxSwitch ctx = 4 ∧
        s.completes t ctx w.desc .timeout false 0 ∧ t.ctxState ctx = s.ctxState ctx) ∧
      (w.preparedSent = true → w.deadline + s.breakNs ≤ s.time → ∃ t, exec (.tideSwitchMemberTimeout ctx) s = .next t ∧ (t.ctx ctx).sw = none ∧
        t.getF F.tideCtxSwitch ctx = 4 ∧ s.completes t ctx w.desc .timeout false 0 ∧ t.ctxState ctx = s.ctxState ctx)) ∧
    (∀ (ctx : CtxId) (v : Invoke), s.stopped = false → (s.ctx ctx).inv = some v → v.ending = none → v.ring = true → s.brokenRings v ≠ [] →
      s.ctxState ctx = 1 → (∀ k ∈ v.members, s.outside v.desc.ctxTag k = false) → ∃ t, exec (.tideBreakTimeout ctx) s = .next t ∧ t.ctxState ctx = 2 ∧
        t.getF F.cxsCtxStateStatus ctx = Status.partitioned.code ∧ t.cores = s.cores ∧ t.hbm = s.hbm)

/-- Packets that arrive at a port for this chip, with room in the collector for their events. READ answers with the bytes read or the status that stops it, and waits for memory under
repair; WRITE writes its data and answers, and answers DAMAGED_BLOCK and writes nothing when its CHECK fails; READ_DATA whose CHECK passes fills its place in the stream block that
asked and takes the request away; WRITE_ACK takes one away and counts an acknowledgement; MGMT goes to the management processor. -/
def Obligations.PacketsComplete : Prop :=
  ∀ (s u : State) (port : PortId) (p : Packet), s.delivered port p u →
    let i := tagIndex p.ctxTag
    let off := p.offset % 2 ^ 50
    let got := u.readOffset (.link port) p.ctxTag off p.size (packetUnits p)
    (p.type = 1 → u.windowDiked off = false →
      (∀ bs x, got = (.data bs, x) → u.overfills i (x.answer p .ok bs) = false → exec (.read port p) s = .next (x.answer p .ok bs)) ∧
      (∀ st x, got = (.failed st, x) → u.overfills i (x.answer p st) = false → exec (.read port p) s = .next (x.answer p st)) ∧
      (∀ x, got = (.wait, x) → u.overfills i (x.park port p) = false →
        ∃ t, exec (.read port p) s = .next t ∧ t.parked = x.parked ++ [(port, p)] ∧ t.hbm = x.hbm)) ∧
    (p.type = 1 → u.windowDiked off = true → exec (.read port p) s = .next (u.answer p .fenced)) ∧
    (p.type = 2 → crc32c (slice p.body 0 (writeLen p)) ≠ p.check → ∃ t, exec (.write port p) s = .next t ∧ t = u.answer p .damagedBlock ∧ t.hbm = u.hbm) ∧
    (p.type = 2 → crc32c (slice p.body 0 (writeLen p)) = p.check → off < 2 ^ 48 →
      ∀ st x, u.writeVa (.link port) p.ctxTag off (slice p.body 0 (writeLen p)) false (packetUnits p) = (st, x) → u.overfills i (x.answer p st) = false →
        ∃ t, exec (.write port p) s = .next t ∧ t = x.answer p st ∧ t.hbm = x.hbm ∧ t.cores = x.cores) ∧
    (p.type = 2 → crc32c (slice p.body 0 (writeLen p)) = p.check → 2 ^ 48 ≤ off →
      ∃ t, exec (.write port p) s = .next t ∧ t.hbm = u.hbm ∧ t.cores = u.cores ∧
        t = u.answer p (if u.windowDiked off then .fenced else u.windowWrite p.ctxTag off)) ∧
    (u.requests.find? (fun r => r.txn == p.txn && r.packet.type == 1) = none → exec (.readData port p) s = .next (u.bump F.lnkDropDiked port)) ∧
    (∀ (r : Request) (core j index : Nat) (x : Run) (b : StrmBlock), u.requests.find? (fun r => r.txn == p.txn && r.packet.type == 1) = some r →
      Status.ofCode p.status = some .ok → crc32c (slice p.body 0 r.packet.size) = p.check → r.who = .stream core j index → r.again = false →
      ((u.core core).strm j).run = some x → x.desc.srcCmp = false → x.flight.find? (fun b => b.index == index) = some b → b.status = .ok →
      ∃ t y, exec (.readData port p) s = .next t ∧ ((t.core core).strm j).run = some y ∧ (∀ q ∈ t.requests, q.txn ≠ r.txn) ∧ t.hbm = u.hbm ∧
        (∀ z ∈ y.flight, z.index = index → z.waiting = b.waiting - 1 ∧ z.status = .ok ∧ slice z.data r.piece r.packet.size = slice p.body 0 r.packet.size)) ∧
    (∀ (r : Request) (core j index : Nat) (x : Run), u.requests.find? (fun r => r.txn == p.txn && r.packet.type == 2) = some r →
      Status.ofCode p.status = some .ok → r.who = .streamWrite core j index → r.again = false → ((u.core core).strm j).run = some x → x.status = .ok →
      ∃ t, exec (.writeAck port p) s = .next t ∧ ((t.core core).strm j).run = some { x with acks := x.acks.erase index } ∧ (∀ q ∈ t.requests, q.txn ≠ r.txn) ∧
        t.hbm = u.hbm) ∧
    (p.type = 9 → ∃ t, exec (.mgmt port p) s = .next t ∧ t = { u with out := u.out ++ [.mgmt p.srcChip p.body] })

/-- GATHER_RUN_START on a free engine takes up the entry that is due: a seal run waits for SEAL, a run of one bag with one row of this chip fetches it. GATHER_DATA of a good
local row keeps it; one damaged first is fetched again; the last row of a bag pools and commits it, and the last bag ends the run. GATHER answers with the row and its tag.
SEAL writes the tag of the next row, and after the last ends the run; rails that disagree twice make the engine suspect and fault the context. -/
def Obligations.GatherComplete : Prop :=
  ∀ (s : State) (e : EngineId),
    (∀ (y : GEntry) (u : State), (s.engine e).run = none → pickEntry ((s.engine e).entries.filter (fun y => s.live y.tag)) = some y →
      let y' := { y with runs := y.runs + 1, met := y.met.drop 1 }
      let g := GRun.fresh y' y.runs
      u = s.setEngine e { s.engine e with entries := (s.engine e).entries.map (fun z => if z.order == y.order && z.tag == y.tag then y' else z) } →
      s.overfills (tagIndex y.tag) (if gMode y.desc = 4 then u.setGRun e (some g) else u.advanceGather e g (gatherFuel g)) = false →
      (gMode y.desc = 4 → ∃ t, exec (.gatherRunStart e) s = .next t ∧ (t.engine e).run = some g ∧ t.hbm = s.hbm) ∧
      (∀ f x, gMode y.desc ≠ 4 → gBags y.desc = 1 → u.openBag e g 0 = (.rows [f], x) → u.isHere f.chip = true →
        ∃ t g', exec (.gatherRunStart e) s = .next t ∧ (t.engine e).run = some g' ∧ g'.fetches = [{ f with txn := none }] ∧ g'.bags = [(0, 1)] ∧ g'.nextBag = 1 ∧
          g'.rowCount = 1 ∧ t.hbm = x.hbm)) ∧
    (∀ (g : GRun) (k : Nat) (f : RowFetch) (hit : Upset) (pool : Hit) (rails : Rails) (bs : Bytes) (u : State), (s.engine e).run = some g → g.fetches[k]? = some f →
      f.txn = none → f.again = false → g.stopped = false → s.live g.entry.tag = true → s.localRow e g f = (.data bs, u) →
      s.overfills (tagIndex g.entry.tag) (u.rowIn e f (.ok (bs, true)) hit pool rails) = false →
      let d := g.entry.desc
      let row := upsetBytes (slice bs 0 (gRowBytes d)) hit
      let rest := g.fetches.erase f
      let held : RowHeld := ⟨f.bag, row, field bs (gRowBytes d + 4) 4, f.weight⟩
      let g1 : GRun := { g with fetches := rest, rows := g.rows ++ [held] }
      let full := g.bags.any (fun b => b.1 == f.bag && b.2 == (g1.rows.filter (fun r => r.bag == f.bag)).length)
      (crc32c row ≠ field bs (gRowBytes d) 4 → u.isHere f.chip = true →
        ∃ t g', exec (.gatherData e k none hit pool rails) s = .next t ∧ (t.engine e).run = some g' ∧ g'.rows = g.rows ∧
          g'.fetches = rest ++ [{ f with txn := none, again := true }] ∧ t.hbm = u.hbm) ∧
      (crc32c row = field bs (gRowBytes d) 4 → g.todo = [] → gBags d ≤ g.nextBag → full = false → (rest ≠ [] ∨ g.bags ≠ []) →
        ∃ t g', exec (.gatherData e k none hit pool rails) s = .next t ∧ (t.engine e).run = some g' ∧ g'.rows = g1.rows ∧ g'.fetches = rest ∧ t.hbm = u.hbm) ∧
      (∀ g2 x, crc32c row = field bs (gRowBytes d) 4 → g.todo = [] → gBags d ≤ g.nextBag → full = true →
        (u.progress (tagIndex g.entry.tag)).poolBag e { g1 with rowRetries := g.rowRetries + 0 } f.bag pool rails = (some g2, x) → g2.fetches = [] → g2.bags = [] →
        ∃ t, exec (.gatherData e k none hit pool rails) s = .next t ∧ (t.engine e).run = none ∧ (t.core (gCore d)).spm = (x.core (gCore d)).spm ∧ t.hbm = x.hbm)) ∧
    (∀ (port : PortId) (p : Packet) (u x y : State) (row tag : Bytes), s.delivered port p u → p.type = 5 →
      u.readVa (.link port) p.ctxTag (p.offset % 2 ^ 50) p.size false = (.data row, x) →
      x.readVa (.link port) p.ctxTag (field p.body 0 8 % 2 ^ 50) 8 false = (.data tag, y) → u.overfills (tagIndex p.ctxTag) (y.answer p .ok (row ++ tag)) = false →
      exec (.gather port p) s = .next (y.answer p .ok (row ++ tag))) ∧
    (∀ (g : GRun) (rails : Rails), (s.engine e).run = some g → gMode g.entry.desc = 4 → g.stopped = false → s.live g.entry.tag = true → g.fetches = [] →
      field g.entry.desc 60 4 ≠ 0 → field g.entry.desc 56 4 + field g.entry.desc 60 4 ≤ gShardRows g.entry.desc →
      s.inTideWindow (tagIndex g.entry.tag) (gTags g.entry.desc) = false → s.overfills (tagIndex g.entry.tag) (s.sealNext e g rails) = false →
      (∀ row v u, rails ≠ .lasting → s.sealRead e g (field g.entry.desc 56 4 + g.rowCount) = (.data row, v) →
        (if rails = .transient then v.transient (tagIndex g.entry.tag) 0x0C (sourceOf 1 e) else v).sealRow e g (field g.entry.desc 56 4 + g.rowCount) row = (.ok, u) →
        ∃ t, exec (.seal e rails) s = .next t ∧ t.hbm = u.hbm ∧ t.cores = u.cores ∧
          (g.rowCount + 1 < field g.entry.desc 60 4 → (t.engine e).run = some { g with rowCount := g.rowCount + 1 }) ∧
          (field g.entry.desc 60 4 ≤ g.rowCount + 1 → (t.engine e).run = none)) ∧
      (∀ row v, rails = .lasting → s.sealRead e g (field g.entry.desc 56 4 + g.rowCount) = (.data row, v) →
        ∃ t, exec (.seal e rails) s = .next t ∧ (t.engine e).run = none ∧ t.flag F.geStatusSuspect e = true ∧ v.faults t g.entry.tag .breachLasting ∧
          t.hbm = v.hbm))

/-- COPY_IN and COPY_OUT, basic form, when nothing of the work queue runs and the checks pass: the copy is in progress with its length and nothing moved; a copy of no
bytes completes at once. COPY_BLOCK: a block of a basic COPY_IN whose bytes arrive undamaged is written, and the copy moves on; with the last one, and no acknowledgement
due, it completes with OK and the bytes moved. -/
def Obligations.CopiesComplete : Prop :=
  ∀ (s : State) (ctx : CtxId) (sd host : Bytes),
    (∀ (op : Nat) (d : Desc) (rest : List Desc), (op = 2 ∨ op = 3) → s.ctxState ctx = 1 → s.noStart = false → (s.ctx ctx).idleWork = true →
      (s.ctx ctx).work = d :: rest → d.opcode = op → s.descFault ctx d = none → field d.bytes 32 8 = 0 →
      ∃ t, exec (if op = 2 then .copyIn ctx sd else .copyOut ctx sd) s = .next t ∧ t.cores = s.cores ∧ t.hbm = s.hbm ∧
        (field d.bytes 24 8 ≠ 0 → t = { s with ctxs := t.ctxs } ∧ (t.ctx ctx).work = rest ∧
          ∃ j, (t.ctx ctx).copy = some j ∧ j.desc = d ∧ j.total = field d.bytes 24 8 ∧ j.done = 0 ∧ j.moved = 0) ∧
        (field d.bytes 24 8 = 0 → s.completes t ctx d .ok false 0 ∧ (t.ctx ctx).copy = none)) ∧
    (∀ (j : Job) (w : Wrote) (u : State), (s.ctx ctx).copy = some j → j.stream = none → j.desc.opcode = 2 → s.stopped = false → j.waiting = 0 → j.pass = 1 →
      j.again = false → j.ending = none → s.overfills ctx (s.copyBlock ctx j host []) true = false → j.done < j.copyDesc.blocks →
      s.copyCommit ctx j (slice host 0 (j.copyDesc.blockLen j.done)) none = (w, u) → w.status = .ok →
      ∃ t, exec (.copyBlock ctx host []) s = .next t ∧ t.hbm = u.hbm ∧ t.cores = s.cores ∧
        (j.done + 1 < j.copyDesc.blocks → ∃ x, (t.ctx ctx).copy = some x ∧ x.desc = j.desc ∧ x.done = j.done + 1 ∧
          x.moved = j.moved + j.copyDesc.blockLen j.done) ∧
        (j.done + 1 = j.copyDesc.blocks → j.acks + w.acks = 0 → u.completes t ctx j.desc .ok false (j.moved + j.copyDesc.blockLen j.done) ∧
          (t.ctx ctx).copy = none))

/-- LOAD_SHARD with a good manifest that names one object for this chip, whose header has been read: the load is in progress. SHARD_OBJECT_ARRIVED: an object with a wrong digest
is asked for once more; a good last one, moved past what strikes it, is placed, the manifest is bound to the bank and the load completes with the number of objects. -/
def Obligations.LoadsComplete : Prop :=
  ∀ (s : State) (ctx : CtxId),
    (∀ (d : Desc) (rest : List Desc) (manifest w h e : Bytes) (u : State), (s.ctx ctx).loadq = d :: rest → s.loadMay ctx d = true →
      manifestBad manifest (field d.bytes 16 4) = false → manifestEntries manifest s.chip = [e] → s.flag F.ethTgtValid (field e 2 1) = true →
      s.getF F.ethTgtState (field e 2 1) ≠ 2 → (s.setCtx ctx { s.ctx ctx with loadq := rest }).readHeaders [e] [w] = (some [h], u) →
      headerBad h = false → objectLen h = field e 24 8 → field e 16 8 + footprint h ≤ field d.bytes 32 8 →
      ∃ t j, exec (.loadShard ctx manifest [w]) s = .next t ∧ (t.ctx ctx).load = some j ∧ j.desc = d ∧ j.objects = [e] ∧ j.finished = [] ∧
        j.manifest = manifest ∧ (t.ctx ctx).loadq = rest ∧ t = { s with ctxs := t.ctxs, out := t.out, psn := t.psn, asked := t.asked }) ∧
    (∀ (j : Job) (e wire obj : Bytes) (hit : Hit) (u : State), (s.ctx ctx).load = some j → j.objects = [e] → j.finished = [] → j.tried = [] → j.ending = none → s.stopped = false →
      s.objectText e wire = (obj, true, u) → s.overfills ctx (u.objectIn ctx j 0 obj hit) true = false →
      (objectBad e obj = true →
        ∃ t, exec (.shardObjectArrived ctx 0 wire hit) s = .next t ∧ (t.ctx ctx).load = some { j with tried := [0], supplies := if u.inSupply then j.supplies ++ [0] else j.supplies } ∧
          t.hbm = s.hbm ∧ t.ctxState ctx = s.ctxState ctx) ∧
      (∀ x, objectBad e obj = false → field e 16 8 + footprint obj ≤ field j.desc.bytes 32 8 → (moveObject obj hit).lost = false →
        (u.setCtx ctx ((u.ctx ctx).setBank j.desc.loadBank { (u.ctx ctx).bank j.desc.loadBank with digest := none, broken := true })).placeObject
          (ethOf (u.targetPort (field e 2 1))) j.desc.ctxTag (field j.desc.bytes 24 8 + field e 16 8) (moveObject obj hit).obj = (.ok, x) →
        ∃ t, exec (.shardObjectArrived ctx 0 wire hit) s = .next t ∧ x.completes t ctx j.desc .ok false (j.moved + 1) ∧ (t.ctx ctx).load = none ∧ t.hbm = x.hbm ∧
          ((t.ctx ctx).bank j.desc.loadBank).digest = some (shake256 j.manifest) ∧ ((t.ctx ctx).bank j.desc.loadBank).broken = false))

/-- CHECKPOINT of no entries completes at once; of one good entry whose object can be read, it is in progress with the object sent as it came
past what strikes it. CHECKPOINT_OBJECT_DONE for the last
object writes its 72-byte result to RESULT in host memory and completes the checkpoint with the number of objects. -/
def Obligations.CheckpointsComplete : Prop :=
  ∀ (s : State) (ctx : CtxId) (hits : List (Nat × Hit)),
    (∀ (d : Desc) (rest : List Desc) (list : Bytes), s.ctxState ctx = 1 → s.noStart = false → (s.ctx ctx).idleWork = true → (s.ctx ctx).work = d :: rest →
      d.opcode = 6 → s.descFault ctx d = none → field d.bytes 16 4 = 0 →
      ∃ t, exec (.checkpoint ctx list hits) s = .next t ∧ s.completes t ctx d .ok false 0 ∧ (t.ctx ctx).ckpt = none) ∧
    (∀ (d : Desc) (rest : List Desc) (e obj : Bytes) (tags : Nat) (v u : State), s.ctxState ctx = 1 → s.noStart = false → (s.ctx ctx).idleWork = true →
      (s.ctx ctx).work = d :: rest → d.opcode = 6 → s.descFault ctx d = none → field d.bytes 16 4 = 1 → e.length = 64 → s.entryBad e = false → s.getF F.ethTgtState (field e 1 1) ≠ 2 →
      v = s.setCtx ctx { s.ctx ctx with work := rest, ckpt := some { Job.start d none 1 with objects := [e] } } →
      v.readCkpt (ethOf (s.targetPort (field e 1 1))) d.ctxTag (sourceOf 3 (s.targetPort (field e 1 1))) e = (.ok (obj, tags), u) →
      v.overfills ctx u true = false →
      let m := moveObject obj (hitOn hits 0) true
      m.lost = false → u.flag F.ethTgtEncrypt (field e 1 1) = false → m.obj ≠ [] → m.obj.length ≤ 2 ^ 20 →
      ∃ t j, exec (.checkpoint ctx e hits) s = .next t ∧ (t.ctx ctx).ckpt = some j ∧ j.desc = d ∧ j.tried = [0] ∧ j.finished = [] ∧
        u.puts t (.rdmaWrite (field e 1 1) (field e 4 4) (field e 8 8) m.obj)) ∧
    (∀ (j : Job) (e : Bytes), (s.ctx ctx).ckpt = some j → j.objects = [e] → j.tried = [0] → j.finished = [] → s.stopped = false →
      s.overfills ctx (s.ckptDone ctx j 0 hits) true = false →
      ∃ t, exec (.checkpointObjectDone ctx 0 hits) s = .next t ∧ s.puts t (.hostWrite (field e 48 8) (slice j.buffer 0 72)) ∧ (t.ctx ctx).ckpt = none ∧
        s.completes t ctx j.desc .ok false (j.moved + 1) ∧ t.hbm = s.hbm)

/-- HSC_REQUEST to a stack in service without errors: a write changes its bytes of the sector and no other; a read changes no memory; a write of a context whose memory is
encrypted is sealed under its key; an uncorrectable read of the firmware region is fatal; in the failed state the stack refuses it. MEMORY_REFETCH_DONE with a good object rewrites it and ends the waits it covers, with a bad one the reads fail. SCRUB_READ moves on and records an
uncorrectable sector without a fault. HBM_TEMP_CHANGE halves the rate from 95 °C, restores it at 90, shuts down at 105. HBM_TRAINING_LOSS dikes the stack. -/
def Obligations.DeviceMemoryComplete : Prop :=
  ∀ (s : State) (stack : StackId),
    (∀ (r : HscReq), stackOf s.key (32 * (r.dpa / 32)) = stack → regionOf r.dpa ≠ .beyond → s.power = .on → s.failed = false → (s.hsc stack).state = 0 →
      (regionOf r.dpa = .context → s.tag (tagIndex r.ctxTag) = r.ctxTag ∧ s.hbmKey (tagIndex r.ctxTag) = none) → r.mirror = false → r.noise = Noise.none → r.strike = [] → r.passing = [] →
      s.hbmErr = [] → s.hbmPassing = [] → s.memWf = true → let a := 32 * (r.dpa / 32) + r.off % 32
      (r.write = true → r.data ≠ [] → r.data.length ≤ 32 - r.off % 32 →
        ∃ t, exec (.hscRequest stack r) s = .next t ∧ t.hbm.readN a r.data.length = r.data ∧
          (∀ b, b < a ∨ a + r.data.length ≤ b → t.hbm.read b = s.hbm.read b) ∧ t.ctxs = s.ctxs ∧ t.cores = s.cores) ∧
      (r.write = false → ∃ t, exec (.hscRequest stack r) s = .next t ∧ t.hbm = s.hbm ∧ t.ctxs = s.ctxs ∧ t.cores = s.cores ∧ t.out = s.out)) ∧
    (∀ (r : HscReq) (k : Nat) (u : State), stackOf s.key (32 * (r.dpa / 32)) = stack → regionOf r.dpa = .context → s.power = .on → s.failed = false →
      s.tag (tagIndex r.ctxTag) = r.ctxTag → s.hbmKey (tagIndex r.ctxTag) = some k → r.write = true → r.strike = [] → r.passing = [] →
      s.writePiece ⟨32 * (r.dpa / 32) + r.off % 32, r.mirror, r.va⟩ (r.data.take (32 - r.off % 32)) .sectors (tagIndex r.ctxTag) false r.noise = (.ok, u) →
      exec (.hscRequest stack r) s = .next u) ∧
    (∀ (r : HscReq), stackOf s.key (32 * (r.dpa / 32)) = stack → regionOf r.dpa ≠ .beyond → s.power = .on → s.failed = true →
      exec (.hscRequest stack r) s = .next ((s.strikeSector (r.dpa / 32) r.strike).passSector (r.dpa / 32) r.passing)) ∧
    (∀ (r : HscReq) (u : State), stackOf s.key (32 * (r.dpa / 32)) = stack → regionOf r.dpa = .firmware → s.power = .on → s.deaf = false → r.strike = [] →
      s.servePlain stack r = (true, u) → ∃ t, exec (.hscRequest stack r) s = .next t ∧ t.failed = true) ∧
    (∀ (ctx : CtxId) (r : Refetch) (b : Bank) (e wire obj : Bytes) (v : State), s.refetch.find? (fun r => r.ctx == ctx.val && !r.failed) = some r → s.stopped = false →
      (s.ctx ctx).bankAt r.va = some b → b.covering s.chip r.va = some e → s.parked = [] → (∀ p ∈ s.ctxs, p.2.ckpt = none) → s.objectText e wire = (obj, true, v) →
      let same := fun (x : Refetch) => x.ctx == r.ctx && !x.failed && ((s.ctx ctx).bankAt x.va).bind (fun b => b.covering s.chip x.va) == some e
      let good := !objectBad e obj && decide (r.va < b.base + field e 16 8 + footprint obj)
      (good = false → ∃ t, exec (.memoryRefetchDone ctx wire) s = .next t ∧ t.hbm = s.hbm ∧
        t.refetch = s.refetch.map (fun x => if same x then { x with failed := true } else x)) ∧
      (∀ u, good = true → v.placeObject .mp (v.tag ctx) (b.base + field e 16 8) obj = (.ok, u) →
        ∃ t, exec (.memoryRefetchDone ctx wire) s = .next t ∧ t.hbm = u.hbm ∧ t.refetch = u.refetch.filter (fun x => !(s.refetch.filter same).contains x))) ∧
    (∀ (noise : Noise), s.stopped = false → (s.hsc stack).state = 0 → let sector := scrubDpa s.key stack (s.hsc stack).scrubAt / 32
      (s.hbmErr = [] → s.hbmPassing = [] → noise = Noise.none → (s.hsc stack).scrubAt + 1 < stackSectors →
        ∃ t, exec (.scrubRead stack noise) s = .next t ∧ (t.hsc stack).scrubAt = (s.hsc stack).scrubAt + 1 ∧ t.hbm = s.hbm ∧ t.regs = s.regs) ∧
      (∀ u1 u2, s.readOnce stack sector noise.first = (none, u1) → u1.readOnce stack sector noise.second = (none, u2) →
        ∃ t, exec (.scrubRead stack noise) s = .next t ∧ t.flag F.hscStackBadValid stack = true ∧ t.flag F.hscStackBadScrub stack = true ∧
          t.hbm = s.hbm ∧ t.ctxs = s.ctxs)) ∧
    (∀ (temp : Nat), s.power = .on →
      (temp < 105 → ∃ t, exec (.hbmTempChange stack temp) s = .next t ∧ (t.hsc stack).temp = temp ∧ t = { s with hscs := t.hscs } ∧
        (95 ≤ temp → (t.hsc stack).throttle = true) ∧ (temp ≤ 90 → (t.hsc stack).throttle = false) ∧
        (90 < temp → temp < 95 → (t.hsc stack).throttle = (s.hsc stack).throttle)) ∧
      (105 ≤ temp → ∃ t, exec (.hbmTempChange stack temp) s = .next t ∧ t.power = .tripped)) ∧
    (∀ (parity : Nat) (dataTimeout : Bool), s.stopped = false →
      ((16 ≤ parity ∨ dataTimeout = true) → (s.hsc stack).state = 0 → ∃ t, exec (.hbmTrainingLoss stack parity dataTimeout) s = .next t ∧
        (t.hsc stack).state = 1 ∧ (t.hsc stack).dikeAt = some s.time ∧ s.records t 0x0020 (sourceOf 4 stack) 0 .ok 0 [] ∧ t.hbm = s.hbm) ∧
      (parity < 16 → dataTimeout = false → exec (.hbmTrainingLoss stack parity dataTimeout) s = .next s))

/-- Flits on a port that carries data. A flit whose codeword has more than 16 damaged symbols, or whose CRC does not match, is refused with a NAK and taken no further;
an intact DATA_FLIT in order moves the expected SEQ on and goes into its receive buffer, one out of order is refused, and what it acknowledges leaves the replay buffer.
IDLE brings acknowledgement and credits. LINK_TRANSMIT sends a KEY_UPDATE that is due, else a flit to replay, else the packet that arbitration picks as the next SEQ, held for
replay, else an idle control flit. REPLAY_TIMEOUT sends all held flits again, and at the 64th in a row the port retrains. -/
def Obligations.LinkFlitsComplete : Prop :=
  ∀ (s : State) (port : PortId), s.stopped = false → (s.portState port = 3 ∨ s.portState port = 4) → (s.port port).late = false → let x := s.port port
    let best := fun (all : List (Nat × Packet × Nat)) => s.pick (all.any (fun c => decide (c.1 < 6) && inService c.2.1) && decide (15 ≤ x.grants)) all
    (∀ f : Flit, fecBegins x.rxPos = true → 16 < (fecStruck f.line.struck).length →
      ∃ t, exec (.dataFlit port f) s = .next t ∧ (t.port port).nak = true ∧ (t.port port).seqRx = x.seqRx ∧ (t.port port).rxBad = true ∧ (t.port port).held = x.held ∧
        t = { s.bump F.lnkFecUncorrCw port with ports := t.ports }) ∧
    (∀ (f : Flit) (good : Bool) (u : State), s.takeLine port f.line = (good, u) → (good && flitIntact false f) = false →
      exec (.dataFlit port f) s = .next (u.setPort port { u.port port with nak := true })) ∧
    (∀ (f : Flit) (u : State), s.takeLine port f.line = (true, u) → flitIntact false f = true →
      ∃ t, exec (.dataFlit port f) s = .next t ∧ (∀ h ∈ (t.port port).held, h ∈ x.held ∧ 2048 ≤ (f.ack + 4096 - h.seq) % 4096) ∧
        (f.seq = x.seqRx → (t.port port).seqRx = (x.seqRx + 1) % 4096 ∧ (t.port port).nak = false ∧
          (f.fill = 0 → (t.port port).owed = x.owed.modify (f.vc % 8) (· + 1)) ∧ (f.fill ≠ 0 → (t.port port).rxHeld = x.rxHeld ++ [(f.vc % 8, 16 * f.fill)])) ∧
        (f.seq ≠ x.seqRx → (t.port port).seqRx = x.seqRx ∧ ((f.seq + 4096 - x.seqRx) % 4096 < 2048 → (t.port port).nak = true)) ∧ t.hbm = s.hbm ∧ t.cores = s.cores) ∧
    (∀ (f : Flit) (good : Bool) (u : State), s.takeLine port f.line = (good, u) → (good && flitIntact true f) = false → exec (.idle port f) s = .next u) ∧
    (∀ (f : Flit) (u : State), s.takeLine port f.line = (true, u) → flitIntact true f = true → bit f.credB 3 = false →
      ∃ t, exec (.idle port f) s = .next t ∧ (∀ h ∈ (t.port port).held, h ∈ x.held ∧ 2048 ≤ (f.ack + 4096 - h.seq) % 4096) ∧
        (t.port port).credit = (if bit f.credA 3 then x.credit.modify (bits f.credA 2 0) (fun k => min (k + bits f.credA 15 4) (vcBuffers.getD (bits f.credA 2 0) 0)) else x.credit)) ∧
    (∀ pts, s.due x.ctlAt = true → x.keys.switchTx = some pts → ∃ t, exec (.linkTransmit port) s = .next t ∧ (t.port port).held = x.held ∧
      s.puts t (.ctrl port x.seqTx x.lastGood x.nak (owedNow x.owed).1 (slice (natLe 1 3 ++ natLe 1 4 ++ (pts.map (natLe 8)).flatten) 0 320))) ∧
    ((s.due x.ctlAt = false ∨ x.keys.switchTx = none) →
      (∀ f rest, x.resend = f :: rest → ∃ t, exec (.linkTransmit port) s = .next t ∧ (t.port port).resend = rest ∧
        s.puts t (.flit port x.lastGood x.nak (owedNow x.owed).1 f) ∧ (t.port port).held = x.held) ∧
      (x.resend = [] → x.candidates (s.portState port == 3) = [] → ∃ t, exec (.linkTransmit port) s = .next t ∧
        s.puts t (.ctrl port x.seqTx x.lastGood x.nak (owedNow x.owed).1 [0]) ∧ (t.port port).held = x.held ∧ (t.port port).seqTx = x.seqTx) ∧
      (∀ v p o, x.resend = [] → x.held.length < 2048 → best (x.candidates (s.portState port == 3)) = some (v, p, o) →
        ∃ t f, exec (.linkTransmit port) s = .next t ∧ f.seq = x.seqTx ∧ f.vc = v ∧ (t.port port).held = x.held ++ [f] ∧ (t.port port).seqTx = (x.seqTx + 1) % 4096 ∧
          (t.port port).credit = x.credit.modify v (· - 1) ∧ s.puts t (.flit port x.lastGood x.nak (owedNow x.owed).1 f))) ∧
    (x.held ≠ [] → x.ackAt + 1000 ≤ s.time → ∃ t, exec (.replayTimeout port) s = .next t ∧ (t.port port).held = x.held ∧
      (t.port port).resend = x.held ∧ (x.replays + 1 < 64 → (t.port port).replays = x.replays + 1 ∧ t.portState port = s.portState port) ∧
      (64 ≤ x.replays + 1 → t.portState port = 2))

/-- LANE_FAIL and a LANE_ERROR_WINDOW with a lane above its limit mark the lane and make a port that carries data retrain; a window within the limit only starts the counts
again. PORT_RETRAIN_DONE brings a degraded port back with what it held once the new key exchange has ended, dikes one whose degrade fails, and leaves one that did not train
down, diked or quarantined. LANE_LOCK
chooses the lanes and starts the identity exchange by sending IDENT. -/
def Obligations.LanesComplete : Prop :=
  ∀ (s : State) (port : PortId), s.stopped = false → let x := s.port port
    (∀ lane : LaneId, (s.portState port = 3 ∨ s.portState port = 4) → ∃ t, exec (.laneFail port lane) s = .next t ∧ t.portState port = 2 ∧
      t.getF F.lnkLanesFailed port = s.getF F.lnkLanesFailed port ||| 2 ^ lane.val ∧ (t.port port).held = x.held ∧ (t.port port).degrade = true) ∧
    (∀ lane : LaneId, s.portState port = 0 → exec (.laneFail port lane) s = .next s) ∧
    (∀ more : List (LaneId × Nat), s.portState port ≠ 0 → (∀ k ∈ more.foldl (fun c m => c.modify m.1.val (· + m.2)) x.laneErr, k ≤ s.laneLimit port) →
      exec (.laneErrorWindow port more) s = .next (s.setPort port { x with laneErr := List.replicate 32 0 })) ∧
    (∀ (more : List (LaneId × Nat)) (l : Nat), (s.portState port = 3 ∨ s.portState port = 4) → l < 32 → l < x.laneErr.length →
      s.laneLimit port < (more.foldl (fun c m => c.modify m.1.val (· + m.2)) x.laneErr).getD l 0 →
      ∃ t, exec (.laneErrorWindow port more) s = .next t ∧ t.portState port = 2 ∧ bit (t.getF F.lnkLanesFailed port) l = true ∧
        (t.port port).laneErr = List.replicate 32 0) ∧
    (∀ (peer : BitVec 32) (w : Nat) (u : State), s.portState port = 2 → s.chooseLanes port peer.toNat = (w, u) →
      let low := if x.quarantined then 4 else if x.diked then 5 else 1
      (w ≠ 0 → x.degrade = true → x.keys.step = 5 → ∃ t, exec (.portRetrainDone port true peer) s = .next t ∧ t.portState port = (if x.quarantined then 4 else 3) ∧
        (x.quarantined = false → t.getF F.lnkStatusWidth port = w) ∧ (t.port port).resend = x.held ∧ (t.port port).degrade = false) ∧
      (w ≠ 0 → x.degrade = false ∨ x.keys.step ≠ 5 → exec (.portRetrainDone port true peer) s = .next u) ∧
      (∀ c ok, c = Instr.portRetrainDone port ok peer ∧ (ok = false ∨ w = 0) ∨ c = Instr.laneLock port peer ∧ w = 0 →
        ∃ t, exec c s = .next t ∧ t.portState port = (if x.degrade && x.dikeAt.isNone then 5 else low) ∧
          (x.degrade = true → x.dikeAt = none → (t.port port).dikeAt = some s.time)) ∧
      (w ≠ 0 → ∃ t, exec (.laneLock port peer) s = .next t ∧ (t.port port).locked = some s.time ∧ (t.port port).seen = false ∧ t.getF F.topoPortOutcome port = 0 ∧
        t.getF F.topoPortPeerVerdict port = 0 ∧ t.getF F.lnkLanesActive port = u.getF F.lnkLanesActive port ∧
        s.putsCtrl t port (s.identContent port 1 false 0)))

/-- An intact IDENT on a locked, training port is kept, and this end's IDENTs carry SEEN from then on; with SEEN set in it the outcome of Table 14.7 is decided once, recorded
with the actual peer, and sent. VERDICT:
two MATCHes start the key exchange, anything else with both known quarantines the port. While the peer's verdict is open, LINK_TRANSMIT sends IDENT every 1 µs, and from this
end's outcome VERDICT as often. IDENT_TIMEOUT takes the port down and counts; IDENT_RETRY_TIMER trains it again 100 ms later. -/
def Obligations.IdentityComplete : Prop :=
  ∀ (s : State) (port : PortId), s.stopped = false → let x := s.port port
    let low := if x.quarantined then 4 else if x.diked then 5 else 1
    (∀ (f : Flit) (c : Bytes) (u : State), s.training port f 1 = (some c, u) →
      ((identField c 14 1 % 2 = 0 ∨ u.getF F.topoPortOutcome port ≠ 0) →
        exec (.ident port f) s = .next (u.setPort port { u.port port with ident := slice c 0 320, seen := true, identRx := flitText f true })) ∧
      (identField c 14 1 % 2 = 1 → u.getF F.topoPortOutcome port = 0 →
        ∃ t, exec (.ident port f) s = .next t ∧ t.getF F.topoPortOutcome port = u.outcomeOf port c ∧ t.getF F.topoPortActSerial port = identField c 16 8 ∧
          u.putsCtrl t port (u.identContent port 2 true (u.outcomeOf port c)))) ∧
    (∀ (f : Flit) (c : Bytes) (u : State), s.training port f 2 = (some c, u) → (u.port port).keys.step = 0 →
      let v := identField c 15 1
      (u.getF F.topoPortOutcome port = 0 → exec (.verdict port f) s = .next (u.setF F.topoPortPeerVerdict v port)) ∧
      (u.getF F.topoPortOutcome port = 1 → v = 1 → (u.port port).quarantined = false → ∃ t, exec (.verdict port f) s = .next t ∧ t.portState port = u.portState port ∧
        ((t.port port).keys.step = 1 ∨ (t.port port).keys.step = 2) ∧ (t.port port).keys.since = u.time) ∧
      (2 ≤ v → v ≤ 4 → u.getF F.topoPortOutcome port ≠ 0 → ∃ t, exec (.verdict port f) s = .next t ∧ t.portState port = 4)) ∧
    (s.portState port = 2 → x.locked.isSome = true → s.getF F.topoPortPeerVerdict port = 0 →
      (s.due x.identAt = true → ∃ t, exec (.linkTransmit port) s = .next t ∧ s.putsCtrl t port (s.identContent port 1 x.seen 0) ∧
        (t.port port).identAt = some s.time) ∧
      (s.due x.identAt = false → s.getF F.topoPortOutcome port ≠ 0 → s.due x.ctlAt = true → ∃ t, exec (.linkTransmit port) s = .next t ∧
        s.putsCtrl t port (s.identContent port 2 true (s.getF F.topoPortOutcome port)) ∧ (t.port port).ctlAt = some s.time)) ∧
    (∀ t0, s.portState port = 2 → x.keys.step = 0 → x.locked = some t0 → t0 + 10000000 ≤ s.time →
      ∃ t, exec (.identTimeout port) s = .next t ∧ t.portState port = low ∧ (t.port port).trainAt = some s.time) ∧
    (∀ t0, (s.portState port = 1 ∨ s.portState port = 4 ∨ s.portState port = 5) → x.trainAt = some t0 → x.late = false → t0 + 100000000 ≤ s.time →
      s.flag F.lnkStatusPresent port = true → ∃ t, exec (.identRetryTimer port) s = .next t ∧ t.portState port = 2 ∧ t.getF F.lnkLanesFailed port = 0)

/-- LINK_KEY_EXCHANGE keeps a fragment by its number; the one that was missing of a message of steps 3 and 4, when chain and signature validate, derives keys and brings the port
up, unless it is a degrade that has yet to end, and quarantines it when not; a responder whose peer repeats its first message, and a port that is up, send their own again; a
message that needs a draw waits while SEC holds draws. KEYX_TIMEOUT takes the port down. KEY_ROTATION_DUE gives the switch points and holds packets back; KEY_UPDATE
is answered with KEY_ACK, and takes effect once every virtual channel has passed its point; KEY_ACK moves the sender to the next key. -/
def Obligations.LinkKeysComplete : Prop :=
  ∀ (s : State) (port : PortId), s.stopped = false →
    (∀ (f : Flit) (last : Bool) (len n : Nat) (u : State), s.takeCtl port f (natLe 1 3 ++ natLe 1 3) = (true, u) → let k := (u.port port).keys
      let taken := k.take n last (slice f.payload 7 (min len 300))
      let first := fun (m : Bytes) => keyxContent 0 (1 == (chunks 300 m).length) (m.take 300)
      (u.healthAt = none → u.portState port = 2 → (k.step = 1 ∨ k.step = 2 ∨ k.step = 3) → taken.2 = none →
        exec (.linkKeyExchange port f last len n) s = .next (u.setPort port { u.port port with keys := taken.1 })) ∧
      (∀ h, u.healthAt = some h → u.portState port = 2 → (k.step = 1 ∨ k.step = 2 ∨ k.step = 3) → exec (.linkKeyExchange port f last len n) s = .next u.holdDraw) ∧
      (∀ msg, u.healthAt = none → u.portState port = 2 → (k.step = 2 ∨ k.step = 3) → taken.2 = some msg →
        (u.initiates port = true ∨ msg ≠ k.encaps ++ k.peerChain) →
        let chain := (msg.drop 1088).take (msg.length - 1088 - 3309)
        let z := u.setKeys port (fun k => { k with ciphertext := slice msg 0 1088, peerChain := chain, partsIn := [] })
        let good := if u.initiates port then
            decide (1088 + 3309 ≤ msg.length) && z.chainGood port chain && Config.chainVerify chain (z.transcript port) (msg.drop (msg.length - 3309))
          else Config.chainVerify k.peerChain (u.transcript port) msg
        ∃ t, exec (.linkKeyExchange port f last len n) s = .next t ∧
          (if good then ((u.port port).degrade = false → (u.port port).quarantined = false → t.portState port = 3) ∧
              ((u.port port).degrade = true → t.portState port = 2) ∧ (t.port port).keys.step = 5 ∧ (t.port port).keys.keyTx.length = 32 ∧
              (t.port port).keys.keyRx.length = 32
            else t.portState port = 4 ∧ (t.port port).quarantined = true)) ∧
      (∀ msg, u.healthAt = none → u.portState port = 2 → (k.step = 2 ∨ k.step = 3) → taken.2 = some msg → u.initiates port = false → msg = k.encaps ++ k.peerChain →
        k.msg ≠ [] → ∃ t, exec (.linkKeyExchange port f last len n) s = .next t ∧ (t.port port).keys = { k with partsIn := [], lastIn := none } ∧
          u.putsCtrl t port (first k.msg)) ∧
      (u.portState port = 3 → k.msg ≠ [] → ∃ t, exec (.linkKeyExchange port f true len n) s = .next t ∧ (t.port port).keys = k ∧
        u.putsCtrl t port (first k.msg))) ∧
    (let x := s.port port
     let k := x.keys
     let low := if x.quarantined then 4 else if x.diked then 5 else 1
     (s.portState port = 2 → (k.step = 1 ∨ k.step = 2 ∨ k.step = 3) → k.since + 20000000 ≤ s.time →
       ∃ t, exec (.keyxTimeout port) s = .next t ∧ t.portState port = low ∧ (t.port port).trainAt = some s.time) ∧
     (s.portState port = 3 → k.switchTx = none → ∃ t, exec (.keyRotationDue port) s = .next t ∧ (t.port port).keys.switchTx = some k.sent ∧
       (t.port port).keys.keyTx = k.keyTx ∧ s.putsCtrl t port (slice (natLe 1 3 ++ natLe 1 4 ++ (k.sent.map (natLe 8)).flatten) 0 320))) ∧
    (∀ (f : Flit) (u : State), s.takeCtl port f (natLe 1 3 ++ natLe 1 4) = (true, u) → u.portState port = 3 → let k := (u.port port).keys
      let pts := (List.range 8).map (fun v => field f.payload (2 + 8 * v) 8)
      ∃ t, exec (.keyUpdate port f) s = .next t ∧
        u.putsCtrl t port (slice (natLe 1 3 ++ natLe 1 5) 0 320) ∧ (t.port port).keys.lastRx = pts ∧
        (pts ≠ k.lastRx → (∃ v, v < 8 ∧ k.got.getD v 0 < field f.payload (2 + 8 * v) 8) → (t.port port).keys.nextRx = some pts ∧ (t.port port).keys.keyRx = k.keyRx) ∧
        (pts ≠ k.lastRx → (∀ v, v < 8 → field f.payload (2 + 8 * v) 8 ≤ k.got.getD v 0) →
          (t.port port).keys.nextRx = none ∧ (t.port port).keys.keyRx = nextKey k.keyRx) ∧
        (pts = k.lastRx → k.nextRx = none → (t.port port).keys = k)) ∧
    (∀ (f : Flit) (u : State) pts, s.takeCtl port f (natLe 1 3 ++ natLe 1 5) = (true, u) → u.portState port = 3 → (u.port port).keys.switchTx = some pts →
      ∃ t, exec (.keyAck port f) s = .next t ∧ (t.port port).keys.switchTx = none ∧
        (t.port port).keys.keyTx = nextKey (u.port port).keys.keyTx ∧ (t.port port).keys.firstTx = pts ∧ t = { u with ports := t.ports })

/-- Fabric mode. TIME_EXCHANGE_TIMER asks the parent, runs free without one that reaches the root, and locks a root that no neighbour answers at zero. TIME_REQ is answered with
the time, but by a chip that runs free. TIME_RSP forms the offset from the moment the flit came in: an unlocked chip steps by it, another slews, and one that runs free moves
nothing. RACK_SYNC_EDGE locks at the first edge and measures later ones;
RACK_SYNC_MISSING sets UNLOCKED_REF. RESYNC and RESYNC_STEP set RESYNC and, but while an INVOKE runs, STEP; in FREE_RUN they leave it and ask the parent, the latter for a step
when no INVOKE runs. -/
def Obligations.FabricTimeComplete : Prop :=
  ∀ (s : State), s.stopped = false →
    (∀ reach : BitVec 8, s.plan.isSome = true → s.machineMode = false → s.timeRoot ≠ s.chip → s.flag F.lnkTimeCtlFreeRun = false →
      (∀ n, s.parentPort reach = some n → ∃ t, exec (.timeExchangeTimer reach) s = .next t ∧ (t.port n).timeReq = some s.time ∧ t.time = s.time ∧
        s.putsCtrl t n [1]) ∧
      (s.parentPort reach = none → ∃ t, exec (.timeExchangeTimer reach) s = .next t ∧ t.flag F.lnkTimeCtlFreeRun = true ∧ t.flag F.lnkTimeCtlResync = false ∧
        t = { s with regs := t.regs, stepDue := false })) ∧
    (∀ reach : BitVec 8, s.plan.isSome = true → s.machineMode = false → s.timeRoot = s.chip → s.unlocked = true → (∀ n, n < 6 → s.portState n ≠ 3) →
      ∃ t, exec (.timeExchangeTimer reach) s = .next t ∧ t.time = 0 ∧ t.unlocked = false) ∧
    (∀ (port : PortId) (f : Flit) (u : State), s.takeCtl port f [1] = (true, u) → u.portState port = 3 → u.machineMode = false → u.unlocked = false →
      (u.flag F.lnkTimeCtlFreeRun = false → ∃ t, exec (.timeReq port f) s = .next t ∧
        u.putsCtrl t port (natLe 1 2 ++ natLe 8 u.time ++ natLe 8 u.time)) ∧
      (u.flag F.lnkTimeCtlFreeRun = true → exec (.timeReq port f) s = .next u)) ∧
    (∀ (port : PortId) (f : Flit) (late : Nat) (u : State) (t1 : Nat), s.takeCtl port f [2] = (true, u) → (u.port port).timeReq = some t1 → u.portState port = 3 → u.machineMode = false →
      (u.flag F.lnkTimeCtlFreeRun = true → exec (.timeRsp port f late) s = .next (u.setPort port { u.port port with timeReq := none })) ∧
      (u.flag F.lnkTimeCtlFreeRun = false →
      let t2 := field f.payload 1 8
      let t3 := field f.payload 9 8
      let d : Int := (((t2 : Int) - t1) - ((u.time : Int) - late - t3)) / 2
      ∃ t, exec (.timeRsp port f late) s = .next t ∧ (t.port port).timeReq = none ∧ t.getF F.lnkTimeOffsetOffset = unsigned 64 d ∧ t.flag F.lnkTimeCtlResync = false ∧
        (u.unlocked = true → t.time = ((u.time : Int) + d).toNat % 2 ^ 64 ∧ t.unlocked = false ∧ t.slew = 0) ∧
        (u.unlocked = false → u.stepDue = false → t.time = u.time ∧ t.slew = d) ∧
        (u.unlocked = false → u.stepDue = true → t.stepDue = false ∧ (0 ≤ d → t.time = ((u.time : Int) + d).toNat) ∧
          (d < 0 → t.time = u.time ∧ t.holdNs = (-d).toNat)))) ∧
    (s.machineMode = true → let next := s.getF F.lnkTimeNextNext
      ∃ t, exec .rackSyncEdge s = .next t ∧ t.getF F.lnkTimeNextNext = (next + 10 ^ 9) % 2 ^ 64 ∧ t.unlocked = false ∧
        (s.unlocked = true → t.time = next % 2 ^ 64) ∧
        (s.unlocked = false → t.time = s.time ∧ t.slew = (next : Int) - s.time ∧
          (t.flag F.lnkTimeCtlUnlockedRef = true ↔ (s.time : Int) - next < -100 ∨ 100 < (s.time : Int) - next))) ∧
    (s.machineMode = true → s.unlocked = false → s.getF F.lnkTimeNextNext + 100 < s.time → ∃ t, exec .rackSyncMissing s = .next t ∧
      t.flag F.lnkTimeCtlUnlockedRef = true ∧ t.getF F.lnkTimeNextNext = (s.getF F.lnkTimeNextNext + 10 ^ 9) % 2 ^ 64 ∧ t.time = s.time) ∧
    (s.barQuiet = true → ∀ c u step, (c, u, step) ∈ [(Instr.resync .pf, s, false), (Instr.resyncStep .pf, s.noteStep, !s.anyInvoke)] →
      (s.flag F.lnkTimeCtlFreeRun = true →
        (∀ n, s.parentPort (BitVec.allOnes 8) = some n → ∃ t, exec c s = .next t ∧ t.flag F.lnkTimeCtlFreeRun = false ∧ t.flag F.lnkTimeCtlResync = true ∧
          t.flag F.lnkTimeCtlStep = u.flag F.lnkTimeCtlStep ∧ t.stepDue = step ∧ (t.port n).timeReq = some s.time) ∧
        (s.parentPort (BitVec.allOnes 8) = none → ∃ t, exec c s = .next t ∧ t.flag F.lnkTimeCtlFreeRun = false ∧ t.flag F.lnkTimeCtlResync = true ∧ t.stepDue = step ∧
          t = { s with regs := t.regs, stepDue := t.stepDue })) ∧
      (s.flag F.lnkTimeCtlFreeRun = false → exec c s = .next (u.setF F.lnkTimeCtlResync 1)))

/-- KEY_LOCK and OWNER_LOCK set their lock bit, for the PF and the sideband, and nothing else. TGT_CONNECT takes the entry and connects a valid one; TGT_KEY_WRITE takes key and
salt and connects again; words staged for either entry are gone. RDMA_TRANSPORT_ERROR puts the queue pair into its error state, but for a remote access error, and ends a load that uses it (said where no checkpoint runs and no read waits for a repair). RDMA_INBOUND_REQUEST is refused on a port in service.
TRANSPORT_RETRANSMIT sends again; STORAGE_LINK_CHANGE shows the link. DIAG_SESSION opens one session, for the key named at the port that listens, and a request of it for a
planned neighbour's management processor goes out in a MGMT packet. -/
def Obligations.LocksAndTargetsComplete : Prop :=
  ∀ (s : State),
    (∀ path, (path = .pf ∨ path = .sideband) → s.barQuiet = true → s.stopped = false → exec (.keyLock path) s = .next (s.setF F.topoPlanStatusKeyLock 1)) ∧
    (∀ path, (path = .pf ∨ path = .sideband) → s.barQuiet = true → s.deaf = false → exec (.ownerLock path) s = .next (s.setF F.secStatusOwnerLock 1)) ∧
    (∀ path, path ≠ .pf → path ≠ .sideband → s.barQuiet = true → exec (.keyLock path) s = .next s ∧ exec (.ownerLock path) s = .next s) ∧
    (∀ (i : TargetId) (w : BitVec 512), s.stopped = false → s.barQuiet = true → ∃ t, exec (.tgtConnect .pf i w) s = .next t ∧
      t = { s with regs := t.regs, psn := t.psn, asked := t.asked, staged := s.staged.filter (fun x => x.1 != Reg.ethTgt.key i) } ∧
      (∀ f ∈ [F.ethTgtIp, F.ethTgtNextHop, F.ethTgtRemoteQpn, F.ethTgtSendPsn, F.ethTgtRecvPsn, F.ethTgtVlan, F.ethTgtPcp, F.ethTgtDscp, F.ethTgtPort, F.ethTgtEncrypt,
        F.ethTgtValid], t.getF f i = bits w.toNat f.hi f.lo) ∧
      t.getF F.ethTgtState i = bits w.toNat F.ethTgtValid.hi F.ethTgtValid.lo) ∧
    (∀ (i : TargetId) (key : Bytes), s.stopped = false → s.barQuiet = true → ∃ t, exec (.tgtKeyWrite .pf i key) s = .next t ∧
      t = { s with regs := t.regs, psn := t.psn, asked := t.asked, staged := s.staged.filter (fun x => x.1 != Reg.secTgtKey.key i) } ∧
      t.getF F.secTgtKeyKey i = field key 0 32 ∧ t.getF F.secTgtKeySalt i = field key 32 4 ∧
      t.getF F.ethTgtState i = (if s.flag F.ethTgtValid i then 1 else 0)) ∧
    (∀ (i : TargetId), s.stopped = false → s.getF F.ethTgtState i = 1 →
      (s.parked = [] → (∀ c, (s.ctx c).ckpt = none) → ∀ access, ∃ t, exec (.rdmaTransportError i access) s = .next t ∧
        t.getF F.ethTgtState i = (if access then 1 else 2) ∧
        ∀ c j, c ∈ s.known → (s.ctx c).load = some j → j.uses 2 i = true → (t.ctx c).load = none) ∧
      exec (.transportRetransmit i) s = .next { s with out := s.out ++ [.retransmit i] }) ∧
    (∀ (eth : EthId) (req : Bytes), s.stopped = false → s.getF F.ethPortState eth = 2 →
      exec (.rdmaInboundRequest eth req) s = .next { s with out := s.out ++ [.rdmaRefuse eth req] }) ∧
    (∀ (eth : EthId) (st : Fin 4), st.val ≠ 3 → ∃ t, exec (.storageLinkChange eth st) s = .next t ∧ t.getF F.ethPortState eth = st.val ∧ t = { s with regs := t.regs }) ∧
    (∀ (eth : EthId) (d : Bytes) (tcp : Nat), s.stopped = false → s.flag F.ethDiagEnable = true → s.getF F.ethPortState eth = 2 →
      (slice d 0 64 = s.diagKey → tcp = s.diagTcp → exec (.diagSession eth d tcp) s = .next { s with diag := true }) ∧
      (slice d 0 64 = s.diagKey → tcp = s.diagTcp → ∀ (n : PortId) (body : Bytes), s.getF F.topoPortExpKind n ≠ 0 → (s.portState n = 3 ∨ s.portState n = 4) →
        exec (.diagSession eth d tcp [(n, body)]) s =
          .next ((State.egress { s with diag := true } n { packetOf 9 (s.getF F.topoPortExpChip n) 0xFF 0 0xFF body with srcChip := s.chip } none).2)) ∧
      (∀ relays, (slice d 0 64 ≠ s.diagKey ∨ tcp ≠ s.diagTcp) → exec (.diagSession eth d tcp relays) s = .next s))

/-- On an open endpoint each SPDM request that comes in its order is answered with its response over what the device puts into it, and moves the endpoint on; one out of order,
of a slot that is not provisioned, or that does not offer the one set of algorithms gets an error and changes nothing else. CHALLENGE, and GET_MEASUREMENTS where a signature is
asked for, are signed with the alias key. On the diagnostic endpoint the requester proves itself. IDE_KM programs a key of its stream, or turns it on or off. PLDM_MONITOR reports voltage, current, power and temperatures. DEBUG_TOKEN arms the scope of a valid token. HEALTH_TEST_FAIL makes
SEC hold every draw; a draw held for 10 ms is fatal. -/
def Obligations.AttestationComplete : Prop :=
  ∀ (s : State) (ep : SpdmEp) (msg : Bytes),
    (s.spdmOpen ep = true → let x := s.endpoint ep
      (∃ t, exec (.getVersion ep msg) s = .next t ∧ t.endpoint ep = ⟨1, false, false⟩ ∧ t.out = s.out ++ [.spdm ep (Config.spdmResponse 0x84 (msg ++ []))]) ∧
      (1 ≤ x.stage → ∃ t, exec (.getCapabilities ep msg) s = .next t ∧ t.endpoint ep = { x with stage := max x.stage 2 } ∧
        t.out = s.out ++ [.spdm ep (Config.spdmResponse 0xE1 (msg ++ []))]) ∧
      let bad := Out.spdm ep (Config.spdmResponse 0x7F (msg ++ []))
      (2 ≤ x.stage →
        (spdmAlgorithms.all (Config.spdmOffers msg) = true → ∃ t, exec (.negotiateAlgorithms ep msg) s = .next t ∧ t.endpoint ep = { x with stage := 3 } ∧
          t.out = s.out ++ [.spdm ep (Config.spdmResponse 0xE3 (msg ++ ascii (String.intercalate "," spdmAlgorithms)))]) ∧
        (spdmAlgorithms.all (Config.spdmOffers msg) = false → exec (.negotiateAlgorithms ep msg) s = .next { s with out := s.out ++ [bad] })) ∧
      (3 ≤ x.stage →
        exec (.getDigests ep msg) s = .next { s with out := s.out ++ [.spdm ep (Config.spdmResponse 0x81 (msg ++ s.boot.chain))] } ∧
        (spdmParam msg 1 % 16 = 0 → exec (.getCertificate ep msg) s = .next { s with out := s.out ++ [.spdm ep (Config.spdmResponse 0x82 (msg ++ s.boot.chain))] }) ∧
        (spdmParam msg 1 % 16 ≠ 0 → ∀ c ∈ [Instr.getCertificate ep msg, .challenge ep msg], exec c s = .next { s with out := s.out ++ [bad] }) ∧
        (spdmParam msg 2 % 16 ≠ 0 → exec (.keyExchange ep msg) s = .next { s with out := s.out ++ [bad] }) ∧
        (bit (spdmParam msg 1) 0 = false → exec (.getMeasurements ep msg) s =
          .next { s with out := s.out ++ [.spdm ep (Config.spdmResponse 0xE0 (msg ++ s.measurementBlocks.flatten))] }) ∧
        (s.healthAt = none →
          let signed := fun (c : Instr) (code : Nat) (context : String) (content : Bytes → Bytes) => 
            let nonce := natLe 8 (Config.freeValue s.free).toNat
            let r := (Config.freeValue (s.free + 1)).toNat
            exec c s = .next { s with free := s.free + 2, out := s.out ++ [.spdm ep (Config.spdmResponse code (msg ++ (content nonce ++
              slice (Config.mldsaSign (Config.freeValue s.boot.aliasAt).toNat context (msg ++ content nonce) r) 0 3309)))] }
          (spdmParam msg 1 % 16 = 0 → signed (.challenge ep msg) 0x83 "responder-challenge_auth signing" (fun nonce => nonce ++ s.measurementBlocks.flatten)) ∧
          (bit (spdmParam msg 1) 0 = true →
            signed (.getMeasurements ep msg) 0xE0 "responder-measurements signing" (fun nonce => s.measurementBlocks.flatten ++ nonce)) ∧
          (spdmParam msg 2 % 16 = 0 → ∃ t, exec (.keyExchange ep msg) s = .next t ∧ t.endpoint ep = { x with exchange := true } ∧
            t.out = s.out ++ [.spdm ep (Config.spdmResponse 0xE4 (msg ++ (natLe 1 (b2n (ep == .diag)) ++ natLe 8 (Config.freeValue s.free).toNat)))])) ∧
        (∀ h, s.healthAt = some h → (spdmParam msg 1 % 16 = 0 → exec (.challenge ep msg) s = .next s.holdDraw) ∧
          (bit (spdmParam msg 1) 0 = true → exec (.getMeasurements ep msg) s = .next s.holdDraw) ∧
          (spdmParam msg 2 % 16 = 0 → exec (.keyExchange ep msg) s = .next s.holdDraw)) ∧
        (x.exchange = false ∨ ep = .diag ∧ Config.spdmProves msg s.diagKey = false → exec (.finish ep msg) s = .next { s with out := s.out ++ [bad] }) ∧
        (x.exchange = true → (ep = .diag → Config.spdmProves msg s.diagKey = true) → ∃ t, exec (.finish ep msg) s = .next t ∧ t.endpoint ep = { x with exchange := false, session := true } ∧
          t.out = s.out ++ [.spdm ep (Config.spdmResponse 0xE5 (msg ++ []))]) ∧
        (x.session = true → ∃ t, exec (.endSession ep msg) s = .next t ∧ t.endpoint ep = { x with session := false } ∧ (ep = .diag → t.diag = false) ∧
          t.out = s.out ++ [.spdm ep (Config.spdmResponse 0xEC (msg ++ []))]) ∧
        (ep = .pcie → x.session = true → ideStream msg < Config.ideStreams →
          (∀ y, (s.ide.get .fresh (ideStream msg)).take msg = some y →
            exec (.ideKm ep msg) s = .next { s with ide := s.ide.put (ideStream msg) y, out := s.out ++ [.spdm ep (Config.spdmResponse 0xFE (msg ++ []))] }) ∧
          ((s.ide.get .fresh (ideStream msg)).take msg = none → exec (.ideKm ep msg) s = .next { s with out := s.out ++ [bad] }))) ∧
      (∀ c n, (c, n) ∈ [(Instr.getCapabilities ep msg, 1), (.negotiateAlgorithms ep msg, 2), (.getDigests ep msg, 3), (.getCertificate ep msg, 3), (.challenge ep msg, 3),
          (.getMeasurements ep msg, 3), (.keyExchange ep msg, 3), (.finish ep msg, 3), (.endSession ep msg, 3), (.ideKm ep msg, 3)] → x.stage < n →
        exec c s = .next { s with out := s.out ++ [.spdm ep (Config.spdmResponse 0x7F (msg ++ []))] })) ∧
    (∀ req : Bytes, s.deaf = false → ∃ t b, exec (.pldmMonitor req) s = .next t ∧ t = { s with out := s.out ++ [.pldm b] } ∧ b.length = req.length + 8 ∧ slice b 0 req.length = req ∧
      slice b req.length 6 = natLe 2 (s.getF F.pwrInputVin) ++ natLe 2 (s.getF F.pwrInputIin) ++ natLe 2 (s.getF F.pwrInputPin) ∧
      field b (req.length + 6) 1 = bits (s.view .pwrTherm 0) F.pwrThermDieMax.hi F.pwrThermDieMax.lo % 256 ∧
      field b (req.length + 7) 1 = bits (s.view .pwrTherm 0) F.pwrThermStackMax.hi F.pwrThermStackMax.lo % 256) ∧
    (∀ token : Bytes, s.deaf = false → s.healthAt = none → s.flag F.secStatusJtagAllow = true → ∃ t, exec (.debugToken token) s = .next t ∧
      (if !Config.dbgFused && s.tokenValid token 2 Config.debugAuthority then t.boot.armed = some (field token 48 8) ∧ t.boot.challengeAt = s.free else t = s)) ∧
    (∀ token : Bytes, s.deaf = false → s.healthAt.isSome = true → s.flag F.secStatusJtagAllow = true → Config.dbgFused = false →
      s.tokenValid token 2 Config.debugAuthority = true → exec (.debugToken token) s = .next s.holdDraw) ∧
    (s.deaf = false → s.healthAt = none → exec .healthTestFail s = .next { s with healthAt := some s.time }) ∧
    (∀ h, s.healthAt.isSome = true → s.heldDraw = some h → h + 10000000 ≤ s.time → s.deaf = false → ∃ t, exec .drawHeldTimeout s = .next t ∧ t.failed = true) ∧
    (s.heldDraw = none → exec .drawHeldTimeout s = .next s)

/-- With debug unlocked, DBG_SPM_SEL of a row that exists shows the row's data and check bytes with the errors that stand in it, and DBG_SPM_ROW writes the selected row raw,
no other row of the scratchpad, canonical as every step keeps it, changing; locked, both are counted as unmapped. HB_EN sets the enable and restarts the watchdog. -/
def Obligations.DebugPageComplete : Prop :=
  ∀ (s : State), s.deaf = false → s.barQuiet = true →
    (s.debugPage = true →
      (∀ w : BitVec 32, bits w.toNat 23 16 ≤ 191 → bits w.toNat 13 0 ≤ 12287 → ∃ t, exec (.dbgSpmSel .pf w) s = .next t ∧ t.getF F.dbgSpmSelCore = bits w.toNat 23 16 ∧
        t.getF F.dbgSpmSelRow = bits w.toNat 13 0 ∧ t.reg .dbgSpmRow 0 = leNat ((s.core (bits w.toNat 23 16)).rawRow (bits w.toNat 13 0)) ∧ t = { s with regs := t.regs }) ∧
      (∀ row : Bytes, s.memWf = true → let core := s.getF F.dbgSpmSelCore
        let at_ := 256 * s.getF F.dbgSpmSelRow
        ∃ t, exec (.dbgSpmRow .pf row) s = .next t ∧ (∀ c, c ≠ core → t.core c = s.core c) ∧ t.hbm = s.hbm ∧
          (∀ a, a < at_ ∨ at_ + 256 ≤ a → (t.core core).spm.read a = (s.core core).spm.read a) ∧
          (∀ j, j < 8 → (t.core core).spm.readN (at_ + 32 * j) 32 = slice (slice row 0 288) (36 * j) 32))) ∧
    (s.debugPage = false → ∀ (path : Path) (w : BitVec 32) (row : Bytes), exec (.dbgSpmSel path w) s = .next (s.bump F.glbAccessUnmapped) ∧
      exec (.dbgSpmRow path row) s = .next ((s.unstaged path .dbgSpmRow 0).bump F.glbAccessUnmapped)) ∧
    (∃ t, exec (.hbEn .pf) s = .next t ∧ t.flag F.tmoHbHbEn = true ∧ t.hbAt = some s.time ∧ t = { s with regs := t.regs, hbAt := t.hbAt })

/-- While the device takes work: an INVOKE without progress for the progress timeout faults its context with TIMEOUT; a task that issues nothing for the sequencer timeout has its
core diked and its context faulted with TIMEOUT; a task that waits on a counter for the barrier timeout faults its context; a credit entry that stays empty past the sluice timeout
is cleared, NO_CREDIT_TIMEOUT; a fabric request without a response ends with TIMEOUT, here a write of a stream; the host's heartbeat, missed, tears every context down; a closing
sluice is freed at the dike timeout. Before its time each of them does nothing. -/
def Obligations.WatchdogsComplete : Prop :=
  ∀ (s : State), s.stopped = false →
    (∀ (ctx : CtxId) (v : Invoke), (s.ctx ctx).inv = some v → v.bound = true → v.ending = none → s.ctxState ctx = 1 →
      let due := decide ((s.ctx ctx).progressAt + s.getF F.tmoProgressProgressMs * 1000000 ≤ s.time)
      (due = true → ∃ t, exec (.contextProgressTimeout ctx) s = .next t ∧ t.ctxState ctx = 2 ∧ t.getF F.cxsCtxStateStatus ctx = Status.timeout.code ∧
        t.getF F.cxsWdogProgress = (s.bump F.cxsWdogProgress).getF F.cxsWdogProgress ∧ t.hbm = s.hbm ∧ t.cores = s.cores) ∧
      (due = false → exec (.contextProgressTimeout ctx) s = .next s)) ∧
    (∀ (core : CoreId) (k : Nat), (s.core core).running = some k → ((s.core core).slot k).state ≠ 0 → (s.core core).rst = 0 →
      let due := decide ((s.core core).progressAt + s.getF F.tmoSeqSeqMs * 1000000 ≤ s.time)
      (due = true → ∃ t, exec (.sequencerTimeout core) s = .next t ∧ (t.core core).rst = 1 ∧ (t.core core).dikeAt = some s.time ∧
        s.faults t ((s.core core).slot k).tag .timeout ∧ (∀ c, c ≠ core.val → t.core c = s.core c) ∧ t.hbm = s.hbm) ∧
      (due = false → exec (.sequencerTimeout core) s = .next s)) ∧
    (∀ (core : CoreId) (slot : SlotId), let x := (s.core core).slot slot
      x.state = 3 → s.live x.tag = true →
      let due := decide (x.waitSince + s.getF F.tmoBarrierBarrierMs * 1000000 ≤ s.time)
      (due = true → ∃ t, exec (.barrierWaitTimeout core slot) s = .next t ∧ s.faults t x.tag .timeout ∧ t.hbm = s.hbm ∧ t.cores = s.cores) ∧
      (due = false → exec (.barrierWaitTimeout core slot) s = .next s)) ∧
    (∀ (core : CoreId) (credit : CreditId) (at_ : Nat), let x := (s.core core).cred credit
      x.state = 2 → x.timer = some at_ →
      let due := decide (at_ + s.getF F.tmoSluiceSluiceMs * 1000000 ≤ s.time)
      (due = true → ∃ t, exec (.sluiceCreditTimeout core credit) s = .next t ∧ s.faults t x.owner .noCreditTimeout ∧
        (t.core core).creds = (s.core core).creds.del credit.val ∧ t.hbm = s.hbm) ∧
      (due = false → exec (.sluiceCreditTimeout core credit) s = .next s)) ∧
    (∀ (txn : BitVec 16) (r : Request) (core j index : Nat) (x : Run), s.requests.find? (fun q => q.txn == txn.toNat) = some r → r.who = .streamWrite core j index →
      ((s.core core).strm j).run = some x → x.status = .ok →
      let due := decide (r.sentAt + s.getF F.tmoLinkRspLinkRspMs * 1000000 ≤ s.time)
      (due = true → ∃ t, exec (.linkResponseTimeout txn) s = .next t ∧ ((t.core core).strm j).run = some { x with acks := x.acks.erase index, status := .timeout } ∧
        (∀ q ∈ t.requests, q.txn ≠ txn.toNat)) ∧
      (due = false → exec (.linkResponseTimeout txn) s = .next s)) ∧
    (∀ h, s.hbAt = some h → s.flag F.tmoHbHbEn = true → h + s.getF F.tmoHbHbS * 1000000000 ≤ s.time →
      ∃ t, exec .heartbeatTimeout s = .next t ∧ t.hbAt = none ∧ t.flag F.tmoHbHbEn = true ∧
        ∀ i, i < 1024 → (s.ctxState i = 1 ∨ s.ctxState i = 2) → t.ctxState i = 3) ∧
    ((s.flag F.tmoHbHbEn = false ∨ s.hbAt = none ∨ ∃ h, s.hbAt = some h ∧ s.time < h + s.getF F.tmoHbHbS * 1000000000) → exec .heartbeatTimeout s = .next s) ∧
    (∀ (core : CoreId) (handle : HandleId) (at_ : Nat), let p := (s.core core).polder handle
      p.valid = true → p.sluice = true → p.sluiceState = 2 → p.closeAt = some at_ →
      (at_ + s.dikeNs ≤ s.time → ∃ t, exec (.closingSluiceTimeout core handle) s = .next t ∧
        (t.core core).polder handle = { Polder.empty with gen := (p.gen + 1) % 64 } ∧ t.hbm = s.hbm ∧
        s.records t 0x0004 (sourceOf 0 core) p.owner .timeout 2 (natLe 2 handle.val)) ∧
      (s.time < at_ + s.dikeNs → exec (.closingSluiceTimeout core handle) s = .next s))

/-- CORE_RESET by the PF dikes a core that has no reset under way: its users fault with FENCED. DIKE_DRAINED with nothing outstanding, or DIKE_TIMEOUT at the dike timeout, resets
it: every task, operation and stream is gone, its resident polders and the scratchpad stay, an open sluice that still owes credit closes, the other polders are freed, COUNT moves. DIKE_LIFTED opens it again. -/
def Obligations.CoreResetComplete : Prop :=
  ∀ (s : State) (core : CoreId), s.stopped = false →
    (s.barQuiet = true → (s.core core).rst = 0 → ∃ t, exec (.coreReset .pf core) s = .next t ∧ (t.core core).rst = 1 ∧ (t.core core).dikeAt = some s.time ∧
      (t.core core).dikeFor = s.dikeNs ∧ t.hbm = s.hbm ∧
      (∀ tag ∈ (s.core core).users, s.faults t tag .fenced) ∧ (∀ c, c ≠ core.val → t.core c = s.core c)) ∧
    (∀ path, path ≠ .pf → s.barQuiet = true → exec (.coreReset path core) s = .next s) ∧
    (∀ c, (c = Instr.dikeDrained (.core core) ∧ (s.core core).outstanding = 0 ∨
        c = Instr.dikeTimeout (.core core) ∧ ∃ a, (s.core core).dikeAt = some a ∧ a + (s.core core).dikeFor ≤ s.time) → (s.core core).rst = 1 →
      ∃ t, exec c s = .next t ∧ (t.core core).rst = 3 ∧ (t.core core).slots = [] ∧ (t.core core).running = none ∧ (t.core core).queue = [] ∧
        (t.core core).me = [] ∧ (t.core core).vu = [] ∧ (t.core core).strms = [] ∧ (t.core core).bars = [] ∧ (t.core core).creds = [] ∧
        (t.core core).spm = (s.core core).spm ∧ t.hbm = s.hbm ∧ (∀ c, c ≠ core.val → t.core c = s.core c) ∧
        (∀ h, (∀ p, (h, p) ∈ (s.core core).ht → p.resident = true) → (t.core core).polder h = (s.core core).polder h) ∧
        (∀ h p, (h, p) ∈ (s.core core).ht → (s.core core).polder h = p → p.valid = true → p.resident = false →
          (p.sluice = false → ((t.core core).polder h).valid = false) ∧
          (p.sluice = true → p.sluiceState = 1 → p.credit ≠ 0 → (t.core core).polder h = { p with sluiceState := 2, closeAt := some s.time })) ∧
        t.getF F.coreResetCount core = (s.bump F.coreResetCount core).getF F.coreResetCount core) ∧
    ((s.core core).outstanding ≠ 0 → exec (.dikeDrained (.core core)) s = .next s) ∧
    ((s.core core).rst = 3 → ∃ t, exec (.dikeLifted (.core core)) s = .next t ∧ (t.core core).rst = 0 ∧ (t.core core).dikeAt = none) ∧
    ((s.core core).rst ≠ 0 → (∃ a, (s.core core).dikeAt = some a ∧ a + ((s.core core).dikeFor + 2000000) ≤ s.time) →
      ∃ t, exec (.escalationTimeout (.core core)) s = .next t ∧ t.failed = true)

/-- PORT_RESET, STACK_RESET and the dike's steps on a port and a stack: diked, trained or reset, open again. A port whose dike times out before it is up is down, or stays
quarantined. A stack that loses its training is diked; none of its requests is open at the timeout, so that no abort is logged. A stack that does not come back within 1.8 s of the
end of its drain has failed, and that is fatal; a port gives up after 150 ms. -/
def Obligations.PortAndStackResetComplete : Prop :=
  ∀ (s : State), s.stopped = false →
    (∀ port : PortId, s.barQuiet = true → s.portResets port = false → s.portState port ≠ 0 →
      ∃ t, exec (.portReset .pf port) s = .next t ∧ t.portState port = 5 ∧ (t.port port).dikeAt = some s.time ∧
        (t.port port).dikeFor = s.dikeNs ∧ (t.port port).resetBy = true ∧ t.getF F.lnkLanesForceLanes port = 0 ∧ t.getF F.lnkCtlForceWidth port = 0) ∧
    (∀ port : PortId, s.barQuiet = true → s.portResets port = true → exec (.portReset .pf port) s = .next s) ∧
    (∀ port : PortId, s.portState port = 5 → (s.port port).trainAt = none → ∃ t, exec (.dikeDrained (.port port)) s = .next t ∧ t.portState port = 2) ∧
    (∀ (port : PortId) (a : Nat), (s.port port).dikeAt = some a → a + (s.port port).dikeFor ≤ s.time → (s.port port).overdue = false →
      (s.portState port = 5 ∨ s.portState port = 2) →
      ∃ t, exec (.dikeTimeout (.port port)) s = .next t ∧ t.portState port = (if (s.port port).quarantined then 4 else 1) ∧
        (s.portState port = 2 → t.trains port = true)) ∧
    (∀ port : PortId, s.portState port = 3 → (s.port port).dikeAt.isSome = true → ∃ t, exec (.dikeLifted (.port port)) s = .next t ∧
      t.port port = { s.port port with dikeAt := none, resetBy := false, overdue := false } ∧ t.portState port = 3 ∧ s.records t 0x0022 (sourceOf 2 port) 0 .ok 0 []) ∧
    (∀ (port : PortId) (a : Nat), (s.port port).dikeAt.or (s.port port).trainAt = some a → a + 150000000 ≤ s.time → (s.portState port = 5 ∨ s.portState port = 2) →
      ∃ t, exec (.escalationTimeout (.port port)) s = .next t ∧ t.portState port = (if (s.port port).quarantined then 4 else 1)) ∧
    (∀ stack : StackId, (s.hsc stack).state = 0 → s.barQuiet = true →
      (∀ parity lost, (16 ≤ parity ∨ lost = true) → ∀ c, c ∈ [Instr.stackReset .pf stack, .hbmTrainingLoss stack parity lost] → ∃ t, exec c s = .next t ∧
        t.hsc stack = { s.hsc stack with state := 1, dikeAt := some s.time, dikeFor := s.dikeNs } ∧ t.hbm = s.hbm ∧ s.records t 0x0020 (sourceOf 4 stack) 0 .ok 0 [])) ∧
    (∀ stack : StackId, (s.hsc stack).state = 1 →
      (∃ t, exec (.dikeDrained (.stack stack)) s = .next t ∧ (t.hsc stack).state = 2 ∧ (t.hsc stack).resetAt = some s.time ∧ t.hbm = s.hbm) ∧
      (∀ a, (s.hsc stack).dikeAt = some a → a + (s.hsc stack).dikeFor ≤ s.time → ∃ t, exec (.dikeTimeout (.stack stack)) s = .next t ∧ (t.hsc stack).state = 2 ∧
        (t.hsc stack).resetAt = some s.time ∧ t.hbm = s.hbm ∧ t.events = s.events)) ∧
    (∀ stack : StackId, (s.hsc stack).state = 2 → ∃ t, exec (.dikeLifted (.stack stack)) s = .next t ∧
      t.hsc stack = { s.hsc stack with state := 0, dikeAt := none, resetAt := none } ∧ t.hbm = s.hbm ∧ s.records t 0x0022 (sourceOf 4 stack) 0 .ok 0 []) ∧
    (∀ (stack : StackId) (a : Nat), (s.hsc stack).state = 2 → (s.hsc stack).resetAt = some a →
      (a + 1800000000 ≤ s.time → s.deaf = false → ∃ t, exec (.escalationTimeout (.stack stack)) s = .next t ∧ t.failed = true ∧ (t.hsc stack).state = 3) ∧
      (s.time < a + 1800000000 → exec (.escalationTimeout (.stack stack)) s = .next s))

/-- FUNCTION_LEVEL_RESET dikes the function and tears its contexts down. DIKE_DRAINED, once none of them has state, clears its HIU registers, keeping generations; DIKE_LIFTED ends the
dike. DIKE_TIMEOUT and ESCALATION_TIMEOUT mark a teardown that has not ended in time as stuck. The steps of the device and of a context are not
these commands' (log entry 28): they do nothing. -/
def Obligations.FunctionResetComplete : Prop :=
  ∀ (s : State) (func : FuncId), s.stopped = false →
    (s.funcDiked func = false → ∃ t, exec (.functionLevelReset func) s = .next t ∧ t.funcDikes.find func.val = some false ∧
      ∀ i, i ∈ s.contextsOf func → (s.ctxState i = 1 ∨ s.ctxState i = 2) → t.ctxState i = 3) ∧
    (s.funcDiked func = true → exec (.functionLevelReset func) s = .next s) ∧
    (s.funcDikes.find func.val = some false → s.funcQuiet func = true → ∃ t, exec (.dikeDrained (.func func)) s = .next t ∧ t.funcDikes.find func.val = some true ∧ t.hbm = s.hbm ∧
      (func.val = 0 → t.vfEnable = false) ∧
      ∀ i, i ∈ s.contextsOf func → t.getF F.hiuCtxCtlGen i = s.getF F.hiuCtxCtlGen i ∧ t.flag F.hiuCtxCtlEnable i = false ∧
        t.reg .hiuCtxState i = Reg.hiuCtxState.resetValue ∧ t.reg .hiuCtxAudit i = Reg.hiuCtxAudit.resetValue) ∧
    (s.funcQuiet func = false → exec (.dikeDrained (.func func)) s = .next s) ∧
    (s.funcDikes.find func.val = some true → ∃ t, exec (.dikeLifted (.func func)) s = .next t ∧ t.funcDikes = s.funcDikes.del func.val ∧ t.hbm = s.hbm) ∧
    (s.funcDikes.find func.val = some false → ∀ (i a : Nat), i ∈ s.contextsOf func → s.ctxState i = 3 → (s.ctx i).tearAt = some a →
      (a + s.tearNs i ≤ s.time → ∃ t, exec (.dikeTimeout (.func func)) s = .next t ∧ (t.ctx i).stuck = true ∧ t.ctxState i = 3) ∧
      (a + 100000000 ≤ s.time → ∃ t, exec (.escalationTimeout (.func func)) s = .next t ∧ (t.ctx i).stuck = true ∧ t.ctxState i = 3)) ∧
    (∀ (i : CtxId) (a : Nat), s.ctxState i = 3 → (s.ctx i).tearAt = some a → a + s.tearNs i ≤ s.time →
      ∃ t, exec (.escalationTimeout (.context i)) s = .next t ∧ (t.ctx i).stuck = true ∧ t.ctxState i = 3) ∧
    (∀ d, (d = .device ∨ ∃ i, d = .context i) → exec (.dikeDrained d) s = .next s ∧ exec (.dikeTimeout d) s = .next s ∧ exec (.dikeLifted d) s = .next s)

/-- What the registers show as resets go on: GLB_SCRATCH reads back what an 8-byte REGISTER_WRITE by the PF put there, no other register changing; CORE_RESET, LNK_CTL and
HSC_STACK_CTL read RESET as 1 from CORE_RESET, PORT_RESET and STACK_RESET until the domain is back, the states of core, port and stack moving at DIKE_DRAINED, DIKE_TIMEOUT and
DIKE_LIFTED; FUNCTION_LEVEL_RESET shows every enabled or faulted context of the function as tearing down. -/
def Obligations.RegistersShowResets : Prop :=
  ∀ s : State, s.stopped = false →
    let seen := fun (t : State) (f : Fld) (i : Nat) => bits (t.view f.reg i) f.hi f.lo
    (∀ (off v : Nat) (p : RegPlace), s.barQuiet = true → off % 8 = 0 → findReg off = some p → p.reg = .glbScratch →
      ∃ t, exec (.registerWrite .pf off 8 v) s = .next t ∧ seen t F.glbScratchValue p.index = v % 2 ^ 64 ∧ t = { s with regs := t.regs } ∧
        ∀ r i, r ≠ .glbScratch → t.reg r i = s.reg r i) ∧
    (∀ core : CoreId, s.barQuiet = true → (s.core core).rst = 0 → ∃ t, exec (.coreReset .pf core) s = .next t ∧ seen t F.coreResetReset core = 1 ∧ seen t F.coreResetState core = 1) ∧
    (∀ core : CoreId, (s.core core).rst = 1 →
      ((s.core core).outstanding = 0 → ∃ t, exec (.dikeDrained (.core core)) s = .next t ∧ seen t F.coreResetReset core = 1 ∧ seen t F.coreResetState core = 3) ∧
      (∀ a, (s.core core).dikeAt = some a → a + (s.core core).dikeFor ≤ s.time →
        ∃ t, exec (.dikeTimeout (.core core)) s = .next t ∧ seen t F.coreResetReset core = 1 ∧ seen t F.coreResetState core = 3)) ∧
    (∀ core : CoreId, (s.core core).rst = 3 → ∃ t, exec (.dikeLifted (.core core)) s = .next t ∧ seen t F.coreResetReset core = 0 ∧ seen t F.coreResetState core = 0) ∧
    (∀ port : PortId, s.barQuiet = true → s.portResets port = false → s.portState port ≠ 0 →
      ∃ t, exec (.portReset .pf port) s = .next t ∧ seen t F.lnkCtlReset port = 1 ∧ seen t F.lnkStatusState port = 5) ∧
    (∀ port : PortId, s.portState port = 5 →
      ((s.port port).trainAt = none → ∃ t, exec (.dikeDrained (.port port)) s = .next t ∧ seen t F.lnkCtlReset port = b2n (s.port port).resetBy ∧
        seen t F.lnkStatusState port = 2) ∧
      (∀ a, (s.port port).dikeAt = some a → a + (s.port port).dikeFor ≤ s.time → (s.port port).overdue = false → ∃ t, exec (.dikeTimeout (.port port)) s = .next t ∧
        seen t F.lnkCtlReset port = b2n (s.port port).resetBy ∧
        seen t F.lnkStatusState port = (if (s.port port).quarantined then 4 else 1))) ∧
    (∀ port : PortId, s.portState port = 3 → (s.port port).dikeAt.isSome = true →
      ∃ t, exec (.dikeLifted (.port port)) s = .next t ∧ seen t F.lnkCtlReset port = 0 ∧ seen t F.lnkStatusState port = 3) ∧
    (∀ stack : StackId, (s.hsc stack).state = 0 → s.barQuiet = true →
      ∃ t, exec (.stackReset .pf stack) s = .next t ∧ seen t F.hscStackCtlReset stack = 1 ∧ seen t F.hscStackStatusState stack = 1) ∧
    (∀ stack : StackId, (s.hsc stack).state = 1 →
      (∃ t, exec (.dikeDrained (.stack stack)) s = .next t ∧ seen t F.hscStackCtlReset stack = 1 ∧ seen t F.hscStackStatusState stack = 2) ∧
      (∀ a, (s.hsc stack).dikeAt = some a → a + (s.hsc stack).dikeFor ≤ s.time →
        ∃ t, exec (.dikeTimeout (.stack stack)) s = .next t ∧ seen t F.hscStackCtlReset stack = 1 ∧ seen t F.hscStackStatusState stack = 2)) ∧
    (∀ stack : StackId, (s.hsc stack).state = 2 →
      ∃ t, exec (.dikeLifted (.stack stack)) s = .next t ∧ seen t F.hscStackCtlReset stack = 0 ∧ seen t F.hscStackStatusState stack = 0) ∧
    (∀ func : FuncId, s.funcDiked func = false → ∃ t, exec (.functionLevelReset func) s = .next t ∧
      ∀ i, i ∈ s.contextsOf func → (s.ctxState i = 1 ∨ s.ctxState i = 2) → seen t F.cxsCtxStateState i = 3)

/-- WARM_RESET, WARM_RESET_DUMP and MP_WATCHDOG_EXPIRY begin a warm reset with the cause of the table, closing every context. Its end keeps device memory below the dump region, the interleave key, the
plan, fabric time and the recorded events, resets the cores, and runs the boot chain; at 7 s without an end the device has failed. COLD_RESET keeps the flash alone: memory below the dump region
reads as zero. -/
def Obligations.DeviceResetsComplete : Prop :=
  ∀ (s : State),
    (s.deaf = false →
      (∀ path, (path = .pf ∨ path = .sideband ∨ path = .diag ∧ s.diag = true) → s.barQuiet = true → ∃ t, exec (.warmReset path) s = .next t ∧ t.warmAt = some s.time ∧
        t.getF F.mpResetLastCause = (if s.failed then 2 else if path = .pf then 1 else 4) ∧ ∀ i, i ∈ s.known → i < 1024 → (s.ctxState i = 1 ∨ s.ctxState i = 2) → t.ctxState i = 0) ∧
      (s.barQuiet = true → ∃ t, exec (.warmResetDump .pf) s = .next t ∧ t.warmAt = some s.time ∧ t.flag F.mpDumpStatusValid = true ∧ t.getF F.mpDumpStatusCause = 5) ∧
      (∃ t, exec .mpWatchdogExpiry s = .next t ∧ t.warmAt = some s.time ∧ t.getF F.mpResetLastCause = 3 ∧ t.getF F.mpDumpStatusCause = 4)) ∧
    (s.warming = true →
      (∀ path, exec (.warmReset path) s = .next s) ∧
      (∃ t, exec .warmResetDone s = .next t ∧ t.warmAt = none ∧ (s.memWf = true → ∀ a, a < dumpBase → t.hbm.read a = s.hbm.read a) ∧ t.key = s.key ∧ t.plan = s.plan ∧ t.time = s.time ∧ t.cores = [] ∧
        t.boot.boots = s.boot.boots + 1 ∧ t.boot.dbgScope = s.boot.armed ∧ t.boot.armed = none ∧
        ((s.boot.bootable 0 = false ∧ s.boot.bootable 1 = false) → t.boot.rom = true) ∧
        (t.boot.rom = false → s.records t 0x0022 (sourceOf 7 0) 0 .ok 0 [])) ∧
      (∀ a, s.warmAt = some a → (a + 7000000000 ≤ s.time → exec (.escalationTimeout .device) s = .next { s with warmAt := none, failed := true }) ∧
        (s.time < a + 7000000000 → exec (.escalationTimeout .device) s = .next s))) ∧
    (s.warming = false → exec .warmResetDone s = .next s) ∧
    (∃ t, exec .coldReset s = .next t ∧ (∀ a, a < dumpBase → t.hbm.read a = 0) ∧ t.cores = [] ∧ t.plan = none ∧ t.time = 0 ∧ t.key = s.free ∧ t.boot.rollback = s.boot.rollback ∧
      t.pending = s.pending ∧ t.power = .on)

/-- Without power the module keeps the flash alone; SOFT_START brings it up as a cold reset does, its bleeder off, a thermal trip holding it off until the input falls below 30 V;
the bleeder runs from PRESENCE_OPEN and from an input below 30 V. A drop below 44 V
opens one supply event, which closes once the draw is back: it is counted and logged with its lowest voltage and its length in µs. -/
def Obligations.SupplyComplete : Prop :=
  ∀ (s : State),
    (s.power = .off → ∃ t, exec .coldReset s = .next t ∧ exec .softStart s = .next { t with bleeder := false } ∧ t.power = .on ∧ ∀ a, a < dumpBase → t.hbm.read a = 0) ∧
    (s.power ≠ .off → exec .softStart s = .next s) ∧
    (s.power ≠ .tripped → ∃ t, exec .presenceOpen s = .next t ∧ t.power = .off ∧ t.bleeder = true ∧ t.hbm = [] ∧ t.boot.rollback = s.boot.rollback) ∧
    (s.power = .tripped → exec .presenceOpen s = .next { s with bleeder := true }) ∧
    (∃ t, exec .inputBelow30V s = .next t ∧ t.power = .off ∧ t.bleeder = true ∧ t.hbm = []) ∧
    (s.power = .on → ∀ mv, mv < 40000 → ∀ c, c ∈ [Instr.supplyOvervoltage, .supplyCollapse, .supplyDrop mv] → ∃ t, exec c s = .next t ∧ t.power = .off ∧ t.hbm = [] ∧ t.cores = [] ∧
      t.out = s.out) ∧
    (s.power = .on → ∀ mv, 40000 ≤ mv → mv < 44000 → ∃ t, exec (.supplyDrop mv) s = .next t ∧ t.getF F.pwrSupplyState = 1 ∧ t.getF F.pwrInputVin = mv ∧
      t.getF F.weirStatusFiller = 0 ∧ t.hbm = s.hbm ∧
      t.supply = some (match s.supply with
        | some e => { e with lowest := min e.lowest mv }
        | none => ⟨s.time, mv⟩) ∧
      (s.supply = none → ∀ i v, (s.ctx i).inv = some v → ∃ y, (t.ctx i).inv = some y ∧ y.supply = v.supply + 1)) ∧
    (∀ mv, 44000 ≤ mv → exec (.supplyDrop mv) s = .next s) ∧
    (s.getF F.pwrSupplyState = 1 → exec .supplyRecover s = .next (s.setF F.pwrSupplyState 2)) ∧
    (∀ e, s.supply = some e → s.getF F.pwrSupplyState = 2 → ∃ t, exec .supplyEventClose s = .next t ∧ t.supply = none ∧ t.getF F.pwrSupplyState = 0 ∧
      t.getF F.pwrSupplyEvents = (s.bump F.pwrSupplyEvents).getF F.pwrSupplyEvents ∧
      s.records t 0x0050 (sourceOf 8 0) 0 .ok 1 (natLe 2 e.lowest ++ zeros 2 ++ natLe 4 ((s.time - e.since) / 1000) ++ zeros 8))

/-- A sample raises the trajectory by no more than the slew, and throttles phases only below the demand; under a throttle it falls to demand and limit at once; else a fall of more
than what the other blocks let go keeps to the slew, or to what demand and filler hold up, a lower cap's as well. CAP shows a draw that the cap holds. A droop is counted once and lengthens the period. A reading
of 95 °C or more puts a field into its stage, which each 100 µs takes a step down; the 105 °C stage lasts until the hottest reading is at 100 °C or less; 115 °C, or a shutdown, turns the regulators off. Loss of a reference clears its lock bit; that of the
board is fatal. -/
def Obligations.WeirAndTemperatureComplete : Prop :=
  ∀ (s : State), s.power = .on →
    (∀ x : WeirSample, ∃ t, exec (.weirSample x) s = .next t ∧ t.hbm = s.hbm ∧ t.getF F.pwrInputVin = min x.vin 65535 ∧
      t.trajectory ≤ s.trajectory + s.getF F.weirSlewSlew ∧ (t.phaseHold = true → t.trajectory < x.demand) ∧
      t.getF F.weirStatusCap = (if milliamps s.capWatts x.vin < x.demand ∧ ¬ (s.getF F.pwrSupplyState = 1 ∧ throttleWatts < s.capWatts) then 1 else 0) ∧
      (let want := min x.demand (milliamps s.limitWatts x.vin)
       s.getF F.pwrSupplyState ≠ 1 → want < s.steppedDown x.other →
        t.trajectory = max want (min (s.steppedDown x.other - s.getF F.weirSlewSlew) (x.demand + milliamps s.reserveWatts x.vin))) ∧
      t.supply = s.supply.map (fun (e : Supply) => { e with lowest := min e.lowest x.vin }) ∧ t.otherMa = x.other ∧
      (s.getF F.pwrSupplyState = 1 → min x.demand (milliamps s.limitWatts x.vin) ≤ s.trajectory → t.trajectory = min x.demand (milliamps s.limitWatts x.vin))) ∧
    (∀ f : FieldId, (s.clkField f).droop = false → ∃ t, exec (.droopDetect f) s = .next t ∧ t.clkField f = { s.clkField f with droop := true } ∧
      t.getF F.clkFieldDroop f = (s.bump F.clkFieldDroop f).getF F.clkFieldDroop f) ∧
    (∀ f : FieldId, (s.clkField f).droop = true → exec (.droopDetect f) s = .next s) ∧
    (∀ f : FieldId, ∃ t, exec (.droopRecover f) s = .next t ∧ t.clkField f = { s.clkField f with droop := false }) ∧
    (∀ (f : FieldId) (c : Nat), 95 ≤ c → c < 115 →
      (∃ t, exec (.thermalThrottle f c) s = .next t ∧ (t.clkField f).temp = c ∧ (t.clkField f).stage =
        (if 105 ≤ c ∨ ((s.clkField f).stage = 2 ∧ 100 < (s.setField f { s.clkField f with temp := c }).hottest) then 2 else 1)) ∧
      (∃ t, exec (.thermalStepTimer f c) s = .next t ∧ (t.clkField f).steps = min ((s.clkField f).steps + 1) ((s.topMhz - 500) / 25))) ∧
    (∀ (f : FieldId) (c : Nat), c ≤ 93 → let held := (s.clkField f).stage = 2 ∧ 100 < (s.setField f { s.clkField f with temp := c }).hottest
      ∃ t, exec (.thermalStepTimer f c) s = .next t ∧ (held → (t.clkField f).stage = 2) ∧
        (¬ held → (t.clkField f).stage = 0 ∧ (t.clkField f).steps = (s.clkField f).steps - 1)) ∧
    (∀ (f : FieldId) (k : Nat), 115 ≤ k → ∀ c, c ∈ [Instr.thermalShutdown, .thermalThrottle f k, .thermalStepTimer f k] → ∃ t, exec c s = .next t ∧ t.power = .tripped ∧ t.hbm = [] ∧ t.out = s.out) ∧
    (∃ t, exec (.referenceLoss .pcie) s = .next t ∧ bit (t.view .clkRef 0) 1 = false ∧ t = { s with regs := t.regs }) ∧
    (∃ t, exec (.referenceLoss .rack) s = .next t ∧ bit (t.view .clkRef 0) 2 = false ∧ t = { s with regs := t.regs }) ∧
    (s.deaf = false → ∃ t, exec (.referenceLoss .board) s = .next t ∧ t.failed = true)

/-- A short press begins a hold, ends one within 10 s, and is otherwise ignored, as is a longer one under 8 s; at the 8th second the immediate dike begins and every context that
runs faults. The held stage begins once nothing runs. A cable removed dikes its port and is PULLED during a hold, else LOST; one inserted is present, and its port trains when the
plan names it. AUDIT_RECORDS_WRITTEN moves the oldest record of a context to its ring. -/
def Obligations.ServiceComplete : Prop :=
  ∀ (s : State), s.stopped = false →
    (∀ ms, 20 ≤ ms → ms < 2000 → s.getF F.svcStatusHold = 0 →
      ∃ t, exec (.attnButtonRelease ms) s = .next t ∧ t.getF F.svcStatusHold = 1 ∧ t.holdAt = s.time ∧ t.hbm = s.hbm ∧ t.cores = s.cores) ∧
    (∀ ms, 20 ≤ ms → ms < 2000 → s.getF F.svcStatusHold ≠ 0 → s.time < s.holdAt + 10000000000 →
      ∃ t, exec (.attnButtonRelease ms) s = .next t ∧ t.getF F.svcStatusHold = 0) ∧
    (∀ ms, 20 ≤ ms → (2000 ≤ ms ∧ ms < 8000 ∨ ms < 2000 ∧ s.getF F.svcStatusHold ≠ 0 ∧ s.holdAt + 10000000000 ≤ s.time) →
      exec (.attnButtonRelease ms) s = .next (s.bump F.svcStatusIgnored)) ∧
    (∀ ms, ms < 20 ∨ 8000 ≤ ms → exec (.attnButtonRelease ms) s = .next s) ∧
    (s.getF F.svcStatusHold ≠ 3 → ∃ t, exec .attnButtonHeld s = .next t ∧ t.getF F.svcStatusHold = 3 ∧
      t.holdAt = (if s.getF F.svcStatusHold = 0 then s.time else s.holdAt) ∧
      ∀ i, i ∈ s.known → (s.ctx i).runs = true → s.ctxState i = 1 → t.ctxState i = 2 ∧ t.getF F.cxsCtxStateStatus i = Status.fenced.code) ∧
    ((s.getF F.svcStatusHold = 1 ∨ s.getF F.svcStatusHold = 3) → s.ctxs.any (fun p => p.2.runs) = false →
      ∃ t, exec .serviceHoldHeld s = .next t ∧ t.getF F.svcStatusHold = 2 ∧ t.hbm = s.hbm ∧
        ∀ m, s.mbx = some m → m.code = 10 → m.arg = 1 → t.mbx = some { m with ready := true }) ∧
    (s.ctxs.any (fun p => p.2.runs) = true → exec .serviceHoldHeld s = .next s) ∧
    (∀ port : PortId, ∃ t, exec (.cableRemoved port) s = .next t ∧ t.getF F.lnkStatusPresent port = 0 ∧
      (s.portState port ≠ 0 → s.portResets port = false → t.portState port = 5) ∧
      (if s.getF F.svcStatusHold = 0 then bit (t.getF F.svcPortLost) port = true else bit (t.getF F.svcPortPulled) port = true)) ∧
    (∀ port : PortId, ∃ t, exec (.cableInserted port) s = .next t ∧ t.getF F.lnkStatusPresent port = 1 ∧
      (∀ e, s.ownEntry = some e → (e.ports.getD port ⟨0, 0, 0, 0⟩).kind ≠ 0 → (s.portState port = 1 ∨ s.portState port = 4 ∨ s.portState port = 5) → s.trains port = false →
        t.portState port = 2)) ∧
    (∀ (ctx : CtxId) (r : Record), (s.recordsOf ctx).head? = some r → s.auditRoom ctx ≠ 0 → s.getF F.hiuCtxCtlAuditLog2 ctx ≠ 0 →
      s.parked = [] → (∀ q ∈ s.requests, q.ended = none) → (∀ c, (s.ctx c).ckpt = none) →
      let l := s.getF F.hiuCtxCtlAuditLog2 ctx
      let tail := s.getF F.hiuCtxAuditAuditTail ctx
      ∃ t, exec (.auditRecordsWritten ctx 1) s = .next t ∧ t.collector = dropRecord ctx s.collector ∧ (t.ctx ctx).auditCount = (s.ctx ctx).auditCount + 1 ∧
        t.out = s.out ++ [.hostWrite (s.getF F.hiuAuditBaseAuditBase ctx + 32 * tail) r.bytes,
          .hostWrite (s.getF F.hiuAuditWbAuditWb ctx) (natLe 8 ((s.ctx ctx).auditCount + 1))] ∧
        (l ≤ 20 → t.getF F.hiuCtxAuditAuditTail ctx = (tail + 1) % 2 ^ l) ∧ t.hbm = s.hbm)

/-- R219: while an armed stream of the core names the handle as source, destination or CRC_DST, a FREE of it by its owner changes nothing, so the task stands at it still; once no
stream names it, and no earlier operation of the task uses it, the FREE goes through. A FREE by culvert waits alike, kept
at the core. -/
def Obligations.FreeWaitsForArmedStreams : Prop :=
  ∀ (s : State) (core : CoreId),
    (∀ (u : State) (i : Nat) (sl : Slot) (w v : Nat), s.atOp core i sl .free w v u →
      let h := bits w 115 108
      (u.core core).check sl.tag h 0 0 = none →
      (∀ j x r, (j, x) ∈ (u.core core).strms → x.run = some r →
        (bits r.desc.ctrl 1 0 = 0 ∧ r.desc.srcHandle = h ∨ bits r.desc.ctrl 3 2 = 0 ∧ r.desc.dstHandle = h ∨ bit r.desc.ctrl 9 = true ∧ r.desc.crcDst % 256 = h) →
        exec (.handleFree core) s = .next u) ∧
      ((u.core core).touches i h = false → (u.core core).allocating h = false → (∀ j x, (j, x) ∈ (u.core core).strms → x.run = none ∧ x.held = none) → ((u.core core).polder h).sluice = false →
        ∃ t, exec (.handleFree core) s = .next t ∧ ((t.core core).polder h).valid = false ∧ (t.core core).slot i = sl.advance 1)) ∧
    (∀ (u : State) (m : Culvert) (j : Nat) (x : Strm) (r : Run), s.receives m u → (u.core core).rst = 0 → (m.came.isSome = true → u.held = false) →
      let h := bits m.arg 7 0
      let p := (u.core core).polder h
      p.gen = m.gen → p.valid = true → p.owner = m.ctxTag → (j, x) ∈ (u.core core).strms → x.run = some r → r.desc.names h = true →
      ∃ t, exec (.culvertFree core m) s = .next t ∧ m ∈ (t.core core).frees ∧ (t.core core).polder h = p)

/-- R266: a block that lands in a tide, KV tide or ebb sluice with a CTX_TAG, KIND, RING or SLICE that is not the sluice's, or an ORIGIN not below P, faults the context with
DESC_INVALID; one that matches and differs in BANK from the active bank, with STALE_CONTEXT. Neither is written, nor does it take a place among the landed blocks, which are all that
LAND acknowledges, whether it comes for the first time or again after a failed check; the credit it was sent under is spent, at its first landing (log entry 15). -/
def Obligations.MismatchedBlockIsDiscarded : Prop :=
  ∀ (s u : State) (core : CoreId) (came : Option PortId) (p : Packet) (hit : Hit) (h : Nat) (q : Polder) (b : TideBind) (r : TideRole),
    (came = none ∧ u = s ∨ ∃ n, came = some n ∧ s.delivered n p u) → p.type = 7 → u.stopped = false → (u.core core).rst = 0 → (came.isSome = true → u.held = false) →
    u.parked = [] → let c := u.core core
    let byte := p.offset % 2 ^ 50 - (0x2000000000000 + core.val * 0x1000000)
    let hdr := slice p.body 0 16
    let kind := if r = .ebb ∨ r = .ebbStart then 2 else if b.kv then 1 else 0
    let matched := field hdr 0 2 = q.owner ∧ hdrKind hdr = kind ∧ hdrRing hdr = b.ring ∧ hdrSlice hdr = b.index ∧ hdrOrigin hdr < b.members
    0x2000000000000 + core.val * 0x1000000 ≤ p.offset % 2 ^ 50 → byte < spmBytes → c.polderAt (byte / granule) = some (h, q) → q.owner = p.ctxTag →
    let again := q.landed.any (fun x => x.failed && x.seq % 2 ^ 24 == hdrSeq hdr)
    q.sluice = true → q.sluiceState ≠ 2 → (again = true ∨ q.credit ≠ 0) → c.tideRole h = some (b, r) →
    (¬ matched ∨ matched ∧ hdrBank hdr ≠ u.bank (tagIndex q.owner)) →
    ∃ t, exec (.block core came p hit) s = .next t ∧ u.faults t q.owner (if hdrBank hdr ≠ u.bank (tagIndex q.owner) ∧ (field hdr 0 2 = q.owner ∧ hdrKind hdr = kind ∧
        hdrRing hdr = b.ring ∧ hdrSlice hdr = b.index ∧ hdrOrigin hdr < b.members) then .staleContext else .descInvalid) ∧
      (t.core core).spm = c.spm ∧ t.hbm = u.hbm ∧ ((t.core core).polder h).landed = q.landed ∧ ((t.core core).polder h).credit = q.credit - b2n (!again) ∧ ((t.core core).polder h).passed = q.passed ∧
      ((t.core core).polder h).firstUnacked = q.firstUnacked

/-- R199: MOMENTS_FINAL writes, row after row, the mean to C and the variance to D: zero and zero for N = 0, variance zero for N = 1 under SAMPLE, else M2 over N, or over N − 1 under
SAMPLE, rounded once to FP32 from the exact quotient. Each of its batches does so for its 16 rows, or for those that are left (R203). -/
def Obligations.MomentsFinalValues : Prop :=
  ∀ (s : State) (core : CoreId) (o : VuOp) (rest : List VuOp) (rails : Rails) (raw : Bytes) (u u1 v : State),
    (s.core core).vu = o :: rest → (s.core core).rst < 2 → o.kind = .rowstat → o.row = none → bits o.word 115 112 = 2 → (rowFields o.word).ok = true → rails ≠ .lasting →
    s.overfills (tagIndex o.tag) (s.runBatch core o rails) = false →
    let f := rowFields o.word
    let first := 16 * o.batch
    let count := min 16 (f.rows - first)
    s.spmRead core ((s.core core).abs (o.handles.getD 1 0) (o.b + 16 * first)) (16 * count) = (some raw, u) →
    let recs := (List.range count).map (fun i => rowRecOf (slice raw (16 * i) 16))
    (∀ r ∈ recs, r.kind ≤ 1 ∧ r.n < 2 ^ 32) →
    let n := fun (r : RowRec) => if r.kind = 0 then 0 else r.n
    let zero := FV.fin false 0 0
    let mean := fun (r : RowRec) => if n r = 0 then zero else r.a
    let var := fun (r : RowRec) =>
      if n r = 0 then zero else if n r = 1 ∧ bit o.word 111 = true then zero else divN r.b (if bit o.word 111 then n r - 1 else n r)
    u.writeCodes core (o.handles.getD 2 0) o.c (bitsOf f.cfmt) first (recs.map (fun r => outCode f.cfmt (mean r))) = (true, u1) →
    u1.writeCodes core (o.handles.getD 3 0) o.d (bitsOf f.cfmt) first (recs.map (fun r => outCode f.cfmt (var r))) = (true, v) →
    ∃ t, exec (.vectorBatch core rails) s = .next t ∧ (t.core core).spm = (v.core core).spm ∧ t.hbm = v.hbm

/-- R211: an ARM of an idle stream whose descriptor validates and has a zero count in a dimension in use leaves the stream without a run, with status OK; no memory changes, so no CRC
is written, and no digest is fed; its arrival of one goes out when ARRIVE is enabled, to its own chip or through the fabric. -/
def Obligations.ZeroCountStreamCompletes : Prop :=
  ∀ (s u y : State) (core : CoreId) (i : Nat) (sl : Slot) (w v : Nat) (bs : Bytes), s.atOp core i sl .arm w v u →
    let j := bits w 115 111
    let a := addr sl (bits w 109 81)
    let off := 256 * a.2 + 128 * b2n (bit w 110)
    let p := (u.core core).polder a.1
    let x := (u.core core).strm j
    let ix := fun (f sh : Nat) => if sh = 31 then 0 else sl.lcs.getD f 0 * 2 ^ sh
    let d := streamDesc bs (unsigned 64 (signed 32 (bits w 63 32)) + ix (bits w 80 78) (bits w 77 73)) (unsigned 64 (signed 32 (bits w 31 0)) + ix (bits w 72 70) (bits w 69 65))
    p.valid = true → p.owner = sl.tag → p.code = true → off + 128 ≤ p.length * granule → x.bound = true → x.owner = sl.tag → x.run = none →
    u.spmRead core ((u.core core).abs a.1 off) 128 = (some bs, y) → (u.core core).me = [] → (u.core core).vu = [] →
    (y.step1 core i 1).streamFault core j sl.tag d = none → (∃ k, k < d.dims ∧ k < 5 ∧ d.counts.getD k 0 = 0) →
    ∃ t, exec (.streamArm core) s = .next t ∧ ((t.core core).strm j).run = none ∧ ((t.core core).strm j).status = 0 ∧ (t.core core).slot i = sl.advance 1 ∧
      (t.core core).spm = (u.core core).spm ∧ t.hbm = u.hbm ∧ t.hashBusy = u.hashBusy ∧
      (∀ c v, (u.ctx c).inv = some v → ∃ y, (t.ctx c).inv = some y ∧ y.digests = v.digests) ∧
      (bit d.arrive 28 = false → t.out = u.out) ∧
      (bit d.arrive 28 = true → u.isHere (bits d.arrive 13 0) = true →
        t.out = u.out ++ [.culvert (u.message (bits d.arrive 13 0) (bits d.arrive 21 14) 0x01 sl.tag core 0 (bits d.arrive 27 22 + 256))]) ∧
      (bit d.arrive 28 = true → u.isHere (bits d.arrive 13 0) = false → ∃ z : State, z.out = u.out ∧ z.ports = u.ports ∧
        (t = z.sendNamed (bits d.arrive 13 0) (bits d.arrive 21 14) 0x01 sl.tag core 0 (bits d.arrive 27 22 + 256)))

/-- Frame of NOP, SETTLE, PSET, END, LOOP, the phases, WAIT, ARRIVE, TARGET, TEST and SLOT_FREE, on every path: device memory, every other core, and of its own core the scratchpad,
handles, streams, credit entries, table slots, micro store, matrix and vector unit, trailers, tides and generators stay; so does every register but those of completing and faulting,
of a switch that ends, of corrected reads, of the expert gate's count and of the sequencer's two counts. Only TARGET can satisfy a gather engine's entry. -/
def Obligations.TaskOperationsFrame : Prop :=
  ∀ (s t : State) (core : CoreId) (slot : SlotId) (c : Instr),
    c ∈ [Instr.controlNop core, .checkSettle core, .pset core, .endTask core, .loop core, .phaseMove core, .phaseCompute core, .barrierWait core, .barrierArrive core,
      .barrierTarget core, .barrierTest core, .slotFree core slot] → exec c s = .next t →
    t = { s with free := t.free, regs := t.regs, cores := t.cores, engines := t.engines, ctxs := t.ctxs, ports := t.ports, collector := t.collector,
                 stallAt := t.stallAt, events := t.events, psn := t.psn, asked := t.asked, out := t.out } ∧
    (c ≠ .barrierTarget core → t.engines = s.engines) ∧ (∀ k, k ≠ core.val → t.core k = s.core k) ∧
    (let x := t.core core
     x = { s.core core with
      slots := x.slots, running := x.running, lastRan := x.lastRan, gated := x.gated, bars := x.bars, progressAt := x.progressAt, queue := x.queue
      lastCtx := x.lastCtx, spmPassing := x.spmPassing }) ∧
    ∀ q, q ∉ [Reg.cxsCtxState, .hiuCtxState, .hiuCtxAudit, .ckuTransient, .ckuLasting, .ckuSuspect, .ckuAuditStall, .lnkDrop, .topoUnreach, .topoEdgeDrop, .glbExpert,
      .tideCtx, .spmCorr, .spmEvents, .seqEvents, .seqSwitches] → ∀ j, t.reg q j = s.reg q j

/-- Frame of the commands that issue and run arithmetic, on every path: device memory, the stacks, the gather engines, the requests under way, the plan and every other core stay; the
control registers of contexts, links, security, time-outs, power and service stay. MATRIX, SFU, MICRO, ULOAD, ME_SWAP, and the issue of row statistics behind other operations,
also leave the scratchpad's contents and the handle table alone. -/
def Obligations.ComputeOperationsFrame : Prop :=
  ∀ (s t : State) (core : CoreId) (rails : Rails) (n : Nat) (hit : GroupHit) (c : Instr),
    c ∈ [Instr.matrix core, .vector core, .sfu core, .micro core, .uload core, .meSwap core n, .meGroupDrain core n hit, .vectorBatch core rails, .momentsUpdate core rails,
      .momentsMerge core rails, .momentsFinal core rails, .softmaxUpdate core rails, .softmaxMerge core rails, .softmaxFinal core rails] → exec c s = .next t →
    t.hbm = s.hbm ∧ t.hbmErr = s.hbmErr ∧ t.hscs = s.hscs ∧ t.engines = s.engines ∧ t.requests = s.requests ∧ t.plan = s.plan ∧ t.boot = s.boot ∧ t.time = s.time ∧
    (∀ k, k ≠ core.val → t.core k = s.core k) ∧
    (∀ q, q ∈ [Reg.hiuCtxCtl, .hiuSqBase, .hiuCqBase, .hiuAuditBase, .topoPlanStatus, .lnkStatus, .lnkCtl, .secStatus, .svcStatus, .pwrCap, .pwrSupply, .weirSlew, .clkCore,
      .tmoDike, .tmoSeq, .mbxStatus, .mpReset] → ∀ j, t.reg q j = s.reg q j) ∧
    (c ∈ [Instr.matrix core, .sfu core, .micro core, .uload core, .meSwap core n] ∨
      (s.core core).vu ≠ [] ∧ c ∈ [Instr.momentsUpdate core rails, .momentsMerge core rails, .momentsFinal core rails, .softmaxUpdate core rails, .softmaxMerge core rails,
        .softmaxFinal core rails] → (t.core core).spm = (s.core core).spm ∧ (t.core core).ht = (s.core core).ht)

/-- Frame of VECTOR_BATCH on every path, from memory in canonical form: where the batch's inputs give results, every byte of the core's scratchpad outside the bytes that its
writes fill reads as before, unless the write completes a codeword in which errors stand or wait; where the inputs give none, every byte does. -/
def Obligations.VectorBatchStores : Prop :=
  ∀ (s t : State) (core : CoreId) (rails : Rails) (o : VuOp) (rest : List VuOp), s.memWf = true → (s.core core).vu = o :: rest →
    exec (.vectorBatch core rails) s = .next t →
    let c := s.core core
    let lo := fun (x : VuWrite) => c.abs x.h (x.off + x.first * x.width / 8)
    let hi := fun (x : VuWrite) => lo x + (ceilDiv ((x.first + x.codes.length) * x.width) 8 - x.first * x.width / 8)
    ∀ a, (∀ b u, s.batchOut core o = (.ok b, u) → ∀ x ∈ b.writes, x.codes ≠ [] →
        (a < lo x ∨ hi x ≤ a) ∧ (c.errs (a / 32) = [] ∧ c.passing (a / 32) = [] ∨ a / 32 < lo x / 32 ∨ (hi x - 1) / 32 < a / 32)) →
      (t.core core).spm.read a = c.spm.read a

/-- Frame of the commands that keep fabric time, lock registers, set storage targets up, answer attestation and monitoring, and note droop and supply: device memory and its errors,
every core, every context's registers, the gather engines and the requests under way stay, where a register access finds no half of a word held; so does every context, but that a flit of fabric time, which may make its port
retrain, may start or stop the break timer of an INVOKE. -/
def Obligations.ManagementFrame : Prop :=
  ∀ (s t : State) (c : Instr) (path : Path) (ep : SpdmEp) (msg : Bytes) (port : PortId) (target : TargetId) (eth : EthId) (f : FieldId) (x : Flit) (reach : BitVec 8) (late : Nat)
      (st : Fin 4) (w : BitVec 512),
    c ∈ [Instr.timeExchangeTimer reach, .timeReq port x, .timeRsp port x late, .rackSyncEdge, .rackSyncMissing, .resync path, .resyncStep path, .keyLock path, .ownerLock path,
      .tgtConnect path target w, .tgtKeyWrite path target msg, .transportRetransmit target, .rdmaInboundRequest eth msg, .storageLinkChange eth st, .diagSession eth msg,
      .getVersion ep msg, .getCapabilities ep msg, .negotiateAlgorithms ep msg, .getDigests ep msg, .getCertificate ep msg, .challenge ep msg, .getMeasurements ep msg,
      .keyExchange ep msg, .finish ep msg, .endSession ep msg, .ideKm ep msg, .pldmMonitor msg, .debugToken msg, .healthTestFail, .hbEn path, .droopDetect f, .droopRecover f,
      .supplyRecover, .supplyEventClose] → exec c s = .next t →
    (s.barQuiet = true ∨ c ∉ [Instr.resync path, .resyncStep path, .keyLock path, .ownerLock path, .tgtConnect path target w, .tgtKeyWrite path target msg, .hbEn path]) →
    t.hbm = s.hbm ∧ t.hbmErr = s.hbmErr ∧ t.cores = s.cores ∧ t.engines = s.engines ∧ t.requests = s.requests ∧
    (c ≠ .timeReq port x → c ≠ .timeRsp port x late → t.ctxs = s.ctxs) ∧
    (∀ i, ∃ b, t.ctx i = { s.ctx i with inv := (s.ctx i).inv.map (fun v => { v with breaks := b }) }) ∧
    ∀ q, q ∈ [Reg.hiuCtxCtl, .hiuCtxState, .hiuCtxAudit, .hiuSqBase, .hiuCqBase, .cxsCtxState, .tideCtx, .svcStatus] → ∀ j, t.reg q j = s.reg q j

/-- Isolation: SQ_TAIL, CQ_HEAD, AUDIT_HEAD and DESCRIPTOR_FETCH of one context, whichever function writes and whatever they carry, change no other context's state or registers, no
core and no memory, and no register at all but the context's own, the doorbell count and the counts of completing. -/
def Obligations.ContextsAreSeparate : Prop :=
  ∀ (s t : State) (ctx : CtxId) (func : FuncId) (v : BitVec 32) (ds : List Bytes) (c : Instr),
    c ∈ [Instr.sqTail ctx func v, .cqHead ctx func v, .auditHead ctx func v, .descriptorFetch ctx ds] → exec c s = .next t →
    t.hbm = s.hbm ∧ t.cores = s.cores ∧ t.engines = s.engines ∧ t.boot = s.boot ∧ t.plan = s.plan ∧
    (∀ j, j ≠ ctx.val → t.ctx j = s.ctx j ∧ ∀ q, q ∈ [Reg.hiuCtxCtl, .hiuCtxState, .hiuCtxAudit, .hiuSqBase, .hiuCqBase, .hiuAuditBase, .hiuAuditWb, .cxsCtxState, .tideCtx] →
      t.reg q j = s.reg q j) ∧
    (∀ q, q ∉ [Reg.hiuCtxState, .hiuCtxAudit, .hiuEvents, .glbAccess, .glbExpert, .cxsCtxState, .ckuTransient, .ckuLasting, .ckuSuspect, .ckuAuditStall, .lnkDrop, .topoUnreach,
      .topoEdgeDrop, .tideCtx] → ∀ j, t.reg q j = s.reg q j)
end

