-- ==== Sys2Proof/Laws/Bar.lean ====
section
/-! SUPPORT. A register access that finds nothing of the one before it is the access alone (R491): what a statement with `barQuiet` rests on. -/

namespace Sys2Proof.Machine

/-- Quiet BAR state is no held half and no latch. -/
theorem State.barQuiet_iff (s : State) : s.barQuiet = true ↔ s.halves = [] ∧ s.latch = [] := by
  simp [State.barQuiet]

/-- With no latch a path drops none. -/
theorem State.unlatch_quiet (s : State) (p : Path) (h : s.latch = []) : s.unlatch p = s := by
  cases s; simp_all [State.unlatch]

/-- With no held half none takes effect. -/
theorem State.flushHalf_quiet (s : State) (p : Path) (h : s.halves = []) : s.flushHalf p = s := by
  simp [State.flushHalf, h]

/-- A dedicated register-write command on a quiet bar runs on the state as it stands. -/
theorem State.flushed_quiet (s : State) (p : Path) (h : s.barQuiet = true) : s.flushed p = s := by
  obtain ⟨hh, hl⟩ := s.barQuiet_iff.1 h
  unfold State.flushed
  split
  · rfl
  · rw [s.unlatch_quiet p hl, s.flushHalf_quiet p hh]

/-- CORE_RESET on a quiet bar is the act of the bit alone; so the other dedicated writes. -/
theorem execCoreReset_quiet (s : State) (p : Path) (c : CoreId) (h : s.barQuiet = true) : execCoreReset p c s = takeCoreReset p c s := by
  unfold execCoreReset; rw [s.flushed_quiet p h]

end Sys2Proof.Machine
end

