-- ==== Sys2Proof/Laws/Table.lean ====
section
/-! SUPPORT. Laws of sparse tables, of sparse memory and of bit fields. -/

namespace Sys2Proof.Machine

/-! ### Tables -/

@[simp] theorem Table.get_nil {α : Type} (d : α) (k : Nat) : Table.get [] d k = d := rfl
@[simp] theorem Table.find_nil {α : Type} (k : Nat) : Table.find ([] : Table α) k = none := rfl

/-- A key just set holds what it was set to. -/
@[simp] theorem Table.get_put_self {α : Type} (t : Table α) (d : α) (k : Nat) (v : α) : (t.put k v).get d k = v := by
  induction t with
  | nil => simp [Table.put, Table.get]
  | cons p r ih =>
    obtain ⟨j, w⟩ := p
    unfold Table.put
    by_cases h : j = k
    · simp [h, Table.get]
    · by_cases h' : k < j
      · simp [h, h', Table.get]
      · simpa [h, h', Table.get] using ih

/-- Setting a key leaves every other key as it was. -/
theorem Table.get_put_ne {α : Type} (t : Table α) (d : α) {k j : Nat} (v : α) (hj : j ≠ k) : (t.put k v).get d j = t.get d j := by
  induction t with
  | nil => simp [Table.put, Table.get, hj.symm]
  | cons p r ih =>
    obtain ⟨i, w⟩ := p
    unfold Table.put
    by_cases h : i = k
    · subst h; simp [Table.get, hj.symm]
    · by_cases h' : k < i
      · simp [h, h', Table.get, hj.symm]
      · simp only [h, h', if_false, Table.get]
        split
        · rfl
        · exact ih

@[simp] theorem Table.find_put_self {α : Type} (t : Table α) (k : Nat) (v : α) : (t.put k v).find k = some v := by
  induction t with
  | nil => simp [Table.put, Table.find]
  | cons p r ih =>
    obtain ⟨j, w⟩ := p
    unfold Table.put
    by_cases h : j = k
    · simp [h, Table.find]
    · by_cases h' : k < j
      · simp [h, h', Table.find]
      · simpa [h, h', Table.find] using ih

theorem Table.find_put_ne {α : Type} (t : Table α) {k j : Nat} (v : α) (hj : j ≠ k) : (t.put k v).find j = t.find j := by
  induction t with
  | nil => simp [Table.put, Table.find, hj.symm]
  | cons p r ih =>
    obtain ⟨i, w⟩ := p
    unfold Table.put
    by_cases h : i = k
    · subst h; simp [Table.find, hj.symm]
    · by_cases h' : k < i
      · simp [h, h', Table.find, hj.symm]
      · simp only [h, h', if_false, Table.find]
        split
        · rfl
        · exact ih

/-! ### Memory: the canonical form is kept, a read meets the last write -/

theorem Mem.wfFrom_mono {lo lo' : Nat} (h : lo' ≤ lo) : ∀ {m : Mem}, Mem.wfFrom lo m = true → Mem.wfFrom lo' m = true
  | [], _ => rfl
  | (a, v) :: r, hm => by
    simp only [Mem.wfFrom, Bool.and_eq_true, decide_eq_true_eq] at hm ⊢
    exact ⟨⟨by omega, hm.1.2⟩, hm.2⟩

theorem Mem.write_wfFrom {lo a : Nat} (v : Byte) (hlo : lo ≤ a) : ∀ {m : Mem}, Mem.wfFrom lo m = true → Mem.wfFrom lo (m.write a v) = true := by
  intro m
  induction m generalizing lo with
  | nil =>
    intro _
    unfold Mem.write
    split
    · rfl
    · simp_all [Mem.wfFrom]
  | cons p r ih =>
    obtain ⟨b, w⟩ := p
    intro hm
    have hm' := hm
    simp only [Mem.wfFrom, Bool.and_eq_true, decide_eq_true_eq, bne_iff_ne, ne_eq] at hm
    obtain ⟨⟨h1, h2⟩, h3⟩ := hm
    unfold Mem.write
    by_cases hb : b = a
    · subst hb
      simp only [if_true]
      split
      · exact Mem.wfFrom_mono (by omega) h3
      · simp_all [Mem.wfFrom]
    · simp only [hb, if_false]
      by_cases ha : a < b
      · simp only [ha, if_true]
        split
        · exact hm'
        · simp_all [Mem.wfFrom]
      · simp only [ha, if_false]
        simp only [Mem.wfFrom, Bool.and_eq_true, decide_eq_true_eq, bne_iff_ne, ne_eq]
        exact ⟨⟨h1, h2⟩, ih (by omega) h3⟩

/-- Writing a byte keeps the canonical form. -/
theorem Mem.write_wf {m : Mem} (a : Nat) (v : Byte) (h : m.wf = true) : (m.write a v).wf = true := Mem.write_wfFrom v (Nat.zero_le a) h

/-- Writing bytes keeps the canonical form. -/
theorem Mem.writeN_wf {m : Mem} (a : Nat) (bs : Bytes) (h : m.wf = true) : (m.writeN a bs).wf = true := by
  induction bs generalizing m a with
  | nil => exact h
  | cons b bs ih => exact ih (a + 1) (Mem.write_wf a b h)

theorem Mem.filter_wfFrom (f : Nat × Byte → Bool) {lo : Nat} : ∀ {m : Mem}, Mem.wfFrom lo m = true → Mem.wfFrom lo (m.filter f) = true := by
  intro m
  induction m generalizing lo with
  | nil => intro _; rfl
  | cons p r ih =>
    obtain ⟨b, w⟩ := p
    intro hm
    simp only [Mem.wfFrom, Bool.and_eq_true, decide_eq_true_eq] at hm
    by_cases hf : f (b, w) = true
    · simp only [List.filter_cons, hf, if_true, Mem.wfFrom, Bool.and_eq_true, decide_eq_true_eq]
      exact ⟨hm.1, ih hm.2⟩
    · simp only [List.filter_cons, hf]
      exact ih (Mem.wfFrom_mono (by omega) hm.2)

/-- Leaving entries out keeps the canonical form. -/
theorem Mem.filter_wf (f : Nat × Byte → Bool) {m : Mem} (h : m.wf = true) : Mem.wf (m.filter f) = true := Mem.filter_wfFrom f h

/-- Zeroing a range keeps the canonical form. -/
theorem Mem.clear_wf {m : Mem} (a n : Nat) (h : m.wf = true) : (m.clear a n).wf = true := Mem.filter_wf _ h

theorem Mem.read_of_wfFrom {lo a : Nat} (ha : a < lo) : ∀ {m : Mem}, Mem.wfFrom lo m = true → m.read a = Mem.blank := by
  intro m
  induction m generalizing lo with
  | nil => intro _; rfl
  | cons p r ih =>
    obtain ⟨b, w⟩ := p
    intro hm
    simp only [Mem.wfFrom, Bool.and_eq_true, decide_eq_true_eq] at hm
    have hb : b ≠ a := by omega
    simp only [Mem.read, hb, if_false]
    exact ih (by omega) hm.2

theorem Mem.read_write_from {lo : Nat} (a x : Nat) (v : Byte) : ∀ {m : Mem}, Mem.wfFrom lo m = true →
    (m.write a v).read x = if x = a then v else m.read x := by
  intro m
  induction m generalizing lo with
  | nil =>
    intro _
    unfold Mem.write
    by_cases hv : v = Mem.blank <;> by_cases hx : x = a <;> simp [hv, hx, Mem.read]
    omega
  | cons p r ih =>
    obtain ⟨b, w⟩ := p
    intro hm
    simp only [Mem.wfFrom, Bool.and_eq_true, decide_eq_true_eq] at hm
    unfold Mem.write
    by_cases hb : b = a
    · subst hb
      by_cases hv : v = Mem.blank
      · simp only [if_true, hv, Mem.read]
        by_cases hx : x = b
        · subst hx; simp [Mem.read_of_wfFrom (Nat.lt_succ_self x) hm.2]
        · simp [hx, Ne.symm hx]
      · by_cases hx : x = b
        · simp [hv, hx, Mem.read]
        · simp [hv, hx, Mem.read, Ne.symm hx]
    · by_cases ha : a < b
      · by_cases hv : v = Mem.blank
        · by_cases hx : x = a
          · subst hx
            have : (Mem.read ((b, w) :: r) x) = Mem.blank := by
              apply Mem.read_of_wfFrom ha
              simp only [Mem.wfFrom, Bool.and_eq_true, decide_eq_true_eq]
              exact ⟨⟨Nat.le_refl _, hm.1.2⟩, hm.2⟩
            simp [hb, ha, hv, this]
          · simp [hb, ha, hv, hx]
        · by_cases hx : x = a
          · simp [hb, ha, hv, hx, Mem.read]
          · simp [hb, ha, hv, hx, Mem.read, Ne.symm hx]
      · simp only [hb, ha, if_false, Mem.read]
        by_cases hx : b = x
        · subst hx; simp [hb]
        · simp [hx, ih hm.2]

/-- A read after a write: the byte written at its address, the old byte elsewhere. -/
theorem Mem.read_write {m : Mem} (h : m.wf = true) (a x : Nat) (v : Byte) : (m.write a v).read x = if x = a then v else m.read x :=
  Mem.read_write_from a x v h

/-- Reads outside the bytes written are as before. -/
theorem Mem.read_writeN_outside {m : Mem} (h : m.wf = true) (a x : Nat) (bs : Bytes) (hx : x < a ∨ a + bs.length ≤ x) :
    (m.writeN a bs).read x = m.read x := by
  induction bs generalizing m a with
  | nil => rfl
  | cons b bs ih =>
    simp only [List.length_cons] at hx
    rw [Mem.writeN, ih (Mem.write_wf a b h) (a + 1) (by omega), Mem.read_write h]
    rw [if_neg (by omega)]

/-- Bytes just written read back. -/
theorem Mem.read_writeN {m : Mem} (h : m.wf = true) (a : Nat) (bs : Bytes) (j : Nat) (hj : j < bs.length) :
    (m.writeN a bs).read (a + j) = bs[j] := by
  induction bs generalizing m a j with
  | nil => simp at hj
  | cons b bs ih =>
    rw [Mem.writeN]
    cases j with
    | zero =>
      rw [Mem.read_writeN_outside (Mem.write_wf a b h) (a + 1) (a + 0) bs (by omega), Mem.read_write h]
      simp
    | succ j =>
      have := ih (Mem.write_wf a b h) (a + 1) j (by simpa using hj)
      rw [show a + (j + 1) = a + 1 + j by omega, this]
      simp

/-- Reading the bytes just written gives them back. -/
theorem Mem.readN_writeN {m : Mem} (h : m.wf = true) (a : Nat) (bs : Bytes) : (m.writeN a bs).readN a bs.length = bs := by
  induction bs generalizing m a with
  | nil => rfl
  | cons b bs ih =>
    have h1 := Mem.read_writeN h a (b :: bs) 0 (by simp)
    have h2 := ih (Mem.write_wf a b h) (a + 1)
    simp only [List.length_cons, Mem.readN, Nat.add_zero, List.getElem_cons_zero] at h1 ⊢
    rw [h1]
    simp only [Mem.writeN, h2]

/-! ### Bit fields -/

theorem bits_lt (v hi lo : Nat) : bits v hi lo < 2 ^ (hi + 1 - lo) := Nat.mod_lt _ (Nat.two_pow_pos _)

/-- A field just set holds the value, cut to its width. -/
theorem bits_setBits_self (v hi lo x : Nat) : bits (setBits v hi lo x) hi lo = x % 2 ^ (hi + 1 - lo) := by
  unfold setBits bits
  have e : v >>> lo = v / 2 ^ lo := Nat.shiftRight_eq_div_pow v lo
  have hle : v / 2 ^ lo % 2 ^ (hi + 1 - lo) * 2 ^ lo ≤ v :=
    Nat.le_trans (Nat.mul_le_mul_right _ (Nat.mod_le _ _)) (Nat.div_mul_le_self _ _)
  rw [Nat.shiftRight_eq_div_pow, e]
  have hp : 0 < 2 ^ lo := Nat.two_pow_pos _
  rw [Nat.add_mul_div_right _ _ hp]
  have h1 : (v - v / 2 ^ lo % 2 ^ (hi + 1 - lo) * 2 ^ lo) / 2 ^ lo = v / 2 ^ lo - v / 2 ^ lo % 2 ^ (hi + 1 - lo) := by
    rw [Nat.mul_comm]; exact Nat.sub_mul_div_of_le v _ _ (by rw [Nat.mul_comm]; exact hle)
  rw [h1]
  have h2 : v / 2 ^ lo - v / 2 ^ lo % 2 ^ (hi + 1 - lo) = 2 ^ (hi + 1 - lo) * (v / 2 ^ lo / 2 ^ (hi + 1 - lo)) := by
    have := Nat.div_add_mod (v / 2 ^ lo) (2 ^ (hi + 1 - lo)); omega
  rw [h2, Nat.mul_add_mod]
  exact Nat.mod_mod _ _

/-- The parts of a value around a field that is set: below it and above it nothing changes. -/
theorem setBits_parts (v x : Nat) {hi lo : Nat} (hw : lo ≤ hi) :
    setBits v hi lo x % 2 ^ lo = v % 2 ^ lo ∧ setBits v hi lo x / 2 ^ (hi + 1) = v / 2 ^ (hi + 1) := by
  have hp : 0 < 2 ^ lo := Nat.two_pow_pos _
  have hq : 0 < 2 ^ (hi + 1 - lo) := Nat.two_pow_pos _
  have hpq : 2 ^ (hi + 1) = 2 ^ lo * 2 ^ (hi + 1 - lo) := by rw [← Nat.pow_add]; congr 1; omega
  have e : bits v hi lo = v / 2 ^ lo % 2 ^ (hi + 1 - lo) := by unfold bits; rw [Nat.shiftRight_eq_div_pow]
  have hx : x % 2 ^ (hi + 1 - lo) < 2 ^ (hi + 1 - lo) := Nat.mod_lt _ hq
  have v1 := Nat.div_add_mod v (2 ^ lo)
  have v2 := Nat.div_add_mod (v / 2 ^ lo) (2 ^ (hi + 1 - lo))
  have hc : v % 2 ^ lo < 2 ^ lo := Nat.mod_lt _ hp
  have hval : setBits v hi lo x =
      2 ^ lo * (2 ^ (hi + 1 - lo) * (v / 2 ^ lo / 2 ^ (hi + 1 - lo)) + x % 2 ^ (hi + 1 - lo)) + v % 2 ^ lo := by
    unfold setBits
    rw [e]
    generalize v / 2 ^ lo % 2 ^ (hi + 1 - lo) = B at *
    generalize 2 ^ (hi + 1 - lo) * (v / 2 ^ lo / 2 ^ (hi + 1 - lo)) = A at *
    generalize x % 2 ^ (hi + 1 - lo) = X at *
    generalize v % 2 ^ lo = C at *
    have : v = 2 ^ lo * A + B * 2 ^ lo + C := by rw [← v1, ← v2]; ring
    rw [this]
    have : 2 ^ lo * A + B * 2 ^ lo + C - B * 2 ^ lo = 2 ^ lo * A + C := by omega
    rw [this]; ring
  constructor
  · rw [hval, Nat.mul_add_mod, Nat.mod_eq_of_lt hc]
  · rw [hpq, ← Nat.div_div_eq_div_mul, ← Nat.div_div_eq_div_mul, hval, Nat.mul_add_div hp, Nat.div_eq_of_lt hc, Nat.add_zero,
      Nat.mul_add_div hq, Nat.div_eq_of_lt hx, Nat.add_zero]

/-- Setting a field leaves a field that shares no bit with it as it was. -/
theorem bits_setBits_other (v x : Nat) {hi lo h l : Nat} (hw : lo ≤ hi) (hd : h < lo ∨ hi < l) :
    bits (setBits v hi lo x) h l = bits v h l := by
  obtain ⟨h1, h2⟩ := setBits_parts v x hw
  unfold bits
  rw [Nat.shiftRight_eq_div_pow, Nat.shiftRight_eq_div_pow]
  rcases hd with hd | hd
  · by_cases hl : l ≤ h
    · have key : ∀ n : Nat, n / 2 ^ l % 2 ^ (h + 1 - l) = n % 2 ^ lo / 2 ^ l % 2 ^ (h + 1 - l) := by
        intro n
        have e : 2 ^ lo = 2 ^ l * 2 ^ (lo - l) := by rw [← Nat.pow_add]; congr 1; omega
        rw [e, Nat.mod_mul_right_div_self, Nat.mod_mod_of_dvd]
        exact Nat.pow_dvd_pow 2 (by omega)
      rw [key, h1, ← key]
    · have : h + 1 - l = 0 := by omega
      rw [this]; simp [Nat.mod_one]
  · have key : ∀ n : Nat, n / 2 ^ l = n / 2 ^ (hi + 1) / 2 ^ (l - (hi + 1)) := by
      intro n
      rw [Nat.div_div_eq_div_mul, ← Nat.pow_add]; congr 2; omega
    rw [key, h2, ← key]

end Sys2Proof.Machine
end

