-- ==== Sys2Proof/Laws/State.lean ====
section
/-! SUPPORT. What each update of the state leaves alone, one lemma per field and per reading, and what it sets. -/

namespace Sys2Proof.Machine

/-! ### What an update leaves alone -/

theorem State.log_rest (s : State) (code source tag : Nat) (st : Status) (sev : Nat) (arg : Bytes) :
    ∃ e, s.log code source tag st sev arg = { s with events := e } := ⟨_, rfl⟩

@[simp] theorem State.setReg_pending (s : State) (r : Reg) (i v : Nat) : (s.setReg r i v).pending = s.pending := rfl
@[simp] theorem State.setReg_time (s : State) (r : Reg) (i v : Nat) : (s.setReg r i v).time = s.time := rfl
@[simp] theorem State.setReg_free (s : State) (r : Reg) (i v : Nat) : (s.setReg r i v).free = s.free := rfl
@[simp] theorem State.setReg_halves (s : State) (r : Reg) (i v : Nat) : (s.setReg r i v).halves = s.halves := rfl
@[simp] theorem State.setReg_latch (s : State) (r : Reg) (i v : Nat) : (s.setReg r i v).latch = s.latch := rfl
@[simp] theorem State.setReg_staged (s : State) (r : Reg) (i v : Nat) : (s.setReg r i v).staged = s.staged := rfl
@[simp] theorem State.setReg_hbm (s : State) (r : Reg) (i v : Nat) : (s.setReg r i v).hbm = s.hbm := rfl
@[simp] theorem State.setReg_hbmErr (s : State) (r : Reg) (i v : Nat) : (s.setReg r i v).hbmErr = s.hbmErr := rfl
@[simp] theorem State.setReg_hbmPassing (s : State) (r : Reg) (i v : Nat) : (s.setReg r i v).hbmPassing = s.hbmPassing := rfl
@[simp] theorem State.setReg_cores (s : State) (r : Reg) (i v : Nat) : (s.setReg r i v).cores = s.cores := rfl
@[simp] theorem State.setReg_ctxs (s : State) (r : Reg) (i v : Nat) : (s.setReg r i v).ctxs = s.ctxs := rfl
@[simp] theorem State.setReg_doorbells (s : State) (r : Reg) (i v : Nat) : (s.setReg r i v).doorbells = s.doorbells := rfl
@[simp] theorem State.setReg_engines (s : State) (r : Reg) (i v : Nat) : (s.setReg r i v).engines = s.engines := rfl
@[simp] theorem State.setReg_hscs (s : State) (r : Reg) (i v : Nat) : (s.setReg r i v).hscs = s.hscs := rfl
@[simp] theorem State.setReg_tlb (s : State) (r : Reg) (i v : Nat) : (s.setReg r i v).tlb = s.tlb := rfl
@[simp] theorem State.setReg_slices (s : State) (r : Reg) (i v : Nat) : (s.setReg r i v).slices = s.slices := rfl
@[simp] theorem State.setReg_nodes (s : State) (r : Reg) (i v : Nat) : (s.setReg r i v).nodes = s.nodes := rfl
@[simp] theorem State.setReg_inval (s : State) (r : Reg) (i v : Nat) : (s.setReg r i v).inval = s.inval := rfl
@[simp] theorem State.setReg_key (s : State) (r : Reg) (i v : Nat) : (s.setReg r i v).key = s.key := rfl
@[simp] theorem State.setReg_refetch (s : State) (r : Reg) (i v : Nat) : (s.setReg r i v).refetch = s.refetch := rfl
@[simp] theorem State.setReg_phaseHold (s : State) (r : Reg) (i v : Nat) : (s.setReg r i v).phaseHold = s.phaseHold := rfl
@[simp] theorem State.setReg_requests (s : State) (r : Reg) (i v : Nat) : (s.setReg r i v).requests = s.requests := rfl
@[simp] theorem State.setReg_nextTxn (s : State) (r : Reg) (i v : Nat) : (s.setReg r i v).nextTxn = s.nextTxn := rfl
@[simp] theorem State.setReg_parked (s : State) (r : Reg) (i v : Nat) : (s.setReg r i v).parked = s.parked := rfl
@[simp] theorem State.setReg_ports (s : State) (r : Reg) (i v : Nat) : (s.setReg r i v).ports = s.ports := rfl
@[simp] theorem State.setReg_plan (s : State) (r : Reg) (i v : Nat) : (s.setReg r i v).plan = s.plan := rfl
@[simp] theorem State.setReg_collector (s : State) (r : Reg) (i v : Nat) : (s.setReg r i v).collector = s.collector := rfl
@[simp] theorem State.setReg_psn (s : State) (r : Reg) (i v : Nat) : (s.setReg r i v).psn = s.psn := rfl
@[simp] theorem State.setReg_asked (s : State) (r : Reg) (i v : Nat) : (s.setReg r i v).asked = s.asked := rfl
@[simp] theorem State.setReg_ethAuth (s : State) (r : Reg) (i v : Nat) : (s.setReg r i v).ethAuth = s.ethAuth := rfl
@[simp] theorem State.setReg_stallAt (s : State) (r : Reg) (i v : Nat) : (s.setReg r i v).stallAt = s.stallAt := rfl
@[simp] theorem State.setReg_hashBusy (s : State) (r : Reg) (i v : Nat) : (s.setReg r i v).hashBusy = s.hashBusy := rfl
@[simp] theorem State.setReg_boot (s : State) (r : Reg) (i v : Nat) : (s.setReg r i v).boot = s.boot := rfl
@[simp] theorem State.setReg_dumps (s : State) (r : Reg) (i v : Nat) : (s.setReg r i v).dumps = s.dumps := rfl
@[simp] theorem State.setReg_mbx (s : State) (r : Reg) (i v : Nat) : (s.setReg r i v).mbx = s.mbx := rfl
@[simp] theorem State.setReg_failed (s : State) (r : Reg) (i v : Nat) : (s.setReg r i v).failed = s.failed := rfl
@[simp] theorem State.setReg_warmAt (s : State) (r : Reg) (i v : Nat) : (s.setReg r i v).warmAt = s.warmAt := rfl
@[simp] theorem State.setReg_funcDikes (s : State) (r : Reg) (i v : Nat) : (s.setReg r i v).funcDikes = s.funcDikes := rfl
@[simp] theorem State.setReg_hbAt (s : State) (r : Reg) (i v : Nat) : (s.setReg r i v).hbAt = s.hbAt := rfl
@[simp] theorem State.setReg_vfEnable (s : State) (r : Reg) (i v : Nat) : (s.setReg r i v).vfEnable = s.vfEnable := rfl
@[simp] theorem State.setReg_bar4 (s : State) (r : Reg) (i v : Nat) : (s.setReg r i v).bar4 = s.bar4 := rfl
@[simp] theorem State.setReg_power (s : State) (r : Reg) (i v : Nat) : (s.setReg r i v).power = s.power := rfl
@[simp] theorem State.setReg_supply (s : State) (r : Reg) (i v : Nat) : (s.setReg r i v).supply = s.supply := rfl
@[simp] theorem State.setReg_trajectory (s : State) (r : Reg) (i v : Nat) : (s.setReg r i v).trajectory = s.trajectory := rfl
@[simp] theorem State.setReg_fields (s : State) (r : Reg) (i v : Nat) : (s.setReg r i v).fields = s.fields := rfl
@[simp] theorem State.setReg_holdAt (s : State) (r : Reg) (i v : Nat) : (s.setReg r i v).holdAt = s.holdAt := rfl
@[simp] theorem State.setReg_healthAt (s : State) (r : Reg) (i v : Nat) : (s.setReg r i v).healthAt = s.healthAt := rfl
@[simp] theorem State.setReg_unlocked (s : State) (r : Reg) (i v : Nat) : (s.setReg r i v).unlocked = s.unlocked := rfl
@[simp] theorem State.setReg_slew (s : State) (r : Reg) (i v : Nat) : (s.setReg r i v).slew = s.slew := rfl
@[simp] theorem State.setReg_holdNs (s : State) (r : Reg) (i v : Nat) : (s.setReg r i v).holdNs = s.holdNs := rfl
@[simp] theorem State.setReg_stepDue (s : State) (r : Reg) (i v : Nat) : (s.setReg r i v).stepDue = s.stepDue := rfl
@[simp] theorem State.setReg_otherMa (s : State) (r : Reg) (i v : Nat) : (s.setReg r i v).otherMa = s.otherMa := rfl
@[simp] theorem State.setReg_bleeder (s : State) (r : Reg) (i v : Nat) : (s.setReg r i v).bleeder = s.bleeder := rfl
@[simp] theorem State.setReg_heldDraw (s : State) (r : Reg) (i v : Nat) : (s.setReg r i v).heldDraw = s.heldDraw := rfl
@[simp] theorem State.setReg_ticks (s : State) (r : Reg) (i v : Nat) : (s.setReg r i v).ticks = s.ticks := rfl
@[simp] theorem State.setReg_diag (s : State) (r : Reg) (i v : Nat) : (s.setReg r i v).diag = s.diag := rfl
@[simp] theorem State.setReg_spdm (s : State) (r : Reg) (i v : Nat) : (s.setReg r i v).spdm = s.spdm := rfl
@[simp] theorem State.setReg_ide (s : State) (r : Reg) (i v : Nat) : (s.setReg r i v).ide = s.ide := rfl
@[simp] theorem State.setReg_events (s : State) (r : Reg) (i v : Nat) : (s.setReg r i v).events = s.events := rfl
@[simp] theorem State.setReg_out (s : State) (r : Reg) (i v : Nat) : (s.setReg r i v).out = s.out := rfl
@[simp] theorem State.setReg_core (s : State) (r : Reg) (i v : Nat) (c2 : Nat) : (s.setReg r i v).core c2 = s.core c2 := rfl
@[simp] theorem State.setReg_ctx (s : State) (r : Reg) (i v : Nat) (i2 : Nat) : (s.setReg r i v).ctx i2 = s.ctx i2 := rfl
@[simp] theorem State.setReg_engine (s : State) (r : Reg) (i v : Nat) (e2 : Nat) : (s.setReg r i v).engine e2 = s.engine e2 := rfl
@[simp] theorem State.setReg_hsc (s : State) (r : Reg) (i v : Nat) (k2 : Nat) : (s.setReg r i v).hsc k2 = s.hsc k2 := rfl
@[simp] theorem State.setReg_port (s : State) (r : Reg) (i v : Nat) (n2 : Nat) : (s.setReg r i v).port n2 = s.port n2 := rfl
@[simp] theorem State.setReg_stopped (s : State) (r : Reg) (i v : Nat) : (s.setReg r i v).stopped = s.stopped := rfl
@[simp] theorem State.setReg_warming (s : State) (r : Reg) (i v : Nat) : (s.setReg r i v).warming = s.warming := rfl
@[simp] theorem State.setReg_locked (s : State) (r : Reg) (i v : Nat) : (s.setReg r i v).locked = s.locked := rfl
@[simp] theorem State.setReg_inSupply (s : State) (r : Reg) (i v : Nat) : (s.setReg r i v).inSupply = s.inSupply := rfl
@[simp] theorem State.setF_pending (s : State) (f : Fld) (v i : Nat) : (s.setF f v i).pending = s.pending := rfl
@[simp] theorem State.setF_time (s : State) (f : Fld) (v i : Nat) : (s.setF f v i).time = s.time := rfl
@[simp] theorem State.setF_free (s : State) (f : Fld) (v i : Nat) : (s.setF f v i).free = s.free := rfl
@[simp] theorem State.setF_halves (s : State) (f : Fld) (v i : Nat) : (s.setF f v i).halves = s.halves := rfl
@[simp] theorem State.setF_latch (s : State) (f : Fld) (v i : Nat) : (s.setF f v i).latch = s.latch := rfl
@[simp] theorem State.setF_staged (s : State) (f : Fld) (v i : Nat) : (s.setF f v i).staged = s.staged := rfl
@[simp] theorem State.setF_hbm (s : State) (f : Fld) (v i : Nat) : (s.setF f v i).hbm = s.hbm := rfl
@[simp] theorem State.setF_hbmErr (s : State) (f : Fld) (v i : Nat) : (s.setF f v i).hbmErr = s.hbmErr := rfl
@[simp] theorem State.setF_hbmPassing (s : State) (f : Fld) (v i : Nat) : (s.setF f v i).hbmPassing = s.hbmPassing := rfl
@[simp] theorem State.setF_cores (s : State) (f : Fld) (v i : Nat) : (s.setF f v i).cores = s.cores := rfl
@[simp] theorem State.setF_ctxs (s : State) (f : Fld) (v i : Nat) : (s.setF f v i).ctxs = s.ctxs := rfl
@[simp] theorem State.setF_doorbells (s : State) (f : Fld) (v i : Nat) : (s.setF f v i).doorbells = s.doorbells := rfl
@[simp] theorem State.setF_engines (s : State) (f : Fld) (v i : Nat) : (s.setF f v i).engines = s.engines := rfl
@[simp] theorem State.setF_hscs (s : State) (f : Fld) (v i : Nat) : (s.setF f v i).hscs = s.hscs := rfl
@[simp] theorem State.setF_tlb (s : State) (f : Fld) (v i : Nat) : (s.setF f v i).tlb = s.tlb := rfl
@[simp] theorem State.setF_slices (s : State) (f : Fld) (v i : Nat) : (s.setF f v i).slices = s.slices := rfl
@[simp] theorem State.setF_nodes (s : State) (f : Fld) (v i : Nat) : (s.setF f v i).nodes = s.nodes := rfl
@[simp] theorem State.setF_inval (s : State) (f : Fld) (v i : Nat) : (s.setF f v i).inval = s.inval := rfl
@[simp] theorem State.setF_key (s : State) (f : Fld) (v i : Nat) : (s.setF f v i).key = s.key := rfl
@[simp] theorem State.setF_refetch (s : State) (f : Fld) (v i : Nat) : (s.setF f v i).refetch = s.refetch := rfl
@[simp] theorem State.setF_phaseHold (s : State) (f : Fld) (v i : Nat) : (s.setF f v i).phaseHold = s.phaseHold := rfl
@[simp] theorem State.setF_requests (s : State) (f : Fld) (v i : Nat) : (s.setF f v i).requests = s.requests := rfl
@[simp] theorem State.setF_nextTxn (s : State) (f : Fld) (v i : Nat) : (s.setF f v i).nextTxn = s.nextTxn := rfl
@[simp] theorem State.setF_parked (s : State) (f : Fld) (v i : Nat) : (s.setF f v i).parked = s.parked := rfl
@[simp] theorem State.setF_ports (s : State) (f : Fld) (v i : Nat) : (s.setF f v i).ports = s.ports := rfl
@[simp] theorem State.setF_plan (s : State) (f : Fld) (v i : Nat) : (s.setF f v i).plan = s.plan := rfl
@[simp] theorem State.setF_collector (s : State) (f : Fld) (v i : Nat) : (s.setF f v i).collector = s.collector := rfl
@[simp] theorem State.setF_psn (s : State) (f : Fld) (v i : Nat) : (s.setF f v i).psn = s.psn := rfl
@[simp] theorem State.setF_asked (s : State) (f : Fld) (v i : Nat) : (s.setF f v i).asked = s.asked := rfl
@[simp] theorem State.setF_ethAuth (s : State) (f : Fld) (v i : Nat) : (s.setF f v i).ethAuth = s.ethAuth := rfl
@[simp] theorem State.setF_stallAt (s : State) (f : Fld) (v i : Nat) : (s.setF f v i).stallAt = s.stallAt := rfl
@[simp] theorem State.setF_hashBusy (s : State) (f : Fld) (v i : Nat) : (s.setF f v i).hashBusy = s.hashBusy := rfl
@[simp] theorem State.setF_boot (s : State) (f : Fld) (v i : Nat) : (s.setF f v i).boot = s.boot := rfl
@[simp] theorem State.setF_dumps (s : State) (f : Fld) (v i : Nat) : (s.setF f v i).dumps = s.dumps := rfl
@[simp] theorem State.setF_mbx (s : State) (f : Fld) (v i : Nat) : (s.setF f v i).mbx = s.mbx := rfl
@[simp] theorem State.setF_failed (s : State) (f : Fld) (v i : Nat) : (s.setF f v i).failed = s.failed := rfl
@[simp] theorem State.setF_warmAt (s : State) (f : Fld) (v i : Nat) : (s.setF f v i).warmAt = s.warmAt := rfl
@[simp] theorem State.setF_funcDikes (s : State) (f : Fld) (v i : Nat) : (s.setF f v i).funcDikes = s.funcDikes := rfl
@[simp] theorem State.setF_hbAt (s : State) (f : Fld) (v i : Nat) : (s.setF f v i).hbAt = s.hbAt := rfl
@[simp] theorem State.setF_vfEnable (s : State) (f : Fld) (v i : Nat) : (s.setF f v i).vfEnable = s.vfEnable := rfl
@[simp] theorem State.setF_bar4 (s : State) (f : Fld) (v i : Nat) : (s.setF f v i).bar4 = s.bar4 := rfl
@[simp] theorem State.setF_power (s : State) (f : Fld) (v i : Nat) : (s.setF f v i).power = s.power := rfl
@[simp] theorem State.setF_supply (s : State) (f : Fld) (v i : Nat) : (s.setF f v i).supply = s.supply := rfl
@[simp] theorem State.setF_trajectory (s : State) (f : Fld) (v i : Nat) : (s.setF f v i).trajectory = s.trajectory := rfl
@[simp] theorem State.setF_fields (s : State) (f : Fld) (v i : Nat) : (s.setF f v i).fields = s.fields := rfl
@[simp] theorem State.setF_holdAt (s : State) (f : Fld) (v i : Nat) : (s.setF f v i).holdAt = s.holdAt := rfl
@[simp] theorem State.setF_healthAt (s : State) (f : Fld) (v i : Nat) : (s.setF f v i).healthAt = s.healthAt := rfl
@[simp] theorem State.setF_unlocked (s : State) (f : Fld) (v i : Nat) : (s.setF f v i).unlocked = s.unlocked := rfl
@[simp] theorem State.setF_slew (s : State) (f : Fld) (v i : Nat) : (s.setF f v i).slew = s.slew := rfl
@[simp] theorem State.setF_holdNs (s : State) (f : Fld) (v i : Nat) : (s.setF f v i).holdNs = s.holdNs := rfl
@[simp] theorem State.setF_stepDue (s : State) (f : Fld) (v i : Nat) : (s.setF f v i).stepDue = s.stepDue := rfl
@[simp] theorem State.setF_otherMa (s : State) (f : Fld) (v i : Nat) : (s.setF f v i).otherMa = s.otherMa := rfl
@[simp] theorem State.setF_bleeder (s : State) (f : Fld) (v i : Nat) : (s.setF f v i).bleeder = s.bleeder := rfl
@[simp] theorem State.setF_heldDraw (s : State) (f : Fld) (v i : Nat) : (s.setF f v i).heldDraw = s.heldDraw := rfl
@[simp] theorem State.setF_ticks (s : State) (f : Fld) (v i : Nat) : (s.setF f v i).ticks = s.ticks := rfl
@[simp] theorem State.setF_diag (s : State) (f : Fld) (v i : Nat) : (s.setF f v i).diag = s.diag := rfl
@[simp] theorem State.setF_spdm (s : State) (f : Fld) (v i : Nat) : (s.setF f v i).spdm = s.spdm := rfl
@[simp] theorem State.setF_ide (s : State) (f : Fld) (v i : Nat) : (s.setF f v i).ide = s.ide := rfl
@[simp] theorem State.setF_events (s : State) (f : Fld) (v i : Nat) : (s.setF f v i).events = s.events := rfl
@[simp] theorem State.setF_out (s : State) (f : Fld) (v i : Nat) : (s.setF f v i).out = s.out := rfl
@[simp] theorem State.setF_core (s : State) (f : Fld) (v i : Nat) (c2 : Nat) : (s.setF f v i).core c2 = s.core c2 := rfl
@[simp] theorem State.setF_ctx (s : State) (f : Fld) (v i : Nat) (i2 : Nat) : (s.setF f v i).ctx i2 = s.ctx i2 := rfl
@[simp] theorem State.setF_engine (s : State) (f : Fld) (v i : Nat) (e2 : Nat) : (s.setF f v i).engine e2 = s.engine e2 := rfl
@[simp] theorem State.setF_hsc (s : State) (f : Fld) (v i : Nat) (k2 : Nat) : (s.setF f v i).hsc k2 = s.hsc k2 := rfl
@[simp] theorem State.setF_port (s : State) (f : Fld) (v i : Nat) (n2 : Nat) : (s.setF f v i).port n2 = s.port n2 := rfl
@[simp] theorem State.setF_stopped (s : State) (f : Fld) (v i : Nat) : (s.setF f v i).stopped = s.stopped := rfl
@[simp] theorem State.setF_warming (s : State) (f : Fld) (v i : Nat) : (s.setF f v i).warming = s.warming := rfl
@[simp] theorem State.setF_locked (s : State) (f : Fld) (v i : Nat) : (s.setF f v i).locked = s.locked := rfl
@[simp] theorem State.setF_inSupply (s : State) (f : Fld) (v i : Nat) : (s.setF f v i).inSupply = s.inSupply := rfl
@[simp] theorem State.bump_pending (s : State) (f : Fld) (i n : Nat) : (s.bump f i n).pending = s.pending := rfl
@[simp] theorem State.bump_time (s : State) (f : Fld) (i n : Nat) : (s.bump f i n).time = s.time := rfl
@[simp] theorem State.bump_free (s : State) (f : Fld) (i n : Nat) : (s.bump f i n).free = s.free := rfl
@[simp] theorem State.bump_halves (s : State) (f : Fld) (i n : Nat) : (s.bump f i n).halves = s.halves := rfl
@[simp] theorem State.bump_latch (s : State) (f : Fld) (i n : Nat) : (s.bump f i n).latch = s.latch := rfl
@[simp] theorem State.bump_staged (s : State) (f : Fld) (i n : Nat) : (s.bump f i n).staged = s.staged := rfl
@[simp] theorem State.bump_hbm (s : State) (f : Fld) (i n : Nat) : (s.bump f i n).hbm = s.hbm := rfl
@[simp] theorem State.bump_hbmErr (s : State) (f : Fld) (i n : Nat) : (s.bump f i n).hbmErr = s.hbmErr := rfl
@[simp] theorem State.bump_hbmPassing (s : State) (f : Fld) (i n : Nat) : (s.bump f i n).hbmPassing = s.hbmPassing := rfl
@[simp] theorem State.bump_cores (s : State) (f : Fld) (i n : Nat) : (s.bump f i n).cores = s.cores := rfl
@[simp] theorem State.bump_ctxs (s : State) (f : Fld) (i n : Nat) : (s.bump f i n).ctxs = s.ctxs := rfl
@[simp] theorem State.bump_doorbells (s : State) (f : Fld) (i n : Nat) : (s.bump f i n).doorbells = s.doorbells := rfl
@[simp] theorem State.bump_engines (s : State) (f : Fld) (i n : Nat) : (s.bump f i n).engines = s.engines := rfl
@[simp] theorem State.bump_hscs (s : State) (f : Fld) (i n : Nat) : (s.bump f i n).hscs = s.hscs := rfl
@[simp] theorem State.bump_tlb (s : State) (f : Fld) (i n : Nat) : (s.bump f i n).tlb = s.tlb := rfl
@[simp] theorem State.bump_slices (s : State) (f : Fld) (i n : Nat) : (s.bump f i n).slices = s.slices := rfl
@[simp] theorem State.bump_nodes (s : State) (f : Fld) (i n : Nat) : (s.bump f i n).nodes = s.nodes := rfl
@[simp] theorem State.bump_inval (s : State) (f : Fld) (i n : Nat) : (s.bump f i n).inval = s.inval := rfl
@[simp] theorem State.bump_key (s : State) (f : Fld) (i n : Nat) : (s.bump f i n).key = s.key := rfl
@[simp] theorem State.bump_refetch (s : State) (f : Fld) (i n : Nat) : (s.bump f i n).refetch = s.refetch := rfl
@[simp] theorem State.bump_phaseHold (s : State) (f : Fld) (i n : Nat) : (s.bump f i n).phaseHold = s.phaseHold := rfl
@[simp] theorem State.bump_requests (s : State) (f : Fld) (i n : Nat) : (s.bump f i n).requests = s.requests := rfl
@[simp] theorem State.bump_nextTxn (s : State) (f : Fld) (i n : Nat) : (s.bump f i n).nextTxn = s.nextTxn := rfl
@[simp] theorem State.bump_parked (s : State) (f : Fld) (i n : Nat) : (s.bump f i n).parked = s.parked := rfl
@[simp] theorem State.bump_ports (s : State) (f : Fld) (i n : Nat) : (s.bump f i n).ports = s.ports := rfl
@[simp] theorem State.bump_plan (s : State) (f : Fld) (i n : Nat) : (s.bump f i n).plan = s.plan := rfl
@[simp] theorem State.bump_collector (s : State) (f : Fld) (i n : Nat) : (s.bump f i n).collector = s.collector := rfl
@[simp] theorem State.bump_psn (s : State) (f : Fld) (i n : Nat) : (s.bump f i n).psn = s.psn := rfl
@[simp] theorem State.bump_asked (s : State) (f : Fld) (i n : Nat) : (s.bump f i n).asked = s.asked := rfl
@[simp] theorem State.bump_ethAuth (s : State) (f : Fld) (i n : Nat) : (s.bump f i n).ethAuth = s.ethAuth := rfl
@[simp] theorem State.bump_stallAt (s : State) (f : Fld) (i n : Nat) : (s.bump f i n).stallAt = s.stallAt := rfl
@[simp] theorem State.bump_hashBusy (s : State) (f : Fld) (i n : Nat) : (s.bump f i n).hashBusy = s.hashBusy := rfl
@[simp] theorem State.bump_boot (s : State) (f : Fld) (i n : Nat) : (s.bump f i n).boot = s.boot := rfl
@[simp] theorem State.bump_dumps (s : State) (f : Fld) (i n : Nat) : (s.bump f i n).dumps = s.dumps := rfl
@[simp] theorem State.bump_mbx (s : State) (f : Fld) (i n : Nat) : (s.bump f i n).mbx = s.mbx := rfl
@[simp] theorem State.bump_failed (s : State) (f : Fld) (i n : Nat) : (s.bump f i n).failed = s.failed := rfl
@[simp] theorem State.bump_warmAt (s : State) (f : Fld) (i n : Nat) : (s.bump f i n).warmAt = s.warmAt := rfl
@[simp] theorem State.bump_funcDikes (s : State) (f : Fld) (i n : Nat) : (s.bump f i n).funcDikes = s.funcDikes := rfl
@[simp] theorem State.bump_hbAt (s : State) (f : Fld) (i n : Nat) : (s.bump f i n).hbAt = s.hbAt := rfl
@[simp] theorem State.bump_vfEnable (s : State) (f : Fld) (i n : Nat) : (s.bump f i n).vfEnable = s.vfEnable := rfl
@[simp] theorem State.bump_bar4 (s : State) (f : Fld) (i n : Nat) : (s.bump f i n).bar4 = s.bar4 := rfl
@[simp] theorem State.bump_power (s : State) (f : Fld) (i n : Nat) : (s.bump f i n).power = s.power := rfl
@[simp] theorem State.bump_supply (s : State) (f : Fld) (i n : Nat) : (s.bump f i n).supply = s.supply := rfl
@[simp] theorem State.bump_trajectory (s : State) (f : Fld) (i n : Nat) : (s.bump f i n).trajectory = s.trajectory := rfl
@[simp] theorem State.bump_fields (s : State) (f : Fld) (i n : Nat) : (s.bump f i n).fields = s.fields := rfl
@[simp] theorem State.bump_holdAt (s : State) (f : Fld) (i n : Nat) : (s.bump f i n).holdAt = s.holdAt := rfl
@[simp] theorem State.bump_healthAt (s : State) (f : Fld) (i n : Nat) : (s.bump f i n).healthAt = s.healthAt := rfl
@[simp] theorem State.bump_unlocked (s : State) (f : Fld) (i n : Nat) : (s.bump f i n).unlocked = s.unlocked := rfl
@[simp] theorem State.bump_slew (s : State) (f : Fld) (i n : Nat) : (s.bump f i n).slew = s.slew := rfl
@[simp] theorem State.bump_holdNs (s : State) (f : Fld) (i n : Nat) : (s.bump f i n).holdNs = s.holdNs := rfl
@[simp] theorem State.bump_stepDue (s : State) (f : Fld) (i n : Nat) : (s.bump f i n).stepDue = s.stepDue := rfl
@[simp] theorem State.bump_otherMa (s : State) (f : Fld) (i n : Nat) : (s.bump f i n).otherMa = s.otherMa := rfl
@[simp] theorem State.bump_bleeder (s : State) (f : Fld) (i n : Nat) : (s.bump f i n).bleeder = s.bleeder := rfl
@[simp] theorem State.bump_heldDraw (s : State) (f : Fld) (i n : Nat) : (s.bump f i n).heldDraw = s.heldDraw := rfl
@[simp] theorem State.bump_ticks (s : State) (f : Fld) (i n : Nat) : (s.bump f i n).ticks = s.ticks := rfl
@[simp] theorem State.bump_diag (s : State) (f : Fld) (i n : Nat) : (s.bump f i n).diag = s.diag := rfl
@[simp] theorem State.bump_spdm (s : State) (f : Fld) (i n : Nat) : (s.bump f i n).spdm = s.spdm := rfl
@[simp] theorem State.bump_ide (s : State) (f : Fld) (i n : Nat) : (s.bump f i n).ide = s.ide := rfl
@[simp] theorem State.bump_events (s : State) (f : Fld) (i n : Nat) : (s.bump f i n).events = s.events := rfl
@[simp] theorem State.bump_out (s : State) (f : Fld) (i n : Nat) : (s.bump f i n).out = s.out := rfl
@[simp] theorem State.bump_core (s : State) (f : Fld) (i n : Nat) (c2 : Nat) : (s.bump f i n).core c2 = s.core c2 := rfl
@[simp] theorem State.bump_ctx (s : State) (f : Fld) (i n : Nat) (i2 : Nat) : (s.bump f i n).ctx i2 = s.ctx i2 := rfl
@[simp] theorem State.bump_engine (s : State) (f : Fld) (i n : Nat) (e2 : Nat) : (s.bump f i n).engine e2 = s.engine e2 := rfl
@[simp] theorem State.bump_hsc (s : State) (f : Fld) (i n : Nat) (k2 : Nat) : (s.bump f i n).hsc k2 = s.hsc k2 := rfl
@[simp] theorem State.bump_port (s : State) (f : Fld) (i n : Nat) (n2 : Nat) : (s.bump f i n).port n2 = s.port n2 := rfl
@[simp] theorem State.bump_stopped (s : State) (f : Fld) (i n : Nat) : (s.bump f i n).stopped = s.stopped := rfl
@[simp] theorem State.bump_warming (s : State) (f : Fld) (i n : Nat) : (s.bump f i n).warming = s.warming := rfl
@[simp] theorem State.bump_locked (s : State) (f : Fld) (i n : Nat) : (s.bump f i n).locked = s.locked := rfl
@[simp] theorem State.bump_inSupply (s : State) (f : Fld) (i n : Nat) : (s.bump f i n).inSupply = s.inSupply := rfl
@[simp] theorem State.setCore_pending (s : State) (c : Nat) (x : CoreSt) : (s.setCore c x).pending = s.pending := rfl
@[simp] theorem State.setCore_time (s : State) (c : Nat) (x : CoreSt) : (s.setCore c x).time = s.time := rfl
@[simp] theorem State.setCore_free (s : State) (c : Nat) (x : CoreSt) : (s.setCore c x).free = s.free := rfl
@[simp] theorem State.setCore_regs (s : State) (c : Nat) (x : CoreSt) : (s.setCore c x).regs = s.regs := rfl
@[simp] theorem State.setCore_halves (s : State) (c : Nat) (x : CoreSt) : (s.setCore c x).halves = s.halves := rfl
@[simp] theorem State.setCore_latch (s : State) (c : Nat) (x : CoreSt) : (s.setCore c x).latch = s.latch := rfl
@[simp] theorem State.setCore_staged (s : State) (c : Nat) (x : CoreSt) : (s.setCore c x).staged = s.staged := rfl
@[simp] theorem State.setCore_hbm (s : State) (c : Nat) (x : CoreSt) : (s.setCore c x).hbm = s.hbm := rfl
@[simp] theorem State.setCore_hbmErr (s : State) (c : Nat) (x : CoreSt) : (s.setCore c x).hbmErr = s.hbmErr := rfl
@[simp] theorem State.setCore_hbmPassing (s : State) (c : Nat) (x : CoreSt) : (s.setCore c x).hbmPassing = s.hbmPassing := rfl
@[simp] theorem State.setCore_ctxs (s : State) (c : Nat) (x : CoreSt) : (s.setCore c x).ctxs = s.ctxs := rfl
@[simp] theorem State.setCore_doorbells (s : State) (c : Nat) (x : CoreSt) : (s.setCore c x).doorbells = s.doorbells := rfl
@[simp] theorem State.setCore_engines (s : State) (c : Nat) (x : CoreSt) : (s.setCore c x).engines = s.engines := rfl
@[simp] theorem State.setCore_hscs (s : State) (c : Nat) (x : CoreSt) : (s.setCore c x).hscs = s.hscs := rfl
@[simp] theorem State.setCore_tlb (s : State) (c : Nat) (x : CoreSt) : (s.setCore c x).tlb = s.tlb := rfl
@[simp] theorem State.setCore_slices (s : State) (c : Nat) (x : CoreSt) : (s.setCore c x).slices = s.slices := rfl
@[simp] theorem State.setCore_nodes (s : State) (c : Nat) (x : CoreSt) : (s.setCore c x).nodes = s.nodes := rfl
@[simp] theorem State.setCore_inval (s : State) (c : Nat) (x : CoreSt) : (s.setCore c x).inval = s.inval := rfl
@[simp] theorem State.setCore_key (s : State) (c : Nat) (x : CoreSt) : (s.setCore c x).key = s.key := rfl
@[simp] theorem State.setCore_refetch (s : State) (c : Nat) (x : CoreSt) : (s.setCore c x).refetch = s.refetch := rfl
@[simp] theorem State.setCore_phaseHold (s : State) (c : Nat) (x : CoreSt) : (s.setCore c x).phaseHold = s.phaseHold := rfl
@[simp] theorem State.setCore_requests (s : State) (c : Nat) (x : CoreSt) : (s.setCore c x).requests = s.requests := rfl
@[simp] theorem State.setCore_nextTxn (s : State) (c : Nat) (x : CoreSt) : (s.setCore c x).nextTxn = s.nextTxn := rfl
@[simp] theorem State.setCore_parked (s : State) (c : Nat) (x : CoreSt) : (s.setCore c x).parked = s.parked := rfl
@[simp] theorem State.setCore_ports (s : State) (c : Nat) (x : CoreSt) : (s.setCore c x).ports = s.ports := rfl
@[simp] theorem State.setCore_plan (s : State) (c : Nat) (x : CoreSt) : (s.setCore c x).plan = s.plan := rfl
@[simp] theorem State.setCore_collector (s : State) (c : Nat) (x : CoreSt) : (s.setCore c x).collector = s.collector := rfl
@[simp] theorem State.setCore_psn (s : State) (c : Nat) (x : CoreSt) : (s.setCore c x).psn = s.psn := rfl
@[simp] theorem State.setCore_asked (s : State) (c : Nat) (x : CoreSt) : (s.setCore c x).asked = s.asked := rfl
@[simp] theorem State.setCore_ethAuth (s : State) (c : Nat) (x : CoreSt) : (s.setCore c x).ethAuth = s.ethAuth := rfl
@[simp] theorem State.setCore_stallAt (s : State) (c : Nat) (x : CoreSt) : (s.setCore c x).stallAt = s.stallAt := rfl
@[simp] theorem State.setCore_hashBusy (s : State) (c : Nat) (x : CoreSt) : (s.setCore c x).hashBusy = s.hashBusy := rfl
@[simp] theorem State.setCore_boot (s : State) (c : Nat) (x : CoreSt) : (s.setCore c x).boot = s.boot := rfl
@[simp] theorem State.setCore_dumps (s : State) (c : Nat) (x : CoreSt) : (s.setCore c x).dumps = s.dumps := rfl
@[simp] theorem State.setCore_mbx (s : State) (c : Nat) (x : CoreSt) : (s.setCore c x).mbx = s.mbx := rfl
@[simp] theorem State.setCore_failed (s : State) (c : Nat) (x : CoreSt) : (s.setCore c x).failed = s.failed := rfl
@[simp] theorem State.setCore_warmAt (s : State) (c : Nat) (x : CoreSt) : (s.setCore c x).warmAt = s.warmAt := rfl
@[simp] theorem State.setCore_funcDikes (s : State) (c : Nat) (x : CoreSt) : (s.setCore c x).funcDikes = s.funcDikes := rfl
@[simp] theorem State.setCore_hbAt (s : State) (c : Nat) (x : CoreSt) : (s.setCore c x).hbAt = s.hbAt := rfl
@[simp] theorem State.setCore_vfEnable (s : State) (c : Nat) (x : CoreSt) : (s.setCore c x).vfEnable = s.vfEnable := rfl
@[simp] theorem State.setCore_bar4 (s : State) (c : Nat) (x : CoreSt) : (s.setCore c x).bar4 = s.bar4 := rfl
@[simp] theorem State.setCore_power (s : State) (c : Nat) (x : CoreSt) : (s.setCore c x).power = s.power := rfl
@[simp] theorem State.setCore_supply (s : State) (c : Nat) (x : CoreSt) : (s.setCore c x).supply = s.supply := rfl
@[simp] theorem State.setCore_trajectory (s : State) (c : Nat) (x : CoreSt) : (s.setCore c x).trajectory = s.trajectory := rfl
@[simp] theorem State.setCore_fields (s : State) (c : Nat) (x : CoreSt) : (s.setCore c x).fields = s.fields := rfl
@[simp] theorem State.setCore_holdAt (s : State) (c : Nat) (x : CoreSt) : (s.setCore c x).holdAt = s.holdAt := rfl
@[simp] theorem State.setCore_healthAt (s : State) (c : Nat) (x : CoreSt) : (s.setCore c x).healthAt = s.healthAt := rfl
@[simp] theorem State.setCore_unlocked (s : State) (c : Nat) (x : CoreSt) : (s.setCore c x).unlocked = s.unlocked := rfl
@[simp] theorem State.setCore_slew (s : State) (c : Nat) (x : CoreSt) : (s.setCore c x).slew = s.slew := rfl
@[simp] theorem State.setCore_holdNs (s : State) (c : Nat) (x : CoreSt) : (s.setCore c x).holdNs = s.holdNs := rfl
@[simp] theorem State.setCore_stepDue (s : State) (c : Nat) (x : CoreSt) : (s.setCore c x).stepDue = s.stepDue := rfl
@[simp] theorem State.setCore_otherMa (s : State) (c : Nat) (x : CoreSt) : (s.setCore c x).otherMa = s.otherMa := rfl
@[simp] theorem State.setCore_bleeder (s : State) (c : Nat) (x : CoreSt) : (s.setCore c x).bleeder = s.bleeder := rfl
@[simp] theorem State.setCore_heldDraw (s : State) (c : Nat) (x : CoreSt) : (s.setCore c x).heldDraw = s.heldDraw := rfl
@[simp] theorem State.setCore_ticks (s : State) (c : Nat) (x : CoreSt) : (s.setCore c x).ticks = s.ticks := rfl
@[simp] theorem State.setCore_diag (s : State) (c : Nat) (x : CoreSt) : (s.setCore c x).diag = s.diag := rfl
@[simp] theorem State.setCore_spdm (s : State) (c : Nat) (x : CoreSt) : (s.setCore c x).spdm = s.spdm := rfl
@[simp] theorem State.setCore_ide (s : State) (c : Nat) (x : CoreSt) : (s.setCore c x).ide = s.ide := rfl
@[simp] theorem State.setCore_events (s : State) (c : Nat) (x : CoreSt) : (s.setCore c x).events = s.events := rfl
@[simp] theorem State.setCore_out (s : State) (c : Nat) (x : CoreSt) : (s.setCore c x).out = s.out := rfl
@[simp] theorem State.setCore_reg (s : State) (c : Nat) (x : CoreSt) (r2 : Reg) (i2 : Nat) : (s.setCore c x).reg r2 i2 = s.reg r2 i2 := rfl
@[simp] theorem State.setCore_getF (s : State) (c : Nat) (x : CoreSt) (f2 : Fld) (i2 : Nat) : (s.setCore c x).getF f2 i2 = s.getF f2 i2 := rfl
@[simp] theorem State.setCore_flag (s : State) (c : Nat) (x : CoreSt) (f2 : Fld) (i2 : Nat) : (s.setCore c x).flag f2 i2 = s.flag f2 i2 := rfl
@[simp] theorem State.setCore_ctx (s : State) (c : Nat) (x : CoreSt) (i2 : Nat) : (s.setCore c x).ctx i2 = s.ctx i2 := rfl
@[simp] theorem State.setCore_engine (s : State) (c : Nat) (x : CoreSt) (e2 : Nat) : (s.setCore c x).engine e2 = s.engine e2 := rfl
@[simp] theorem State.setCore_hsc (s : State) (c : Nat) (x : CoreSt) (k2 : Nat) : (s.setCore c x).hsc k2 = s.hsc k2 := rfl
@[simp] theorem State.setCore_port (s : State) (c : Nat) (x : CoreSt) (n2 : Nat) : (s.setCore c x).port n2 = s.port n2 := rfl
@[simp] theorem State.setCore_tag (s : State) (c : Nat) (x : CoreSt) (i2 : Nat) : (s.setCore c x).tag i2 = s.tag i2 := rfl
@[simp] theorem State.setCore_ctxState (s : State) (c : Nat) (x : CoreSt) (i2 : Nat) : (s.setCore c x).ctxState i2 = s.ctxState i2 := rfl
@[simp] theorem State.setCore_portState (s : State) (c : Nat) (x : CoreSt) (n2 : Nat) : (s.setCore c x).portState n2 = s.portState n2 := rfl
@[simp] theorem State.setCore_stopped (s : State) (c : Nat) (x : CoreSt) : (s.setCore c x).stopped = s.stopped := rfl
@[simp] theorem State.setCore_warming (s : State) (c : Nat) (x : CoreSt) : (s.setCore c x).warming = s.warming := rfl
@[simp] theorem State.setCore_expert (s : State) (c : Nat) (x : CoreSt) : (s.setCore c x).expert = s.expert := rfl
@[simp] theorem State.setCore_chip (s : State) (c : Nat) (x : CoreSt) : (s.setCore c x).chip = s.chip := rfl
@[simp] theorem State.setCore_self (s : State) (c : Nat) (x : CoreSt) : (s.setCore c x).self = s.self := rfl
@[simp] theorem State.setCore_isHere (s : State) (c : Nat) (x : CoreSt) (n2 : Nat) : (s.setCore c x).isHere n2 = s.isHere n2 := rfl
@[simp] theorem State.setCore_locked (s : State) (c : Nat) (x : CoreSt) : (s.setCore c x).locked = s.locked := rfl
@[simp] theorem State.setCore_noStart (s : State) (c : Nat) (x : CoreSt) : (s.setCore c x).noStart = s.noStart := rfl
@[simp] theorem State.setCore_inSupply (s : State) (c : Nat) (x : CoreSt) : (s.setCore c x).inSupply = s.inSupply := rfl
@[simp] theorem State.setCore_cqFull (s : State) (c : Nat) (x : CoreSt) (i2 : Nat) : (s.setCore c x).cqFull i2 = s.cqFull i2 := rfl
@[simp] theorem State.setCore_auditWord (s : State) (c : Nat) (x : CoreSt) (i2 : Nat) : (s.setCore c x).auditWord i2 = s.auditWord i2 := rfl
@[simp] theorem State.setCore_live (s : State) (c : Nat) (x : CoreSt) (t2 : Nat) : (s.setCore c x).live t2 = s.live t2 := rfl
@[simp] theorem State.setCtx_pending (s : State) (i : Nat) (x : CtxSt) : (s.setCtx i x).pending = s.pending := rfl
@[simp] theorem State.setCtx_time (s : State) (i : Nat) (x : CtxSt) : (s.setCtx i x).time = s.time := rfl
@[simp] theorem State.setCtx_free (s : State) (i : Nat) (x : CtxSt) : (s.setCtx i x).free = s.free := rfl
@[simp] theorem State.setCtx_regs (s : State) (i : Nat) (x : CtxSt) : (s.setCtx i x).regs = s.regs := rfl
@[simp] theorem State.setCtx_halves (s : State) (i : Nat) (x : CtxSt) : (s.setCtx i x).halves = s.halves := rfl
@[simp] theorem State.setCtx_latch (s : State) (i : Nat) (x : CtxSt) : (s.setCtx i x).latch = s.latch := rfl
@[simp] theorem State.setCtx_staged (s : State) (i : Nat) (x : CtxSt) : (s.setCtx i x).staged = s.staged := rfl
@[simp] theorem State.setCtx_hbm (s : State) (i : Nat) (x : CtxSt) : (s.setCtx i x).hbm = s.hbm := rfl
@[simp] theorem State.setCtx_hbmErr (s : State) (i : Nat) (x : CtxSt) : (s.setCtx i x).hbmErr = s.hbmErr := rfl
@[simp] theorem State.setCtx_hbmPassing (s : State) (i : Nat) (x : CtxSt) : (s.setCtx i x).hbmPassing = s.hbmPassing := rfl
@[simp] theorem State.setCtx_cores (s : State) (i : Nat) (x : CtxSt) : (s.setCtx i x).cores = s.cores := rfl
@[simp] theorem State.setCtx_doorbells (s : State) (i : Nat) (x : CtxSt) : (s.setCtx i x).doorbells = s.doorbells := rfl
@[simp] theorem State.setCtx_engines (s : State) (i : Nat) (x : CtxSt) : (s.setCtx i x).engines = s.engines := rfl
@[simp] theorem State.setCtx_hscs (s : State) (i : Nat) (x : CtxSt) : (s.setCtx i x).hscs = s.hscs := rfl
@[simp] theorem State.setCtx_tlb (s : State) (i : Nat) (x : CtxSt) : (s.setCtx i x).tlb = s.tlb := rfl
@[simp] theorem State.setCtx_slices (s : State) (i : Nat) (x : CtxSt) : (s.setCtx i x).slices = s.slices := rfl
@[simp] theorem State.setCtx_nodes (s : State) (i : Nat) (x : CtxSt) : (s.setCtx i x).nodes = s.nodes := rfl
@[simp] theorem State.setCtx_inval (s : State) (i : Nat) (x : CtxSt) : (s.setCtx i x).inval = s.inval := rfl
@[simp] theorem State.setCtx_key (s : State) (i : Nat) (x : CtxSt) : (s.setCtx i x).key = s.key := rfl
@[simp] theorem State.setCtx_refetch (s : State) (i : Nat) (x : CtxSt) : (s.setCtx i x).refetch = s.refetch := rfl
@[simp] theorem State.setCtx_phaseHold (s : State) (i : Nat) (x : CtxSt) : (s.setCtx i x).phaseHold = s.phaseHold := rfl
@[simp] theorem State.setCtx_requests (s : State) (i : Nat) (x : CtxSt) : (s.setCtx i x).requests = s.requests := rfl
@[simp] theorem State.setCtx_nextTxn (s : State) (i : Nat) (x : CtxSt) : (s.setCtx i x).nextTxn = s.nextTxn := rfl
@[simp] theorem State.setCtx_parked (s : State) (i : Nat) (x : CtxSt) : (s.setCtx i x).parked = s.parked := rfl
@[simp] theorem State.setCtx_ports (s : State) (i : Nat) (x : CtxSt) : (s.setCtx i x).ports = s.ports := rfl
@[simp] theorem State.setCtx_plan (s : State) (i : Nat) (x : CtxSt) : (s.setCtx i x).plan = s.plan := rfl
@[simp] theorem State.setCtx_collector (s : State) (i : Nat) (x : CtxSt) : (s.setCtx i x).collector = s.collector := rfl
@[simp] theorem State.setCtx_psn (s : State) (i : Nat) (x : CtxSt) : (s.setCtx i x).psn = s.psn := rfl
@[simp] theorem State.setCtx_asked (s : State) (i : Nat) (x : CtxSt) : (s.setCtx i x).asked = s.asked := rfl
@[simp] theorem State.setCtx_ethAuth (s : State) (i : Nat) (x : CtxSt) : (s.setCtx i x).ethAuth = s.ethAuth := rfl
@[simp] theorem State.setCtx_stallAt (s : State) (i : Nat) (x : CtxSt) : (s.setCtx i x).stallAt = s.stallAt := rfl
@[simp] theorem State.setCtx_hashBusy (s : State) (i : Nat) (x : CtxSt) : (s.setCtx i x).hashBusy = s.hashBusy := rfl
@[simp] theorem State.setCtx_boot (s : State) (i : Nat) (x : CtxSt) : (s.setCtx i x).boot = s.boot := rfl
@[simp] theorem State.setCtx_dumps (s : State) (i : Nat) (x : CtxSt) : (s.setCtx i x).dumps = s.dumps := rfl
@[simp] theorem State.setCtx_mbx (s : State) (i : Nat) (x : CtxSt) : (s.setCtx i x).mbx = s.mbx := rfl
@[simp] theorem State.setCtx_failed (s : State) (i : Nat) (x : CtxSt) : (s.setCtx i x).failed = s.failed := rfl
@[simp] theorem State.setCtx_warmAt (s : State) (i : Nat) (x : CtxSt) : (s.setCtx i x).warmAt = s.warmAt := rfl
@[simp] theorem State.setCtx_funcDikes (s : State) (i : Nat) (x : CtxSt) : (s.setCtx i x).funcDikes = s.funcDikes := rfl
@[simp] theorem State.setCtx_hbAt (s : State) (i : Nat) (x : CtxSt) : (s.setCtx i x).hbAt = s.hbAt := rfl
@[simp] theorem State.setCtx_vfEnable (s : State) (i : Nat) (x : CtxSt) : (s.setCtx i x).vfEnable = s.vfEnable := rfl
@[simp] theorem State.setCtx_bar4 (s : State) (i : Nat) (x : CtxSt) : (s.setCtx i x).bar4 = s.bar4 := rfl
@[simp] theorem State.setCtx_power (s : State) (i : Nat) (x : CtxSt) : (s.setCtx i x).power = s.power := rfl
@[simp] theorem State.setCtx_supply (s : State) (i : Nat) (x : CtxSt) : (s.setCtx i x).supply = s.supply := rfl
@[simp] theorem State.setCtx_trajectory (s : State) (i : Nat) (x : CtxSt) : (s.setCtx i x).trajectory = s.trajectory := rfl
@[simp] theorem State.setCtx_fields (s : State) (i : Nat) (x : CtxSt) : (s.setCtx i x).fields = s.fields := rfl
@[simp] theorem State.setCtx_holdAt (s : State) (i : Nat) (x : CtxSt) : (s.setCtx i x).holdAt = s.holdAt := rfl
@[simp] theorem State.setCtx_healthAt (s : State) (i : Nat) (x : CtxSt) : (s.setCtx i x).healthAt = s.healthAt := rfl
@[simp] theorem State.setCtx_unlocked (s : State) (i : Nat) (x : CtxSt) : (s.setCtx i x).unlocked = s.unlocked := rfl
@[simp] theorem State.setCtx_slew (s : State) (i : Nat) (x : CtxSt) : (s.setCtx i x).slew = s.slew := rfl
@[simp] theorem State.setCtx_holdNs (s : State) (i : Nat) (x : CtxSt) : (s.setCtx i x).holdNs = s.holdNs := rfl
@[simp] theorem State.setCtx_stepDue (s : State) (i : Nat) (x : CtxSt) : (s.setCtx i x).stepDue = s.stepDue := rfl
@[simp] theorem State.setCtx_otherMa (s : State) (i : Nat) (x : CtxSt) : (s.setCtx i x).otherMa = s.otherMa := rfl
@[simp] theorem State.setCtx_bleeder (s : State) (i : Nat) (x : CtxSt) : (s.setCtx i x).bleeder = s.bleeder := rfl
@[simp] theorem State.setCtx_heldDraw (s : State) (i : Nat) (x : CtxSt) : (s.setCtx i x).heldDraw = s.heldDraw := rfl
@[simp] theorem State.setCtx_ticks (s : State) (i : Nat) (x : CtxSt) : (s.setCtx i x).ticks = s.ticks := rfl
@[simp] theorem State.setCtx_diag (s : State) (i : Nat) (x : CtxSt) : (s.setCtx i x).diag = s.diag := rfl
@[simp] theorem State.setCtx_spdm (s : State) (i : Nat) (x : CtxSt) : (s.setCtx i x).spdm = s.spdm := rfl
@[simp] theorem State.setCtx_ide (s : State) (i : Nat) (x : CtxSt) : (s.setCtx i x).ide = s.ide := rfl
@[simp] theorem State.setCtx_events (s : State) (i : Nat) (x : CtxSt) : (s.setCtx i x).events = s.events := rfl
@[simp] theorem State.setCtx_out (s : State) (i : Nat) (x : CtxSt) : (s.setCtx i x).out = s.out := rfl
@[simp] theorem State.setCtx_reg (s : State) (i : Nat) (x : CtxSt) (r2 : Reg) (i2 : Nat) : (s.setCtx i x).reg r2 i2 = s.reg r2 i2 := rfl
@[simp] theorem State.setCtx_getF (s : State) (i : Nat) (x : CtxSt) (f2 : Fld) (i2 : Nat) : (s.setCtx i x).getF f2 i2 = s.getF f2 i2 := rfl
@[simp] theorem State.setCtx_flag (s : State) (i : Nat) (x : CtxSt) (f2 : Fld) (i2 : Nat) : (s.setCtx i x).flag f2 i2 = s.flag f2 i2 := rfl
@[simp] theorem State.setCtx_core (s : State) (i : Nat) (x : CtxSt) (c2 : Nat) : (s.setCtx i x).core c2 = s.core c2 := rfl
@[simp] theorem State.setCtx_engine (s : State) (i : Nat) (x : CtxSt) (e2 : Nat) : (s.setCtx i x).engine e2 = s.engine e2 := rfl
@[simp] theorem State.setCtx_hsc (s : State) (i : Nat) (x : CtxSt) (k2 : Nat) : (s.setCtx i x).hsc k2 = s.hsc k2 := rfl
@[simp] theorem State.setCtx_port (s : State) (i : Nat) (x : CtxSt) (n2 : Nat) : (s.setCtx i x).port n2 = s.port n2 := rfl
@[simp] theorem State.setCtx_tag (s : State) (i : Nat) (x : CtxSt) (i2 : Nat) : (s.setCtx i x).tag i2 = s.tag i2 := rfl
@[simp] theorem State.setCtx_ctxState (s : State) (i : Nat) (x : CtxSt) (i2 : Nat) : (s.setCtx i x).ctxState i2 = s.ctxState i2 := rfl
@[simp] theorem State.setCtx_portState (s : State) (i : Nat) (x : CtxSt) (n2 : Nat) : (s.setCtx i x).portState n2 = s.portState n2 := rfl
@[simp] theorem State.setCtx_stopped (s : State) (i : Nat) (x : CtxSt) : (s.setCtx i x).stopped = s.stopped := rfl
@[simp] theorem State.setCtx_warming (s : State) (i : Nat) (x : CtxSt) : (s.setCtx i x).warming = s.warming := rfl
@[simp] theorem State.setCtx_expert (s : State) (i : Nat) (x : CtxSt) : (s.setCtx i x).expert = s.expert := rfl
@[simp] theorem State.setCtx_chip (s : State) (i : Nat) (x : CtxSt) : (s.setCtx i x).chip = s.chip := rfl
@[simp] theorem State.setCtx_self (s : State) (i : Nat) (x : CtxSt) : (s.setCtx i x).self = s.self := rfl
@[simp] theorem State.setCtx_isHere (s : State) (i : Nat) (x : CtxSt) (n2 : Nat) : (s.setCtx i x).isHere n2 = s.isHere n2 := rfl
@[simp] theorem State.setCtx_locked (s : State) (i : Nat) (x : CtxSt) : (s.setCtx i x).locked = s.locked := rfl
@[simp] theorem State.setCtx_noStart (s : State) (i : Nat) (x : CtxSt) : (s.setCtx i x).noStart = s.noStart := rfl
@[simp] theorem State.setCtx_inSupply (s : State) (i : Nat) (x : CtxSt) : (s.setCtx i x).inSupply = s.inSupply := rfl
@[simp] theorem State.setCtx_cqFull (s : State) (i : Nat) (x : CtxSt) (i2 : Nat) : (s.setCtx i x).cqFull i2 = s.cqFull i2 := rfl
@[simp] theorem State.setCtx_auditWord (s : State) (i : Nat) (x : CtxSt) (i2 : Nat) : (s.setCtx i x).auditWord i2 = s.auditWord i2 := rfl
@[simp] theorem State.setEngine_pending (s : State) (e : Nat) (x : GeSt) : (s.setEngine e x).pending = s.pending := rfl
@[simp] theorem State.setEngine_time (s : State) (e : Nat) (x : GeSt) : (s.setEngine e x).time = s.time := rfl
@[simp] theorem State.setEngine_free (s : State) (e : Nat) (x : GeSt) : (s.setEngine e x).free = s.free := rfl
@[simp] theorem State.setEngine_regs (s : State) (e : Nat) (x : GeSt) : (s.setEngine e x).regs = s.regs := rfl
@[simp] theorem State.setEngine_halves (s : State) (e : Nat) (x : GeSt) : (s.setEngine e x).halves = s.halves := rfl
@[simp] theorem State.setEngine_latch (s : State) (e : Nat) (x : GeSt) : (s.setEngine e x).latch = s.latch := rfl
@[simp] theorem State.setEngine_staged (s : State) (e : Nat) (x : GeSt) : (s.setEngine e x).staged = s.staged := rfl
@[simp] theorem State.setEngine_hbm (s : State) (e : Nat) (x : GeSt) : (s.setEngine e x).hbm = s.hbm := rfl
@[simp] theorem State.setEngine_hbmErr (s : State) (e : Nat) (x : GeSt) : (s.setEngine e x).hbmErr = s.hbmErr := rfl
@[simp] theorem State.setEngine_hbmPassing (s : State) (e : Nat) (x : GeSt) : (s.setEngine e x).hbmPassing = s.hbmPassing := rfl
@[simp] theorem State.setEngine_cores (s : State) (e : Nat) (x : GeSt) : (s.setEngine e x).cores = s.cores := rfl
@[simp] theorem State.setEngine_ctxs (s : State) (e : Nat) (x : GeSt) : (s.setEngine e x).ctxs = s.ctxs := rfl
@[simp] theorem State.setEngine_doorbells (s : State) (e : Nat) (x : GeSt) : (s.setEngine e x).doorbells = s.doorbells := rfl
@[simp] theorem State.setEngine_hscs (s : State) (e : Nat) (x : GeSt) : (s.setEngine e x).hscs = s.hscs := rfl
@[simp] theorem State.setEngine_tlb (s : State) (e : Nat) (x : GeSt) : (s.setEngine e x).tlb = s.tlb := rfl
@[simp] theorem State.setEngine_slices (s : State) (e : Nat) (x : GeSt) : (s.setEngine e x).slices = s.slices := rfl
@[simp] theorem State.setEngine_nodes (s : State) (e : Nat) (x : GeSt) : (s.setEngine e x).nodes = s.nodes := rfl
@[simp] theorem State.setEngine_inval (s : State) (e : Nat) (x : GeSt) : (s.setEngine e x).inval = s.inval := rfl
@[simp] theorem State.setEngine_key (s : State) (e : Nat) (x : GeSt) : (s.setEngine e x).key = s.key := rfl
@[simp] theorem State.setEngine_refetch (s : State) (e : Nat) (x : GeSt) : (s.setEngine e x).refetch = s.refetch := rfl
@[simp] theorem State.setEngine_phaseHold (s : State) (e : Nat) (x : GeSt) : (s.setEngine e x).phaseHold = s.phaseHold := rfl
@[simp] theorem State.setEngine_requests (s : State) (e : Nat) (x : GeSt) : (s.setEngine e x).requests = s.requests := rfl
@[simp] theorem State.setEngine_nextTxn (s : State) (e : Nat) (x : GeSt) : (s.setEngine e x).nextTxn = s.nextTxn := rfl
@[simp] theorem State.setEngine_parked (s : State) (e : Nat) (x : GeSt) : (s.setEngine e x).parked = s.parked := rfl
@[simp] theorem State.setEngine_ports (s : State) (e : Nat) (x : GeSt) : (s.setEngine e x).ports = s.ports := rfl
@[simp] theorem State.setEngine_plan (s : State) (e : Nat) (x : GeSt) : (s.setEngine e x).plan = s.plan := rfl
@[simp] theorem State.setEngine_collector (s : State) (e : Nat) (x : GeSt) : (s.setEngine e x).collector = s.collector := rfl
@[simp] theorem State.setEngine_psn (s : State) (e : Nat) (x : GeSt) : (s.setEngine e x).psn = s.psn := rfl
@[simp] theorem State.setEngine_asked (s : State) (e : Nat) (x : GeSt) : (s.setEngine e x).asked = s.asked := rfl
@[simp] theorem State.setEngine_ethAuth (s : State) (e : Nat) (x : GeSt) : (s.setEngine e x).ethAuth = s.ethAuth := rfl
@[simp] theorem State.setEngine_stallAt (s : State) (e : Nat) (x : GeSt) : (s.setEngine e x).stallAt = s.stallAt := rfl
@[simp] theorem State.setEngine_hashBusy (s : State) (e : Nat) (x : GeSt) : (s.setEngine e x).hashBusy = s.hashBusy := rfl
@[simp] theorem State.setEngine_boot (s : State) (e : Nat) (x : GeSt) : (s.setEngine e x).boot = s.boot := rfl
@[simp] theorem State.setEngine_dumps (s : State) (e : Nat) (x : GeSt) : (s.setEngine e x).dumps = s.dumps := rfl
@[simp] theorem State.setEngine_mbx (s : State) (e : Nat) (x : GeSt) : (s.setEngine e x).mbx = s.mbx := rfl
@[simp] theorem State.setEngine_failed (s : State) (e : Nat) (x : GeSt) : (s.setEngine e x).failed = s.failed := rfl
@[simp] theorem State.setEngine_warmAt (s : State) (e : Nat) (x : GeSt) : (s.setEngine e x).warmAt = s.warmAt := rfl
@[simp] theorem State.setEngine_funcDikes (s : State) (e : Nat) (x : GeSt) : (s.setEngine e x).funcDikes = s.funcDikes := rfl
@[simp] theorem State.setEngine_hbAt (s : State) (e : Nat) (x : GeSt) : (s.setEngine e x).hbAt = s.hbAt := rfl
@[simp] theorem State.setEngine_vfEnable (s : State) (e : Nat) (x : GeSt) : (s.setEngine e x).vfEnable = s.vfEnable := rfl
@[simp] theorem State.setEngine_bar4 (s : State) (e : Nat) (x : GeSt) : (s.setEngine e x).bar4 = s.bar4 := rfl
@[simp] theorem State.setEngine_power (s : State) (e : Nat) (x : GeSt) : (s.setEngine e x).power = s.power := rfl
@[simp] theorem State.setEngine_supply (s : State) (e : Nat) (x : GeSt) : (s.setEngine e x).supply = s.supply := rfl
@[simp] theorem State.setEngine_trajectory (s : State) (e : Nat) (x : GeSt) : (s.setEngine e x).trajectory = s.trajectory := rfl
@[simp] theorem State.setEngine_fields (s : State) (e : Nat) (x : GeSt) : (s.setEngine e x).fields = s.fields := rfl
@[simp] theorem State.setEngine_holdAt (s : State) (e : Nat) (x : GeSt) : (s.setEngine e x).holdAt = s.holdAt := rfl
@[simp] theorem State.setEngine_healthAt (s : State) (e : Nat) (x : GeSt) : (s.setEngine e x).healthAt = s.healthAt := rfl
@[simp] theorem State.setEngine_unlocked (s : State) (e : Nat) (x : GeSt) : (s.setEngine e x).unlocked = s.unlocked := rfl
@[simp] theorem State.setEngine_slew (s : State) (e : Nat) (x : GeSt) : (s.setEngine e x).slew = s.slew := rfl
@[simp] theorem State.setEngine_holdNs (s : State) (e : Nat) (x : GeSt) : (s.setEngine e x).holdNs = s.holdNs := rfl
@[simp] theorem State.setEngine_stepDue (s : State) (e : Nat) (x : GeSt) : (s.setEngine e x).stepDue = s.stepDue := rfl
@[simp] theorem State.setEngine_otherMa (s : State) (e : Nat) (x : GeSt) : (s.setEngine e x).otherMa = s.otherMa := rfl
@[simp] theorem State.setEngine_bleeder (s : State) (e : Nat) (x : GeSt) : (s.setEngine e x).bleeder = s.bleeder := rfl
@[simp] theorem State.setEngine_heldDraw (s : State) (e : Nat) (x : GeSt) : (s.setEngine e x).heldDraw = s.heldDraw := rfl
@[simp] theorem State.setEngine_ticks (s : State) (e : Nat) (x : GeSt) : (s.setEngine e x).ticks = s.ticks := rfl
@[simp] theorem State.setEngine_diag (s : State) (e : Nat) (x : GeSt) : (s.setEngine e x).diag = s.diag := rfl
@[simp] theorem State.setEngine_spdm (s : State) (e : Nat) (x : GeSt) : (s.setEngine e x).spdm = s.spdm := rfl
@[simp] theorem State.setEngine_ide (s : State) (e : Nat) (x : GeSt) : (s.setEngine e x).ide = s.ide := rfl
@[simp] theorem State.setEngine_events (s : State) (e : Nat) (x : GeSt) : (s.setEngine e x).events = s.events := rfl
@[simp] theorem State.setEngine_out (s : State) (e : Nat) (x : GeSt) : (s.setEngine e x).out = s.out := rfl
@[simp] theorem State.setEngine_reg (s : State) (e : Nat) (x : GeSt) (r2 : Reg) (i2 : Nat) : (s.setEngine e x).reg r2 i2 = s.reg r2 i2 := rfl
@[simp] theorem State.setEngine_getF (s : State) (e : Nat) (x : GeSt) (f2 : Fld) (i2 : Nat) : (s.setEngine e x).getF f2 i2 = s.getF f2 i2 := rfl
@[simp] theorem State.setEngine_flag (s : State) (e : Nat) (x : GeSt) (f2 : Fld) (i2 : Nat) : (s.setEngine e x).flag f2 i2 = s.flag f2 i2 := rfl
@[simp] theorem State.setEngine_core (s : State) (e : Nat) (x : GeSt) (c2 : Nat) : (s.setEngine e x).core c2 = s.core c2 := rfl
@[simp] theorem State.setEngine_ctx (s : State) (e : Nat) (x : GeSt) (i2 : Nat) : (s.setEngine e x).ctx i2 = s.ctx i2 := rfl
@[simp] theorem State.setEngine_hsc (s : State) (e : Nat) (x : GeSt) (k2 : Nat) : (s.setEngine e x).hsc k2 = s.hsc k2 := rfl
@[simp] theorem State.setEngine_port (s : State) (e : Nat) (x : GeSt) (n2 : Nat) : (s.setEngine e x).port n2 = s.port n2 := rfl
@[simp] theorem State.setEngine_tag (s : State) (e : Nat) (x : GeSt) (i2 : Nat) : (s.setEngine e x).tag i2 = s.tag i2 := rfl
@[simp] theorem State.setEngine_ctxState (s : State) (e : Nat) (x : GeSt) (i2 : Nat) : (s.setEngine e x).ctxState i2 = s.ctxState i2 := rfl
@[simp] theorem State.setEngine_portState (s : State) (e : Nat) (x : GeSt) (n2 : Nat) : (s.setEngine e x).portState n2 = s.portState n2 := rfl
@[simp] theorem State.setEngine_stopped (s : State) (e : Nat) (x : GeSt) : (s.setEngine e x).stopped = s.stopped := rfl
@[simp] theorem State.setEngine_warming (s : State) (e : Nat) (x : GeSt) : (s.setEngine e x).warming = s.warming := rfl
@[simp] theorem State.setEngine_expert (s : State) (e : Nat) (x : GeSt) : (s.setEngine e x).expert = s.expert := rfl
@[simp] theorem State.setEngine_chip (s : State) (e : Nat) (x : GeSt) : (s.setEngine e x).chip = s.chip := rfl
@[simp] theorem State.setEngine_self (s : State) (e : Nat) (x : GeSt) : (s.setEngine e x).self = s.self := rfl
@[simp] theorem State.setEngine_isHere (s : State) (e : Nat) (x : GeSt) (n2 : Nat) : (s.setEngine e x).isHere n2 = s.isHere n2 := rfl
@[simp] theorem State.setEngine_locked (s : State) (e : Nat) (x : GeSt) : (s.setEngine e x).locked = s.locked := rfl
@[simp] theorem State.setEngine_noStart (s : State) (e : Nat) (x : GeSt) : (s.setEngine e x).noStart = s.noStart := rfl
@[simp] theorem State.setEngine_inSupply (s : State) (e : Nat) (x : GeSt) : (s.setEngine e x).inSupply = s.inSupply := rfl
@[simp] theorem State.setEngine_cqFull (s : State) (e : Nat) (x : GeSt) (i2 : Nat) : (s.setEngine e x).cqFull i2 = s.cqFull i2 := rfl
@[simp] theorem State.setEngine_auditWord (s : State) (e : Nat) (x : GeSt) (i2 : Nat) : (s.setEngine e x).auditWord i2 = s.auditWord i2 := rfl
@[simp] theorem State.setEngine_live (s : State) (e : Nat) (x : GeSt) (t2 : Nat) : (s.setEngine e x).live t2 = s.live t2 := rfl
@[simp] theorem State.setHsc_pending (s : State) (k : Nat) (x : StackSt) : (s.setHsc k x).pending = s.pending := rfl
@[simp] theorem State.setHsc_time (s : State) (k : Nat) (x : StackSt) : (s.setHsc k x).time = s.time := rfl
@[simp] theorem State.setHsc_free (s : State) (k : Nat) (x : StackSt) : (s.setHsc k x).free = s.free := rfl
@[simp] theorem State.setHsc_regs (s : State) (k : Nat) (x : StackSt) : (s.setHsc k x).regs = s.regs := rfl
@[simp] theorem State.setHsc_halves (s : State) (k : Nat) (x : StackSt) : (s.setHsc k x).halves = s.halves := rfl
@[simp] theorem State.setHsc_latch (s : State) (k : Nat) (x : StackSt) : (s.setHsc k x).latch = s.latch := rfl
@[simp] theorem State.setHsc_staged (s : State) (k : Nat) (x : StackSt) : (s.setHsc k x).staged = s.staged := rfl
@[simp] theorem State.setHsc_hbm (s : State) (k : Nat) (x : StackSt) : (s.setHsc k x).hbm = s.hbm := rfl
@[simp] theorem State.setHsc_hbmErr (s : State) (k : Nat) (x : StackSt) : (s.setHsc k x).hbmErr = s.hbmErr := rfl
@[simp] theorem State.setHsc_hbmPassing (s : State) (k : Nat) (x : StackSt) : (s.setHsc k x).hbmPassing = s.hbmPassing := rfl
@[simp] theorem State.setHsc_cores (s : State) (k : Nat) (x : StackSt) : (s.setHsc k x).cores = s.cores := rfl
@[simp] theorem State.setHsc_ctxs (s : State) (k : Nat) (x : StackSt) : (s.setHsc k x).ctxs = s.ctxs := rfl
@[simp] theorem State.setHsc_doorbells (s : State) (k : Nat) (x : StackSt) : (s.setHsc k x).doorbells = s.doorbells := rfl
@[simp] theorem State.setHsc_engines (s : State) (k : Nat) (x : StackSt) : (s.setHsc k x).engines = s.engines := rfl
@[simp] theorem State.setHsc_tlb (s : State) (k : Nat) (x : StackSt) : (s.setHsc k x).tlb = s.tlb := rfl
@[simp] theorem State.setHsc_slices (s : State) (k : Nat) (x : StackSt) : (s.setHsc k x).slices = s.slices := rfl
@[simp] theorem State.setHsc_nodes (s : State) (k : Nat) (x : StackSt) : (s.setHsc k x).nodes = s.nodes := rfl
@[simp] theorem State.setHsc_inval (s : State) (k : Nat) (x : StackSt) : (s.setHsc k x).inval = s.inval := rfl
@[simp] theorem State.setHsc_key (s : State) (k : Nat) (x : StackSt) : (s.setHsc k x).key = s.key := rfl
@[simp] theorem State.setHsc_refetch (s : State) (k : Nat) (x : StackSt) : (s.setHsc k x).refetch = s.refetch := rfl
@[simp] theorem State.setHsc_phaseHold (s : State) (k : Nat) (x : StackSt) : (s.setHsc k x).phaseHold = s.phaseHold := rfl
@[simp] theorem State.setHsc_requests (s : State) (k : Nat) (x : StackSt) : (s.setHsc k x).requests = s.requests := rfl
@[simp] theorem State.setHsc_nextTxn (s : State) (k : Nat) (x : StackSt) : (s.setHsc k x).nextTxn = s.nextTxn := rfl
@[simp] theorem State.setHsc_parked (s : State) (k : Nat) (x : StackSt) : (s.setHsc k x).parked = s.parked := rfl
@[simp] theorem State.setHsc_ports (s : State) (k : Nat) (x : StackSt) : (s.setHsc k x).ports = s.ports := rfl
@[simp] theorem State.setHsc_plan (s : State) (k : Nat) (x : StackSt) : (s.setHsc k x).plan = s.plan := rfl
@[simp] theorem State.setHsc_collector (s : State) (k : Nat) (x : StackSt) : (s.setHsc k x).collector = s.collector := rfl
@[simp] theorem State.setHsc_psn (s : State) (k : Nat) (x : StackSt) : (s.setHsc k x).psn = s.psn := rfl
@[simp] theorem State.setHsc_asked (s : State) (k : Nat) (x : StackSt) : (s.setHsc k x).asked = s.asked := rfl
@[simp] theorem State.setHsc_ethAuth (s : State) (k : Nat) (x : StackSt) : (s.setHsc k x).ethAuth = s.ethAuth := rfl
@[simp] theorem State.setHsc_stallAt (s : State) (k : Nat) (x : StackSt) : (s.setHsc k x).stallAt = s.stallAt := rfl
@[simp] theorem State.setHsc_hashBusy (s : State) (k : Nat) (x : StackSt) : (s.setHsc k x).hashBusy = s.hashBusy := rfl
@[simp] theorem State.setHsc_boot (s : State) (k : Nat) (x : StackSt) : (s.setHsc k x).boot = s.boot := rfl
@[simp] theorem State.setHsc_dumps (s : State) (k : Nat) (x : StackSt) : (s.setHsc k x).dumps = s.dumps := rfl
@[simp] theorem State.setHsc_mbx (s : State) (k : Nat) (x : StackSt) : (s.setHsc k x).mbx = s.mbx := rfl
@[simp] theorem State.setHsc_failed (s : State) (k : Nat) (x : StackSt) : (s.setHsc k x).failed = s.failed := rfl
@[simp] theorem State.setHsc_warmAt (s : State) (k : Nat) (x : StackSt) : (s.setHsc k x).warmAt = s.warmAt := rfl
@[simp] theorem State.setHsc_funcDikes (s : State) (k : Nat) (x : StackSt) : (s.setHsc k x).funcDikes = s.funcDikes := rfl
@[simp] theorem State.setHsc_hbAt (s : State) (k : Nat) (x : StackSt) : (s.setHsc k x).hbAt = s.hbAt := rfl
@[simp] theorem State.setHsc_vfEnable (s : State) (k : Nat) (x : StackSt) : (s.setHsc k x).vfEnable = s.vfEnable := rfl
@[simp] theorem State.setHsc_bar4 (s : State) (k : Nat) (x : StackSt) : (s.setHsc k x).bar4 = s.bar4 := rfl
@[simp] theorem State.setHsc_power (s : State) (k : Nat) (x : StackSt) : (s.setHsc k x).power = s.power := rfl
@[simp] theorem State.setHsc_supply (s : State) (k : Nat) (x : StackSt) : (s.setHsc k x).supply = s.supply := rfl
@[simp] theorem State.setHsc_trajectory (s : State) (k : Nat) (x : StackSt) : (s.setHsc k x).trajectory = s.trajectory := rfl
@[simp] theorem State.setHsc_fields (s : State) (k : Nat) (x : StackSt) : (s.setHsc k x).fields = s.fields := rfl
@[simp] theorem State.setHsc_holdAt (s : State) (k : Nat) (x : StackSt) : (s.setHsc k x).holdAt = s.holdAt := rfl
@[simp] theorem State.setHsc_healthAt (s : State) (k : Nat) (x : StackSt) : (s.setHsc k x).healthAt = s.healthAt := rfl
@[simp] theorem State.setHsc_unlocked (s : State) (k : Nat) (x : StackSt) : (s.setHsc k x).unlocked = s.unlocked := rfl
@[simp] theorem State.setHsc_slew (s : State) (k : Nat) (x : StackSt) : (s.setHsc k x).slew = s.slew := rfl
@[simp] theorem State.setHsc_holdNs (s : State) (k : Nat) (x : StackSt) : (s.setHsc k x).holdNs = s.holdNs := rfl
@[simp] theorem State.setHsc_stepDue (s : State) (k : Nat) (x : StackSt) : (s.setHsc k x).stepDue = s.stepDue := rfl
@[simp] theorem State.setHsc_otherMa (s : State) (k : Nat) (x : StackSt) : (s.setHsc k x).otherMa = s.otherMa := rfl
@[simp] theorem State.setHsc_bleeder (s : State) (k : Nat) (x : StackSt) : (s.setHsc k x).bleeder = s.bleeder := rfl
@[simp] theorem State.setHsc_heldDraw (s : State) (k : Nat) (x : StackSt) : (s.setHsc k x).heldDraw = s.heldDraw := rfl
@[simp] theorem State.setHsc_ticks (s : State) (k : Nat) (x : StackSt) : (s.setHsc k x).ticks = s.ticks := rfl
@[simp] theorem State.setHsc_diag (s : State) (k : Nat) (x : StackSt) : (s.setHsc k x).diag = s.diag := rfl
@[simp] theorem State.setHsc_spdm (s : State) (k : Nat) (x : StackSt) : (s.setHsc k x).spdm = s.spdm := rfl
@[simp] theorem State.setHsc_ide (s : State) (k : Nat) (x : StackSt) : (s.setHsc k x).ide = s.ide := rfl
@[simp] theorem State.setHsc_events (s : State) (k : Nat) (x : StackSt) : (s.setHsc k x).events = s.events := rfl
@[simp] theorem State.setHsc_out (s : State) (k : Nat) (x : StackSt) : (s.setHsc k x).out = s.out := rfl
@[simp] theorem State.setHsc_reg (s : State) (k : Nat) (x : StackSt) (r2 : Reg) (i2 : Nat) : (s.setHsc k x).reg r2 i2 = s.reg r2 i2 := rfl
@[simp] theorem State.setHsc_getF (s : State) (k : Nat) (x : StackSt) (f2 : Fld) (i2 : Nat) : (s.setHsc k x).getF f2 i2 = s.getF f2 i2 := rfl
@[simp] theorem State.setHsc_flag (s : State) (k : Nat) (x : StackSt) (f2 : Fld) (i2 : Nat) : (s.setHsc k x).flag f2 i2 = s.flag f2 i2 := rfl
@[simp] theorem State.setHsc_core (s : State) (k : Nat) (x : StackSt) (c2 : Nat) : (s.setHsc k x).core c2 = s.core c2 := rfl
@[simp] theorem State.setHsc_ctx (s : State) (k : Nat) (x : StackSt) (i2 : Nat) : (s.setHsc k x).ctx i2 = s.ctx i2 := rfl
@[simp] theorem State.setHsc_engine (s : State) (k : Nat) (x : StackSt) (e2 : Nat) : (s.setHsc k x).engine e2 = s.engine e2 := rfl
@[simp] theorem State.setHsc_port (s : State) (k : Nat) (x : StackSt) (n2 : Nat) : (s.setHsc k x).port n2 = s.port n2 := rfl
@[simp] theorem State.setHsc_tag (s : State) (k : Nat) (x : StackSt) (i2 : Nat) : (s.setHsc k x).tag i2 = s.tag i2 := rfl
@[simp] theorem State.setHsc_ctxState (s : State) (k : Nat) (x : StackSt) (i2 : Nat) : (s.setHsc k x).ctxState i2 = s.ctxState i2 := rfl
@[simp] theorem State.setHsc_portState (s : State) (k : Nat) (x : StackSt) (n2 : Nat) : (s.setHsc k x).portState n2 = s.portState n2 := rfl
@[simp] theorem State.setHsc_stopped (s : State) (k : Nat) (x : StackSt) : (s.setHsc k x).stopped = s.stopped := rfl
@[simp] theorem State.setHsc_warming (s : State) (k : Nat) (x : StackSt) : (s.setHsc k x).warming = s.warming := rfl
@[simp] theorem State.setHsc_expert (s : State) (k : Nat) (x : StackSt) : (s.setHsc k x).expert = s.expert := rfl
@[simp] theorem State.setHsc_chip (s : State) (k : Nat) (x : StackSt) : (s.setHsc k x).chip = s.chip := rfl
@[simp] theorem State.setHsc_self (s : State) (k : Nat) (x : StackSt) : (s.setHsc k x).self = s.self := rfl
@[simp] theorem State.setHsc_isHere (s : State) (k : Nat) (x : StackSt) (n2 : Nat) : (s.setHsc k x).isHere n2 = s.isHere n2 := rfl
@[simp] theorem State.setHsc_locked (s : State) (k : Nat) (x : StackSt) : (s.setHsc k x).locked = s.locked := rfl
@[simp] theorem State.setHsc_noStart (s : State) (k : Nat) (x : StackSt) : (s.setHsc k x).noStart = s.noStart := rfl
@[simp] theorem State.setHsc_inSupply (s : State) (k : Nat) (x : StackSt) : (s.setHsc k x).inSupply = s.inSupply := rfl
@[simp] theorem State.setHsc_cqFull (s : State) (k : Nat) (x : StackSt) (i2 : Nat) : (s.setHsc k x).cqFull i2 = s.cqFull i2 := rfl
@[simp] theorem State.setHsc_auditWord (s : State) (k : Nat) (x : StackSt) (i2 : Nat) : (s.setHsc k x).auditWord i2 = s.auditWord i2 := rfl
@[simp] theorem State.setHsc_live (s : State) (k : Nat) (x : StackSt) (t2 : Nat) : (s.setHsc k x).live t2 = s.live t2 := rfl
@[simp] theorem State.setPort_pending (s : State) (n : Nat) (x : PortSt) : (s.setPort n x).pending = s.pending := rfl
@[simp] theorem State.setPort_time (s : State) (n : Nat) (x : PortSt) : (s.setPort n x).time = s.time := rfl
@[simp] theorem State.setPort_free (s : State) (n : Nat) (x : PortSt) : (s.setPort n x).free = s.free := rfl
@[simp] theorem State.setPort_regs (s : State) (n : Nat) (x : PortSt) : (s.setPort n x).regs = s.regs := rfl
@[simp] theorem State.setPort_halves (s : State) (n : Nat) (x : PortSt) : (s.setPort n x).halves = s.halves := rfl
@[simp] theorem State.setPort_latch (s : State) (n : Nat) (x : PortSt) : (s.setPort n x).latch = s.latch := rfl
@[simp] theorem State.setPort_staged (s : State) (n : Nat) (x : PortSt) : (s.setPort n x).staged = s.staged := rfl
@[simp] theorem State.setPort_hbm (s : State) (n : Nat) (x : PortSt) : (s.setPort n x).hbm = s.hbm := rfl
@[simp] theorem State.setPort_hbmErr (s : State) (n : Nat) (x : PortSt) : (s.setPort n x).hbmErr = s.hbmErr := rfl
@[simp] theorem State.setPort_hbmPassing (s : State) (n : Nat) (x : PortSt) : (s.setPort n x).hbmPassing = s.hbmPassing := rfl
@[simp] theorem State.setPort_cores (s : State) (n : Nat) (x : PortSt) : (s.setPort n x).cores = s.cores := rfl
@[simp] theorem State.setPort_ctxs (s : State) (n : Nat) (x : PortSt) : (s.setPort n x).ctxs = s.ctxs := rfl
@[simp] theorem State.setPort_doorbells (s : State) (n : Nat) (x : PortSt) : (s.setPort n x).doorbells = s.doorbells := rfl
@[simp] theorem State.setPort_engines (s : State) (n : Nat) (x : PortSt) : (s.setPort n x).engines = s.engines := rfl
@[simp] theorem State.setPort_hscs (s : State) (n : Nat) (x : PortSt) : (s.setPort n x).hscs = s.hscs := rfl
@[simp] theorem State.setPort_tlb (s : State) (n : Nat) (x : PortSt) : (s.setPort n x).tlb = s.tlb := rfl
@[simp] theorem State.setPort_slices (s : State) (n : Nat) (x : PortSt) : (s.setPort n x).slices = s.slices := rfl
@[simp] theorem State.setPort_nodes (s : State) (n : Nat) (x : PortSt) : (s.setPort n x).nodes = s.nodes := rfl
@[simp] theorem State.setPort_inval (s : State) (n : Nat) (x : PortSt) : (s.setPort n x).inval = s.inval := rfl
@[simp] theorem State.setPort_key (s : State) (n : Nat) (x : PortSt) : (s.setPort n x).key = s.key := rfl
@[simp] theorem State.setPort_refetch (s : State) (n : Nat) (x : PortSt) : (s.setPort n x).refetch = s.refetch := rfl
@[simp] theorem State.setPort_phaseHold (s : State) (n : Nat) (x : PortSt) : (s.setPort n x).phaseHold = s.phaseHold := rfl
@[simp] theorem State.setPort_requests (s : State) (n : Nat) (x : PortSt) : (s.setPort n x).requests = s.requests := rfl
@[simp] theorem State.setPort_nextTxn (s : State) (n : Nat) (x : PortSt) : (s.setPort n x).nextTxn = s.nextTxn := rfl
@[simp] theorem State.setPort_parked (s : State) (n : Nat) (x : PortSt) : (s.setPort n x).parked = s.parked := rfl
@[simp] theorem State.setPort_plan (s : State) (n : Nat) (x : PortSt) : (s.setPort n x).plan = s.plan := rfl
@[simp] theorem State.setPort_collector (s : State) (n : Nat) (x : PortSt) : (s.setPort n x).collector = s.collector := rfl
@[simp] theorem State.setPort_psn (s : State) (n : Nat) (x : PortSt) : (s.setPort n x).psn = s.psn := rfl
@[simp] theorem State.setPort_asked (s : State) (n : Nat) (x : PortSt) : (s.setPort n x).asked = s.asked := rfl
@[simp] theorem State.setPort_ethAuth (s : State) (n : Nat) (x : PortSt) : (s.setPort n x).ethAuth = s.ethAuth := rfl
@[simp] theorem State.setPort_stallAt (s : State) (n : Nat) (x : PortSt) : (s.setPort n x).stallAt = s.stallAt := rfl
@[simp] theorem State.setPort_hashBusy (s : State) (n : Nat) (x : PortSt) : (s.setPort n x).hashBusy = s.hashBusy := rfl
@[simp] theorem State.setPort_boot (s : State) (n : Nat) (x : PortSt) : (s.setPort n x).boot = s.boot := rfl
@[simp] theorem State.setPort_dumps (s : State) (n : Nat) (x : PortSt) : (s.setPort n x).dumps = s.dumps := rfl
@[simp] theorem State.setPort_mbx (s : State) (n : Nat) (x : PortSt) : (s.setPort n x).mbx = s.mbx := rfl
@[simp] theorem State.setPort_failed (s : State) (n : Nat) (x : PortSt) : (s.setPort n x).failed = s.failed := rfl
@[simp] theorem State.setPort_warmAt (s : State) (n : Nat) (x : PortSt) : (s.setPort n x).warmAt = s.warmAt := rfl
@[simp] theorem State.setPort_funcDikes (s : State) (n : Nat) (x : PortSt) : (s.setPort n x).funcDikes = s.funcDikes := rfl
@[simp] theorem State.setPort_hbAt (s : State) (n : Nat) (x : PortSt) : (s.setPort n x).hbAt = s.hbAt := rfl
@[simp] theorem State.setPort_vfEnable (s : State) (n : Nat) (x : PortSt) : (s.setPort n x).vfEnable = s.vfEnable := rfl
@[simp] theorem State.setPort_bar4 (s : State) (n : Nat) (x : PortSt) : (s.setPort n x).bar4 = s.bar4 := rfl
@[simp] theorem State.setPort_power (s : State) (n : Nat) (x : PortSt) : (s.setPort n x).power = s.power := rfl
@[simp] theorem State.setPort_supply (s : State) (n : Nat) (x : PortSt) : (s.setPort n x).supply = s.supply := rfl
@[simp] theorem State.setPort_trajectory (s : State) (n : Nat) (x : PortSt) : (s.setPort n x).trajectory = s.trajectory := rfl
@[simp] theorem State.setPort_fields (s : State) (n : Nat) (x : PortSt) : (s.setPort n x).fields = s.fields := rfl
@[simp] theorem State.setPort_holdAt (s : State) (n : Nat) (x : PortSt) : (s.setPort n x).holdAt = s.holdAt := rfl
@[simp] theorem State.setPort_healthAt (s : State) (n : Nat) (x : PortSt) : (s.setPort n x).healthAt = s.healthAt := rfl
@[simp] theorem State.setPort_unlocked (s : State) (n : Nat) (x : PortSt) : (s.setPort n x).unlocked = s.unlocked := rfl
@[simp] theorem State.setPort_slew (s : State) (n : Nat) (x : PortSt) : (s.setPort n x).slew = s.slew := rfl
@[simp] theorem State.setPort_holdNs (s : State) (n : Nat) (x : PortSt) : (s.setPort n x).holdNs = s.holdNs := rfl
@[simp] theorem State.setPort_stepDue (s : State) (n : Nat) (x : PortSt) : (s.setPort n x).stepDue = s.stepDue := rfl
@[simp] theorem State.setPort_otherMa (s : State) (n : Nat) (x : PortSt) : (s.setPort n x).otherMa = s.otherMa := rfl
@[simp] theorem State.setPort_bleeder (s : State) (n : Nat) (x : PortSt) : (s.setPort n x).bleeder = s.bleeder := rfl
@[simp] theorem State.setPort_heldDraw (s : State) (n : Nat) (x : PortSt) : (s.setPort n x).heldDraw = s.heldDraw := rfl
@[simp] theorem State.setPort_ticks (s : State) (n : Nat) (x : PortSt) : (s.setPort n x).ticks = s.ticks := rfl
@[simp] theorem State.setPort_diag (s : State) (n : Nat) (x : PortSt) : (s.setPort n x).diag = s.diag := rfl
@[simp] theorem State.setPort_spdm (s : State) (n : Nat) (x : PortSt) : (s.setPort n x).spdm = s.spdm := rfl
@[simp] theorem State.setPort_ide (s : State) (n : Nat) (x : PortSt) : (s.setPort n x).ide = s.ide := rfl
@[simp] theorem State.setPort_events (s : State) (n : Nat) (x : PortSt) : (s.setPort n x).events = s.events := rfl
@[simp] theorem State.setPort_out (s : State) (n : Nat) (x : PortSt) : (s.setPort n x).out = s.out := rfl
@[simp] theorem State.setPort_reg (s : State) (n : Nat) (x : PortSt) (r2 : Reg) (i2 : Nat) : (s.setPort n x).reg r2 i2 = s.reg r2 i2 := rfl
@[simp] theorem State.setPort_getF (s : State) (n : Nat) (x : PortSt) (f2 : Fld) (i2 : Nat) : (s.setPort n x).getF f2 i2 = s.getF f2 i2 := rfl
@[simp] theorem State.setPort_flag (s : State) (n : Nat) (x : PortSt) (f2 : Fld) (i2 : Nat) : (s.setPort n x).flag f2 i2 = s.flag f2 i2 := rfl
@[simp] theorem State.setPort_core (s : State) (n : Nat) (x : PortSt) (c2 : Nat) : (s.setPort n x).core c2 = s.core c2 := rfl
@[simp] theorem State.setPort_ctx (s : State) (n : Nat) (x : PortSt) (i2 : Nat) : (s.setPort n x).ctx i2 = s.ctx i2 := rfl
@[simp] theorem State.setPort_engine (s : State) (n : Nat) (x : PortSt) (e2 : Nat) : (s.setPort n x).engine e2 = s.engine e2 := rfl
@[simp] theorem State.setPort_hsc (s : State) (n : Nat) (x : PortSt) (k2 : Nat) : (s.setPort n x).hsc k2 = s.hsc k2 := rfl
@[simp] theorem State.setPort_tag (s : State) (n : Nat) (x : PortSt) (i2 : Nat) : (s.setPort n x).tag i2 = s.tag i2 := rfl
@[simp] theorem State.setPort_ctxState (s : State) (n : Nat) (x : PortSt) (i2 : Nat) : (s.setPort n x).ctxState i2 = s.ctxState i2 := rfl
@[simp] theorem State.setPort_portState (s : State) (n : Nat) (x : PortSt) (n2 : Nat) : (s.setPort n x).portState n2 = s.portState n2 := rfl
@[simp] theorem State.setPort_stopped (s : State) (n : Nat) (x : PortSt) : (s.setPort n x).stopped = s.stopped := rfl
@[simp] theorem State.setPort_warming (s : State) (n : Nat) (x : PortSt) : (s.setPort n x).warming = s.warming := rfl
@[simp] theorem State.setPort_expert (s : State) (n : Nat) (x : PortSt) : (s.setPort n x).expert = s.expert := rfl
@[simp] theorem State.setPort_chip (s : State) (n : Nat) (x : PortSt) : (s.setPort n x).chip = s.chip := rfl
@[simp] theorem State.setPort_self (s : State) (n : Nat) (x : PortSt) : (s.setPort n x).self = s.self := rfl
@[simp] theorem State.setPort_isHere (s : State) (n : Nat) (x : PortSt) (n2 : Nat) : (s.setPort n x).isHere n2 = s.isHere n2 := rfl
@[simp] theorem State.setPort_locked (s : State) (n : Nat) (x : PortSt) : (s.setPort n x).locked = s.locked := rfl
@[simp] theorem State.setPort_noStart (s : State) (n : Nat) (x : PortSt) : (s.setPort n x).noStart = s.noStart := rfl
@[simp] theorem State.setPort_inSupply (s : State) (n : Nat) (x : PortSt) : (s.setPort n x).inSupply = s.inSupply := rfl
@[simp] theorem State.setPort_cqFull (s : State) (n : Nat) (x : PortSt) (i2 : Nat) : (s.setPort n x).cqFull i2 = s.cqFull i2 := rfl
@[simp] theorem State.setPort_auditWord (s : State) (n : Nat) (x : PortSt) (i2 : Nat) : (s.setPort n x).auditWord i2 = s.auditWord i2 := rfl
@[simp] theorem State.setPort_live (s : State) (n : Nat) (x : PortSt) (t2 : Nat) : (s.setPort n x).live t2 = s.live t2 := rfl
@[simp] theorem State.emit_pending (s : State) (o : Out) : (s.emit o).pending = s.pending := rfl
@[simp] theorem State.emit_time (s : State) (o : Out) : (s.emit o).time = s.time := rfl
@[simp] theorem State.emit_free (s : State) (o : Out) : (s.emit o).free = s.free := rfl
@[simp] theorem State.emit_regs (s : State) (o : Out) : (s.emit o).regs = s.regs := rfl
@[simp] theorem State.emit_halves (s : State) (o : Out) : (s.emit o).halves = s.halves := rfl
@[simp] theorem State.emit_latch (s : State) (o : Out) : (s.emit o).latch = s.latch := rfl
@[simp] theorem State.emit_staged (s : State) (o : Out) : (s.emit o).staged = s.staged := rfl
@[simp] theorem State.emit_hbm (s : State) (o : Out) : (s.emit o).hbm = s.hbm := rfl
@[simp] theorem State.emit_hbmErr (s : State) (o : Out) : (s.emit o).hbmErr = s.hbmErr := rfl
@[simp] theorem State.emit_hbmPassing (s : State) (o : Out) : (s.emit o).hbmPassing = s.hbmPassing := rfl
@[simp] theorem State.emit_cores (s : State) (o : Out) : (s.emit o).cores = s.cores := rfl
@[simp] theorem State.emit_ctxs (s : State) (o : Out) : (s.emit o).ctxs = s.ctxs := rfl
@[simp] theorem State.emit_doorbells (s : State) (o : Out) : (s.emit o).doorbells = s.doorbells := rfl
@[simp] theorem State.emit_engines (s : State) (o : Out) : (s.emit o).engines = s.engines := rfl
@[simp] theorem State.emit_hscs (s : State) (o : Out) : (s.emit o).hscs = s.hscs := rfl
@[simp] theorem State.emit_tlb (s : State) (o : Out) : (s.emit o).tlb = s.tlb := rfl
@[simp] theorem State.emit_slices (s : State) (o : Out) : (s.emit o).slices = s.slices := rfl
@[simp] theorem State.emit_nodes (s : State) (o : Out) : (s.emit o).nodes = s.nodes := rfl
@[simp] theorem State.emit_inval (s : State) (o : Out) : (s.emit o).inval = s.inval := rfl
@[simp] theorem State.emit_key (s : State) (o : Out) : (s.emit o).key = s.key := rfl
@[simp] theorem State.emit_refetch (s : State) (o : Out) : (s.emit o).refetch = s.refetch := rfl
@[simp] theorem State.emit_phaseHold (s : State) (o : Out) : (s.emit o).phaseHold = s.phaseHold := rfl
@[simp] theorem State.emit_requests (s : State) (o : Out) : (s.emit o).requests = s.requests := rfl
@[simp] theorem State.emit_nextTxn (s : State) (o : Out) : (s.emit o).nextTxn = s.nextTxn := rfl
@[simp] theorem State.emit_parked (s : State) (o : Out) : (s.emit o).parked = s.parked := rfl
@[simp] theorem State.emit_ports (s : State) (o : Out) : (s.emit o).ports = s.ports := rfl
@[simp] theorem State.emit_plan (s : State) (o : Out) : (s.emit o).plan = s.plan := rfl
@[simp] theorem State.emit_collector (s : State) (o : Out) : (s.emit o).collector = s.collector := rfl
@[simp] theorem State.emit_psn (s : State) (o : Out) : (s.emit o).psn = s.psn := rfl
@[simp] theorem State.emit_asked (s : State) (o : Out) : (s.emit o).asked = s.asked := rfl
@[simp] theorem State.emit_ethAuth (s : State) (o : Out) : (s.emit o).ethAuth = s.ethAuth := rfl
@[simp] theorem State.emit_stallAt (s : State) (o : Out) : (s.emit o).stallAt = s.stallAt := rfl
@[simp] theorem State.emit_hashBusy (s : State) (o : Out) : (s.emit o).hashBusy = s.hashBusy := rfl
@[simp] theorem State.emit_boot (s : State) (o : Out) : (s.emit o).boot = s.boot := rfl
@[simp] theorem State.emit_dumps (s : State) (o : Out) : (s.emit o).dumps = s.dumps := rfl
@[simp] theorem State.emit_mbx (s : State) (o : Out) : (s.emit o).mbx = s.mbx := rfl
@[simp] theorem State.emit_failed (s : State) (o : Out) : (s.emit o).failed = s.failed := rfl
@[simp] theorem State.emit_warmAt (s : State) (o : Out) : (s.emit o).warmAt = s.warmAt := rfl
@[simp] theorem State.emit_funcDikes (s : State) (o : Out) : (s.emit o).funcDikes = s.funcDikes := rfl
@[simp] theorem State.emit_hbAt (s : State) (o : Out) : (s.emit o).hbAt = s.hbAt := rfl
@[simp] theorem State.emit_vfEnable (s : State) (o : Out) : (s.emit o).vfEnable = s.vfEnable := rfl
@[simp] theorem State.emit_bar4 (s : State) (o : Out) : (s.emit o).bar4 = s.bar4 := rfl
@[simp] theorem State.emit_power (s : State) (o : Out) : (s.emit o).power = s.power := rfl
@[simp] theorem State.emit_supply (s : State) (o : Out) : (s.emit o).supply = s.supply := rfl
@[simp] theorem State.emit_trajectory (s : State) (o : Out) : (s.emit o).trajectory = s.trajectory := rfl
@[simp] theorem State.emit_fields (s : State) (o : Out) : (s.emit o).fields = s.fields := rfl
@[simp] theorem State.emit_holdAt (s : State) (o : Out) : (s.emit o).holdAt = s.holdAt := rfl
@[simp] theorem State.emit_healthAt (s : State) (o : Out) : (s.emit o).healthAt = s.healthAt := rfl
@[simp] theorem State.emit_unlocked (s : State) (o : Out) : (s.emit o).unlocked = s.unlocked := rfl
@[simp] theorem State.emit_slew (s : State) (o : Out) : (s.emit o).slew = s.slew := rfl
@[simp] theorem State.emit_holdNs (s : State) (o : Out) : (s.emit o).holdNs = s.holdNs := rfl
@[simp] theorem State.emit_stepDue (s : State) (o : Out) : (s.emit o).stepDue = s.stepDue := rfl
@[simp] theorem State.emit_otherMa (s : State) (o : Out) : (s.emit o).otherMa = s.otherMa := rfl
@[simp] theorem State.emit_bleeder (s : State) (o : Out) : (s.emit o).bleeder = s.bleeder := rfl
@[simp] theorem State.emit_heldDraw (s : State) (o : Out) : (s.emit o).heldDraw = s.heldDraw := rfl
@[simp] theorem State.emit_ticks (s : State) (o : Out) : (s.emit o).ticks = s.ticks := rfl
@[simp] theorem State.emit_diag (s : State) (o : Out) : (s.emit o).diag = s.diag := rfl
@[simp] theorem State.emit_spdm (s : State) (o : Out) : (s.emit o).spdm = s.spdm := rfl
@[simp] theorem State.emit_ide (s : State) (o : Out) : (s.emit o).ide = s.ide := rfl
@[simp] theorem State.emit_events (s : State) (o : Out) : (s.emit o).events = s.events := rfl
@[simp] theorem State.emit_reg (s : State) (o : Out) (r2 : Reg) (i2 : Nat) : (s.emit o).reg r2 i2 = s.reg r2 i2 := rfl
@[simp] theorem State.emit_getF (s : State) (o : Out) (f2 : Fld) (i2 : Nat) : (s.emit o).getF f2 i2 = s.getF f2 i2 := rfl
@[simp] theorem State.emit_flag (s : State) (o : Out) (f2 : Fld) (i2 : Nat) : (s.emit o).flag f2 i2 = s.flag f2 i2 := rfl
@[simp] theorem State.emit_core (s : State) (o : Out) (c2 : Nat) : (s.emit o).core c2 = s.core c2 := rfl
@[simp] theorem State.emit_ctx (s : State) (o : Out) (i2 : Nat) : (s.emit o).ctx i2 = s.ctx i2 := rfl
@[simp] theorem State.emit_engine (s : State) (o : Out) (e2 : Nat) : (s.emit o).engine e2 = s.engine e2 := rfl
@[simp] theorem State.emit_hsc (s : State) (o : Out) (k2 : Nat) : (s.emit o).hsc k2 = s.hsc k2 := rfl
@[simp] theorem State.emit_port (s : State) (o : Out) (n2 : Nat) : (s.emit o).port n2 = s.port n2 := rfl
@[simp] theorem State.emit_tag (s : State) (o : Out) (i2 : Nat) : (s.emit o).tag i2 = s.tag i2 := rfl
@[simp] theorem State.emit_ctxState (s : State) (o : Out) (i2 : Nat) : (s.emit o).ctxState i2 = s.ctxState i2 := rfl
@[simp] theorem State.emit_portState (s : State) (o : Out) (n2 : Nat) : (s.emit o).portState n2 = s.portState n2 := rfl
@[simp] theorem State.emit_stopped (s : State) (o : Out) : (s.emit o).stopped = s.stopped := rfl
@[simp] theorem State.emit_warming (s : State) (o : Out) : (s.emit o).warming = s.warming := rfl
@[simp] theorem State.emit_expert (s : State) (o : Out) : (s.emit o).expert = s.expert := rfl
@[simp] theorem State.emit_chip (s : State) (o : Out) : (s.emit o).chip = s.chip := rfl
@[simp] theorem State.emit_self (s : State) (o : Out) : (s.emit o).self = s.self := rfl
@[simp] theorem State.emit_isHere (s : State) (o : Out) (n2 : Nat) : (s.emit o).isHere n2 = s.isHere n2 := rfl
@[simp] theorem State.emit_locked (s : State) (o : Out) : (s.emit o).locked = s.locked := rfl
@[simp] theorem State.emit_noStart (s : State) (o : Out) : (s.emit o).noStart = s.noStart := rfl
@[simp] theorem State.emit_inSupply (s : State) (o : Out) : (s.emit o).inSupply = s.inSupply := rfl
@[simp] theorem State.emit_cqFull (s : State) (o : Out) (i2 : Nat) : (s.emit o).cqFull i2 = s.cqFull i2 := rfl
@[simp] theorem State.emit_auditWord (s : State) (o : Out) (i2 : Nat) : (s.emit o).auditWord i2 = s.auditWord i2 := rfl
@[simp] theorem State.emit_live (s : State) (o : Out) (t2 : Nat) : (s.emit o).live t2 = s.live t2 := rfl
@[simp] theorem State.log_pending (s : State) (code source tag : Nat) (st : Status) (sev : Nat) (arg : Bytes) : (s.log code source tag st sev arg).pending = s.pending := by obtain ⟨e, h⟩ := s.log_rest code source tag st sev arg; rw [h]
@[simp] theorem State.log_time (s : State) (code source tag : Nat) (st : Status) (sev : Nat) (arg : Bytes) : (s.log code source tag st sev arg).time = s.time := by obtain ⟨e, h⟩ := s.log_rest code source tag st sev arg; rw [h]
@[simp] theorem State.log_free (s : State) (code source tag : Nat) (st : Status) (sev : Nat) (arg : Bytes) : (s.log code source tag st sev arg).free = s.free := by obtain ⟨e, h⟩ := s.log_rest code source tag st sev arg; rw [h]
@[simp] theorem State.log_regs (s : State) (code source tag : Nat) (st : Status) (sev : Nat) (arg : Bytes) : (s.log code source tag st sev arg).regs = s.regs := by obtain ⟨e, h⟩ := s.log_rest code source tag st sev arg; rw [h]
@[simp] theorem State.log_halves (s : State) (code source tag : Nat) (st : Status) (sev : Nat) (arg : Bytes) : (s.log code source tag st sev arg).halves = s.halves := by obtain ⟨e, h⟩ := s.log_rest code source tag st sev arg; rw [h]
@[simp] theorem State.log_latch (s : State) (code source tag : Nat) (st : Status) (sev : Nat) (arg : Bytes) : (s.log code source tag st sev arg).latch = s.latch := by obtain ⟨e, h⟩ := s.log_rest code source tag st sev arg; rw [h]
@[simp] theorem State.log_staged (s : State) (code source tag : Nat) (st : Status) (sev : Nat) (arg : Bytes) : (s.log code source tag st sev arg).staged = s.staged := by obtain ⟨e, h⟩ := s.log_rest code source tag st sev arg; rw [h]
@[simp] theorem State.log_hbm (s : State) (code source tag : Nat) (st : Status) (sev : Nat) (arg : Bytes) : (s.log code source tag st sev arg).hbm = s.hbm := by obtain ⟨e, h⟩ := s.log_rest code source tag st sev arg; rw [h]
@[simp] theorem State.log_hbmErr (s : State) (code source tag : Nat) (st : Status) (sev : Nat) (arg : Bytes) : (s.log code source tag st sev arg).hbmErr = s.hbmErr := by obtain ⟨e, h⟩ := s.log_rest code source tag st sev arg; rw [h]
@[simp] theorem State.log_hbmPassing (s : State) (code source tag : Nat) (st : Status) (sev : Nat) (arg : Bytes) : (s.log code source tag st sev arg).hbmPassing = s.hbmPassing := by obtain ⟨e, h⟩ := s.log_rest code source tag st sev arg; rw [h]
@[simp] theorem State.log_cores (s : State) (code source tag : Nat) (st : Status) (sev : Nat) (arg : Bytes) : (s.log code source tag st sev arg).cores = s.cores := by obtain ⟨e, h⟩ := s.log_rest code source tag st sev arg; rw [h]
@[simp] theorem State.log_ctxs (s : State) (code source tag : Nat) (st : Status) (sev : Nat) (arg : Bytes) : (s.log code source tag st sev arg).ctxs = s.ctxs := by obtain ⟨e, h⟩ := s.log_rest code source tag st sev arg; rw [h]
@[simp] theorem State.log_doorbells (s : State) (code source tag : Nat) (st : Status) (sev : Nat) (arg : Bytes) : (s.log code source tag st sev arg).doorbells = s.doorbells := by obtain ⟨e, h⟩ := s.log_rest code source tag st sev arg; rw [h]
@[simp] theorem State.log_engines (s : State) (code source tag : Nat) (st : Status) (sev : Nat) (arg : Bytes) : (s.log code source tag st sev arg).engines = s.engines := by obtain ⟨e, h⟩ := s.log_rest code source tag st sev arg; rw [h]
@[simp] theorem State.log_hscs (s : State) (code source tag : Nat) (st : Status) (sev : Nat) (arg : Bytes) : (s.log code source tag st sev arg).hscs = s.hscs := by obtain ⟨e, h⟩ := s.log_rest code source tag st sev arg; rw [h]
@[simp] theorem State.log_tlb (s : State) (code source tag : Nat) (st : Status) (sev : Nat) (arg : Bytes) : (s.log code source tag st sev arg).tlb = s.tlb := by obtain ⟨e, h⟩ := s.log_rest code source tag st sev arg; rw [h]
@[simp] theorem State.log_slices (s : State) (code source tag : Nat) (st : Status) (sev : Nat) (arg : Bytes) : (s.log code source tag st sev arg).slices = s.slices := by obtain ⟨e, h⟩ := s.log_rest code source tag st sev arg; rw [h]
@[simp] theorem State.log_nodes (s : State) (code source tag : Nat) (st : Status) (sev : Nat) (arg : Bytes) : (s.log code source tag st sev arg).nodes = s.nodes := by obtain ⟨e, h⟩ := s.log_rest code source tag st sev arg; rw [h]
@[simp] theorem State.log_inval (s : State) (code source tag : Nat) (st : Status) (sev : Nat) (arg : Bytes) : (s.log code source tag st sev arg).inval = s.inval := by obtain ⟨e, h⟩ := s.log_rest code source tag st sev arg; rw [h]
@[simp] theorem State.log_key (s : State) (code source tag : Nat) (st : Status) (sev : Nat) (arg : Bytes) : (s.log code source tag st sev arg).key = s.key := by obtain ⟨e, h⟩ := s.log_rest code source tag st sev arg; rw [h]
@[simp] theorem State.log_refetch (s : State) (code source tag : Nat) (st : Status) (sev : Nat) (arg : Bytes) : (s.log code source tag st sev arg).refetch = s.refetch := by obtain ⟨e, h⟩ := s.log_rest code source tag st sev arg; rw [h]
@[simp] theorem State.log_phaseHold (s : State) (code source tag : Nat) (st : Status) (sev : Nat) (arg : Bytes) : (s.log code source tag st sev arg).phaseHold = s.phaseHold := by obtain ⟨e, h⟩ := s.log_rest code source tag st sev arg; rw [h]
@[simp] theorem State.log_requests (s : State) (code source tag : Nat) (st : Status) (sev : Nat) (arg : Bytes) : (s.log code source tag st sev arg).requests = s.requests := by obtain ⟨e, h⟩ := s.log_rest code source tag st sev arg; rw [h]
@[simp] theorem State.log_nextTxn (s : State) (code source tag : Nat) (st : Status) (sev : Nat) (arg : Bytes) : (s.log code source tag st sev arg).nextTxn = s.nextTxn := by obtain ⟨e, h⟩ := s.log_rest code source tag st sev arg; rw [h]
@[simp] theorem State.log_parked (s : State) (code source tag : Nat) (st : Status) (sev : Nat) (arg : Bytes) : (s.log code source tag st sev arg).parked = s.parked := by obtain ⟨e, h⟩ := s.log_rest code source tag st sev arg; rw [h]
@[simp] theorem State.log_ports (s : State) (code source tag : Nat) (st : Status) (sev : Nat) (arg : Bytes) : (s.log code source tag st sev arg).ports = s.ports := by obtain ⟨e, h⟩ := s.log_rest code source tag st sev arg; rw [h]
@[simp] theorem State.log_plan (s : State) (code source tag : Nat) (st : Status) (sev : Nat) (arg : Bytes) : (s.log code source tag st sev arg).plan = s.plan := by obtain ⟨e, h⟩ := s.log_rest code source tag st sev arg; rw [h]
@[simp] theorem State.log_collector (s : State) (code source tag : Nat) (st : Status) (sev : Nat) (arg : Bytes) : (s.log code source tag st sev arg).collector = s.collector := by obtain ⟨e, h⟩ := s.log_rest code source tag st sev arg; rw [h]
@[simp] theorem State.log_psn (s : State) (code source tag : Nat) (st : Status) (sev : Nat) (arg : Bytes) : (s.log code source tag st sev arg).psn = s.psn := by obtain ⟨e, h⟩ := s.log_rest code source tag st sev arg; rw [h]
@[simp] theorem State.log_asked (s : State) (code source tag : Nat) (st : Status) (sev : Nat) (arg : Bytes) : (s.log code source tag st sev arg).asked = s.asked := by obtain ⟨e, h⟩ := s.log_rest code source tag st sev arg; rw [h]
@[simp] theorem State.log_ethAuth (s : State) (code source tag : Nat) (st : Status) (sev : Nat) (arg : Bytes) : (s.log code source tag st sev arg).ethAuth = s.ethAuth := by obtain ⟨e, h⟩ := s.log_rest code source tag st sev arg; rw [h]
@[simp] theorem State.log_stallAt (s : State) (code source tag : Nat) (st : Status) (sev : Nat) (arg : Bytes) : (s.log code source tag st sev arg).stallAt = s.stallAt := by obtain ⟨e, h⟩ := s.log_rest code source tag st sev arg; rw [h]
@[simp] theorem State.log_hashBusy (s : State) (code source tag : Nat) (st : Status) (sev : Nat) (arg : Bytes) : (s.log code source tag st sev arg).hashBusy = s.hashBusy := by obtain ⟨e, h⟩ := s.log_rest code source tag st sev arg; rw [h]
@[simp] theorem State.log_boot (s : State) (code source tag : Nat) (st : Status) (sev : Nat) (arg : Bytes) : (s.log code source tag st sev arg).boot = s.boot := by obtain ⟨e, h⟩ := s.log_rest code source tag st sev arg; rw [h]
@[simp] theorem State.log_dumps (s : State) (code source tag : Nat) (st : Status) (sev : Nat) (arg : Bytes) : (s.log code source tag st sev arg).dumps = s.dumps := by obtain ⟨e, h⟩ := s.log_rest code source tag st sev arg; rw [h]
@[simp] theorem State.log_mbx (s : State) (code source tag : Nat) (st : Status) (sev : Nat) (arg : Bytes) : (s.log code source tag st sev arg).mbx = s.mbx := by obtain ⟨e, h⟩ := s.log_rest code source tag st sev arg; rw [h]
@[simp] theorem State.log_failed (s : State) (code source tag : Nat) (st : Status) (sev : Nat) (arg : Bytes) : (s.log code source tag st sev arg).failed = s.failed := by obtain ⟨e, h⟩ := s.log_rest code source tag st sev arg; rw [h]
@[simp] theorem State.log_warmAt (s : State) (code source tag : Nat) (st : Status) (sev : Nat) (arg : Bytes) : (s.log code source tag st sev arg).warmAt = s.warmAt := by obtain ⟨e, h⟩ := s.log_rest code source tag st sev arg; rw [h]
@[simp] theorem State.log_funcDikes (s : State) (code source tag : Nat) (st : Status) (sev : Nat) (arg : Bytes) : (s.log code source tag st sev arg).funcDikes = s.funcDikes := by obtain ⟨e, h⟩ := s.log_rest code source tag st sev arg; rw [h]
@[simp] theorem State.log_hbAt (s : State) (code source tag : Nat) (st : Status) (sev : Nat) (arg : Bytes) : (s.log code source tag st sev arg).hbAt = s.hbAt := by obtain ⟨e, h⟩ := s.log_rest code source tag st sev arg; rw [h]
@[simp] theorem State.log_vfEnable (s : State) (code source tag : Nat) (st : Status) (sev : Nat) (arg : Bytes) : (s.log code source tag st sev arg).vfEnable = s.vfEnable := by obtain ⟨e, h⟩ := s.log_rest code source tag st sev arg; rw [h]
@[simp] theorem State.log_bar4 (s : State) (code source tag : Nat) (st : Status) (sev : Nat) (arg : Bytes) : (s.log code source tag st sev arg).bar4 = s.bar4 := by obtain ⟨e, h⟩ := s.log_rest code source tag st sev arg; rw [h]
@[simp] theorem State.log_power (s : State) (code source tag : Nat) (st : Status) (sev : Nat) (arg : Bytes) : (s.log code source tag st sev arg).power = s.power := by obtain ⟨e, h⟩ := s.log_rest code source tag st sev arg; rw [h]
@[simp] theorem State.log_supply (s : State) (code source tag : Nat) (st : Status) (sev : Nat) (arg : Bytes) : (s.log code source tag st sev arg).supply = s.supply := by obtain ⟨e, h⟩ := s.log_rest code source tag st sev arg; rw [h]
@[simp] theorem State.log_trajectory (s : State) (code source tag : Nat) (st : Status) (sev : Nat) (arg : Bytes) : (s.log code source tag st sev arg).trajectory = s.trajectory := by obtain ⟨e, h⟩ := s.log_rest code source tag st sev arg; rw [h]
@[simp] theorem State.log_fields (s : State) (code source tag : Nat) (st : Status) (sev : Nat) (arg : Bytes) : (s.log code source tag st sev arg).fields = s.fields := by obtain ⟨e, h⟩ := s.log_rest code source tag st sev arg; rw [h]
@[simp] theorem State.log_holdAt (s : State) (code source tag : Nat) (st : Status) (sev : Nat) (arg : Bytes) : (s.log code source tag st sev arg).holdAt = s.holdAt := by obtain ⟨e, h⟩ := s.log_rest code source tag st sev arg; rw [h]
@[simp] theorem State.log_healthAt (s : State) (code source tag : Nat) (st : Status) (sev : Nat) (arg : Bytes) : (s.log code source tag st sev arg).healthAt = s.healthAt := by obtain ⟨e, h⟩ := s.log_rest code source tag st sev arg; rw [h]
@[simp] theorem State.log_unlocked (s : State) (code source tag : Nat) (st : Status) (sev : Nat) (arg : Bytes) : (s.log code source tag st sev arg).unlocked = s.unlocked := by obtain ⟨e, h⟩ := s.log_rest code source tag st sev arg; rw [h]
@[simp] theorem State.log_slew (s : State) (code source tag : Nat) (st : Status) (sev : Nat) (arg : Bytes) : (s.log code source tag st sev arg).slew = s.slew := by obtain ⟨e, h⟩ := s.log_rest code source tag st sev arg; rw [h]
@[simp] theorem State.log_holdNs (s : State) (code source tag : Nat) (st : Status) (sev : Nat) (arg : Bytes) : (s.log code source tag st sev arg).holdNs = s.holdNs := by obtain ⟨e, h⟩ := s.log_rest code source tag st sev arg; rw [h]
@[simp] theorem State.log_stepDue (s : State) (code source tag : Nat) (st : Status) (sev : Nat) (arg : Bytes) : (s.log code source tag st sev arg).stepDue = s.stepDue := by obtain ⟨e, h⟩ := s.log_rest code source tag st sev arg; rw [h]
@[simp] theorem State.log_otherMa (s : State) (code source tag : Nat) (st : Status) (sev : Nat) (arg : Bytes) : (s.log code source tag st sev arg).otherMa = s.otherMa := by obtain ⟨e, h⟩ := s.log_rest code source tag st sev arg; rw [h]
@[simp] theorem State.log_bleeder (s : State) (code source tag : Nat) (st : Status) (sev : Nat) (arg : Bytes) : (s.log code source tag st sev arg).bleeder = s.bleeder := by obtain ⟨e, h⟩ := s.log_rest code source tag st sev arg; rw [h]
@[simp] theorem State.log_heldDraw (s : State) (code source tag : Nat) (st : Status) (sev : Nat) (arg : Bytes) : (s.log code source tag st sev arg).heldDraw = s.heldDraw := by obtain ⟨e, h⟩ := s.log_rest code source tag st sev arg; rw [h]
@[simp] theorem State.log_ticks (s : State) (code source tag : Nat) (st : Status) (sev : Nat) (arg : Bytes) : (s.log code source tag st sev arg).ticks = s.ticks := by obtain ⟨e, h⟩ := s.log_rest code source tag st sev arg; rw [h]
@[simp] theorem State.log_diag (s : State) (code source tag : Nat) (st : Status) (sev : Nat) (arg : Bytes) : (s.log code source tag st sev arg).diag = s.diag := by obtain ⟨e, h⟩ := s.log_rest code source tag st sev arg; rw [h]
@[simp] theorem State.log_spdm (s : State) (code source tag : Nat) (st : Status) (sev : Nat) (arg : Bytes) : (s.log code source tag st sev arg).spdm = s.spdm := by obtain ⟨e, h⟩ := s.log_rest code source tag st sev arg; rw [h]
@[simp] theorem State.log_ide (s : State) (code source tag : Nat) (st : Status) (sev : Nat) (arg : Bytes) : (s.log code source tag st sev arg).ide = s.ide := by obtain ⟨e, h⟩ := s.log_rest code source tag st sev arg; rw [h]
@[simp] theorem State.log_out (s : State) (code source tag : Nat) (st : Status) (sev : Nat) (arg : Bytes) : (s.log code source tag st sev arg).out = s.out := by obtain ⟨e, h⟩ := s.log_rest code source tag st sev arg; rw [h]
@[simp] theorem State.log_reg (s : State) (code source tag : Nat) (st : Status) (sev : Nat) (arg : Bytes) (r2 : Reg) (i2 : Nat) : (s.log code source tag st sev arg).reg r2 i2 = s.reg r2 i2 := by obtain ⟨e, h⟩ := s.log_rest code source tag st sev arg; rw [h]; rfl
@[simp] theorem State.log_getF (s : State) (code source tag : Nat) (st : Status) (sev : Nat) (arg : Bytes) (f2 : Fld) (i2 : Nat) : (s.log code source tag st sev arg).getF f2 i2 = s.getF f2 i2 := by obtain ⟨e, h⟩ := s.log_rest code source tag st sev arg; rw [h]; rfl
@[simp] theorem State.log_flag (s : State) (code source tag : Nat) (st : Status) (sev : Nat) (arg : Bytes) (f2 : Fld) (i2 : Nat) : (s.log code source tag st sev arg).flag f2 i2 = s.flag f2 i2 := by obtain ⟨e, h⟩ := s.log_rest code source tag st sev arg; rw [h]; rfl
@[simp] theorem State.log_core (s : State) (code source tag : Nat) (st : Status) (sev : Nat) (arg : Bytes) (c2 : Nat) : (s.log code source tag st sev arg).core c2 = s.core c2 := by obtain ⟨e, h⟩ := s.log_rest code source tag st sev arg; rw [h]; rfl
@[simp] theorem State.log_ctx (s : State) (code source tag : Nat) (st : Status) (sev : Nat) (arg : Bytes) (i2 : Nat) : (s.log code source tag st sev arg).ctx i2 = s.ctx i2 := by obtain ⟨e, h⟩ := s.log_rest code source tag st sev arg; rw [h]; rfl
@[simp] theorem State.log_engine (s : State) (code source tag : Nat) (st : Status) (sev : Nat) (arg : Bytes) (e2 : Nat) : (s.log code source tag st sev arg).engine e2 = s.engine e2 := by obtain ⟨e, h⟩ := s.log_rest code source tag st sev arg; rw [h]; rfl
@[simp] theorem State.log_hsc (s : State) (code source tag : Nat) (st : Status) (sev : Nat) (arg : Bytes) (k2 : Nat) : (s.log code source tag st sev arg).hsc k2 = s.hsc k2 := by obtain ⟨e, h⟩ := s.log_rest code source tag st sev arg; rw [h]; rfl
@[simp] theorem State.log_port (s : State) (code source tag : Nat) (st : Status) (sev : Nat) (arg : Bytes) (n2 : Nat) : (s.log code source tag st sev arg).port n2 = s.port n2 := by obtain ⟨e, h⟩ := s.log_rest code source tag st sev arg; rw [h]; rfl
@[simp] theorem State.log_tag (s : State) (code source tag : Nat) (st : Status) (sev : Nat) (arg : Bytes) (i2 : Nat) : (s.log code source tag st sev arg).tag i2 = s.tag i2 := by obtain ⟨e, h⟩ := s.log_rest code source tag st sev arg; rw [h]; rfl
@[simp] theorem State.log_ctxState (s : State) (code source tag : Nat) (st : Status) (sev : Nat) (arg : Bytes) (i2 : Nat) : (s.log code source tag st sev arg).ctxState i2 = s.ctxState i2 := by obtain ⟨e, h⟩ := s.log_rest code source tag st sev arg; rw [h]; rfl
@[simp] theorem State.log_portState (s : State) (code source tag : Nat) (st : Status) (sev : Nat) (arg : Bytes) (n2 : Nat) : (s.log code source tag st sev arg).portState n2 = s.portState n2 := by obtain ⟨e, h⟩ := s.log_rest code source tag st sev arg; rw [h]; rfl
@[simp] theorem State.log_stopped (s : State) (code source tag : Nat) (st : Status) (sev : Nat) (arg : Bytes) : (s.log code source tag st sev arg).stopped = s.stopped := by obtain ⟨e, h⟩ := s.log_rest code source tag st sev arg; rw [h]; rfl
@[simp] theorem State.log_warming (s : State) (code source tag : Nat) (st : Status) (sev : Nat) (arg : Bytes) : (s.log code source tag st sev arg).warming = s.warming := by obtain ⟨e, h⟩ := s.log_rest code source tag st sev arg; rw [h]; rfl
@[simp] theorem State.log_expert (s : State) (code source tag : Nat) (st : Status) (sev : Nat) (arg : Bytes) : (s.log code source tag st sev arg).expert = s.expert := by obtain ⟨e, h⟩ := s.log_rest code source tag st sev arg; rw [h]; rfl
@[simp] theorem State.log_chip (s : State) (code source tag : Nat) (st : Status) (sev : Nat) (arg : Bytes) : (s.log code source tag st sev arg).chip = s.chip := by obtain ⟨e, h⟩ := s.log_rest code source tag st sev arg; rw [h]; rfl
@[simp] theorem State.log_self (s : State) (code source tag : Nat) (st : Status) (sev : Nat) (arg : Bytes) : (s.log code source tag st sev arg).self = s.self := by obtain ⟨e, h⟩ := s.log_rest code source tag st sev arg; rw [h]; rfl
@[simp] theorem State.log_isHere (s : State) (code source tag : Nat) (st : Status) (sev : Nat) (arg : Bytes) (n2 : Nat) : (s.log code source tag st sev arg).isHere n2 = s.isHere n2 := by obtain ⟨e, h⟩ := s.log_rest code source tag st sev arg; rw [h]; rfl
@[simp] theorem State.log_locked (s : State) (code source tag : Nat) (st : Status) (sev : Nat) (arg : Bytes) : (s.log code source tag st sev arg).locked = s.locked := by obtain ⟨e, h⟩ := s.log_rest code source tag st sev arg; rw [h]; rfl
@[simp] theorem State.log_noStart (s : State) (code source tag : Nat) (st : Status) (sev : Nat) (arg : Bytes) : (s.log code source tag st sev arg).noStart = s.noStart := by obtain ⟨e, h⟩ := s.log_rest code source tag st sev arg; rw [h]; rfl
@[simp] theorem State.log_inSupply (s : State) (code source tag : Nat) (st : Status) (sev : Nat) (arg : Bytes) : (s.log code source tag st sev arg).inSupply = s.inSupply := by obtain ⟨e, h⟩ := s.log_rest code source tag st sev arg; rw [h]; rfl
@[simp] theorem State.log_cqFull (s : State) (code source tag : Nat) (st : Status) (sev : Nat) (arg : Bytes) (i2 : Nat) : (s.log code source tag st sev arg).cqFull i2 = s.cqFull i2 := by obtain ⟨e, h⟩ := s.log_rest code source tag st sev arg; rw [h]; rfl
@[simp] theorem State.log_auditWord (s : State) (code source tag : Nat) (st : Status) (sev : Nat) (arg : Bytes) (i2 : Nat) : (s.log code source tag st sev arg).auditWord i2 = s.auditWord i2 := by obtain ⟨e, h⟩ := s.log_rest code source tag st sev arg; rw [h]; rfl
@[simp] theorem State.log_live (s : State) (code source tag : Nat) (st : Status) (sev : Nat) (arg : Bytes) (t2 : Nat) : (s.log code source tag st sev arg).live t2 = s.live t2 := by obtain ⟨e, h⟩ := s.log_rest code source tag st sev arg; rw [h]; rfl

/-! ### What an update sets -/

@[simp] theorem State.core_setCore_self (s : State) (c : Nat) (x : CoreSt) : (s.setCore c x).core c = x := Table.get_put_self ..
theorem State.core_setCore_ne (s : State) {c d : Nat} (x : CoreSt) (h : d ≠ c) : (s.setCore c x).core d = s.core d := Table.get_put_ne _ _ _ h
@[simp] theorem State.ctx_setCtx_self (s : State) (i : Nat) (x : CtxSt) : (s.setCtx i x).ctx i = x := Table.get_put_self ..
theorem State.ctx_setCtx_ne (s : State) {i j : Nat} (x : CtxSt) (h : j ≠ i) : (s.setCtx i x).ctx j = s.ctx j := Table.get_put_ne _ _ _ h
@[simp] theorem State.engine_setEngine_self (s : State) (e : Nat) (x : GeSt) : (s.setEngine e x).engine e = x := Table.get_put_self ..
theorem State.engine_setEngine_ne (s : State) {e f : Nat} (x : GeSt) (h : f ≠ e) : (s.setEngine e x).engine f = s.engine f := Table.get_put_ne _ _ _ h
@[simp] theorem State.hsc_setHsc_self (s : State) (k : Nat) (x : StackSt) : (s.setHsc k x).hsc k = x := Table.get_put_self ..
theorem State.hsc_setHsc_ne (s : State) {k j : Nat} (x : StackSt) (h : j ≠ k) : (s.setHsc k x).hsc j = s.hsc j := Table.get_put_ne _ _ _ h
@[simp] theorem State.port_setPort_self (s : State) (n : Nat) (x : PortSt) : (s.setPort n x).port n = x := Table.get_put_self ..
theorem State.port_setPort_ne (s : State) {n m : Nat} (x : PortSt) (h : m ≠ n) : (s.setPort n x).port m = s.port m := Table.get_put_ne _ _ _ h
@[simp] theorem State.emit_out (s : State) (o : Out) : (s.emit o).out = s.out ++ [o] := rfl

@[simp] theorem CoreSt.polder_setPolder_self (c : CoreSt) (h : Nat) (p : Polder) : (c.setPolder h p).polder h = p := Table.get_put_self ..
theorem CoreSt.polder_setPolder_ne (c : CoreSt) {h j : Nat} (p : Polder) (e : j ≠ h) : (c.setPolder h p).polder j = c.polder j := Table.get_put_ne _ _ _ e
@[simp] theorem CoreSt.slot_setSlot_self (c : CoreSt) (i : Nat) (x : Slot) : (c.setSlot i x).slot i = x := Table.get_put_self ..
theorem CoreSt.slot_setSlot_ne (c : CoreSt) {i j : Nat} (x : Slot) (e : j ≠ i) : (c.setSlot i x).slot j = c.slot j := Table.get_put_ne _ _ _ e
@[simp] theorem CoreSt.bar_setBar_self (c : CoreSt) (i : Nat) (x : Bar) : (c.setBar i x).bar i = x := Table.get_put_self ..
theorem CoreSt.bar_setBar_ne (c : CoreSt) {i j : Nat} (x : Bar) (e : j ≠ i) : (c.setBar i x).bar j = c.bar j := Table.get_put_ne _ _ _ e
@[simp] theorem CoreSt.strm_setStrm_self (c : CoreSt) (i : Nat) (x : Strm) : (c.setStrm i x).strm i = x := Table.get_put_self ..
theorem CoreSt.strm_setStrm_ne (c : CoreSt) {i j : Nat} (x : Strm) (e : j ≠ i) : (c.setStrm i x).strm j = c.strm j := Table.get_put_ne _ _ _ e
@[simp] theorem CoreSt.cred_setCred_self (c : CoreSt) (i : Nat) (x : Credit) : (c.setCred i x).cred i = x := Table.get_put_self ..
theorem CoreSt.cred_setCred_ne (c : CoreSt) {i j : Nat} (x : Credit) (e : j ≠ i) : (c.setCred i x).cred j = c.cred j := Table.get_put_ne _ _ _ e

/-! ### Registers and their fields -/

/-- Registers are numbered by their place in the list of all of them. -/
theorem Reg.all_num (r : Reg) : Reg.all[r.info.num]? = some r := by cases r <;> rfl

theorem Reg.num_ne {r q : Reg} (h : r ≠ q) : r.info.num ≠ q.info.num := by
  intro e
  have h1 := Reg.all_num r
  rw [e, Reg.all_num q] at h1
  exact h (Option.some.inj h1).symm

/-- Entries of different registers have different keys. -/
theorem Reg.key_ne {r q : Reg} (i j : Nat) (h : r ≠ q) : r.key i ≠ q.key j := by
  have := Reg.num_ne h
  unfold Reg.key
  omega

theorem Reg.key_ne_entry {r : Reg} {i j : Nat} (h : i ≠ j) (hi : i < 2 ^ 20) (hj : j < 2 ^ 20) : r.key i ≠ r.key j := by
  unfold Reg.key
  omega

@[simp] theorem State.reg_setReg_self (s : State) (r : Reg) (i v : Nat) : (s.setReg r i v).reg r i = v := by
  simp [State.reg, State.setReg]

theorem State.reg_setReg_key (s : State) {r q : Reg} {i j : Nat} (v : Nat) (h : q.key j ≠ r.key i) : (s.setReg r i v).reg q j = s.reg q j := by
  simp [State.reg, State.setReg, Table.find_put_ne _ _ h]

/-- A field just set holds the value, cut to its width. -/
@[simp] theorem State.getF_setF_self (s : State) (f : Fld) (v i : Nat) : (s.setF f v i).getF f i = v % 2 ^ (f.hi + 1 - f.lo) := by
  simp [State.getF, State.setF, bits_setBits_self]

theorem State.reg_setReg_ne (s : State) {r q : Reg} (i j v : Nat) (h : q ≠ r) : (s.setReg r i v).reg q j = s.reg q j :=
  s.reg_setReg_key v (Reg.key_ne j i h)

/-- Setting a field leaves the other registers as they were. -/
theorem State.reg_setF_ne (s : State) (f : Fld) {q : Reg} (v i j : Nat) (h : q ≠ f.reg) : (s.setF f v i).reg q j = s.reg q j := s.reg_setReg_ne i j _ h

theorem State.reg_bump_ne (s : State) (f : Fld) {q : Reg} (i n j : Nat) (h : q ≠ f.reg) : (s.bump f i n).reg q j = s.reg q j := s.reg_setF_ne f _ i j h

/-- Setting a field leaves the fields of other registers as they were. -/
theorem State.getF_setF_reg (s : State) {f g : Fld} (v i j : Nat) (h : g.reg ≠ f.reg) : (s.setF f v i).getF g j = s.getF g j := by
  simp [State.getF, s.reg_setF_ne f v i j h]

/-- Setting a field leaves the other entries of its register as they were. -/
theorem State.getF_setF_entry (s : State) {f g : Fld} (v : Nat) {i j : Nat} (hij : j ≠ i) (hi : i < 2 ^ 20) (hj : j < 2 ^ 20) :
    (s.setF f v i).getF g j = s.getF g j := by
  by_cases h : g.reg = f.reg
  · simp [State.getF, State.setF, h, State.reg_setReg_key _ _ (Reg.key_ne_entry hij hj hi)]
  · exact s.getF_setF_reg v i j h

/-- Setting a field leaves a field of its register that shares no bit with it as it was. -/
theorem State.getF_setF_bits (s : State) {f g : Fld} (v i j : Nat) (hw : f.lo ≤ f.hi) (hd : g.hi < f.lo ∨ f.hi < g.lo) :
    (s.setF f v i).getF g j = s.getF g j := by
  by_cases h : g.reg = f.reg
  · by_cases k : f.reg.key j = f.reg.key i
    · simp [State.getF, State.setF, State.setReg, State.reg, h, k, bits_setBits_other _ _ hw hd]
    · simp [State.getF, State.setF, h, State.reg_setReg_key _ _ k]
  · exact s.getF_setF_reg v i j h

/-- A field that the setting of another does not touch: another register, another entry, or other bits. -/
theorem State.getF_setF_other (s : State) {f g : Fld} (v : Nat) {i j : Nat}
    (h : g.reg ≠ f.reg ∨ (j ≠ i ∧ i < 2 ^ 20 ∧ j < 2 ^ 20) ∨ (f.lo ≤ f.hi ∧ (g.hi < f.lo ∨ f.hi < g.lo))) : (s.setF f v i).getF g j = s.getF g j := by
  rcases h with h | h | h
  · exact s.getF_setF_reg v i j h
  · exact s.getF_setF_entry v h.1 h.2.1 h.2.2
  · exact s.getF_setF_bits v i j h.1 h.2

/-- A count goes up by `n`, cut to its width, or stops at its top where its table says so. -/
theorem State.getF_bump_self (s : State) (f : Fld) (i n : Nat) :
    (s.bump f i n).getF f i = (if f.sat then min (s.getF f i + n) (2 ^ (f.hi + 1 - f.lo) - 1) else s.getF f i + n) % 2 ^ (f.hi + 1 - f.lo) := by
  simp [State.bump]

theorem State.getF_bump_other (s : State) {f g : Fld} {i j : Nat} (n : Nat)
    (h : g.reg ≠ f.reg ∨ (j ≠ i ∧ i < 2 ^ 20 ∧ j < 2 ^ 20) ∨ (f.lo ≤ f.hi ∧ (g.hi < f.lo ∨ f.hi < g.lo))) : (s.bump f i n).getF g j = s.getF g j :=
  s.getF_setF_other _ h

end Sys2Proof.Machine
end

