-- ==== Sys2Proof/Laws/Ops.lean ====
section
/-! SUPPORT. What the shared operations may change: events, gauge records, completions, messages, the fault of a context. -/

namespace Sys2Proof.Machine

/-- Registers that reporting, completing and sending may write: completion and record tails, counts of the checks unit, of links and of the topology, the
state of a switch that ends. -/
def talkRegs : List Reg := [.hiuCtxState, .hiuCtxAudit, .ckuTransient, .ckuLasting, .ckuSuspect, .ckuAuditStall, .lnkDrop, .topoUnreach, .topoEdgeDrop, .tideCtx]

/-- Those, and the state a faulting context shows. -/
def faultRegs : List Reg := .cxsCtxState :: talkRegs

/-- What reporting, completing and sending may change: the registers of a list, contexts, port queues, gauge records, events, interfaces, the READs of a
load that ends and their packet numbers, the count of free values. What was on an interface stays, and no completion that is held is lost. -/
structure State.Talk (rs : List Reg) (s t : State) : Prop where
  rest : t = { s with
    free := t.free, regs := t.regs, ctxs := t.ctxs, ports := t.ports, collector := t.collector, psn := t.psn, asked := t.asked, stallAt := t.stallAt, events := t.events,
    out := t.out }
  regs : ∀ q, q ∉ rs → ∀ j, t.reg q j = s.reg q j
  out : ∃ l, t.out = s.out ++ l
  held : ∀ i x, x ∈ (s.ctx i).heldCpl → x ∈ (t.ctx i).heldCpl

variable {rs : List Reg}

theorem State.Talk.refl (s : State) : s.Talk rs s := ⟨rfl, fun _ _ _ => rfl, ⟨[], by simp⟩, fun _ _ h => h⟩

theorem State.Talk.trans {s t u : State} (h : s.Talk rs t) (k : t.Talk rs u) : s.Talk rs u := by
  refine ⟨?_, fun q hq j => by rw [k.regs q hq, h.regs q hq], ?_, fun i x hx => k.held i x (h.held i x hx)⟩
  · have a := k.rest
    rw [h.rest] at a
    exact a
  · obtain ⟨l, hl⟩ := h.out
    obtain ⟨m, hm⟩ := k.out
    exact ⟨l ++ m, by rw [hm, hl, List.append_assoc]⟩

theorem State.Talk.more {s t : State} (h : s.Talk rs t) {rs' : List Reg} (k : rs ⊆ rs') : s.Talk rs' t :=
  ⟨h.rest, fun q hq j => h.regs q (fun x => hq (k x)) j, h.out, h.held⟩

theorem State.Talk.faulting {s t : State} (h : s.Talk talkRegs t) : s.Talk faultRegs t := h.more (List.subset_cons_self _ _)

theorem State.Talk.core {s t : State} (h : s.Talk rs t) (c : Nat) : t.core c = s.core c := by rw [h.rest]; rfl
theorem State.Talk.pending {s t : State} (h : s.Talk rs t) : t.pending = s.pending := by rw [h.rest]
theorem State.Talk.memWf {s t : State} (h : s.Talk rs t) : t.memWf = s.memWf := by rw [h.rest]; rfl
theorem State.Talk.time {s t : State} (h : s.Talk rs t) : t.time = s.time := by rw [h.rest]
theorem State.Talk.stopped {s t : State} (h : s.Talk rs t) : t.stopped = s.stopped := by rw [h.rest]; rfl

theorem State.Talk.getF {s t : State} (h : s.Talk rs t) (f : Fld) (i : Nat) (k : f.reg ∉ rs := by decide) : t.getF f i = s.getF f i := by
  unfold State.getF; rw [h.regs _ k]

theorem State.Talk.ctxState {s t : State} (h : s.Talk talkRegs t) (i : Nat) : t.ctxState i = s.ctxState i := h.getF F.cxsCtxStateState i

theorem State.Talk.tag {s t : State} (h : s.Talk faultRegs t) (i : Nat) : t.tag i = s.tag i := by
  unfold State.tag; rw [h.getF F.hiuCtxCtlGen i]

theorem State.Talk.puts {r s t : State} {o : Out} (k : s.Talk rs t) (h : r.puts s o) : r.puts t o := by
  obtain ⟨l, e, m⟩ := h
  obtain ⟨l', e'⟩ := k.out
  exact ⟨l ++ l', by rw [e', e, List.append_assoc], List.mem_append_left _ m⟩

theorem State.Talk.puts_before {r s t : State} {o : Out} (k : r.Talk rs s) (h : s.puts t o) : r.puts t o := by
  obtain ⟨l, e, m⟩ := h
  obtain ⟨l', e'⟩ := k.out
  exact ⟨l' ++ l, by rw [e, e', List.append_assoc], List.mem_append_right _ m⟩

/-- What has completed stays completed while the block talks on. -/
theorem State.Talk.completes {r s t : State} {i : Nat} {d : Desc} {st : Status} {b : Bool} {info : Nat} (k : s.Talk rs t)
    (h : r.completes s i d st b info) : r.completes t i d st b info := by
  rcases h with ⟨a, ph, h⟩ | h
  · exact .inl ⟨a, ph, State.Talk.puts k h⟩
  · exact .inr (k.held _ _ h)

theorem State.Talk.completes_before {r s t : State} {i : Nat} {d : Desc} {st : Status} {b : Bool} {info : Nat} (k : r.Talk rs s)
    (h : s.completes t i d st b info) : r.completes t i d st b info := by
  unfold State.completes at *
  rw [k.time] at h
  rcases h with ⟨a, ph, h⟩ | h
  · exact .inl ⟨a, ph, State.Talk.puts_before k h⟩
  · exact .inr h

theorem State.Talk.setF (s : State) (f : Fld) (v i : Nat) (h : f.reg ∈ rs := by decide) : s.Talk rs (s.setF f v i) :=
  ⟨rfl, fun _ hq j => s.reg_setF_ne f v i j (fun e => hq (e ▸ h)), ⟨[], by simp⟩, fun _ _ h => h⟩
theorem State.Talk.bump (s : State) (f : Fld) (i n : Nat) (h : f.reg ∈ rs := by decide) : s.Talk rs (s.bump f i n) := .setF _ _ _ _ h
theorem State.Talk.emit (s : State) (o : Out) : s.Talk rs (s.emit o) := ⟨rfl, fun _ _ _ => rfl, ⟨[o], rfl⟩, fun _ _ h => h⟩
theorem State.Talk.log (s : State) (code source tag : Nat) (st : Status) (sev : Nat) (arg : Bytes) :
    s.Talk rs (s.log code source tag st sev arg) := by
  obtain ⟨e, he⟩ := s.log_rest code source tag st sev arg
  rw [he]
  exact ⟨rfl, fun _ _ _ => rfl, ⟨[], by simp⟩, fun _ _ h => h⟩
theorem State.Talk.draw (s : State) : s.Talk rs s.draw.2 := ⟨rfl, fun _ _ _ => rfl, ⟨[], by simp [State.draw]⟩, fun _ _ h => h⟩
theorem State.Talk.setPort (s : State) (n : Nat) (x : PortSt) : s.Talk rs (s.setPort n x) := ⟨rfl, fun _ _ _ => rfl, ⟨[], by simp⟩, fun _ _ h => h⟩
theorem State.Talk.collect (s : State) (l : List Record) : s.Talk rs { s with collector := l } :=
  ⟨rfl, fun _ _ _ => rfl, ⟨[], by simp⟩, fun _ _ h => h⟩

theorem State.Talk.ask (s : State) (l : List Asked) : s.Talk rs { s with asked := l } :=
  ⟨rfl, fun _ _ _ => rfl, ⟨[], by simp⟩, fun _ _ h => h⟩

theorem State.Talk.setCtx (s : State) (i : Nat) (x : CtxSt) (h : ∀ b ∈ (s.ctx i).heldCpl, b ∈ x.heldCpl) : s.Talk rs (s.setCtx i x) := by
  refine ⟨rfl, fun _ _ _ => rfl, ⟨[], by simp⟩, fun j b hb => ?_⟩
  by_cases e : j = i
  · subst e; rw [State.ctx_setCtx_self]; exact h b hb
  · rw [State.ctx_setCtx_ne _ _ e]; exact hb

/-- A change of a context that leaves its held completions. -/
theorem State.Talk.setCtx_same (s : State) (i : Nat) (x : CtxSt) (h : x.heldCpl = (s.ctx i).heldCpl := by rfl) : s.Talk rs (s.setCtx i x) :=
  .setCtx s i x (fun _ hb => h ▸ hb)

theorem State.Talk.then_setF {r s : State} (h : r.Talk rs s) (f : Fld) (v i : Nat) (m : f.reg ∈ rs := by decide) : r.Talk rs (s.setF f v i) :=
  h.trans (.setF _ _ _ _ m)
theorem State.Talk.then_bump {r s : State} (h : r.Talk rs s) (f : Fld) (i n : Nat) (m : f.reg ∈ rs := by decide) : r.Talk rs (s.bump f i n) :=
  h.trans (.bump _ _ _ _ m)
theorem State.Talk.then_emit {r s : State} (h : r.Talk rs s) (o : Out) : r.Talk rs (s.emit o) := h.trans (.emit ..)
theorem State.Talk.then_log {r s : State} (h : r.Talk rs s) (code source tag : Nat) (st : Status) (sev : Nat) (arg : Bytes) :
    r.Talk rs (s.log code source tag st sev arg) := h.trans (.log ..)
theorem State.Talk.then_setPort {r s : State} (h : r.Talk rs s) (n : Nat) (x : PortSt) : r.Talk rs (s.setPort n x) := h.trans (.setPort ..)
theorem State.Talk.then_setCtx {r s : State} (h : r.Talk rs s) (i : Nat) (x : CtxSt) (e : x.heldCpl = (s.ctx i).heldCpl := by rfl) :
    r.Talk rs (s.setCtx i x) := h.trans (.setCtx_same _ _ _ e)

theorem State.Talk.foldl {α : Type} {f : State → α → State} (hf : ∀ s a, State.Talk rs s (f s a)) :
    ∀ (l : List α) (s : State), State.Talk rs s (l.foldl f s)
  | [], s => .refl s
  | a :: l, s => (hf s a).trans (State.Talk.foldl hf l (f s a))

/-! ### Completions -/

/-- Writing a completion puts its entry on the host interface, moves the tail, and may raise the vector. -/
theorem State.writeCompletion_talk (s : State) (i : Nat) (bs : Bytes) : s.Talk talkRegs (s.writeCompletion i bs) := by
  unfold State.writeCompletion
  dsimp only
  generalize hx : s.emit _ = x
  have hx : s.Talk talkRegs x := hx ▸ .emit _ _
  split_ifs
  · exact (hx.then_setF ..).then_setCtx _ _
  · exact ((hx.then_setF ..).then_setCtx _ _).then_emit _
  · exact hx.then_setF ..
  · exact (hx.then_setF ..).then_emit _

theorem State.writeCompletion_puts (s : State) (i : Nat) (bs : Bytes) :
    s.puts (s.writeCompletion i bs) (.hostWrite (s.getF F.hiuCqBaseCqBase i + 32 * s.getF F.hiuCtxStateCqTail i)
      (bs.modify 6 (fun b => b ||| BitVec.ofNat 8 (b2n (s.ctx i).phase)))) := by
  unfold State.puts State.writeCompletion
  dsimp only
  split_ifs <;> simp [State.emit]

/-- An entry that is put is written or held, and talks. -/
theorem State.putCompletion_talk (s : State) (i : Nat) (bs : Bytes) : s.Talk talkRegs (s.putCompletion i bs) := by
  unfold State.putCompletion
  dsimp only
  split
  · exact .setCtx _ _ _ (fun x hx => List.mem_append_left _ hx)
  · exact s.writeCompletion_talk _ _

/-- A covered descriptor's status goes into its context's window alone. -/
theorem State.covered_talk (s : State) (i : Nat) (d : Desc) (st : Status) : s.Talk rs (s.covered i d st) := by
  unfold State.covered
  dsimp only
  split
  · exact .refl s
  · exact .setCtx_same _ _ _

/-- Completing a descriptor completes it, and talks. -/
theorem State.complete_talk (s : State) (i : Nat) (d : Desc) (st : Status) (b : Bool) (info : Nat) : s.Talk talkRegs (s.complete i d st b info) :=
  (s.putCompletion_talk ..).trans (State.covered_talk ..)

theorem State.complete_completes (s : State) (i : Nat) (d : Desc) (st : Status) (b : Bool) (info : Nat) :
    s.completes (s.complete i d st b info) i d st b info := by
  refine (State.covered_talk (rs := talkRegs) ..).completes ?_
  unfold State.putCompletion
  dsimp only
  split
  · exact .inr (by simp)
  · exact .inl ⟨_, _, s.writeCompletion_puts i _⟩

theorem State.completeAll_talk (s : State) (i : Nat) (st : Status) (ds : List Desc) : s.Talk talkRegs (s.completeAll i st ds) :=
  .foldl (fun s d => s.complete_talk i d st false 0) ds s

/-! ### Gauge events, tallies, suspects -/

theorem State.tally_talk (s : State) (i : Nat) (f : Tally → Tally) (w : Bool) : s.Talk talkRegs (s.tally i f w) := by
  unfold State.tally
  dsimp only
  split
  · exact .setCtx_same _ _ _
  · split
    · exact .refl s
    · exact .setCtx_same _ _ _

theorem State.gauge_talk (s : State) (i : Nat) (g : Gauge) (w : Bool) : s.Talk talkRegs (s.gauge i g w) := by
  unfold State.gauge
  dsimp only
  split
  · split_ifs
    · exact (State.Talk.collect s _).then_setCtx _ _
    · exact .setCtx_same _ _ _
  · split
    · exact .refl s
    · split_ifs
      · exact (State.Talk.collect s _).then_setCtx _ _
      · exact .setCtx_same _ _ _

theorem State.transient_talk (s : State) (i type source : Nat) (w : Bool) : s.Talk talkRegs (s.transient i type source w) :=
  ((s.tally_talk ..).then_bump ..).then_log ..

theorem State.lastingUnit_talk (s : State) (i : Nat) (w : Bool) : s.Talk talkRegs (s.lastingUnit i w) := (s.tally_talk ..).then_bump ..

theorem State.lastingBlock_talk (s : State) (i : Nat) (w : Bool) : s.Talk talkRegs (s.lastingBlock i w) := (s.lastingUnit_talk i w).trans (State.tally_talk ..)

theorem State.markWindows_talk (s : State) (core : Option Nat) : s.Talk rs (s.markWindows core) :=
  .foldl (fun _ _ => .setCtx_same _ _ _) _ s

theorem State.suspectCore_talk (s : State) (i core type : Nat) : s.Talk talkRegs (s.suspectCore i core type) := by
  unfold State.suspectCore
  dsimp only
  split
  · exact (((State.Talk.refl s).then_setF ..).then_log ..).trans (State.markWindows_talk ..)
  · exact ((((State.Talk.refl s).then_setF ..).then_setCtx _ _).then_log ..).trans (State.markWindows_talk ..)

theorem State.thaw_talk (s : State) : s.Talk talkRegs s.thaw := by
  unfold State.thaw
  split_ifs
  · exact (State.Talk.bump s F.ckuAuditStallCount 0 s.stallCycles).trans ⟨rfl, fun _ _ _ => rfl, ⟨[], by simp⟩, fun _ _ h => h⟩
  · exact .refl s

/-! ### Packets and messages -/

theorem State.egress_talk (s : State) (n : Nat) (p : Packet) (came : Option (Nat × Bool)) : s.Talk talkRegs (s.egress n p came).2 := by
  unfold State.egress State.enqueue
  dsimp only
  split_ifs
  · exact .setPort ..
  · exact .refl s
  · exact .bump ..
  · exact .bump ..

theorem State.launch_talk (s : State) (p : Packet) : s.Talk talkRegs (s.launch p).2 := by
  unfold State.launch
  dsimp only
  split
  · exact .bump ..
  split
  · exact s.egress_talk ..
  split
  · exact .bump ..
  split
  · exact .refl s
  · exact s.egress_talk ..

theorem State.send_talk (s : State) (dstChip dstCore type tag srcCore gen arg : Nat) (payload : Bytes) :
    s.Talk talkRegs (s.send dstChip dstCore type tag srcCore gen arg payload) := by
  unfold State.send
  dsimp only
  split
  · exact .emit ..
  · exact s.launch_talk _

/-- A message to this chip goes on the on-chip network. -/
theorem State.send_here (s : State) {dstChip : Nat} (h : s.isHere dstChip = true) (dstCore type tag srcCore gen arg : Nat) (payload : Bytes) :
    s.send dstChip dstCore type tag srcCore gen arg payload = s.emit (.culvert (s.message dstChip dstCore type tag srcCore gen arg payload)) := by
  unfold State.send
  simp [h]

theorem State.sendMembers_talk (s : State) (tag : Nat) (members : List Nat) (type arg : Nat) (payload : Bytes) :
    s.Talk talkRegs (s.sendMembers tag members type arg payload) := by
  refine .foldl (fun s m => ?_) members s
  split
  · exact .refl s
  · exact s.send_talk ..

/-! ### Ending descriptors and faulting contexts -/

theorem State.endInvoke_talk (s : State) (i : Nat) (st : Status) : s.Talk talkRegs (s.endInvoke i st) := by
  unfold State.endInvoke
  dsimp only
  split
  · exact .refl s
  · exact .setCtx_same _ _ _

theorem State.copyEarly_talk (s : State) (i : Nat) (j : Job) : s.Talk talkRegs (s.copyEarly i j) := by
  unfold State.copyEarly State.copyEvent
  split
  · exact .refl s
  · exact s.gauge_talk ..

theorem State.endSwitch_talk (s : State) (i : Nat) (st : Status) : s.Talk talkRegs (s.endSwitch i st) := by
  unfold State.endSwitch
  dsimp only
  split
  · exact .setCtx_same _ _ _
  · split_ifs
    · exact .refl s
    · exact ((State.Talk.setCtx_same s i _).then_setF F.tideCtxSwitch 4 i).trans (State.complete_talk ..)

theorem State.withdraw_talk (s : State) (i : Nat) (st : Option Status) : s.Talk talkRegs (s.withdraw i st) := by
  unfold State.withdraw
  dsimp only
  split
  · split_ifs
    · exact (State.Talk.setCtx_same s i _).trans (State.send_talk ..)
    · exact .refl s
  · split_ifs
    · exact .refl s
    · exact (s.sendMembers_talk ..).trans (State.endSwitch_talk ..)
    · split
      · exact (s.send_talk ..).trans (State.endSwitch_talk ..)
      · exact s.send_talk ..

theorem State.sendRead_talk (s : State) (a : Asked) : s.Talk rs (s.sendRead a) :=
  ⟨rfl, fun _ _ _ => rfl, ⟨[_], rfl⟩, fun _ _ h => h⟩

theorem State.pumpReads_talk (s : State) (t : Nat) : s.Talk rs (s.pumpReads t) := by
  refine .foldl (fun s a => ?_) _ s
  split_ifs
  · exact s.sendRead_talk a
  · exact .refl s

theorem State.forgetReads_talk (s : State) (j : Job) : s.Talk rs (s.forgetReads j) := by
  unfold State.forgetReads
  exact (State.Talk.ask s _).trans (.foldl (fun s t => s.pumpReads_talk t) _ _)

/-- Descriptors that end complete; the queues they leave. -/
theorem State.endOthers_talk (s : State) (i : Nat) (st inv : Status) (before : Option Nat) (run : Status := st) :
    s.Talk talkRegs (s.endOthers i st inv before run).2 := by
  unfold State.endOthers
  dsimp only
  refine State.Talk.trans ?_ (State.withdraw_talk ..)
  generalize hx : State.completeAll _ _ _ _ = x
  have hx : s.Talk talkRegs x := by
    rw [← hx]
    refine State.Talk.trans ?_ (State.completeAll_talk ..)
    refine State.Talk.trans ?_ (State.Talk.foldl (fun s j => s.forgetReads_talk j) _ _)
    refine State.Talk.trans ?_ (State.Talk.foldl (fun s j => State.complete_talk ..) _ _)
    refine State.Talk.trans ?_ (State.Talk.foldl (fun s j => s.copyEarly_talk i j) _ _)
    exact .setCtx_same _ _ _
  have e : ∀ c : Bool, s.Talk talkRegs (if c = true then x.endInvoke i inv else x) := by
    intro c
    split
    · exact hx.trans (State.endInvoke_talk ..)
    · exact hx
  exact e _

theorem State.setHalted_talk (s : State) (i : Nat) : s.Talk rs (s.setHalted i) := .setCtx_same _ _ _

theorem State.faultWith_talk (s : State) (i : Nat) (st inv : Status) (d : Nat) : s.Talk faultRegs (s.faultWith i st inv d) := by
  unfold State.faultWith
  have h := (s.endInvoke_talk i inv).faulting
  dsimp only
  split
  · generalize hx : State.log _ 0x0001 _ _ st 2 _ = x
    have k : s.Talk faultRegs x := by
      rw [← hx]
      exact (((h.then_setF F.cxsCtxStateState 2 i).then_setF F.cxsCtxStateResume 0 i).then_setF F.cxsCtxStateStatus st.code i).then_log ..
    have k2 := (k.then_setCtx i { x.ctx i with inflight := 0, faultOf := d } rfl).trans (State.endOthers_talk _ i .cancelled .cancelled none).faulting
    unfold State.setCtx at k2
    generalize (State.endOthers _ i .cancelled .cancelled none).2 = y at k2
    split
    · split
      · exact (k2.trans (State.sendMembers_talk ..).faulting).trans (State.setHalted_talk ..)
      · exact k2
    · exact k2
  split
  · split
    · exact h.then_setF ..
    · exact h
  · exact h

/-- The state that a fault shows and its status are written (R422). -/
theorem State.faulted_fields (s : State) (i : Nat) (st : Status) :
    (((s.setF F.cxsCtxStateState 2 i).setF F.cxsCtxStateResume 0 i).setF F.cxsCtxStateStatus st.code i).ctxState i = 2 ∧
      (((s.setF F.cxsCtxStateState 2 i).setF F.cxsCtxStateResume 0 i).setF F.cxsCtxStateStatus st.code i).getF F.cxsCtxStateStatus i = st.code := by
  refine ⟨?_, ?_⟩
  · show State.getF _ F.cxsCtxStateState i = 2
    rw [State.getF_setF_bits _ _ _ _ (by decide) (by decide), State.getF_setF_bits _ _ _ _ (by decide) (by decide), State.getF_setF_self]
    rfl
  · rw [State.getF_setF_self]
    cases st <;> rfl

/-- What a state shows of a context's fault is what one it talks on from shows. -/
theorem State.Talk.faulted {s t : State} {i : Nat} {st : Status} (k : s.Talk talkRegs t) (h : s.ctxState i = 2 ∧ s.getF F.cxsCtxStateStatus i = st.code) :
    t.ctxState i = 2 ∧ t.getF F.cxsCtxStateStatus i = st.code := by
  rw [k.ctxState, k.getF F.cxsCtxStateStatus]; exact h

/-- A context that is enabled and faults is faulted, with the status it faults with (R422). -/
theorem State.faultWith_state (s : State) (i : Nat) (st inv : Status) (d : Nat) (h : s.ctxState i = 1) :
    (s.faultWith i st inv d).ctxState i = 2 ∧ (s.faultWith i st inv d).getF F.cxsCtxStateStatus i = st.code := by
  unfold State.faultWith
  dsimp only
  rw [if_pos (by rw [(s.endInvoke_talk i inv).ctxState]; exact h)]
  have e1 := (s.endInvoke i inv).faulted_fields i st
  generalize State.setF _ F.cxsCtxStateStatus st.code i = w at e1
  have e2 := (State.Talk.log w 0x0001 (sourceOf 6 0) (w.tag i) st 2 (natLe 4 d)).faulted e1
  generalize State.log w 0x0001 _ _ st 2 _ = x at e2
  have e3 := ((State.Talk.setCtx_same x i { x.ctx i with inflight := 0, faultOf := d } rfl).trans (State.endOthers_talk _ i .cancelled .cancelled none)).faulted e2
  unfold State.setCtx at e3
  generalize (State.endOthers _ i .cancelled .cancelled none).2 = y at e3
  split
  · split
    · exact ((y.sendMembers_talk ..).trans (State.setHalted_talk ..)).faulted e3
    · exact e3
  · exact e3

theorem State.fault_talk (s : State) (i : Nat) (st : Status) : s.Talk faultRegs (s.fault i st) := s.faultWith_talk ..
theorem State.faultOther_talk (s : State) (i : Nat) (st : Status) (d : Nat) : s.Talk faultRegs (s.faultOther i st d) := s.faultWith_talk ..

theorem State.faultTag_talk (s : State) (tag : Nat) (st : Status) : s.Talk faultRegs (s.faultTag tag st) := by
  unfold State.faultTag
  dsimp only
  split
  · exact s.fault_talk ..
  · split_ifs
    · exact (s.endInvoke_talk ..).faulting
    · exact .refl s

theorem State.sendNamed_talk (s : State) (dstChip dstCore type tag srcCore gen arg : Nat) (payload : Bytes) :
    s.Talk faultRegs (s.sendNamed dstChip dstCore type tag srcCore gen arg payload) := by
  unfold State.sendNamed
  dsimp only
  split
  · exact (s.send_talk ..).faulting.trans (State.faultTag_talk ..)
  · exact (s.send_talk ..).faulting

end Sys2Proof.Machine
end

