-- ==== Sys2Proof/Laws/Context.lean ====
section
/-! SUPPORT. What writing records, ledgers and fetched descriptors may change. -/

namespace Sys2Proof.Machine

/-- Registers that dispatch may write: those of completing, and the count of refused expert options. -/
def dispatchRegs : List Reg := .glbExpert :: talkRegs

theorem State.Talk.dispatching {s t : State} (h : s.Talk talkRegs t) : s.Talk dispatchRegs t := h.more (List.subset_cons_self _ _)

/-! ### Records and ledgers -/

theorem State.writeRecord_talk (s : State) (i : Nat) : s.Talk talkRegs (s.writeRecord i) := by
  unfold State.writeRecord
  dsimp only
  split
  · exact .refl s
  · split_ifs
    · exact .collect s _
    · exact (((State.Talk.collect s _).then_emit _).then_setF F.hiuCtxAuditAuditTail _ _).then_setCtx _ _

theorem State.moveRecords_talk (s : State) (i n : Nat) : s.Talk talkRegs (s.moveRecords i n) :=
  (State.Talk.foldl (fun s _ => s.writeRecord_talk i) _ s).trans (State.thaw_talk _)

theorem State.writeCount_talk (s : State) (i : Nat) : s.Talk rs (s.writeCount i) := by
  unfold State.writeCount
  split_ifs
  · exact .refl s
  · exact .emit ..

theorem State.writeRecords_talk (s : State) (i n : Nat) : s.Talk talkRegs (s.writeRecords i n) := by
  unfold State.writeRecords
  split_ifs
  · exact .refl s
  · exact (s.moveRecords_talk i n).trans (State.writeCount_talk ..)

theorem State.flushRecords_talk (s : State) (i : Nat) : s.Talk talkRegs (s.flushRecords i) :=
  (s.moveRecords_talk i _).trans (State.writeCount_talk ..)

theorem State.writeLedger_talk (s : State) (addr : Nat) (body : Bytes) : s.Talk talkRegs (s.writeLedger addr body) := by
  unfold State.writeLedger
  exact (State.Talk.draw s).then_emit _

/-- A ledger's body leaves for host memory at its address, with what signs it behind it. -/
theorem State.writeLedger_puts (s : State) (addr : Nat) (body : Bytes) :
    ∃ sig, s.puts (s.writeLedger addr body) (.hostWrite addr (body ++ sig ++ zeros 19)) :=
  ⟨_, [_], rfl, List.mem_singleton.2 rfl⟩

/-! ### Dispatch -/

theorem State.askFetch_talk (s : State) (i : Nat) : s.Talk rs (s.askFetch i) := by
  unfold State.askFetch
  dsimp only
  split_ifs
  · exact .refl s
  · exact .refl s
  · exact (State.Talk.setCtx_same s i _).then_emit _

theorem State.refuseDesc_talk (s : State) (i : Nat) (d : Desc) (f : Status × Bool) : s.Talk dispatchRegs (s.refuseDesc i d f) := by
  unfold State.refuseDesc
  refine State.Talk.trans ?_ (State.complete_talk ..).dispatching
  split
  · exact .bump ..
  · exact .refl s

theorem State.route_talk (s : State) (i : Nat) (d : Desc) : s.Talk dispatchRegs (s.route i d) := by
  unfold State.route
  dsimp only
  split
  · exact .setCtx_same ..
  · split
    · exact s.refuseDesc_talk ..
    · split_ifs <;> exact .setCtx_same ..

theorem State.dispatch_talk (i : Nat) : ∀ (k : Nat) (s : State), s.Talk dispatchRegs (s.dispatch i k)
  | 0, s => .refl s
  | k + 1, s => by
    unfold State.dispatch
    dsimp only
    split
    · exact .refl s
    split
    · exact .refl s
    · exact ((State.Talk.setCtx_same s i _).trans (State.route_talk ..)).trans (State.dispatch_talk i k _)

/-- Going on dispatches and asks for more; it touches no unit and no memory. -/
theorem State.goOn_talk (s : State) (i : Nat) : s.Talk dispatchRegs (s.goOn i) := (s.dispatch_talk i 65).trans (State.askFetch_talk ..)

end Sys2Proof.Machine
end

