-- ==== Sys2Proof/Laws/Spm.lean ====
section
/-! SUPPORT. What reading the scratchpad and decoding an operation may change, and what a task's operation runs. -/

namespace Sys2Proof.Machine

/-- Two states that differ at most in the registers and in the passing errors of scratchpads. -/
structure State.ReadOf (s t : State) : Prop where
  rest : t = { s with regs := t.regs, cores := t.cores }
  core : ∀ c, t.core c = { s.core c with spmPassing := (t.core c).spmPassing }

theorem State.ReadOf.refl (s : State) : s.ReadOf s := ⟨rfl, fun _ => rfl⟩

theorem State.ReadOf.trans {s t u : State} (h : s.ReadOf t) (k : t.ReadOf u) : s.ReadOf u := by
  refine ⟨?_, fun c => ?_⟩
  · have a := k.rest
    rw [h.rest] at a
    exact a
  · rw [k.core, h.core]

theorem State.ReadOf.bump {s t : State} (h : s.ReadOf t) (f : Fld) (i n : Nat) : s.ReadOf (t.bump f i n) :=
  h.trans ⟨rfl, fun _ => rfl⟩

/-- A read of a codeword takes away the errors that waited for it, nothing else. -/
theorem State.passed1_readOf (s : State) (core cw : Nat) : s.ReadOf (s.passed1 core cw) := by
  unfold State.passed1
  dsimp only
  split
  · exact .refl s
  · refine ⟨rfl, fun c => ?_⟩
    by_cases h : c = core
    · subst h; simp
    · simp [State.core_setCore_ne _ _ h]

theorem List.foldl_readOf {α β : Type} (s : State) (f : β × State → α → β × State) (hf : ∀ (b : β × State) (x : α), State.ReadOf b.2 (f b x).2) :
    ∀ (l : List α) (b : β × State), s.ReadOf b.2 → s.ReadOf (l.foldl f b).2
  | [], _, h => h
  | x :: l, b, h => List.foldl_readOf s f hf l (f b x) (h.trans (hf b x))

/-- A protected read of a scratchpad counts corrections and takes away the errors that waited for it, nothing else. -/
theorem State.spmRead_readOf (s : State) (core abs n : Nat) (noise : Noise) : s.ReadOf (s.spmRead core abs n noise).2 := by
  unfold State.spmRead
  dsimp only
  split
  · exact .refl s
  · refine List.foldl_readOf s _ ?_ _ _ (.refl s)
    rintro ⟨b, t⟩ k
    dsimp only
    generalize readCodeword _ _ _ = r
    obtain ⟨left, one, two, bad⟩ := r
    dsimp only
    have key : t.ReadOf (let t := t.passed1 core k.1
      let t := if one = 0 then t else t.bump F.spmCorrOneSym core one
      let t := if two = 0 then t else t.bump F.spmCorrTwoSym core two
      if bad = 0 then t else t.bump F.spmEventsUncorr core bad) := by
      have h0 := t.passed1_readOf core k.1
      dsimp only
      split_ifs <;> first | exact h0 | exact h0.bump .. | exact (h0.bump ..).bump .. | exact ((h0.bump ..).bump ..).bump ..
    cases b <;> cases left <;> exact key

theorem State.word_readOf (s : State) (core h idx : Nat) : s.ReadOf (s.word core h idx).2 := by
  unfold State.word
  dsimp only
  split
  · exact .refl s
  · have := s.spmRead_readOf core ((s.core core).abs h (16 * idx)) 16 Noise.none
    split <;> simp_all

/-- Decoding reads words; at most it counts corrections and a refusal of the expert gate. -/
theorem State.decodeAt_readOf (s : State) (core : Nat) (sl : Slot) : s.ReadOf (s.decodeAt core sl).2 := by
  unfold State.decodeAt
  dsimp only
  split
  · exact .refl s
  have hw := s.word_readOf core sl.codeHandle sl.pc
  split
  · simp_all
  · rename_i w t heq
    rw [heq] at hw
    dsimp only at hw
    split
    · exact hw
    · have hv := hw.trans (t.word_readOf core sl.codeHandle (sl.pc + 1))
      split
      · exact hw
      split
      · exact hw
      split
      · exact hw.bump ..
      split
      · split
        · simp_all
        · rename_i v u heq2
          rw [heq2] at hv
          split_ifs <;> exact hv
      · exact hw

theorem State.atOp.readOf {s u : State} {core i : Nat} {sl : Slot} {k : OpKind} {w v : Nat} (h : s.atOp core i sl k w v u) : s.ReadOf u := by
  have := s.decodeAt_readOf core sl
  rw [h.2] at this
  exact this

/-- The slot of a ready task is what the core holds for it. -/
theorem State.ready_slot {s : State} {core i : Nat} {sl : Slot} (h : s.ready core = some (i, sl)) : (s.core core).slot i = sl := by
  unfold State.ready at h
  dsimp only at h
  split at h
  · cases h
  · split at h
    · cases h; rfl
    · cases h

theorem State.atOp.slot {s u : State} {core i : Nat} {sl : Slot} {k : OpKind} {w v : Nat} (h : s.atOp core i sl k w v u) :
    (u.core core).slot i = sl := by
  have e := h.readOf.core core
  have := State.ready_slot h.1
  unfold CoreSt.slot at *
  rw [e]
  exact this

/-- A ready task's operation runs its meaning. -/
theorem State.runOp_atOp {s u : State} {core i : Nat} {sl : Slot} {k : OpKind} {w v : Nat} (h : s.atOp core i sl k w v u)
    {want : OpKind → Nat → Bool} (hk : want k w = true) (f : Nat → Slot → Nat → Nat → State → State) : s.runOp core want f = f i sl w v u := by
  unfold State.runOp
  rw [h.1]
  dsimp only
  rw [h.2]
  simp [hk]

/-- After an operation of `n` words the task stands behind it. -/
@[simp] theorem State.step1_slot (s : State) (core i n : Nat) : ((s.step1 core i n).core core).slot i = ((s.core core).slot i).advance n := by
  unfold State.step1 State.progress
  simp [CoreSt.slot, CoreSt.setSlot]

end Sys2Proof.Machine
end

