-- ==== Sys2Proof/Laws/Sequencer.lean ====
section
/-! SUPPORT. What switching tasks, yielding, waking and loading a slot leave alone, and what they set. -/

namespace Sys2Proof.Machine

theorem CoreSt.pick_state {c : CoreSt} {j : Nat} (h : c.pick = some j) : (c.slot j).state = 1 := by
  unfold CoreSt.pick at h
  dsimp only at h
  split at h
  · cases h
  · rename_i i t heq
    simp only [Option.some.injEq] at h
    have key : ∀ (t : List Nat) (b : Nat), (∀ x ∈ b :: t, (c.slot x).state = 1) →
        (c.slot (t.foldl (fun b j => if (c.slot b).prio < (c.slot j).prio then j else b) b)).state = 1 := by
      intro t
      induction t with
      | nil => intro b hb; exact hb b (by simp)
      | cons x t ih =>
        intro b hb
        simp only [List.foldl_cons]
        apply ih
        intro y hy
        simp only [List.mem_cons] at hy
        rcases hy with hy | hy
        · subst hy; split <;> exact hb _ (by simp)
        · exact hb y (by simp [hy])
    rw [← h]
    apply key
    intro x hx
    rw [← heq] at hx
    simpa using (List.mem_filter.1 hx).2

theorem State.gate_slot (s : State) (core i : Nat) : ((s.gate core).core core).slot i = (s.core core).slot i := by
  unfold State.gate
  dsimp only
  split <;> simp [CoreSt.slot]

theorem State.switch_slot (s : State) (core i : Nat) (h : ((s.core core).slot i).state ≠ 1) : ((s.switch core).core core).slot i = (s.core core).slot i := by
  unfold State.switch
  dsimp only
  split
  · rfl
  split
  · exact s.gate_slot core i
  · rename_i j hj
    have := CoreSt.pick_state hj
    have hne : i ≠ j := by rintro rfl; exact h this
    simp [CoreSt.slot, CoreSt.setSlot, Table.get_put_ne _ _ _ hne]

theorem State.switch_bar (s : State) (core i : Nat) : ((s.switch core).core core).bar i = (s.core core).bar i := by
  unfold State.switch State.gate
  dsimp only
  split
  · rfl
  split
  · split <;> simp [CoreSt.bar]
  · simp [CoreSt.bar, CoreSt.setSlot]

theorem State.yield_slot (s : State) (core i : Nat) (sl : Slot) (h : sl.state ≠ 1) : ((s.yield core i sl).core core).slot i = sl := by
  unfold State.yield
  dsimp only
  rw [State.switch_slot]
  · simp [CoreSt.slot, CoreSt.setSlot]
  · simpa [CoreSt.slot, CoreSt.setSlot] using h

theorem State.yield_bar (s : State) (core i k : Nat) (sl : Slot) : ((s.yield core i sl).core core).bar k = (s.core core).bar k := by
  unfold State.yield
  dsimp only
  rw [State.switch_bar]
  simp [CoreSt.bar, CoreSt.setSlot]

@[simp] theorem State.step1_bar (s : State) (core i n k : Nat) : ((s.step1 core i n).core core).bar k = (s.core core).bar k := by
  unfold State.step1 State.progress
  simp [CoreSt.bar, CoreSt.setSlot]

theorem State.cxsLoad_slot (core j n : Nat) : ∀ (s : State), ((s.cxsLoad core n).core core).slot j = (s.core core).slot j := by
  induction n with
  | zero => intro s; rfl
  | succ n ih =>
    intro s
    unfold State.cxsLoad
    dsimp only
    split
    · split
      · rfl
      · rw [ih]
        unfold State.send
        simp [State.isHere, CoreSt.slot]
    · rfl

theorem State.wake_bar (s : State) (core i k : Nat) : ((s.wake core i).core core).bar k = (s.core core).bar k := by
  unfold State.wake
  dsimp only
  rw [State.switch_bar]
  simp [CoreSt.bar, CoreSt.setSlot]

theorem State.serveWaiter_target (s : State) (core k j : Nat) : (((s.serveWaiter core k).core core).bar j).target = ((s.core core).bar j).target := by
  unfold State.serveWaiter
  dsimp only
  split
  · rfl
  split
  · rfl
  · rw [State.wake_bar]
    by_cases h : j = k
    · subst h; simp [CoreSt.bar, CoreSt.setBar]
    · simp [CoreSt.bar, CoreSt.setBar, Table.get_put_ne _ _ _ h]
  · split
    · by_cases h : j = k
      · subst h; simp [CoreSt.bar, CoreSt.setBar]
      · simp [CoreSt.bar, CoreSt.setBar, Table.get_put_ne _ _ _ h]
    · rfl

end Sys2Proof.Machine
end

