-- ==== Sys2Proof/WellFormed.lean ====
section
/-! DEFINITION. Well-formed commands: every operand within the width the manual gives it. Numbers that name a unit are in range by their types;
what is checked here are the fields of messages, packets, flits, requests and lists of bytes. -/

namespace Sys2Proof

/-- A number that a field of `w` bits holds. -/
def fits (w n : Nat) : Bool := decide (n < 2 ^ w)

/-- Every mask of an upset is a byte, at a place below `n`. -/
def Upset.wf (n : Nat) (u : Upset) : Bool := u.all (fun p => decide (p.1 < n) && fits 8 p.2)

/-- Errors of a memory read strike the stored symbols: 34 of a sector, 36 of a codeword (R127, R297). -/
def Noise.wf (n : Nat) (z : Noise) : Bool := z.first.wf n && z.second.wf n

/-- Damage strikes `n` bytes on the first fetch, and on the second (R96). -/
def Hit.wf (n : Nat) (h : Hit) : Bool := h.first.wf n && h.second.wf n

/-- Bytes of a block's tag and payload (R147). -/
def blockSpan : Nat := 2112

/-- Damage of numbered objects or of code copies. -/
def hitsWf {α : Type} (n : Nat) (hits : List (α × Hit)) : Bool := hits.all (fun h => h.2.wf n)

/-- Flips of a matrix group: eight rows of up to 32 accumulators of 32 bits, and of converted outputs (R45, R66). -/
def GroupHit.wf (h : GroupHit) : Bool :=
  [h.acc, h.accRetry, h.conv, h.convRetry].all (fun u => u.all (fun p => decide (p.1 < 256) && fits 32 p.2))

/-- A culvert message: the fields of Table 8.5, a payload of at most 48 bytes. -/
def Culvert.wf (m : Culvert) : Bool :=
  fits 14 m.dstChip && fits 8 m.dstCore && fits 8 m.type && fits 16 m.ctxTag && fits 14 m.srcChip && fits 8 m.srcCore &&
  fits 6 m.gen && fits 32 m.arg && m.len == m.payload.length && decide (m.len ≤ 48) && fits 8 m.route && fits 32 m.deadline

/-- A fabric packet: the fields of Table 13.5, a body of LENGTH units of 16 bytes, at most 257. -/
def Packet.wf (p : Packet) : Bool :=
  fits 14 p.dstChip && fits 14 p.srcChip && fits 8 p.type && fits 8 p.route && fits 16 p.ctxTag && fits 32 p.deadline &&
  decide (p.length ≤ 257) && p.body.length == 16 * p.length && fits 8 p.status && fits 8 p.dstUnit && fits 50 p.offset &&
  fits 13 p.size && fits 16 p.txn && fits 8 p.srcUnit && fits 32 p.check

/-- What strikes a codeword: its 512 symbols of 16 bits, and pairs of the six levels on 32 lanes (R338, R339). -/
def Line.wf (l : Line) : Bool :=
  l.struck.all (fun p => decide (p.1 < 512) && fits 16 p.2) && l.pairs.all (fun p => fits 5 p.1 && decide (p.2.1 < 6) && decide (p.2.2 < 6))

/-- A flit: the fields of Table 13.2, 320 bytes of payload (R340, R341). -/
def Flit.wf (f : Flit) : Bool :=
  fits 12 f.seq && fits 3 f.vc && fits 12 f.ack && fits 16 f.credA && fits 16 f.credB && fits 5 f.start && fits 5 f.fill && f.payload.length == 320 &&
  fits 32 f.crc && f.line.wf

/-- A request of one sector (R296): a sector address below the size of the device memory; a write stays in its sector. -/
def HscReq.wf (r : HscReq) : Bool :=
  fits 41 r.dpa && r.dpa % 32 == 0 && fits 16 r.ctxTag && decide (r.off + r.data.length ≤ 32) && (r.write || r.data.isEmpty) &&
  r.strike.wf 34 && r.passing.wf 34 && r.noise.wf 34 && r.mirrorNoise.wf 34 && fits 64 r.va

/-- A reply that came by a port is a well-formed packet. -/
def Reply.wf (r : Reply) : Bool := match r with | some (_, p) => p.wf | none => true

/-- Readings of the weir are 32-bit numbers (R465). -/
def WeirSample.wf (w : WeirSample) : Bool := fits 32 w.iin && fits 32 w.vin && fits 32 w.demand && decide (w.other ≤ w.demand) && fits 8 w.coolIn && fits 8 w.coolOut

/-- A command whose operands are in range. -/
def Instr.wf (i : Instr) : Bool :=
  match i with
  | .descriptorFetch _ ds => ds.all (fun d => d.length == 64)
  | .copyIn _ sd | .copyOut _ sd => sd.isEmpty || sd.length == 128
  | .copyBlock _ host hit => decide (host.length ≤ blockSpan) && hit.wf blockSpan
  | .loadShard _ _ headers => headers.all (fun h => h.length == 64)
  | .windowRead off len noise => fits 41 off && decide (0 < len) && noise.wf 34
  | .windowWrite off data noise => fits 41 off && !data.isEmpty && noise.wf 34
  | .registerWrite _ off size v reads => fits 26 off && (size == 4 || size == 8) && off % size == 0 && fits (8 * size) v && reads.all (fun r => fits 26 r.1 && fits 12 r.2)
  | .diagSession _ digest tcp relays => digest.length == 64 && fits 16 tcp && relays.all (fun r => decide (r.2.length ≤ 2048))
  | .meGroupDrain _ _ hit => hit.wf
  | .streamBlockWrite _ _ ext hit => decide (ext.length ≤ blockSpan) && hit.wf blockSpan
  | .tableLoad _ _ ext => decide (ext.length ≤ 256)
  | .expandBlock _ _ hit => hit.wf blockSpan
  | .invokeBind _ hits => hitsWf 0x300000 hits
  | .shardObjectArrived _ _ obj hit => hit.wf obj.length
  | .checkpoint _ _ hits | .checkpointObjectDone _ _ hits => hitsWf (2 ^ 41) hits
  | .dredgerRead _ noise strike passing => noise.wf 288 && strike.wf 288 && passing.wf 288
  | .arrive _ m | .put _ m | .grant _ m | .returnCredit _ m | .close _ m | .culvertAlloc _ m | .culvertFree _ m | .reply _ m | .stale _ m
  | .task _ m | .culvertReserved _ m | .land _ m | .resend _ m => m.wf
  | .prepare m | .prepared m | .commit m | .abort m | .withdraw m | .breakRing m | .halt m => m.wf
  | .block _ _ p hit => p.wf && hit.wf blockSpan
  | .read _ p | .write _ p | .readData _ p | .writeAck _ p | .gather _ p | .mgmt _ p => p.wf
  | .gatherData _ _ r hit pool _ => Reply.wf r && hit.wf 4096 && pool.wf 4096
  | .pageWalk _ _ va _ noise => fits 64 va && noise.wf 34
  | .hscRequest _ r => r.wf
  | .scrubRead _ noise => noise.wf 34
  | .hbmTrainingLoss _ parity _ => fits 32 parity
  | .dataFlit _ f | .idle _ f | .ident _ f | .verdict _ f | .keyUpdate _ f | .keyAck _ f | .timeReq _ f => f.wf
  | .timeRsp _ f late => f.wf && fits 64 late
  | .laneErrorWindow _ more => more.all (fun m => fits 32 m.2)
  | .linkKeyExchange _ f _ len n => f.wf && decide (len ≤ 300) && fits 16 n
  | .dbgSpmRow _ row => row.length == 288
  | .supplyDrop mv => fits 32 mv
  | .weirSample sample => sample.wf
  | .sqTail _ _ _ | .cqHead _ _ _ | .auditHead _ _ _ | .invoke _ | .invokeEnd _ | .tideSwitch _
  | .fence _ | .ledgerClose _ | .cancel _ | .cancelStreamsStopped _ | .nop _
  | .contextEnable _ _ _ | .contextTeardown _ | .teardownComplete _ | .teardownTimeout _ | .resume _ | .vfRangeWrite _ _ | .ptInval _
  | .ptInvalAll | .ptInvalDone | .getInfo _ | .loadPlan _ _ | .fwUpdate _ _ | .fwActivate _ _ | .hbmRetrain _ _ | .hbmTest _ _ _
  | .fuseRead _ | .expertEnable _ _ | .powerCap _ _ | .serviceHold _ _ | .dumpFetch _ _ _ | .selfTest _ _ | .mailboxReserved _ _
  | .mailboxBusyWrite _ | .mailboxComplete | .controlNop _ | .endTask _ | .loop _ | .pset _ | .matrix _ | .meSwap _ _ | .vector _
  | .vectorBatch _ _ | .sfu _ | .micro _ | .uload _ | .momentsUpdate _ _ | .momentsMerge _ _ | .momentsFinal _ _ | .softmaxUpdate _ _
  | .softmaxMerge _ _ | .softmaxFinal _ _ | .streamArm _ | .streamBlockIssue _ _ | .streamRunEnd _ _ | .tableBuildDone _ _
  | .barrierWait _ | .barrierArrive _ | .barrierTarget _ | .barrierTest _ | .phaseMove _ | .phaseCompute _ | .handleAlloc _ | .handleFree _
  | .handleRelease _ | .checkSettle _ | .slotFree _ _ | .dredgerZeroGranule _ | .blockForward _ _ | .landTimer _ _ | .memoryRefetchDone _ _
  | .hbmTempChange _ _ | .gatherRunStart _ | .seal _ _ | .linkTransmit _ | .replayTimeout _ | .laneFail _ _ | .portRetrainDone _ _ _
  | .laneLock _ _ | .identTimeout _ | .identRetryTimer _ | .keyxTimeout _
  | .keyRotationDue _ | .timeExchangeTimer _ | .rackSyncEdge | .rackSyncMissing | .resync _
  | .resyncStep _ | .keyLock _ | .ownerLock _ | .tgtKeyWrite _ _ _ | .tgtConnect _ _ _ | .rdmaTransportError _ _ | .rdmaInboundRequest _ _
  | .getVersion _ _ | .getCapabilities _ _ | .negotiateAlgorithms _ _ | .getDigests _ _ | .getCertificate _ _
  | .challenge _ _ | .getMeasurements _ _ | .keyExchange _ _ | .finish _ _ | .endSession _ _ | .ideKm _ _ | .pldmMonitor _ | .debugToken _
  | .dbgSpmSel _ _ | .hbEn _ | .contextProgressTimeout _ | .sequencerTimeout _ | .barrierWaitTimeout _ _ | .sluiceCreditTimeout _ _
  | .tideBreakTimeout _ | .linkResponseTimeout _ | .heartbeatTimeout | .tideSwitchDeadline _ | .tideSwitchMemberTimeout _
  | .closingSluiceTimeout _ _ | .coreReset _ _ | .portReset _ _ | .stackReset _ _ | .functionLevelReset _ | .dikeDrained _ | .dikeTimeout _
  | .dikeLifted _ | .escalationTimeout _ | .mpWatchdogExpiry | .warmReset _ | .warmResetDump _ | .warmResetDone | .coldReset | .softStart
  | .presenceOpen | .inputBelow30V | .supplyOvervoltage | .supplyCollapse | .supplyRecover | .supplyEventClose | .droopDetect _
  | .droopRecover _ | .thermalThrottle _ _ | .thermalStepTimer _ _ | .thermalShutdown | .referenceLoss _ | .attnButtonRelease _
  | .attnButtonHeld | .serviceHoldHeld | .cableRemoved _ | .cableInserted _ | .healthTestFail | .drawHeldTimeout | .storageLinkChange _ _
  | .transportRetransmit _ | .auditRecordsWritten _ _ => true

end Sys2Proof
end

