-- ==== Sys2Proof/Tests/Slice0.lean ====
section
/-! SUPPORT. Tests: for every statement with hypotheses a concrete state that meets them, clause by clause (theorems wit_…); worked examples of the
specification and ill-formed commands (theorems test_…). Each is about one command on a small state. -/

section
set_option Elab.async false

namespace Sys2Proof.Tests
open Sys2Proof Sys2Proof.Machine

/-- A descriptor of context 0 with an opcode and the bytes of its body from byte 8. -/
def desc (op : Nat) (body : Bytes) (seq : Nat := 0) : Desc := ⟨slice (natLe 8 op ++ body) 0 64, seq, 0, 1, 0⟩

/-- An INVOKE of context 0 that runs on core 0. -/
def inv : Invoke :=
  { desc := desc 1 [], bound := true, id := 0, seed := 1, seedDrawn := false, timeStart := 0, kappa := 0, drainChk := 0, audit := 0, cmpCfg := 0, prio := 0
    waits := false, needs := [], engineNeeds := [], trailNeeds := [], ending := none, endAt := none, stopped := false, tally := Tally.zero
    supply := 0, expertSeen := false, suspects := [], unitSuspect := false, inputs := 0, outputs := 0, digests := []
    manifest := [], ring := false, members := [], links := [], cores := [0], window := (0, 0, 0, 0), usesTide := false, breaks := [], haltSent := false, halted := [] }

/-- Context 0 is enabled. -/
def enabled : State := (State.reset.setF F.hiuCtxCtlEnable 1 0).setF F.cxsCtxStateState 1 0

/-- Context 0 is enabled and has changed as given. -/
def withCtx (f : CtxSt → CtxSt) : State := enabled.setCtx 0 (f CtxSt.fresh)

/-- A polder of context 0, one granule from granule `g`. -/
def pold (g : Nat) (f : Polder → Polder := id) : Polder := f { Polder.empty with valid := true, length := 1, base := g }

/-- Slot 0 of core 0 as its task runs. -/
def sl0 : Slot := { Slot.empty with state := 2, codeHandle := 1 }

/-- Core 0 runs a task of context 0 at the first of some words; its code is polder 1 at granule 0. -/
def core0 (ws : List Nat) : CoreSt :=
  { CoreSt.idle with
    spm := Mem.writeN [] 0 (ws.map (natLe 16)).flatten, ht := [(1, pold 0 (fun p => { p with code := true }))], slots := [(0, sl0)], running := some 0, gated := false }

/-- The device with core 0 at the first of some words, changed as given. -/
def task (ws : List Nat) (f : CoreSt → CoreSt := id) : State := (withCtx (fun c => { c with inv := some inv })).setCore 0 (f (core0 ws))

/-- A word from its fields: value, lowest bit. -/
def word (l : List (Nat × Nat)) : Nat := (l.map (fun p => p.1 * 2 ^ p.2)).sum

/-- A task stands at an operation when its core is ready for it and the words decode to it. -/
theorem atOp_of {s : State} {core i : Nat} {sl : Slot} {k : OpKind} {w v : Nat}
    (h : decide (s.ready core = some (i, sl)) && decide ((s.decodeAt core sl).1 = .op k false w v) = true) :
    s.atOp core i sl k w v (s.decodeAt core sl).2 := by
  simp only [Bool.and_eq_true, decide_eq_true_eq] at h
  exact ⟨h.1, by rw [← h.2]⟩

/-- What a test of `isSome` gives. -/
theorem some_of {α : Type} {o : Option α} (h : o.isSome = true) : o = some (o.get h) := (Option.some_get h).symm

/-- What an outcome carries when it is `ok`. -/
def val {ε α β : Type} (d : α) (x : Except ε α × β) : α := match x.1 with
  | .ok a => a
  | .error _ => d

/-- An outcome is `ok`. -/
def isOk {ε α β : Type} (x : Except ε α × β) : Bool := match x.1 with
  | .ok _ => true
  | .error _ => false

theorem val_eq {ε α β : Type} (d : α) {x : Except ε α × β} (h : isOk x = true) : x = (.ok (val d x), x.2) := by
  obtain ⟨e, u⟩ := x
  cases e with
  | ok a => rfl
  | error _ => simp [isOk] at h

theorem ok_of {ε α β : Type} {x : Except ε α × β} (h : isOk x = true) : ∃ a u, x = (.ok a, u) := by
  obtain ⟨e, u⟩ := x
  cases e with
  | ok a => exact ⟨a, u, rfl⟩
  | error _ => simp [isOk] at h

/-- What a read gives, with a default. -/
def got {α β : Type} (d : α) (x : Option α × β) : α := x.1.getD d

theorem got_eq {α β : Type} (d : α) {x : Option α × β} (h : x.1.isSome = true) : x = (some (got d x), x.2) := by
  obtain ⟨o, u⟩ := x
  cases o with
  | some a => rfl
  | none => simp at h

/-- A pair whose first part is known. -/
theorem fst_of {α β : Type} {x : α × β} {a : α} (h : x.1 = a) : x = (a, x.2) := by rw [← h]

/-- The state with context 0's first 2 MiB page mapped to the second of device memory, some bytes at its start. -/
def mapped (s : State) (bs : Bytes) : State := { s.setF F.hscPtRootEnable 1 0 with slices := (List.range 4).map (fun f => (f, [⟨0, 0, 2 ^ 21 + 57⟩])), hbm := Mem.writeN [] (2 ^ 21) bs }

/-- The device holds a dump of one page in its dump region. -/
def dumped : State := ((State.reset.setF F.mpDumpStatusValid 1).setF F.mpDumpStatusLength 4096).setF F.mpDumpStatusCause 1

/-- A mailbox command that waits for completion. -/
def mail (code arg : Nat) (result : Bytes) : Mbx := { done code .pf .ok result arg with ready := true }

/-- The device after its mailbox took a command. -/
def mailed (m : Mbx) : State := { State.reset.setF F.mbxLenMbxLen 256 with mbx := some m }

/-- The device with an image in each slot. -/
def imaged : State := { State.reset with boot := { State.reset.boot with slotA := some ⟨1, 1, [], [true, true, true, true], true, true⟩, slotB := some ⟨2, 2, [], [true, true, true, true], true, true⟩ } }

/-- Expert features are on. -/
def expertOn : State := State.reset.setF F.glbExpertExpert 1
/-- Context 0 with one descriptor at the front of its work queue. -/
def working (op : Nat) (body : Bytes) : State := withCtx (fun c => { c with work := [desc op body] })
/-- A bound INVOKE of context 0. -/
def boundInv (f : Invoke → Invoke := id) : State := withCtx (fun c => { c with inv := some (f inv) })
/-- Context 0 in a state of Table 16.4, with what it holds. -/
def inState (st : Nat) (f : CtxSt → CtxSt := id) : State := (withCtx f).setF F.cxsCtxStateState st 0
/-- A first word of a class and an operation, with fields (value, lowest bit). -/
def opw (cls op : Nat) (l : List (Nat × Nat) := []) : Nat := word ([(cls, 124), (op, 120)] ++ l)

/-- The continuation word of a class with its four operand fields. -/
def cont (cls : Nat) (f1 f2 f3 f4 : Nat) : Nat := word [(cls, 124), (15, 120), (f1, 87), (f2, 58), (f3, 29), (f4, 0)]

/-- An operand field: handle and row, without a loop counter. -/
def ref (h row : Nat) : Nat := word [(h, 21), (row, 7), (15, 0)]

/-- The state once the words of core 0's task have been read. -/
def after (s : State) : State := (s.decodeAt 0 sl0).2

theorem wit_front : { State.reset with pending := [.coldReset, .softStart] }.pending = .coldReset :: [.softStart] := rfl
theorem wit_tick : State.reset.pending = [] ∧ State.reset.power = .on ∧ State.reset.holdNs = 0 ∧ State.reset.ticks + 1 < 5000 := by decide +kernel
theorem wit_tick_slew : { State.reset with ticks := 4999, slew := 1 }.pending = [] ∧ { State.reset with ticks := 4999, slew := -1 }.slew < 0 := by decide +kernel
theorem wit_tick_off : (State.reset.powerOff .off).power ≠ .on ∧ (State.reset.powerOff .off).pending = [] := by decide +kernel
theorem wit_canonical : State.reset.memWf = true ∧ ∃ t, step State.reset = .next t := ⟨by decide +kernel, _, rfl⟩

/-- Where HIU_SQ_BASE of context 0 lies. -/
def sqBaseAt : Nat := 327688
theorem wit_write_base : State.reset.deaf = false ∧ State.reset.halves = [] ∧ State.reset.latch = [] ∧ sqBaseAt % 8 = 0 ∧ (findReg sqBaseAt).any (fun p => p.reg == .hiuSqBase &&
    !State.reset.pageDiked p && State.reset.getF F.hiuCtxCtlFunc p.index == 0 && !State.reset.flag F.hiuCtxCtlEnable p.index && enabled.flag F.hiuCtxCtlEnable p.index &&
    p.reg.info.width != 32 && p.reg.info.width == 64 && p.reg.info.page != .dbg && p.byte == 0) = true ∧ (findReg (sqBaseAt + 4)).isSome = true := by decide +kernel
theorem wit_write_held : let s := { State.reset with halves := [(.pf, sqBaseAt, 5)] }
    s.halves = [(.pf, sqBaseAt, 5)] ∧ s.latch = [] ∧ s.deaf = false ∧ Instr.keyLock .pf ∈ [Instr.getInfo .pf, .fuseRead .pf, .resync .pf, .keyLock .pf, .ptInvalAll, .warmReset .pf, .hbEn .pf] ∧
    { State.reset with warmAt := some 0 }.warming = true := by decide +kernel
theorem wit_write_dike : (findReg 90112).any (fun p => p.reg == .tmoDike && !State.reset.pageDiked p) = true ∧ expertOn.expert = true ∧ State.reset.expert = false ∧
    9 < expertOn.getF F.tmoLinkRspLinkRspMs ∧ expertOn.deaf = false := by decide +kernel
theorem wit_write_width : (2 : Nat) ≠ 4 ∧ (2 : Nat) ≠ 8 ∧ 2 % 8 ≠ 0 := by decide
theorem wit_mail : State.reset.deaf = false ∧ State.reset.failed = false ∧ State.reset.mbx = none ∧ State.reset.anyContext = false ∧ State.reset.memWf = true ∧
    State.reset.barQuiet = true ∧ dumped.barQuiet = true ∧ dumped.mbx = none ∧ dumped.deaf = false := by decide +kernel
theorem wit_dump_fetch : ∃ bs u, dumped.dumpBytes (BitVec.toNat (0 : BitVec 64)) (BitVec.toNat (16 : BitVec 64)) = (.ok bs, u) := ok_of (by decide +kernel)
theorem wit_mail_busy : (mailed (mail 1 0 [1])).mbx.isSome = true ∧ (mail 1 0 [1]).ready = true ∧ (mail 1 0 [1]).path = .pf ∧ (mail 1 0 [1]).result ≠ [] ∧
    (mail 1 0 [1]).result.length ≤ (mailed (mail 1 0 [1])).getF F.mbxLenMbxLen ∧ (mailed (mail 1 0 [1])).deaf = false ∧ (mailed (mail 1 0 [1])).barQuiet = true := by decide +kernel
theorem wit_activate : (imaged.boot.slot 0).isSome = true ∧ (imaged.boot.slot 1).isSome = true ∧ (imaged.hsc 19).state = 0 ∧ imaged.deaf = false ∧ imaged.failed = false ∧
    imaged.mbx = none ∧ imaged.barQuiet = true := by decide +kernel
theorem wit_power_cap : 1500 ≤ (1500#32).toNat ∧ (1500#32).toNat ≤ maxWatts := by
  constructor
  · decide
  · unfold maxWatts; split <;> decide
theorem wit_hold : State.reset.getF F.svcStatusHold = 0 ∧ (State.reset.setF F.svcStatusHold 2).getF F.svcStatusHold ≠ 0 := by decide +kernel
theorem wit_expert : zeroAt ([0, 0, 0, 0] : Bytes) 0 4 = true ∧ zeroAt ([1, 0, 0, 0] : Bytes) 0 4 = false ∧ (mailed (mail 8 1 [])).mbx = some (mail 8 1 []) ∧
    (mail 8 2 []).code = 8 ∧ (mail 8 2 []).arg = 2 ∧ (mail 8 1 []).result = [] := by decide +kernel

theorem wit_doorbell : enabled.stopped = false ∧ enabled.getF F.hiuCtxCtlFunc 0 = 0 ∧ enabled.flag F.hiuCtxCtlEnable 0 = true ∧ enabled.ctxState 0 = 1 ∧
    (enabled.ctx 0).fetched = [] ∧ (enabled.ctx 0).inflight = 0 ∧ 63 < 2 ^ enabled.getF F.hiuCtxCtlSqLog2 0 ∧ 63 < 2 ^ enabled.getF F.hiuCtxCtlCqLog2 0 ∧
    ringUsed (enabled.getF F.hiuCtxCtlSqLog2 0) (enabled.getF F.hiuCtxStateSqHead 0) (63 % 65536) ≠ 0 ∧ State.reset.flag F.hiuCtxCtlEnable 0 = false ∧
    State.reset.stopped = false ∧ enabled.completionRoom 0 ≠ 0 ∧ enabled.held = false ∧ 2 ^ enabled.getF F.hiuCtxCtlSqLog2 0 ≤ 64 ∧
    2 ^ enabled.getF F.hiuCtxCtlCqLog2 0 ≤ 64 ∧ enabled.getF F.hiuCtxCtlAuditLog2 0 = 0 := by decide +kernel
theorem wit_doorbell_other : let s := enabled.setF F.hiuCtxCtlFunc 1 0
    s.stopped = false ∧ (1 : Nat) = s.getF F.hiuCtxCtlFunc 0 ∧ s.getF F.hiuCtxCtlFunc 0 ≠ 0 := by decide +kernel
theorem wit_audit_head : (enabled.setF F.hiuCtxCtlAuditLog2 10 0).flag F.hiuCtxCtlEnable 0 = true ∧ (enabled.setF F.hiuCtxCtlAuditLog2 10 0).ctxState 0 ≠ 3 ∧
    (enabled.setF F.hiuCtxCtlAuditLog2 10 0).getF F.hiuCtxCtlAuditLog2 0 ≠ 0 ∧ 1023 < 2 ^ (enabled.setF F.hiuCtxCtlAuditLog2 10 0).getF F.hiuCtxCtlAuditLog2 0 := by
  decide +kernel
/-- A fetch of context 0 is under way. -/
def fetching : State := withCtx (fun c => { c with inflight := 1 })
theorem wit_fetch : fetching.ctxState 0 = 1 ∧ (fetching.ctx 0).inflight ≠ 0 ∧ (fetching.ctx 0).fetched = [] ∧ (fetching.ctx 0).control = [] ∧
    (fetching.ctx 0).fence = none ∧ (fetching.ctx 0).heldCpl.length < 64 ∧ field (desc 1 []).bytes 0 1 = 1 ∧ field (desc 8 []).bytes 0 1 = 8 := by decide +kernel
theorem wit_nop : ((withCtx (fun c => { c with control := [desc 10 [1]] })).ctx 0).control.find? (fun x => x.opcode == 10) = some (desc 10 [1]) := by decide +kernel
theorem wit_fence : ((withCtx (fun c => { c with fence := some (desc 7 []) })).ctx 0).drained = true ∧
    ((withCtx (fun c => { c with fence := some (desc 7 []) })).ctx 0).fence = some (desc 7 []) ∧
    ((withCtx (fun c => { c with work := [desc 2 []] })).ctx 0).drained = false := by decide +kernel
/-- A CANCEL behind a copy of context 0. -/
def toCancel : State := withCtx (fun c => { c with control := [desc 9 [] 1], work := [desc 2 []] })
theorem wit_cancel : toCancel.held = false ∧ (toCancel.ctx 0).sw = none ∧ (toCancel.ctx 0).copy = none ∧ (toCancel.ctx 0).load = none ∧ toCancel.ctxState 0 = 1 ∧ (toCancel.ctx 0).canceling = none ∧ (toCancel.ctx 0).inv = none ∧
    (toCancel.ctx 0).control.find? (fun x => x.opcode == 9) = some (desc 9 [] 1) ∧ (desc 2 []).seq < (desc 9 [] 1).seq := by decide +kernel
theorem wit_ledger_close : (working 8 []).ctxState 0 = 1 ∧ (working 8 []).noStart = false ∧ ((working 8 []).ctx 0).idleWork = true ∧
    ((working 8 []).ctx 0).work = [desc 8 []] ∧ (desc 8 []).opcode = 8 ∧ (working 8 []).descFault 0 (desc 8 []) = none ∧ (working 8 []).recordsFit 0 = true ∧
    (working 8 []).healthAt = none ∧ (working 8 []).held = false := by decide +kernel
/-- The same with the context's block the one chip there is. -/
def inBlock (s : State) : State := s.setF F.topoCtxBlockValid 1 0
theorem wit_invoke : let s := inBlock (working 1 []); s.ctxState 0 = 1 ∧ s.noStart = false ∧ (s.ctx 0).idleWork = true ∧ (s.ctx 0).work = [desc 1 []] ∧
    (desc 1 []).opcode = 1 ∧ s.descFault 0 (desc 1 []) = none ∧ s.invokeHeld 0 (desc 1 []) = false ∧ s.healthAt = none ∧
    s.blockOk 0 = true ∧ ((s.setCtx 0 { s.ctx 0 with work := [] }).freeRunRefuses 0 (field (desc 1 []).bytes 24 8)).1 = .ok false ∧
    s.flag F.lnkTimeCtlFreeRun = false := by
  decide +kernel
/-- A program image of one core record, at 0 of context 0's space: core 0, handle 1, one task, a NOP at byte 256, stream 0 and counter 0 declared. -/
def image : Bytes :=
  slice (natLe 2 1 ++ natLe 2 0x100 ++ natLe 4 1 ++ natLe 8 1024) 0 64 ++
  slice (natLe 2 0 ++ [1, 0] ++ natLe 2 1 ++ natLe 2 1 ++ natLe 8 256 ++ natLe 4 1 ++ natLe 4 1 ++ natLe 8 1 ++ natLe 8 512 ++ natLe 8 768) 0 192 ++ natLe 16 (2 ^ 120)
/-- An INVOKE of context 0 that has started and is not boundInv. -/
def started : State := mapped (withCtx (fun c => { c with inv := some { inv with bound := false } })) image
/-- What its validation gives. -/
def valid0 : List CoreRec × Option TideMap × List Bytes := val ([], none, []) (started.validate 0 { inv with bound := false })
/-- Streams of core 0 held elsewhere. -/
def taken : State := started.setCore 0 (CoreSt.idle.setStrm 0 { Strm.free with bound := true, owner := 1 })
theorem wit_bind_waits : taken.validate 0 { inv with bound := false } = (.ok (val ([], none, []) (taken.validate 0 { inv with bound := false })),
      (taken.validate 0 { inv with bound := false }).2) ∧
    (taken.validate 0 { inv with bound := false }).2.fits ((val ([], none, []) (taken.validate 0 { inv with bound := false })).1.map (fun r => (r.core, r.streams, r.counters))) [] [] =
      false ∧ taken.overfills 0 (taken.bind 0 { inv with bound := false } []) = false ∧ taken.ctxState 0 = 1 ∧ taken.stopped = false := ⟨val_eq _ (by decide +kernel), by decide +kernel⟩
theorem wit_bind : started.validate 0 { inv with bound := false } = (.ok valid0, (started.validate 0 { inv with bound := false }).2) ∧
    (started.validate 0 { inv with bound := false }).2.fits (valid0.1.map (fun r => (r.core, r.streams, r.counters))) [] [] = true ∧ valid0.2 = (none, []) ∧
    (started.validate 0 { inv with bound := false }).2.aheadOf 0
      { inv with bound := false, prio := (started.validate 0 { inv with bound := false }).2.getF F.cxsCtxCfgPriority 0 } = false ∧
    isOk ((started.validate 0 { inv with bound := false }).2.bindAll 0 { inv with bound := false } valid0.1 none [] []) = true ∧
    started.overfills 0 (started.bind 0 { inv with bound := false } []) = false ∧ started.ctxState 0 = 1 ∧ started.stopped = false := ⟨val_eq _ (by decide +kernel), by decide +kernel⟩
theorem wit_stopped : (boundInv (fun v => { v with ending := some .cancelled })).quiet { inv with ending := some .cancelled } = true := by decide +kernel
theorem wit_end : boundInv.tasksEnded inv = true ∧ boundInv.quiet inv = true ∧ boundInv.recordsFit 0 = true ∧ boundInv.boot.rom = false ∧ boundInv.healthAt = none ∧ boundInv.ctxState 0 = 1 ∧
    inv.bound = true ∧ inv.ending = none := by decide +kernel

/-- A write of HIU_CTX_CTL that enables, ring sizes at their least. -/
def enableWord : BitVec 64 := BitVec.ofNat 64 (2 ^ 63 + (State.reset.reg .hiuCtxCtl 0))
theorem wit_enable : State.reset.stopped = false ∧ State.reset.healthAt = none ∧ State.reset.funcDiked 0 = false ∧ State.reset.getF F.hiuCtxCtlFunc 0 = 0 ∧
    State.reset.ctxState 0 = 0 ∧ State.reset.flag F.hiuCtxCtlEnable 0 = false ∧ bit enableWord.toNat 63 = true ∧ (State.reset.setSizes 0 enableWord.toNat).ringsOk 0 = true := by
  decide +kernel
theorem wit_teardown : ((working 2 []).ctxState 0 = 1 ∧ ((working 2 []).ctx 0).work = [desc 2 []] ∧ ((working 2 []).ctx 0).sw = none ∧ (working 2 []).stopped = false) ∧
    (inState 2).ctxState 0 = 2 ∧ ((inState 2).ctx 0).sw = none := by decide +kernel
theorem wit_enable_held : let s := ({ State.reset with healthAt := some 0 }).setF F.secCtxCfgHbmEnc 1 0
    s.stopped = false ∧ s.healthAt.isSome = true ∧ s.flag F.secCtxCfgHbmEnc 0 = true ∧ s.funcDiked 0 = false ∧ s.getF F.hiuCtxCtlFunc 0 = 0 ∧ s.ctxState 0 = 0 ∧
    s.flag F.hiuCtxCtlEnable 0 = false ∧ (s.setSizes 0 enableWord.toNat).ringsOk 0 = true ∧ s.barQuiet = true := by decide +kernel
theorem wit_teardown_frees : let s := inState 3
    let r := inState 3 (fun c => { c with inv := some inv })
    s.ctxState 0 = 3 ∧ (s.ctx 0).freed = false ∧ (s.ctx 0).inv = none ∧ (s.ctx 0).jobs = [] ∧ s.barQuiet = true ∧ r.ctxState 0 = 3 ∧ (r.ctx 0).freed = false ∧
    (r.ctx 0).inv.isSome = true := by decide +kernel
/-- Context 0 tears down and what it holds is freed. -/
def tornFree : State := inState 3 (fun c => { c with freed := true })
theorem wit_teardown_done : tornFree.ctxState 0 = 3 ∧ (tornFree.ctx 0).freed = true ∧ tornFree.closed 0 = true := by decide +kernel
/-- A core with a credit entry of context 0 that closes. -/
def closing : State := tornFree.setCore 0 { CoreSt.idle with creds := [(0, { Credit.idle with state := 3, owner := 0 })] }
theorem wit_teardown_waits : closing.ctxState 0 = 3 ∧ (closing.ctx 0).freed = true ∧ closing.closed 0 = false := by decide +kernel
theorem wit_teardown_timeout : let s := { inState 3 (fun c => { c with tearAt := some 0, tearFor := 10000000 }) with time := 10 ^ 9 }
    s.ctxState 0 = 3 ∧ (s.ctx 0).stuck = false ∧ (s.ctx 0).inv = none ∧ s.passed (s.ctx 0).tearAt (s.tearNs 0) = true := by decide +kernel
theorem wit_vf : State.reset.stopped = false ∧ State.reset.vfEnable = false ∧ bits (BitVec.toNat (64#32)) 25 16 + bits (BitVec.toNat (64#32)) 6 0 ≤ 1024 ∧
    bits (BitVec.toNat (64#32)) 6 0 ≤ 64 ∧ (∀ u : Fin 31, (State.reset.vfRange u).2 = 0) ∧ { State.reset with vfEnable := true }.vfEnable = true := by decide +kernel
theorem wit_inval : { State.reset with inval := some none }.inval = some none := rfl
theorem wit_walk : ∃ p u, (mapped enabled []).translate .hiu ((mapped enabled []).tag 0) 0 false Noise.none = (.ok p, u) := ok_of (by decide +kernel)
theorem wit_walk_fails : ∃ st u, enabled.translate .hiu (enabled.tag 0) 0 false Noise.none = (.error st, u) ∧ fromFabric .hiu = false ∧ enabled.ctxState 0 = 1 ∧ enabled.stopped = false :=
  ⟨.accessViolation, _, fst_of (by decide +kernel), by decide +kernel⟩
theorem wit_walk_fails_remote : ∃ st u, enabled.translate (.link 0) (enabled.tag 0) 0 false Noise.none = (.error st, u) ∧ fromFabric (.link 0) = true :=
  ⟨.accessViolation, _, fst_of (by decide +kernel), rfl⟩
theorem wit_window : State.reset.getF F.hiuWinBaseBase + 0x13F00000000 + 32 ≤ 0x14000000000 ∧ State.reset.stopped = false ∧ State.reset.memWf = true ∧ State.reset.hscs = [] ∧
    State.reset.hbmErr = [] ∧ State.reset.hbmPassing = [] ∧ 0x13E00000000 ≤ State.reset.getF F.hiuWinBaseBase + 0x13E00000000 ∧
    { State.reset with warmAt := some 0 }.warming = true ∧ State.reset.getF F.hiuWinBaseBase + 0x13E00000000 < 0x13F00000000 := by decide +kernel

/-- The body of a basic copy between host address 0 and address 0 of the context, of some bytes. -/
def copyBody (n : Nat) : Bytes := natLe 8 0 ++ natLe 8 0 ++ natLe 8 n
theorem wit_copy : ∀ op ∈ [2, 3], ∀ n ∈ [0, 4096], let s := withCtx (fun c => { c with work := [desc op (copyBody n)] })
    s.ctxState 0 = 1 ∧ s.noStart = false ∧ (s.ctx 0).idleWork = true ∧ (s.ctx 0).work = [desc op (copyBody n)] ∧ (desc op (copyBody n)).opcode = op ∧
    s.descFault 0 (desc op (copyBody n)) = none ∧ field (desc op (copyBody n)).bytes 32 8 = 0 ∧ field (desc op (copyBody n)).bytes 24 8 = n := by decide +kernel
/-- A copy of two blocks under way. -/
def copyJob (done : Nat) : Job := { Job.start (desc 2 (copyBody 4096)) none 4096 with done := done, moved := 2048 * done }
/-- Context 0 with that copy, its page mapped. -/
def copying (done : Nat) : State := mapped (withCtx (fun c => { c with copy := some (copyJob done) })) []
theorem wit_copy_block : ∀ done ∈ [0, 1], let s := copying done
    (s.ctx 0).copy = some (copyJob done) ∧ (copyJob done).stream = none ∧ (copyJob done).desc.opcode = 2 ∧ s.stopped = false ∧ (copyJob done).waiting = 0 ∧ (copyJob done).pass = 1 ∧
    (copyJob done).again = false ∧ s.overfills 0 (s.copyBlock 0 (copyJob done) [] []) true = false ∧ done < (copyJob done).copyDesc.blocks ∧ (copyJob done).acks = 0 ∧
    (s.copyCommit 0 (copyJob done) (slice [] 0 ((copyJob done).copyDesc.blockLen done)) none).1.status = .ok ∧ (copyJob done).ending = none ∧
    (s.copyCommit 0 (copyJob done) (slice [] 0 ((copyJob done).copyDesc.blockLen done)) none).1.acks = 0 := by decide +kernel
/-- A plain object of 32 zero bytes. -/
def object : Bytes := slice (natLe 2 1 ++ zeros 6 ++ natLe 8 32) 0 96
/-- Its manifest entry, at 0 of its bank, on target 0. -/
def entry : Bytes := slice (natLe 2 0 ++ zeros 14 ++ natLe 8 0 ++ natLe 8 96 ++ shake256 object) 0 128
/-- The manifest with that entry. -/
def manifest : Bytes := slice (natLe 2 1 ++ zeros 2 ++ natLe 4 1 ++ natLe 8 192) 0 64 ++ entry
/-- A LOAD_SHARD of it, bank 0 at address 0 of one page. -/
def loadDesc : Desc := desc 4 (natLe 8 0 ++ natLe 4 192 ++ zeros 4 ++ natLe 8 0 ++ natLe 8 (2 ^ 21))
/-- Context 0 with it in its queue, target 0 valid. -/
def toLoad : State := (withCtx (fun c => { c with loadq := [loadDesc] })).setF F.ethTgtValid 1 0
theorem wit_load : let s := toLoad; (s.ctx 0).loadq = [loadDesc] ∧ s.loadMay 0 loadDesc = true ∧ manifestBad manifest (field loadDesc.bytes 16 4) = false ∧
    manifestEntries manifest s.chip = [entry] ∧ s.flag F.ethTgtValid (field entry 2 1) = true ∧ s.getF F.ethTgtState (field entry 2 1) ≠ 2 ∧
    ((s.setCtx 0 { s.ctx 0 with loadq := [] }).readHeaders [entry] [slice object 0 64]).1 = some [slice object 0 64] ∧ headerBad (slice object 0 64) = false ∧
    objectLen (slice object 0 64) = field entry 24 8 ∧ field entry 16 8 + footprint (slice object 0 64) ≤ field loadDesc.bytes 32 8 := by decide +kernel
/-- The load under way. -/
def loadJob : Job := { Job.start loadDesc none 1 with objects := [entry], manifest := manifest }
/-- Context 0 with it, its page mapped, the object asked for. -/
def loading : State := (mapped (withCtx (fun c => { c with load := some loadJob })) []).askObject entry
/-- Nothing strikes its blocks. -/
def noHit : Hit := ⟨[], []⟩
/-- The state once the object's text has been read. -/
def texted (wire : Bytes) : State := (loading.objectText entry wire).2.2
theorem wit_object_bad : (loading.ctx 0).load = some loadJob ∧ loadJob.ending = none ∧ loadJob.tried = [] ∧ loading.stopped = false ∧ (loading.objectText entry []).2.1 = true ∧
    loading.overfills 0 ((texted []).objectIn 0 loadJob 0 (loading.objectText entry []).1 noHit) true = false ∧ objectBad entry (loading.objectText entry []).1 = true := by
  decide +kernel
theorem wit_object : (loading.objectText entry object).1 = object ∧ (loading.objectText entry object).2.1 = true ∧
    loading.overfills 0 ((texted object).objectIn 0 loadJob 0 object noHit) true = false ∧ objectBad entry object = false ∧
    field entry 16 8 + footprint object ≤ field loadDesc.bytes 32 8 ∧ (moveObject object noHit).lost = false ∧
    (((texted object).setCtx 0 (((texted object).ctx 0).setBank loadDesc.loadBank { ((texted object).ctx 0).bank loadDesc.loadBank with digest := none, broken := true })).placeObject
      (ethOf ((texted object).targetPort (field entry 2 1))) loadDesc.ctxTag (field loadDesc.bytes 24 8 + field entry 16 8) (moveObject object noHit).obj).1 = .ok := by decide +kernel
/-- A checkpoint entry: 32 bytes at address 0 to target 0. -/
def ckptEntry : Bytes := slice ([0, 0] ++ zeros 14 ++ natLe 8 0 ++ zeros 16 ++ natLe 8 32) 0 64
/-- Context 0 with a CHECKPOINT of `n` entries, its page mapped, target 0 valid. -/
def ckpting (n : Nat) : State := (mapped (withCtx (fun c => { c with work := [desc 6 (zeros 8 ++ natLe 4 n)] })) []).setF F.ethTgtValid 1 0
theorem wit_ckpt : ∀ n ∈ [0, 1], let s := ckpting n
    s.ctxState 0 = 1 ∧ s.noStart = false ∧ (s.ctx 0).idleWork = true ∧ (s.ctx 0).work = [desc 6 (zeros 8 ++ natLe 4 n)] ∧ (desc 6 (zeros 8 ++ natLe 4 n)).opcode = 6 ∧
    s.descFault 0 (desc 6 (zeros 8 ++ natLe 4 n)) = none ∧ field (desc 6 (zeros 8 ++ natLe 4 n)).bytes 16 4 = n := by decide +kernel
/-- The read of that entry's object. -/
def ckptRead : Except (Option Status) (Bytes × Nat) × State := ((ckpting 1).setCtx 0 { (ckpting 1).ctx 0 with
  work := [], ckpt := some { Job.start (desc 6 (zeros 8 ++ natLe 4 1)) none 1 with objects := [ckptEntry] } }).readCkpt
    (ethOf ((ckpting 1).targetPort (field ckptEntry 1 1))) (desc 6 []).ctxTag (sourceOf 3 ((ckpting 1).targetPort (field ckptEntry 1 1))) ckptEntry
/-- What leaves of it when nothing strikes it. -/
def ckptMoved : Moved := moveObject (val ([], 0) ckptRead).1 (hitOn [] 0) true
theorem wit_ckpt_object : ckptRead = (.ok (val ([], 0) ckptRead), ckptRead.2) ∧ ckptMoved.lost = false ∧
    ckptRead.2.flag F.ethTgtEncrypt (field ckptEntry 1 1) = false ∧ ckptMoved.obj ≠ [] ∧ ckptMoved.obj.length ≤ 2 ^ 20 ∧ ckptEntry.length = 64 ∧
    ((ckpting 1).setCtx 0 { (ckpting 1).ctx 0 with work := [], ckpt := some { Job.start (desc 6 (zeros 8 ++ natLe 4 1)) none 1 with objects := [ckptEntry] } }).overfills 0 ckptRead.2 true = false ∧
    (ckpting 1).entryBad ckptEntry = false ∧ (ckpting 1).getF F.ethTgtState (field ckptEntry 1 1) ≠ 2 := ⟨val_eq _ (by decide +kernel), by decide +kernel⟩
theorem wit_ckpt_done : let j : Job := { Job.start (desc 6 []) none 1 with objects := [ckptEntry], tried := [0] }
    let s := withCtx (fun c => { c with ckpt := some j })
    (s.ctx 0).ckpt = some j ∧ j.tried = [0] ∧ j.finished = [] ∧ s.stopped = false ∧ s.overfills 0 (s.ckptDone 0 j 0 []) true = false := by decide +kernel

theorem wit_nop_op : (task [opw 0 1]).atOp 0 0 sl0 .nop (opw 0 1) 0 (after (task [opw 0 1])) := atOp_of (by decide +kernel)
theorem wit_settle : (task [opw 9 0]).atOp 0 0 sl0 .settle (opw 9 0) 0 (after (task [opw 9 0])) ∧ ((after (task [opw 9 0])).core 0).busy 0 = false :=
  ⟨atOp_of (by decide +kernel), by decide +kernel⟩
theorem wit_pset : (task [opw 0 4]).atOp 0 0 sl0 .pset (opw 0 4) 0 (after (task [opw 0 4])) := atOp_of (by decide +kernel)
theorem wit_end_op : (task [opw 0 2]).atOp 0 0 sl0 .endTask (opw 0 2) 0 (after (task [opw 0 2])) := atOp_of (by decide +kernel)
/-- LOOP over one word, so many times. -/
def loopw (n : Nat) : Nat := opw 0 3 [(n, 97), (1, 79)]
theorem wit_loop : ∀ n ∈ [0, 65535], (task [loopw n, opw 0 1]).atOp 0 0 sl0 .loop (loopw n) 0 (after (task [loopw n, opw 0 1])) ∧
    sl0.loops = [] ∧ bits (loopw n) 96 79 = 1 ∧ bits (loopw n) 112 97 = n ∧ 32 ≤ (((after (task [loopw n, opw 0 1])).core 0).polder 1).length * granule ∧
    ((after (task [loopw n, opw 0 1])).word 0 1 1).1 = some (opw 0 1) ∧ opOf (opw 0 1) = some .nop := by
  intro n h
  simp only [List.mem_cons, List.not_mem_nil, or_false] at h
  obtain rfl | rfl := h <;> exact ⟨atOp_of (by decide +kernel), by decide +kernel⟩
theorem wit_move : (task [opw 7 0]).atOp 0 0 sl0 .move (opw 7 0) 0 (after (task [opw 7 0])) := atOp_of (by decide +kernel)
theorem wit_compute : (task [opw 7 1]).atOp 0 0 sl0 .compute (opw 7 1) 0 (after (task [opw 7 1])) ∧ (after (task [opw 7 1])).phaseHold = false :=
  ⟨atOp_of (by decide +kernel), by decide +kernel⟩
/-- The weir holds phases back. -/
def heldBack : State := { task [opw 7 1] with phaseHold := true }
theorem wit_compute_held : heldBack.atOp 0 0 sl0 .compute (opw 7 1) 0 (after heldBack) ∧ (after heldBack).phaseHold = true :=
  ⟨atOp_of (by decide +kernel), by decide +kernel⟩
theorem wit_slot_free : let c : CoreSt := { CoreSt.idle with slots := [(2, { Slot.empty with ending := true })] }
    (c.slot 2).ending = true ∧ c.busy 2 = false := by decide +kernel
/-- A counter of context 0 with a count and a target of 2. -/
def counter (count : Nat) : CoreSt → CoreSt := fun c => c.setBar 0 { Bar.free with bound := true, owner := 0, count := count, target := 2 }
theorem wit_wait : ∀ n ∈ [1, 2], (task [opw 6 0] (counter n)).atOp 0 0 sl0 .wait (opw 6 0) 0 (after (task [opw 6 0] (counter n))) ∧
    ((after (task [opw 6 0] (counter n))).core 0).boundBar sl0.tag 0 = true ∧ (((after (task [opw 6 0] (counter n))).core 0).bar 0).waiter = none ∧
    (((after (task [opw 6 0] (counter n))).core 0).bar 0).count = n ∧ (((after (task [opw 6 0] (counter n))).core 0).bar 0).target = 2 := by
  intro n h
  simp only [List.mem_cons, List.not_mem_nil, or_false] at h
  obtain rfl | rfl := h <;> exact ⟨atOp_of (by decide +kernel), by decide +kernel⟩
theorem wit_target : (task [opw 6 2] (counter 0)).atOp 0 0 sl0 .target (opw 6 2) 0 (after (task [opw 6 2] (counter 0))) ∧
    ((after (task [opw 6 2] (counter 0))).core 0).boundBar sl0.tag 0 = true := ⟨atOp_of (by decide +kernel), by decide +kernel⟩
theorem wit_test : (task [opw 6 3] (counter 0)).atOp 0 0 sl0 .test (opw 6 3) 0 (after (task [opw 6 3] (counter 0))) ∧
    ((after (task [opw 6 3] (counter 0))).core 0).boundBar sl0.tag 0 = true := ⟨atOp_of (by decide +kernel), by decide +kernel⟩
/-- ARRIVE of one at core 191 of this chip. -/
def arrivew : Nat := opw 6 1 [(1, 87), (16383, 73), (191, 65)]
theorem wit_arrive : (task [arrivew]).atOp 0 0 sl0 .arrive arrivew 0 (after (task [arrivew])) ∧ bits arrivew 109 87 = 1 ∧ bits arrivew 72 65 = 191 ∧
    ((after (task [arrivew])).core 0).busy 0 = false ∧ (after (task [arrivew])).isHere (bits arrivew 86 73) = true := ⟨atOp_of (by decide +kernel), by decide +kernel⟩

/-- Polders 2 to 6 of context 0 after the code: two operands, accumulators, check states, an output. -/
def arrays (f : CoreSt → CoreSt := id) : CoreSt → CoreSt := fun c => f { c with ht := c.ht ++ [(2, pold 1), (3, pold 2), (4, pold 3 (fun p => { p with accum := true })),
  (5, pold 4 (fun p => { p with accum := true })), (6, pold 5)] }
/-- MATRIX of one element of INT8 by one, `m` rows, output format `o`. -/
def mw (m o : Nat) (fmt : Nat := 10) : Nat := opw 1 0 [(1, 112), (1, 110), (fmt, 106), (fmt, 102), (o, 99), (m, 83), (1, 67), (1, 58), (ref 2 0, 29), (ref 3 0, 0)]
/-- Its second word. -/
def mv (o : Nat) : Nat := cont 1 (ref 4 0) (ref 5 0) (if o = 0 then 0 else ref 6 0) 0
/-- Core 0 at it, its task in the COMPUTE phase or not. -/
def matTask (m o : Nat) (compute : Bool := true) (fmt : Nat := 10) : State := task [mw m o fmt, mv o] (arrays (fun c => { c with slots := [(0, { sl0 with compute := compute })] }))
/-- The slot there. -/
def slc : Slot := { sl0 with compute := true }
theorem wit_matrix : ∀ m ∈ [0, 1], let s := matTask m 0; let u := (s.decodeAt 0 slc).2
    s.atOp 0 0 slc .matrix (mw m 0) (mv 0) u ∧ (matrixOp 0 slc (mw m 0) (mv 0)).fault (u.core 0) slc (mw m 0) (mv 0) = none ∧ (matrixOp 0 slc (mw m 0) (mv 0)).m = m ∧
    (u.core 0).me.length < 2 ∧ (matrixOp 0 slc (mw m 0) (mv 0)).handles.any (fun h => (u.core 0).accumulating 0 h) = false ∧
    (u.core 0).awaits (matrixOp 0 slc (mw m 0) (mv 0)).regions = false ∧
    ((matrixOp 0 slc (mw m 0) (mv 0)).draws && (u.core 0).vu.any (fun x => x.slot == 0 && x.draws)) = false ∧ (u.core 0).me = [] := by
  intro m h
  simp only [List.mem_cons, List.not_mem_nil, or_false] at h
  obtain rfl | rfl := h <;> exact ⟨atOp_of (by decide +kernel), by decide +kernel⟩
theorem wit_matrix_move : let s := matTask 1 0 false; s.atOp 0 0 sl0 .matrix (mw 1 0) (mv 0) (s.decodeAt 0 sl0).2 ∧ sl0.compute = false := ⟨atOp_of (by decide +kernel), rfl⟩
theorem wit_matrix_fault : let s := matTask 1 5; let u := (s.decodeAt 0 slc).2
    s.atOp 0 0 slc .matrix (mw 1 5) (mv 5) u ∧ (matrixOp 0 slc (mw 1 5) (mv 5)).fault (u.core 0) slc (mw 1 5) (mv 5) = some .descInvalid :=
  ⟨atOp_of (by decide +kernel), by decide +kernel⟩
/-- Core 0 with an operation in its matrix engine. -/
def meTask (o : MeOp) : State := task [] (arrays (fun c => { c with me := [o] }))
/-- The operation of that word. -/
def mop (m o fmt : Nat) : MeOp := matrixOp 0 slc (mw m o fmt) (mv o)
/-- What the fill of its tile gives. -/
def filled (o : MeOp) : MeShadow := ((meTask o).fillTile 0 o o.pass).1
theorem wit_swap : let o := { mop 1 0 10 with shadow := some (filled (mop 1 0 10)) }; let s := meTask o
    (s.core 0).me = [o] ∧ o.active = false ∧ (s.core 0).rst < 2 ∧ (filled (mop 1 0 10)).error = none := by decide +kernel
/-- Polder 2's first codeword is lost. -/
def lostIn (s : State) : State := s.setCore 0 { s.core 0 with spmErr := [(granule / 32, [(0, 1), (1, 1), (2, 1), (3, 1)])] }
theorem wit_swap_fails : let s := lostIn (meTask (mop 1 0 10))
    (s.core 0).me = [mop 1 0 10] ∧ (mop 1 0 10).shadow = none ∧ (s.core 0).rst < 2 ∧ (s.fillTile 0 (mop 1 0 10) 0).1.error = some .uncorrectable := by decide +kernel
/-- An operation under way: `m` rows, output `o`, a pass, a retry. -/
def moving (m o : Nat) (pass : Nat := 0) (retrying : Bool := false) (fmt : Nat := 10) (k : Nat := 1) : MeOp :=
  { mop m o fmt with active := true, pass := pass, retrying := retrying, k := k, tile := (filled { mop m o fmt with pass := pass, k := k }).tile }
/-- No fault strikes, or two flips do. -/
def clean : GroupHit := ⟨[], [], [], [], .agree⟩
def struck : GroupHit := ⟨[(0, 1)], [(0, 1)], [], [], .agree⟩
/-- What the drain has read: state before, the slab, no scales, accumulators. -/
def mslab (o : MeOp) : Except Status Bytes × List (Nat × Bytes) × State :=
  ((meTask o).bump F.coreMeFrzDrainCount 0 0).bufferedRead 0 o.tag 3 (o.mv + (o.pass * o.mPad + 8 * o.group) * o.kForm * bitsOf o.mfmt / 8) (o.kForm * bitsOf o.mfmt) o.buffer
def molds (o : MeOp) : Option (List (List Nat × RowCheck)) × State :=
  (mslab o).2.2.drainRead 0 { o with buffer := (mslab o).2.1 } (min 8 (o.m - 8 * o.group))
/-- What its rows come to. -/
def mrows (o : MeOp) (hit : GroupHit) : List RowResult := o.rowResults inv.kappa (val [] (mslab o)) [] ((molds o).1.getD []) hit
/-- The premises that every clause of a drain shares. -/
def drains (o : MeOp) (hit : GroupHit) : Bool :=
  let s := meTask o
  decide ((s.core 0).me = [o]) && o.active && decide ((s.core 0).rst < 2) && !s.overfills (tagIndex o.tag) ((s.bump F.coreMeFrzDrainCount 0 0).runGroup 0 o hit) &&
  decide ((s.ctx (tagIndex o.tag)).inv = some inv) && o.handles.getD 1 0 == 3 &&
  !(decide (o.pass = 0) && decide (o.group = 0) && !o.start && o.firstGroupBad (s.chainCounts 0 o)) && isOk (mslab o) && !isMx o.mfmt && !isMx o.sfmt && (molds o).1.isSome
theorem wit_drain_retry : drains (moving 1 0) struck = true ∧ (mrows (moving 1 0) struck).any (fun r => !r.ok) = true ∧ (moving 1 0).retrying = false := by decide +kernel
theorem wit_drain_lasting : drains (moving 1 0 0 true) struck = true ∧ (mrows (moving 1 0 0 true) struck).any (fun r => !r.ok) = true ∧ (moving 1 0 0 true).retrying = true := by
  decide +kernel
/-- A group commits: more groups follow, another pass, or the end. -/
def commits (o : MeOp) : Bool := drains o clean && !(mrows o clean).any (fun r => !r.ok) && ((molds o).2.commitGroup 0 o (mrows o clean) none).1 && !(o.final && o.pass + 1 == o.count && o.ofmt != 0)
theorem wit_drain_group : commits (moving 9 0) = true ∧ 8 * ((moving 9 0).group + 1) < (moving 9 0).m := by decide +kernel
theorem wit_drain_pass : commits (moving 1 0 0 false 10 65) = true ∧ (moving 1 0 0 false 10 65).m ≤ 8 * ((moving 1 0 0 false 10 65).group + 1) ∧
    (moving 1 0 0 false 10 65).pass + 1 < (moving 1 0 0 false 10 65).count := by decide +kernel
theorem wit_drain_end : commits (moving 1 0) = true ∧ (moving 1 0).m ≤ 8 * ((moving 1 0).group + 1) ∧ (moving 1 0).count ≤ (moving 1 0).pass + 1 := by decide +kernel
/-- The output conversion of the only pass of an E4M3 operation. -/
def mconv : List (List Nat) × Bool × Nat × Rng := convertGroup (moving 1 1 0 false 0) bf16 inv.kappa false ((molds (moving 1 1 0 false 0)).2.rng 0 0)
  ((mrows (moving 1 1 0 false 0) clean).map (fun r => r.acc.map (fun v => if (moving 1 1 0 false 0).cls = .int then ofInt32 v else fp32.decode v))) clean.conv
theorem wit_drain_convert : drains (moving 1 1 0 false 0) clean = true ∧ (mrows (moving 1 1 0 false 0) clean).any (fun r => !r.ok) = false ∧ outFormat 1 = some bf16 ∧
    bit inv.drainChk (4 - 1) = false ∧ mconv.2.1 = true ∧
    (((molds (moving 1 1 0 false 0)).2.setRng 0 0 mconv.2.2.2).commitGroup 0 (moving 1 1 0 false 0) (mrows (moving 1 1 0 false 0) clean) (some mconv.1)).1 = true ∧
    ((moving 1 1 0 false 0).final && (moving 1 1 0 false 0).pass + 1 == (moving 1 1 0 false 0).count && (moving 1 1 0 false 0).ofmt != 0) = true := by decide +kernel

/-- VECTOR of one element: ADD of polders 2 and 3 to 6, in FP32; a function it may name. -/
def vw (fn : Nat := 0) (mode : Nat := 0) : Nat := opw 2 0 [(fn, 110), (11, 100), (11, 96), (11, 88), (mode, 86), (1, 68), (1, 52)]
/-- Operands of two-word operations of the vector unit. -/
def vv (cls : Nat) : Nat := cont cls (ref 2 0) (ref 3 0) 0 (ref 6 0)
/-- Core 0 at two words, its task in the COMPUTE phase, with polders 2 to 6. -/
def vuTask (w v : Nat) (f : CoreSt → CoreSt := id) : State := task [w, v] (arrays (fun c => f { c with slots := [(0, slc)] }))
/-- Its state once they are read. -/
def vuAfter (w v : Nat) : State := ((vuTask w v).decodeAt 0 slc).2
theorem wit_vector_bad : (vuTask (vw 63) (vv 2)).atOp 0 0 slc .vector (vw 63) (vv 2) (vuAfter (vw 63) (vv 2)) ∧ (vecFields (vw 63)).ok = false := ⟨atOp_of (by decide +kernel), by decide +kernel⟩
theorem wit_vector : let w := vw; let u := vuAfter vw (vv 2); let rs := (vecFields w).regions (vecOperands slc (vv 2))
    (vuTask vw (vv 2)).atOp 0 0 slc .vector w (vv 2) u ∧ slc.compute = true ∧ (vecFields w).ok = true ∧ regionOk (vecFields w).rows (vecFields w).cols = true ∧
    (u.core 0).regionFault 0 rs = none ∧ (u.core 0).overlaps rs = false ∧ (u.core 0).vuWaits 0 rs = false ∧ (u.core 0).ebbSlot 6 0 = none ∧
    (u.core 0).ebbSlot 0 0 = none ∧ (vecFields w).fn ≠ 0x0C ∧ (vecFields w).draws = false :=
  ⟨atOp_of (by decide +kernel), by decide +kernel⟩
/-- Operands of SFU (one source) or MICRO (two). -/
def sv (op : Nat) : Nat := cont 3 (ref 2 0) (if op = 0 then 0 else ref 3 0) 0 (ref 6 0)
/-- SFU or MICRO of one element of FP32. -/
def sw (op prog : Nat) : Nat := opw 3 op [(prog, 110), (11, 106), (if op = 0 then 0 else 11, 102), (11, 98), (1, 81), (1, 65)]
theorem wit_sfu : ∀ op ∈ [0, 1], let w := sw op op; let u := vuAfter w (sv op); let f := sfuFields w; let b := op == 1; let rs := f.regions (vecOperands slc (sv op)) b
    (vuTask w (sv op)).atOp 0 0 slc (if op = 0 then .sfu else .micro) w (sv op) u ∧ f.prog ≤ 1 ∧ f.fa = 11 ∧ f.fd = 11 ∧ (op = 1 → f.fb = 11) ∧ regionOk f.rows f.cols = true ∧ f.mb ≠ 3 ∧
    ((u.core 0).uprog f.prog).valid = true ∧ ((u.core 0).uprog f.prog).lib = true ∧ secondSource (sv op) = b ∧
    (u.core 0).regionFault 0 rs = none ∧ (u.core 0).overlaps rs = false ∧ (u.core 0).vuWaits 0 rs = false := by
  intro op h
  simp only [List.mem_cons, List.not_mem_nil, or_false] at h
  obtain rfl | rfl := h <;> exact ⟨atOp_of (by decide +kernel), by decide +kernel⟩
theorem wit_sfu_move : ∀ op ∈ [0, 1], let s := task [sw op op, sv op]; s.atOp 0 0 sl0 (if op = 0 then .sfu else .micro) (sw op op) (sv op) (after s) ∧ sl0.compute = false := by
  intro op h
  simp only [List.mem_cons, List.not_mem_nil, or_false] at h
  obtain rfl | rfl := h <;> exact ⟨atOp_of (by decide +kernel), rfl⟩
/-- MICRO of program 16, which another tag may own. -/
def microTask (valid : Bool) : State := vuTask (sw 1 16) (sv 1) (fun c => { c with udir := [(16, ⟨valid, false, 5, 256, 1⟩)] })
theorem wit_micro_fails : ∀ b ∈ [true, false], let u := ((microTask b).decodeAt 0 slc).2; let f := sfuFields (sw 1 16)
    (microTask b).atOp 0 0 slc .micro (sw 1 16) (sv 1) u ∧ ((u.core 0).uprog f.prog).valid = b ∧ (b = true → ((u.core 0).uprog f.prog).lib = false ∧ ((u.core 0).uprog f.prog).owner ≠ slc.tag) := by
  intro b h
  simp only [List.mem_cons, List.not_mem_nil, or_false] at h
  obtain rfl | rfl := h <;> exact ⟨atOp_of (by decide +kernel), by decide +kernel⟩
/-- An operation in the vector unit: one or two batches. -/
def vop (kind : VuKind) (w : Nat) : VuOp := ⟨kind, 0, 0, 0, w, 0, 0, 0, 0, [2, 3, 0], 6, [2, 3, 6], 0, 0, false, [], none, [], none, false⟩
/-- Core 0 with it. -/
def vuHas (o : VuOp) : State := task [] (arrays (fun c => { c with vu := [o] }))
/-- The shared premises of a batch. -/
def batching (o : VuOp) (rails : Rails := .agree) : Bool :=
  let s := vuHas o; decide ((s.core 0).vu = [o]) && decide ((s.core 0).rst < 2) && !s.overfills (tagIndex o.tag) (s.runBatch 0 o rails)
/-- What its batch writes can be written, after the generator's new state is in place. -/
def batches (o : VuOp) : Bool := match (vuHas o).batchOut 0 o with
  | (.ok b, u) => ((match b.rng with | some r => u.setRng 0 (tagIndex o.tag) r | none => u).putWrites 0 b.writes).1
  | (.error _, _) => false
/-- ADD of a row of some elements. -/
def vlong (n : Nat) : VuOp := vop .vector (opw 2 0 [(11, 100), (11, 96), (11, 88), (1, 68), (n, 52)])
/-- What the batch gives. -/
def vres (o : VuOp) (n : Nat) : Option (List Nat × List Nat × Rng) × State := (vuHas o).vecBatch 0 o 0 n
theorem wit_batch : ∀ p ∈ [(vlong 1, 1), (vlong 129, 128)], batching p.1 = true ∧ batches p.1 = true ∧ p.1.kind = .vector ∧ p.1.ebb = none ∧ min p.1.shape.2.2 (p.1.shape.1 * p.1.shape.2.1) = p.2 ∧
    (vres p.1 p.2).1.isSome = true ∧
    ((((vres p.1 p.2).2.setRng 0 0 (got ([], [], ⟨0, []⟩) (vres p.1 p.2)).2.2).writeCodes 0 6 0 32 0 (got ([], [], ⟨0, []⟩) (vres p.1 p.2)).1).1 = true) ∧
    ((((vres p.1 p.2).2.setRng 0 0 (got ([], [], ⟨0, []⟩) (vres p.1 p.2)).2.2).writeCodes 0 6 0 32 0 (got ([], [], ⟨0, []⟩) (vres p.1 p.2)).1).2.writeCodes 0 0 0 8 0
      (got ([], [], ⟨0, []⟩) (vres p.1 p.2)).2.1).1 = true := by decide +kernel
theorem wit_batch_lasting : batching (vlong 1) .lasting = true ∧ isOk ((vuHas (vlong 1)).batchOut 0 (vlong 1)) = true := by decide +kernel
theorem wit_batch_fails : let s := lostIn (vuHas (vlong 1)); (s.core 0).vu = [vlong 1] ∧ (s.core 0).rst < 2 ∧ s.overfills 0 (s.runBatch 0 (vlong 1) .agree) = false ∧
    isOk (s.batchOut 0 (vlong 1)) = false := by decide +kernel
theorem wit_batch_sfu : let o := vop .sfu (sw 0 0); batching o = true ∧ batches o = true ∧ o.kind ≠ .vector ∧ o.ebb = none ∧ ((vuHas o).sfuBatch 0 o 0 1).1.isSome = true ∧
    (((vuHas o).sfuBatch 0 o 0 1).2.writeCodes 0 6 0 32 0 [0]).1 = true := by decide +kernel
/-- ULOAD of one word from row 1 of the code to entry 256 as program 16. -/
def uw : Nat := opw 3 2 [(16, 110), (256, 100), (1, 94), (ref 1 1, 65)]
/-- Core 0 at it, expert features on. -/
def uloading : State := (task [uw] (fun c => { c with spm := Mem.writeN c.spm 256 (natLe 8 (2 ^ 32)) })).setF F.glbExpertExpert 1
theorem wit_uload : let u := after uloading; let r := u.spmRead 0 ((u.core 0).abs 1 256) 8
    uloading.atOp 0 0 sl0 .uload uw 0 u ∧ bits uw 115 110 = 16 ∧ bits uw 109 100 = 256 ∧ bits uw 99 94 = 1 ∧ addr sl0 (bits uw 93 65) = (1, 1) ∧
    ((u.core 0).polder 1).valid = true ∧ ((u.core 0).polder 1).owner = 0 ∧ ((u.core 0).polder 1).code = true ∧ 256 + 8 ≤ ((u.core 0).polder 1).length * granule ∧
    (u.core 0).vu = [] ∧ ((u.core 0).uprog 16).valid = false ∧ (u.core 0).udir = [] ∧ r.1.isSome = true ∧ microOk (field (got [] r) 0 8) true = true :=
  ⟨atOp_of (by decide +kernel), by decide +kernel⟩

/-- A micro-operation of another task is in the vector unit, its operands untouched by any other's. -/
def elsewhere : VuOp := { vop .micro 0 with slot := 1, handles := [], dHandle := 99, uses := [] }
/-- ROWSTAT of one row of `e` elements, in FP32. -/
def rowWord (fn e : Nat) : Nat := opw 4 0 [(fn, 112), (if fn = 0 ∨ fn = 3 then 11 else 0, 107), (if fn = 2 ∨ fn = 5 then 11 else 0, 103), (1, 89), (if fn = 0 ∨ fn = 3 then e else 0, 73),
  (if fn = 2 ∨ fn = 5 then 3 else 0, 71)]
/-- Its operands. -/
def rowOps (fn : Nat) : Nat := cont 4 (if fn = 2 ∨ fn = 5 then 0 else ref 2 0) (ref 3 0) (if fn = 2 ∨ fn = 5 then ref 4 0 else 0) (if fn = 2 ∨ fn = 5 then ref 6 0 else 0)
/-- Core 0 at it; the records have a KIND. -/
def rowTask (fn e kind : Nat) : State :=
  let r := (rowRecOf (zeros 12 ++ natLe 4 kind)).bytes
  let d := if fn = 0 ∨ fn = 3 then [] else r
  vuTask (rowWord fn e) (rowOps fn) (fun c => { c with spm := Mem.writeN (Mem.writeN c.spm (granule * 2) r) granule d })
/-- Once its words are read. -/
def rowAfter (fn e kind : Nat) : State := ((rowTask fn e kind).decodeAt 0 slc).2
theorem wit_row_issue : ∀ fn ∈ [0, 1, 2, 3, 4, 5], (rowTask fn 1 0).atOp 0 0 slc .rowstat (rowWord fn 1) (rowOps fn) (rowAfter fn 1 0) := by
  intro fn h
  simp only [List.mem_cons, List.not_mem_nil, or_false] at h
  obtain rfl | rfl | rfl | rfl | rfl | rfl := h <;> exact atOp_of (by decide +kernel)
/-- The same with another operation in the unit. -/
def rowBehind (fn : Nat) : State := (rowTask fn 1 0).setCore 0 { (rowTask fn 1 0).core 0 with vu := [elsewhere] }
theorem wit_row_behind : ∀ fn ∈ [0, 1, 2, 3, 4, 5], let u := ((rowBehind fn).decodeAt 0 slc).2; let f := rowFields (rowWord fn 1); let rs := f.regions (vecOperands slc (rowOps fn))
    (rowBehind fn).atOp 0 0 slc .rowstat (rowWord fn 1) (rowOps fn) u ∧ (u.core 0).regionFault 0 rs = none ∧ (u.core 0).overlaps rs = false ∧ (u.core 0).vuWaits 0 rs = false ∧
    (u.core 0).vu ≠ [] := by
  intro fn h
  simp only [List.mem_cons, List.not_mem_nil, or_false] at h
  obtain rfl | rfl | rfl | rfl | rfl | rfl := h <;> exact ⟨atOp_of (by decide +kernel), by decide +kernel⟩
theorem wit_row_empty : ∀ fn ∈ [0, 3], (rowTask fn 0 0).atOp 0 0 slc .rowstat (rowWord fn 0) (rowOps fn) (rowAfter fn 0 0) ∧ (rowFields (rowWord fn 0)).isUpdate = true ∧
    (rowFields (rowWord fn 0)).e = 0 ∧ (rowFields (rowWord fn 0)).ok = true := by
  intro fn h
  simp only [List.mem_cons, List.not_mem_nil, or_false] at h
  obtain rfl | rfl := h <;> exact ⟨atOp_of (by decide +kernel), by decide +kernel⟩
theorem wit_row_checks : ∀ fn ∈ [0, 1, 2, 3, 4, 5], let u := rowAfter fn 1 0; let f := rowFields (rowWord fn 1); let rs := f.regions (vecOperands slc (rowOps fn))
    bits (rowWord fn 1) 115 112 = fn ∧ f.ok = true ∧ (f.isUpdate = true → f.e ≠ 0) ∧ (u.core 0).regionFault 0 rs = none ∧ (u.core 0).overlaps rs = false ∧ (u.core 0).vuWaits 0 rs = false ∧
    (u.core 0).vu = [] := by decide +kernel
/-- That operation in the vector unit, its records of a KIND. -/
def rowOp (fn e : Nat) : VuOp := { vop .rowstat (rowWord fn e) with handles := (vecOperands slc (rowOps fn)).map (·.1) }
def rowHas (fn kind : Nat) : State := (rowAfter fn 1 kind).setCore 0 { (rowAfter fn 1 kind).core 0 with vu := [rowOp fn 1] }
/-- The part of its rows. -/
def rowGets (fn kind : Nat) : Except Status RowPart × State :=
  (rowHas fn kind).rowPart 0 (rowOp fn 1) (rowFields (rowWord fn 1)) 0 (min (rowFields (rowWord fn 1)).perBatch ((rowFields (rowWord fn 1)).rows - 0))
/-- What every clause of its batch asks. -/
def rowRuns (fn kind : Nat) (rails : Rails) : Bool :=
  let s := rowHas fn kind; let f := rowFields (rowWord fn 1)
  decide ((s.core 0).vu = [rowOp fn 1]) && decide ((s.core 0).rst < 2) && decide ((rowOp fn 1).kind = .rowstat) && (rowOp fn 1).row.isNone && decide (f.parts = 1) &&
  !s.overfills 0 (s.runBatch 0 (rowOp fn 1) rails)
theorem wit_row_error : ∀ fn ∈ [0, 1, 2, 3, 4, 5], rowRuns fn 3 .agree = true ∧ isOk (rowGets fn 3) = false := by decide +kernel
theorem wit_row_lasting : ∀ fn ∈ [0, 1, 2, 3, 4, 5], rowRuns fn 0 .lasting = true ∧ isOk (rowGets fn 0) = true := by decide +kernel
/-- The part it gives. -/
def rowHolds (fn : Nat) : RowPart := val ⟨[], []⟩ (rowGets fn 0)
theorem wit_row_ok : ∀ fn ∈ [0, 1, 2, 3, 4, 5], let f := rowFields (rowWord fn 1); rowRuns fn 0 .agree = true ∧ isOk (rowGets fn 0) = true ∧
    ((rowGets fn 0).2.putWrites 0 ((if (rowHolds fn).probs.isEmpty then [] else [⟨(rowOp fn 1).handles.getD 2 0, 0, bitsOf f.cfmt, 0, (rowHolds fn).probs⟩]) ++ (rowHolds fn).rest)).1 = true := by
  decide +kernel

/-- ALLOC of a handle at a length. -/
def aw (h len : Nat) : Nat := opw 8 0 [(h, 108), (len, 99)]
theorem wit_alloc_fail : ∀ p ∈ [(1, 1, 0), (2, 0, 1), (2, 385, 1), (2, 384, 3)], (task [aw p.1 p.2.1]).atOp 0 0 sl0 .alloc (aw p.1 p.2.1) 0 (after (task [aw p.1 p.2.1])) ∧
    ((after (task [aw p.1 p.2.1])).core 0).allocFail (allocWord (aw p.1 p.2.1)) = some p.2.2 ∧ (after (task [aw p.1 p.2.1])).flag F.spmAllocFailValid 0 = false := by
  intro p h
  simp only [List.mem_cons, List.not_mem_nil, or_false] at h
  obtain rfl | rfl | rfl | rfl := h <;> exact ⟨atOp_of (by decide +kernel), by decide +kernel⟩
theorem wit_alloc : ∀ n ∈ [1, 383], (task [aw 2 n]).atOp 0 0 sl0 .alloc (aw 2 n) 0 (after (task [aw 2 n])) ∧
    ((after (task [aw 2 n])).core 0).allocFail (allocWord (aw 2 n)) = none := by
  intro n h
  simp only [List.mem_cons, List.not_mem_nil, or_false] at h
  obtain rfl | rfl := h <;> exact ⟨atOp_of (by decide +kernel), by decide +kernel⟩
/-- FREE or RELEASE of polder 2, a count for the latter. -/
def fw (op n : Nat) : Nat := opw 8 op [(2, 108), (n, 97)]
/-- Core 0 at it; a stream was armed on polder 2. -/
def hTask (op n : Nat) : State := task [fw op n] (fun c => { c with ht := c.ht ++ [(2, pold 1 (fun p => { p with armedBy := some 0 }))] })
theorem wit_free : let u := after (hTask 1 0); (hTask 1 0).atOp 0 0 sl0 .free (fw 1 0) 0 u ∧ (u.core 0).check 0 2 0 0 = none ∧ (u.core 0).touches 0 2 = false ∧
    (u.core 0).armedOn 2 = false ∧ (u.core 0).allocating 2 = false ∧ ((u.core 0).polder 2).sluice = false := ⟨atOp_of (by decide +kernel), by decide +kernel⟩
theorem wit_release : ∀ n ∈ [0, 1], let u := after (hTask 2 n); (hTask 2 n).atOp 0 0 sl0 .release (fw 2 n) 0 u ∧ bits (fw 2 n) 107 97 = n ∧
    (u.core 0).check 0 2 0 0 = none ∧ (u.core 0).touches 0 2 = false ∧ (match u.releaseSlots 0 2 1 with | .ok _ => true | .error _ => false) = true := by
  intro n h
  simp only [List.mem_cons, List.not_mem_nil, or_false] at h
  obtain rfl | rfl := h <;> exact ⟨atOp_of (by decide +kernel), by decide +kernel⟩
theorem wit_dredger : ∀ row ∈ [0, 12287], let s := State.reset.setCore 0 { CoreSt.idle with dredgeRow := row }
    (s.core 0).rst = 0 ∧ s.stopped = false ∧ (s.core 0).spmErr = [] ∧ (s.core 0).spmPassing = [] ∧ (s.core 0).dredgeRow = row := by decide +kernel
theorem wit_zeroing : let s := State.reset.setCore 0 { CoreSt.idle with zeroing := [383] }; (s.core 0).zeroing = [383] ∧ (s.core 0).frees = [] ∧ (s.core 0).spm.wf = true := by decide +kernel

/-- A stream descriptor of rows of 64 bytes, from polder 2 or address 0 to polder 2 or address 0. -/
def sbytes (ctrl count : Nat) (crcDst : Nat := 0) : Bytes :=
  slice (zeros 40 ++ natLe 4 ctrl ++ [2, 2, 0, 0] ++ natLe 4 64 ++ zeros 4 ++ natLe 4 count ++ zeros 16 ++ natLe 4 64 ++ zeros 16 ++ zeros 4 ++ natLe 4 crcDst) 0 128
/-- CTRL of a move from the scratchpad to device memory. -/
def toHbm : Nat := 4 + 16 + 2 ^ 25
/-- The descriptor in force. -/
def sdesc (ctrl count : Nat) (crcDst : Nat := 0) : StreamDesc := streamDesc (sbytes ctrl count crcDst) 0 0
/-- A run of it. -/
def srun (d : StreamDesc) (f : Run → Run := id) : Run := f ⟨d, 0, d.blocks, 0, 0, [], [], 0xFFFFFFFF, [], .ok, 0, 0, 0, 1, [], none, true, none, 0, false⟩
/-- A core with stream 0 bound to context 0, with a run and a held descriptor. -/
def strmed (run : Option Run) (held : Option (StreamDesc × Nat) := none) : CoreSt → CoreSt := fun c =>
  { c with ht := c.ht ++ [(2, pold 1)], strms := [(0, { Strm.free with bound := true, run := run, held := held })] }
/-- ARM of stream 0 with the descriptor at row 1 of the code. -/
def armw : Nat := opw 5 0 [(ref 1 1, 81)]
/-- Core 0 at it. -/
def arming (ctrl count : Nat) (run : Option Run := none) : State := task [armw] (fun c => strmed run none { c with spm := Mem.writeN c.spm 256 (sbytes ctrl count) })
/-- The read of the descriptor. -/
def armRead (s : State) : Option Bytes × State := (after s).spmRead 0 (((after s).core 0).abs 1 256) 128
/-- What every ARM clause asks. -/
def armOk (s : State) : Bool :=
  let u := after s; let p := (u.core 0).polder 1; let x := (u.core 0).strm 0
  decide (addr sl0 (bits armw 109 81) = (1, 1)) && p.valid && decide (p.owner = 0) && p.code && decide (256 + 128 ≤ p.length * granule) && x.bound && decide (x.owner = 0) &&
  (armRead s).1.isSome && (u.core 0).me.isEmpty && (u.core 0).vu.isEmpty
/-- Validation of what was read. -/
def armFault (s : State) : Option Status := ((armRead s).2.step1 0 0 1).streamFault 0 0 0 (streamDesc (got [] (armRead s)) 0 0)
theorem wit_arm : let s := arming toHbm 1; s.atOp 0 0 sl0 .arm armw 0 (after s) ∧ armOk s = true ∧ ((after s).core 0 |>.strm 0).run = none ∧ armFault s = none ∧
    (streamDesc (got [] (armRead s)) 0 0).total ≠ 0 :=
  ⟨atOp_of (by decide +kernel), by decide +kernel, by decide +kernel, by decide +kernel, by decide +kernel⟩
theorem wit_arm_bad : let s := arming 20 1; s.atOp 0 0 sl0 .arm armw 0 (after s) ∧ armOk s = true ∧ ((after s).core 0 |>.strm 0).run = none ∧ armFault s = some .descInvalid :=
  ⟨atOp_of (by decide +kernel), by decide +kernel, by decide +kernel, by decide +kernel⟩
theorem wit_arm_busy : let s := arming toHbm 1 (some (srun (sdesc toHbm 1))); s.atOp 0 0 sl0 .arm armw 0 (after s) ∧ armOk s = true ∧
    ((after s).core 0 |>.strm 0).run = some (srun (sdesc toHbm 1)) ∧ ((after s).core 0 |>.strm 0).held = none :=
  ⟨atOp_of (by decide +kernel), by decide +kernel, by decide +kernel, by decide +kernel⟩
theorem wit_arm_zero : let s := arming toHbm 0; s.atOp 0 0 sl0 .arm armw 0 (after s) ∧ armOk s = true ∧ ((after s).core 0 |>.strm 0).run = none ∧ armFault s = none ∧
    (streamDesc (got [] (armRead s)) 0 0).total = 0 :=
  ⟨atOp_of (by decide +kernel), by decide +kernel, by decide +kernel, by decide +kernel, by decide +kernel⟩
/-- Core 0 with a run under way, the context's page mapped. -/
def streaming (r : Run) (bs : Bytes := []) : State := mapped (task [] (strmed (some r))) bs
/-- What every clause about a run asks. -/
def runOk (r : Run) : Bool :=
  let s := streaming r; let x := (s.core 0).strm 0
  decide (x.run = some r) && decide ((s.core 0).rst = 0) && s.live x.owner && x.held.isNone && !s.phaseHold && decide (r.flight.all (fun b => b.asked))
theorem wit_issue : let r := srun (sdesc toHbm 33); let s := streaming r; let x := s.readBlock (seOf 0) 0 0 r.desc 0 []
    runOk r = true ∧ r.loaded = true ∧ (s.core 0).moving = true ∧ r.issued < s.passBlocks 0 r ∧ ((s.core 0).strm 0).inFlight < 16 ∧
    (s.core 0).strms.foldl (fun n p => n + p.2.inFlight) 0 < 64 ∧ r.desc.isRing = false ∧ r.desc.digest = false ∧ s.overfills 0 (s.issueBlock 0 0 r) = false ∧ x.1.later = false := by
  decide +kernel
/-- A block that goes back to its source. -/
def unread : StrmBlock := ⟨0, 0, [], [], [], .ok, 0, 0, false, true⟩
theorem wit_issue_again : let r := srun (sdesc toHbm 1) (fun r => { r with flight := [unread], issued := 1 }); let s := streaming r; let x := s.readBlock (seOf 0) 0 0 r.desc 0 []
    ((s.core 0).strm 0).run = some r ∧ (s.core 0).rst = 0 ∧ r.flight.find? (fun b => !b.asked) = some unread ∧ r.desc.srcKind ≠ 2 ∧
    s.overfills 0 ((s.fillBlock 0 0 0 r.desc unread).2.setBlock 0 0 (s.fillBlock 0 0 0 r.desc unread).1) = false ∧ x.1.later = false := by decide +kernel
theorem wit_issue_held : ({ State.reset with phaseHold := true } : State).phaseHold = true ∧ (({ State.reset with phaseHold := true } : State).core 0 |>.strm 0).run = none := by
  decide +kernel
/-- A run whose blocks are all written. -/
def written (ctrl crcDst : Nat) : Run := srun (sdesc ctrl 1 crcDst) (fun r => { r with written := 1, issued := 1 })
theorem wit_run_end : let r := written (toHbm + 2 ^ 8) 0; runOk r = true ∧ r.pass ≠ 0 ∧ r.total ≤ r.written ∧ r.flight = [] ∧ r.acks = [] ∧
    (streaming r).overfills 0 ((streaming r).runEnd 0 0 r) = false ∧ bit r.desc.ctrl 9 = false ∧ r.desc.digest = true := by
  decide +kernel
theorem wit_run_end_crc : let r := written (toHbm + 2 ^ 9) 2; let s := streaming r; runOk r = true ∧ r.acks = [] ∧ s.overfills 0 (s.runEnd 0 0 r) = false ∧ bit r.desc.ctrl 9 = true ∧ (s.core 0).check 0 (r.desc.crcDst % 256) (r.desc.crcDst / 256) 4 true true = none ∧
    (s.spmWrite 0 ((s.core 0).abs (r.desc.crcDst % 256) (r.desc.crcDst / 256)) (natLe 4 (r.crc ^^^ 0xFFFFFFFF).toNat)).1 = true := by decide +kernel
theorem wit_run_failed : let r := { written toHbm 0 with status := .damagedBlock }; r.status ≠ .ok ∧ ((streaming r |>.core 0).strm 0).run = some r ∧ r.flight = [] ∧ (streaming r).strmAsks 0 0 = false ∧ (streaming r).overfills 0 ((streaming r).runEnd 0 0 r) = false := by decide +kernel
/-- A block of 64 bytes in flight. -/
def sblock (data : Bytes) (tag : Bytes := []) : StrmBlock := ⟨0, 0, data, tag, [], .ok, 0, 0, true, false⟩
/-- A run with it. -/
def flying (ctrl : Nat) (b : StrmBlock) (pass : Nat := 1) (f : Run → Run := id) : Run := srun (sdesc ctrl 1) (fun r => f { r with flight := [b], issued := 1, pass := pass, hist := List.replicate 272 0 })
/-- What every write of its first block asks. -/
def wrote (r : Run) (b : StrmBlock) (hit : Upset) : Bool :=
  decide (r.flight = [b]) && decide (b.waiting = 0) && b.asked && decide (b.status = .ok) && !(streaming r).overfills 0 ((streaming r).writeBlock 0 0 r b [] hit)
theorem wit_write_count : let r := flying toHbm (sblock (zeros 64)) 0; runOk r = true ∧ r.desc.srcCmp = false ∧ r.pass = 0 ∧ wrote r (sblock (zeros 64)) [] = true := by decide +kernel
theorem wit_write_damaged : let r := flying toHbm (sblock (zeros 64)); runOk r = true ∧ wrote r (sblock (zeros 64)) [(0, 1)] = true ∧ r.desc.srcCmp = false ∧ crc32c (upsetBytes (zeros 64) [(0, 1)]) ≠ crc32c (zeros 64) := by decide +kernel
/-- The commit of a block as it came. -/
def committed (r : Run) (b : StrmBlock) (plain : Bytes) (stored : Option (Bytes × Bytes)) : Bool :=
  match ((streaming r).setBlock 0 0 b).commitBlock 0 0 0 r.desc b plain stored with
  | some (.ok, _) => true
  | _ => false
theorem wit_write : let b := sblock (zeros 64); let r := flying toHbm b; runOk r = true ∧ wrote r b [] = true ∧ r.desc.srcCmp = false ∧ r.desc.stored = false ∧ r.desc.pack = false ∧ committed r b (zeros 64) none = true := by decide +kernel
/-- CRC-32C with a register evaluated at every byte. -/
def crcForced : Bytes → Nat → Nat
  | [], a => a
  | b :: bs, 0 => crcForced bs (crcByte 0 b).toNat
  | b :: bs, n + 1 => crcForced bs (crcByte (BitVec.ofNat 32 (n + 1)) b).toNat
theorem crcForced_cons (b : Byte) (bs : Bytes) (a : Nat) : crcForced (b :: bs) a = crcForced bs (crcByte (BitVec.ofNat 32 a) b).toNat := by cases a <;> rfl
theorem crcRun_forced (bs : Bytes) : ∀ c : BitVec 32, (crcRun c bs).toNat = crcForced bs c.toNat := by
  induction bs with
  | nil => intro c; rfl
  | cons b bs ih => intro c; rw [crcForced_cons, BitVec.ofNat_toNat, BitVec.setWidth_eq, ← ih]; rfl
theorem crc32c_forced (bs : Bytes) : crc32c bs = crcForced bs 0xFFFFFFFF ^^^ 0xFFFFFFFF := by
  unfold crc32c; rw [BitVec.toNat_xor, crcRun_forced]; rfl
/-- CRC-32C of 2,048 zero bytes. -/
def zcrc : Nat := 2760475471
theorem crcForced_append (xs ys : Bytes) : ∀ a, crcForced (xs ++ ys) a = crcForced ys (crcForced xs a) := by
  induction xs with
  | nil => intro a; rfl
  | cons x xs ih => intro a; rw [List.cons_append, crcForced_cons, crcForced_cons, ih]
theorem crcForced_more (n a : Nat) : crcForced (zeros (256 + n)) a = crcForced (zeros n) (crcForced (zeros 256) a) := by
  rw [← crcForced_append, show zeros (256 + n) = zeros 256 ++ zeros n from List.replicate_add ..]
theorem z0 : crcForced (zeros 256) 4294967295 = 1200442991 := by decide +kernel
theorem z1 : crcForced (zeros 256) 1200442991 = 3473084991 := by decide +kernel
theorem z2 : crcForced (zeros 256) 3473084991 = 3318006521 := by decide +kernel
theorem z3 : crcForced (zeros 256) 3318006521 = 290529667 := by decide +kernel
theorem z4 : crcForced (zeros 256) 290529667 = 1921003501 := by decide +kernel
theorem z5 : crcForced (zeros 256) 1921003501 = 175100626 := by decide +kernel
theorem z6 : crcForced (zeros 256) 175100626 = 1540069788 := by decide +kernel
theorem z7 : crcForced (zeros 256) 1540069788 = 1534491824 := by decide +kernel
theorem zcrc_eq : crc32c (zeros 2048) = zcrc := by
  rw [crc32c_forced, crcForced_more 1792, z0, crcForced_more 1536, z1, crcForced_more 1280, z2, crcForced_more 1024, z3, crcForced_more 768, z4, crcForced_more 512, z5, crcForced_more 256, z6, z7]
  decide +kernel
/-- A compressed block of zeros. -/
def zblock : StrmBlock := sblock [] (makeTag 0 0 false 0 zcrc 0 [])
theorem zblock_cause : tagCause zblock.tag = none := by decide +kernel
theorem zblock_format : tagFormat zblock.tag = 0 := by decide +kernel
theorem zblock_class : tagClassW zblock.tag = false := by decide +kernel
theorem zblock_crc : tagCrc zblock.tag = zcrc := by decide +kernel
theorem expandBody_zero (t p : Bytes) (h0 : tagFormat t = 0) (h : crc32c (zeros 2048) = tagCrc t) : expandBody [] t p = .ok (zeros 2048) := by
  unfold expandBody
  simp only [h0, h, if_true]
theorem zblock_body (payload : Bytes) : expandBody [] zblock.tag payload = .ok (zeros 2048) :=
  expandBody_zero _ _ zblock_format (zcrc_eq.trans zblock_crc.symm)
theorem zblock_expands (c : CoreSt) (payload : Bytes) (cls : Option Bool) : c.expand 0 zblock.tag payload cls = .bytes (zeros 2048) := by
  unfold CoreSt.expand
  rw [zblock_cause, zblock_class, zblock_format, zblock_body, Bool.and_false]
  rfl
/-- That block once it has been expanded. -/
def zdone : StrmBlock := { zblock with plain := zeros 64 }
theorem wit_write_stored : let r := flying (1 + 4 + 32 + 64 + 2 ^ 25) zdone 1 (fun r => { r with expanded := 1 }); runOk r = true ∧ wrote r zdone [] = true ∧ r.desc.srcCmp = true ∧
    r.desc.stored = true ∧ zdone.index < r.expanded ∧ committed r zdone (zeros 64) (some (zdone.tag, zdone.data)) = true := by decide +kernel
theorem wit_expand : let r := flying (1 + 32 + 2 ^ 25) zblock; runOk r = true ∧ r.flight.find? (fun x => x.index == r.expanded) = some zblock ∧ r.desc.srcCmp = true ∧ zblock.tag ≠ [] ∧ zblock.asked = true ∧ zblock.waiting = 0 ∧ zblock.status = .ok ∧
    slice (zblock.tag ++ zblock.data) 0 64 = zblock.tag ∧
    ((streaming r).core 0).expand 0 zblock.tag ((zblock.tag ++ zblock.data).drop 64) (some ((streaming r).core 0 |>.polder 2).classW) = .bytes (zeros 2048) :=
  ⟨by decide +kernel, by decide +kernel, by decide +kernel, by decide +kernel, by decide +kernel, by decide +kernel, by decide +kernel, by decide +kernel, zblock_expands ..⟩
theorem wit_expand_damaged : let b := sblock [] (zeros 64); let r := flying (1 + 32 + 2 ^ 25) b; runOk r = true ∧ r.flight.find? (fun x => x.index == r.expanded) = some b ∧ r.desc.srcCmp = true ∧
    b.tag ≠ [] ∧ b.again = false ∧ (match ((streaming r).core 0).expand 0 (zeros 64) [] (some ((streaming r).core 0 |>.polder 2).classW) with | .damaged _ => true | _ => false) = true := by
  decide +kernel
/-- The record of a table of one symbol. -/
def record : Bytes := natLe 136 1 ++ natLe 4 1385838780 ++ zeros 116
theorem record_crc : crcForced (slice record 0 136) 0xFFFFFFFF ^^^ 0xFFFFFFFF = 1385838780 := by decide +kernel
theorem record_table : validTable (recordLens record) = true := by decide +kernel
theorem record_rest : (field record 136 4 == 1385838780 && zeroAt record 140 116) = true := by decide +kernel
theorem record_valid : validRecord record = true := by
  have h : crc32c (slice record 0 136) = 1385838780 := by rw [crc32c_forced, record_crc]
  have r := record_rest
  unfold validRecord
  rw [h, record_table, Bool.true_and, r]
theorem wit_table_load : let r := srun (sdesc (toHbm + 2 ^ 10) 1) (fun r => { r with loaded := false }); let s := streaming r record
    ((s.core 0).strm 0).run = some r ∧ r.loaded = false ∧ (s.core 0).expanding r.desc.tableSlot = false ∧ (s.core 0).foreign r.desc.tableSlot 0 = false ∧
    s.overfills 0 (s.tableLoad 0 0 r []) = false ∧ (s.tableBytes 0 0 0 r []).1 = some (.data record) ∧ validRecord record = true :=
  ⟨by decide +kernel, by decide +kernel, by decide +kernel, by decide +kernel, by decide +kernel, by decide +kernel, record_valid⟩
/-- A run at the end of its histogram pass. -/
def counted (h : Nat) : Run := srun (sdesc (toHbm + 64) 1) (fun r => { r with pass := 0, issued := 1, written := 1, hist := h :: List.replicate 271 0 })
theorem wit_build : ∀ h ∈ [0, 5], let r := counted h; let s := streaming r; runOk r = true ∧ s.passBlocks 0 r ≤ r.written ∧ (s.core 0).expanding r.desc.tableSlot = false ∧
    (s.core 0).foreign r.desc.tableSlot 0 = false ∧ (buildTable r.hist).isSome = (h ≠ 0 : Bool) ∧ s.overfills 0 (s.tableBuild 0 0 r) = false ∧
    ((s.setRun 0 0 { r with pass := 1, issued := 0, written := 0, tableSlot := some r.desc.tableSlot }).writeSide 0 0 0
      { r.desc with ctrl := setBits r.desc.ctrl 3 2 r.desc.tableKind } r.total r.desc.table 0 (tableRecord ((buildTable r.hist).getD []))).1 = .ok := by decide +kernel

/-- A culvert message from core 9 of this chip to core 0, of context 0. -/
def msg (type arg : Nat) (f : Culvert → Culvert := id) : Culvert := f ⟨16383, 0, type, 0, 16383, 9, 0, 0, arg, [], none, 0, 0⟩
theorem wit_receives (s : State) (m : Culvert) (h : m.came = none) (k : s.stopped = false) : s.receives m s := .inl ⟨h, k, rfl⟩
/-- Core 0, changed as given, of a device with a bound INVOKE in context 0. -/
def at0 (f : CoreSt → CoreSt := id) : State := task [] f
/-- A counter of context 0 bound with a count. -/
theorem wit_arrival : ∀ n ∈ [0, 2 ^ 23 - 2], let s := at0 (counter n); let m := msg 1 256
    m.came = none ∧ s.stopped = false ∧ (s.core 0).rst = 0 ∧ ((s.core 0).bar (bits m.arg 5 0)).bound = true ∧ ((s.core 0).bar (bits m.arg 5 0)).owner = m.ctxTag ∧
    ((s.core 0).bar (bits m.arg 5 0)).waiter = none ∧ ((s.core 0).bar (bits m.arg 5 0)).count + bits m.arg 31 8 < 2 ^ 23 := by decide +kernel
theorem wit_arrival_diked : let s := at0 (fun c => { c with rst := 1 }); s.stopped = false ∧ (s.core 0).rst ≠ 0 := by decide +kernel
/-- PUT of some bytes at an offset in polder 2. -/
def putMsg (off n : Nat) : Culvert := msg 2 (2 + 256 * off) (fun m => { m with len := n, payload := zeros 48 })
/-- A second polder. -/
def two (f : Polder → Polder := id) : CoreSt → CoreSt := fun c => { c with ht := c.ht ++ [(2, pold 1 f)] }
theorem wit_put : ∀ p ∈ [(0, 1), (granule - 48, 48)], let s := at0 two; let m := putMsg p.1 p.2; let q := (s.core 0).polder (bits m.arg 7 0)
    m.came = none ∧ s.stopped = false ∧ (s.core 0).rst = 0 ∧ q.gen = m.gen ∧ 1 ≤ m.len ∧ m.len ≤ 48 ∧ q.valid = true ∧ q.owner = m.ctxTag ∧ q.code = false ∧
    bits m.arg 31 8 + m.len ≤ q.length * granule ∧ (s.core 0).spmErr = [] ∧ (s.core 0).spmPassing = [] ∧ (s.core 0).spm.wf = true := by decide +kernel
/-- Credit entry 1 bound to core 9, with a credit. -/
def credited (n : Nat) (f : Credit → Credit := id) : CoreSt → CoreSt := fun c => { c with creds := [(1, f { Credit.idle with state := 1, chip := 16383, core := 9, credit := n, slots := 4 })] }
theorem wit_grant_binds : ∀ n ∈ [0, 3], let s := at0; let m := msg 3 (1 + 64 + 256 * n)
    s.stopped = false ∧ bit m.arg 6 = true ∧ ((s.core 0).cred (bits m.arg 5 0)).state = 0 ∧ bits m.arg 31 8 = n := by decide +kernel
theorem wit_grant_adds : let s := at0 (credited 0); let m := msg 3 (1 + 256); s.stopped = false ∧ bit m.arg 6 = false ∧ (s.core 0).boundTo m = true := by decide +kernel
theorem wit_grant_stale : let s := at0; let m := msg 3 (1 + 256); s.stopped = false ∧ bit m.arg 6 = false ∧ (s.core 0).boundTo m = false := by decide +kernel
theorem wit_close : let s := at0 (credited 2); let m := msg 5 1; s.stopped = false ∧ (s.core 0).boundTo m = true ∧ s.isHere ((s.core 0).cred (bits m.arg 5 0)).chip = true := by decide +kernel
theorem wit_return : ∀ n ∈ [1, 2], let s := at0 (two (fun p => { p with sluice := true, sluiceState := 2, credit := 2 })); let m := msg 4 (2 + 256 * n); let p := (s.core 0).polder (bits m.arg 7 0)
    s.stopped = false ∧ p.gen = m.gen ∧ p.valid = true ∧ p.sluice = true ∧ p.sluiceState = 2 ∧ (if n = 1 then bits m.arg 31 8 < p.credit else p.credit ≤ bits m.arg 31 8) := by decide +kernel
theorem wit_alloc_message : let s := at0; let m := msg 6 (2 + 256); (s.core 0).rst = 0 ∧ m.came = none ∧ s.alive m.ctxTag = true ∧ s.isHere m.srcChip = true ∧
    (match s.alloc 0 m.ctxTag (allocMessage m) (some m) with | .ok (true, _) => true | _ => false) = true := by decide +kernel
theorem wit_alloc_refused : let s := at0; let m := msg 6 2; (s.core 0).rst = 0 ∧ s.alive m.ctxTag = true ∧
    (match s.alloc 0 m.ctxTag (allocMessage m) (some m) with | .error r => r == 1 | _ => false) = true := by decide +kernel
theorem wit_free_message : let s := at0 two; let m := msg 7 2; let p := (s.core 0).polder (bits m.arg 7 0)
    (s.core 0).rst = 0 ∧ p.gen = m.gen ∧ p.valid = true ∧ p.owner = m.ctxTag ∧ p.sluice = false ∧ (s.core 0).armedOn 2 = false ∧ (s.core 0).allocating 2 = false ∧ s.isHere m.srcChip = true := by decide +kernel
theorem wit_free_message_waits : let r := srun (sdesc toHbm 1); let s := at0 (strmed (some r)); let m := msg 7 2; let p := (s.core 0).polder (bits m.arg 7 0)
    (s.core 0).rst = 0 ∧ p.gen = m.gen ∧ p.valid = true ∧ p.owner = m.ctxTag ∧ ((s.core 0).strm 0).run = some r ∧ (0, (s.core 0).strm 0) ∈ (s.core 0).strms ∧ r.desc.names 2 = true := by decide +kernel
theorem wit_reply : ∀ k ∈ [0, 0x12], let m := msg 8 k; (Status.ofCode (bits m.arg 7 0)).isSome = true ∧ ((Status.ofCode (bits m.arg 7 0)).getD .ok).good = (k == 0) ∧ bits m.arg 23 16 ≠ 3 := by decide +kernel
theorem wit_stale : bits (msg 9 1).arg 7 0 ≠ 0 ∧ bits (msg 9 0).arg 7 0 = 0 := by decide +kernel
/-- A task waits for slot 3. -/
def waiting : Waiting := ⟨0, 0, 5, 7, 1, some 3⟩
theorem wit_task : ∀ r ∈ [none, some 0], let s := at0 (fun c => { c with queue := [waiting], running := r }); let m := msg 10 (3 + 256 * 5); let i := bits m.arg 7 0
    (s.core 0).queue.find? (fun w => w.tag == m.ctxTag && w.task == bits m.arg 31 8 && w.slot == some i) = some waiting ∧ (s.core 0).rst = 0 ∧ ((s.core 0).slot i).state = 0 ∧
    ((s.core 0).slot i).ending = false ∧ s.live waiting.tag = true ∧ i < 4 ∧ (s.core 0).running = r := by decide +kernel

/-- A block for byte 8,192 of core 0's scratchpad, compressed, with a header and a tag. -/
def blockPkt (hdr tag : Bytes) : Packet := ⟨16383, 16383, 7, 0, 0, 0, 0, 0, 0, 0x2000000000000 + granule, 0, 0, 9, 0, true, true, false, none, hdr ++ tag⟩
/-- Polder 2 as a compressed sluice with so much credit. -/
def sluice (n : Nat) (f : Polder → Polder := id) : CoreSt → CoreSt := two (fun p => f { p with sluice := true, compressed := true, length := 2, sluiceState := 1, credit := n, peerChip := 16383, peerCore := 9 })
/-- What every landing asks. -/
def lands (n : Nat) : Bool :=
  let s := at0 (sluice n); let p := blockPkt (zeros 16) zblock.tag; let byte := p.offset % 2 ^ 50 - 0x2000000000000; let q := (s.core 0).polder 2
  !s.stopped && s.parked.isEmpty && decide ((s.core 0).rst = 0) && decide (0x2000000000000 ≤ p.offset % 2 ^ 50) && decide (byte < spmBytes) && decide ((s.core 0).polderAt (byte / granule) = some (2, q)) &&
  decide (q.owner = p.ctxTag) && q.sluice && decide (q.sluiceState ≠ 2) && q.landed.all (fun b => !b.failed) && decide (q.credit = n) && (((s.core 0).tideRole 2).isNone)
theorem wit_block_no_credit : lands 0 = true := by decide +kernel
theorem wit_block : lands 1 = true ∧ (let c := (at0 (sluice 1)).core 0; landingCheck c 0 (c.polder 2) false 0 ((slice (blockPkt (zeros 16) zblock.tag).body 0 16 ++ (blockPkt (zeros 16) zblock.tag).body.drop 16).drop 16) = .bytes []) := by
  decide +kernel
theorem wit_block_damaged : lands 1 = true ∧ (let c := (at0 (sluice 1)).core 0; landingCheck c 0 (c.polder 2) false 0 (zeros 64) = .damaged 1) := by decide +kernel
/-- A bound ring of one core on this chip; polder 2 is its tide. -/
def tbind (pos len members : Nat) (single : Bool) (ebb : Option Nat) : TideBind := ⟨0, 0, 0, false, false, 0, false, 2, 3, ebb, 1, 1, 0, 0, len, pos, members, 0, single, 9, 16383, 9, 16383, 0, 0, 0, 0, 0⟩
/-- A landed block that has passed its check. -/
def landed (hops : Nat) (released : Bool) : Landed := ⟨0, 0, tideHeader 0 0 0 0 0 0 hops 0 0, true, false, false, false, released, none⟩
/-- Core 0 with both. -/
def tided (t : TideBind) (b : Landed) (h : Nat := 2) : State := at0 (fun c => sluice 1 (fun p => { p with landed := if h = 2 then [b] else [] })
  { credited 2 id c with tides := [t], ht := c.ht ++ (if h = 2 then [] else [(h, pold 3 (fun p => { p with sluice := true, sluiceState := 1, landed := [b] }))]) })
/-- What a forward asks; whether it is the last hop. -/
def forwards (t : TideBind) (b : Landed) (h : Nat) (last : Bool) : Bool :=
  let s := tided t b h; let c := s.core 0
  match c.tideRole h with
  | none => false
  | some (t0, r) =>
    let ebb := r == .ebb || r == .ebbStart
    let leaves := if ebb then t0.entry else t0.exit
    decide (c.rst = 0) && (c.polder h).valid && s.live t0.tag && decide ((c.polder h).landed.find? (fun b => !b.forwarded) = some b) && b.checked && (!ebb || b.released) && (ebb || t0.nextAdmit == h) &&
    ((leaves && (if ebb then hdrOrigin b.header == t0.me else decide (t0.members ≤ hdrHops b.header + 1))) == last)
theorem wit_forward_last : forwards (tbind 0 1 2 false none) (landed 1 false) 2 true = true ∧ forwards (tbind 0 2 2 false (some 4)) (landed 0 true) 4 true = true := by decide +kernel
theorem wit_forward : forwards (tbind 0 1 2 false none) (landed 0 false) 2 false = true ∧
    (let s := tided (tbind 0 1 2 false none) (landed 0 false); let x := (s.core 0).cred 1
     x.state ≠ 0 ∧ x.owner = ((s.core 0).polder 2).owner ∧ x.credit ≠ 0 ∧ (s.slotBody 0 2 0 none).1.isSome = true ∧ s.isHere x.chip = true) := by decide +kernel
theorem wit_land_timer : let s := { at0 (sluice 1 (fun p => { p with firstUnacked := some 0 })) with time := 1000 }; let p := (s.core 0).polder 2
    p.firstUnacked = some 0 ∧ p.valid = true ∧ p.sluiceState = 1 ∧ 0 + 1000 ≤ s.time ∧ s.isHere p.peerChip = true := by decide +kernel
/-- A held block. -/
def heldBlock : Held := ⟨none, 1, 0, [], 0, false⟩
theorem wit_land : let s := at0 (credited 0 (fun x => { x with held := [heldBlock], sent := 2 })); let m := msg 16 (1 + 256)
    s.stopped = false ∧ (s.core 0).creditFrom m = some ((s.core 0).cred 1) ∧ ((s.core 0).cred 1).held.find? (fun b => b.seq == bits m.arg 31 8) = some heldBlock ∧ s.honours ((s.core 0).cred 1).owner = true ∧
    s.isHere ((s.core 0).cred 1).chip = true := by decide +kernel
theorem wit_land_stale : (at0.core 0).creditFrom (msg 16 1) = none := by decide +kernel

/-- A TIDE_SWITCH to a bank, and the switch it registers. -/
def swDesc (bank : Nat) : Desc := desc 5 (natLe 1 bank ++ zeros 7 ++ natLe 8 1000)
def swOf (f : Switch → Switch := id) : Switch := f ⟨swDesc 1, 1, 1000, false, false, [], none⟩
/-- Context 0 enabled, this chip the leader of its ring with chip 5, or a member of a ring that chip 5 leads; a switch pending. -/
def ringed (leads : Bool) (w : Option Switch) (f : CtxSt → CtxSt := id) : State := withCtx (fun c => f { c with members := if leads then [16383, 20000] else [16383, 5], sw := w })
/-- A control message of the ring. -/
def ctl (type src arg : Nat) : Culvert := msg type arg (fun m => { m with srcChip := src })
theorem wit_switch : let s := ringed false none (fun c => { c with control := [swDesc 1] })
    s.stopped = false ∧ s.held = false ∧ s.ctxState 0 = 1 ∧ (s.takeControl 0 5).isSome = true ∧ (s.ctx 0).sw = none ∧ field (swDesc 1).bytes 8 1 % 2 ≠ s.getF F.tideCtxBank 0 ∧ s.leads 0 = false ∧
    (s.ctx 0).prepared = none := by decide +kernel
/-- What every control message clause asks. -/
def ringOk (s : State) : Bool := !s.stopped && decide (s.tag 0 = 0) && decide (s.ctxState 0 = 1)
theorem wit_commit_early : let s := ringed false none; ringOk s = true ∧ s.fromLeader 0 (ctl 0x14 5 9) = true ∧ (s.ctx 0).sw = none := by decide +kernel
theorem wit_prepare_early : let s := ringed false none; ringOk s = true ∧ s.fromLeader 0 (ctl 0x12 5 1) = true ∧ (s.ctx 0).sw = none := by decide +kernel
theorem wit_prepare : let s := ringed false (some (swOf id)) (fun c => { c with bank1 := { c.bank1 with digest := some [] } })
    ringOk s = true ∧ s.fromLeader 0 (ctl 0x12 5 1) = true ∧ (s.ctx 0).sw = some (swOf id) ∧ (swOf id).bank = (ctl 0x12 5 1).arg % 2 ∧ (swOf id).preparedSent = false ∧ s.leads 0 = false ∧
    (s.ctx 0).bank1.digest.isSome = true ∧ s.outside (ctl 0x12 5 1).ctxTag (s.leader 0) = false := by decide +kernel
theorem wit_prepared : ∀ a ∈ [[], [(16383, 4)]], let s := ringed true (some (swOf (fun w => { w with answers := a }))); let m := ctl 0x13 20000 7
    ringOk s = true ∧ s.leads 0 = true ∧ (s.ctx 0).sw = some (swOf (fun w => { w with answers := a })) ∧ s.time < (swOf id).deadline ∧ (swOf (fun w => { w with answers := a })).commit = none ∧ (∀ k ∈ s.ringMembers 0, s.outside 0 k = false) ∧ (s.ringMembers 0).contains m.srcChip = true ∧
    (let answers := a.filter (fun x => x.1 != m.srcChip) ++ [(m.srcChip, m.arg)]
     if a = [] then (∃ k ∈ s.ringMembers 0, answers.all (fun x => x.1 != k) = true) else (∀ k ∈ s.ringMembers 0, answers.any (fun x => x.1 == k) = true)) := by decide +kernel
theorem wit_commit : let w := swOf (fun w => { w with prepareSeen := true, preparedSent := true }); let s := ringed false (some w)
    ringOk s = true ∧ s.fromLeader 0 (ctl 0x14 5 9) = true ∧ (s.ctx 0).sw = some w ∧ w.preparedSent = true ∧ w.commit = none ∧ (s.ctx 0).canceling = none := by decide +kernel
theorem wit_abort : let s := ringed false (some (swOf id)); ringOk s = true ∧ s.fromLeader 0 (ctl 0x15 5 0) = true ∧ (s.ctx 0).sw = some (swOf id) ∧ (swOf id).commit = none := by decide +kernel
theorem wit_withdraw : let s := ringed true (some (swOf id)); ringOk s = true ∧ (s.ctx 0).sw = some (swOf id) ∧ (∀ k ∈ s.ringMembers 0, s.outside 0 k = false) ∧ s.leads 0 = true ∧ (s.ringMembers 0).contains (ctl 0x16 20000 0).srcChip = true := by decide +kernel
/-- A bound INVOKE over ring 0 with chip 5, one link of it out since a moment. -/
def ringInv (since : Option Nat) : Invoke := { inv with ring := true, members := [16383, 5], breaks := since.toList.map (fun t => ((0, 0), t)) }
theorem wit_break : let s := boundInv (fun _ => ringInv none); ringOk s = true ∧ s.ringInvoke 0 (ctl 0x17 5 0) = true := by decide +kernel
theorem wit_switch_deadline : let s := { ringed true (some (swOf id)) with time := 1000 }; s.stopped = false ∧ (s.ctx 0).sw = some (swOf id) ∧ s.leads 0 = true ∧ (swOf id).deadline ≤ s.time ∧ (swOf id).commit = none ∧
    (∀ k ∈ s.ringMembers 0, s.outside (s.tag 0) k = false) := by
  decide +kernel
theorem wit_switch_member : let w := swOf (fun w => { w with preparedSent := true }); let s := { ringed false (some w) with time := 1000000000 }
    s.stopped = false ∧ (s.ctx 0).sw = some w ∧ w.commit = none ∧ w.preparedSent = true ∧ w.deadline + s.breakNs ≤ s.time := by decide +kernel
theorem wit_ring_break : let s := { boundInv (fun _ => ringInv (some 0)) with time := 1000000000 }; let v := ringInv (some 0)
    s.stopped = false ∧ (s.ctx 0).inv = some v ∧ v.ending = none ∧ v.ring = true ∧ s.brokenRings v ≠ [] ∧ s.ctxState 0 = 1 ∧ (∀ k ∈ v.members, s.outside v.desc.ctxTag k = false) := by decide +kernel

/-- The state once a packet has left its buffer and been counted. -/
def come (s : State) (p : Packet) (n : Nat := 0) : State := (s.leaveBuffer n p).countPacket n p
/-- The checks of a packet that a port delivers, as a test. -/
def arrives (s : State) (n : Nat) (p : Packet) : Bool :=
  decide (s.portState n = 3) && p.tagOk && packetFits p && packetZeros p && (decide (p.type = 9) || decide (rackOf p.srcChip ≠ rackOf (come s p n).chip) ||
    !(come s p n).isEdge (tagIndex p.ctxTag) n) && (come s p n).isHere p.dstChip &&
  (!isRequest p.type || (decide ((come s p n).getF F.svcStatusHold ≠ 2) && !(come s p n).failed))
theorem delivered_of {s : State} {n : Nat} {p : Packet} (h : arrives s n p = true) : s.delivered n p (come s p n) := by
  simp only [arrives, Bool.and_eq_true, Bool.or_eq_true, decide_eq_true_eq, Bool.not_eq_true'] at h
  obtain ⟨⟨⟨⟨⟨⟨h1, h2⟩, h3⟩, h4⟩, h5⟩, h6⟩, h7⟩ := h
  refine ⟨h1, h2, h3, h4, ?_, h6, ?_, rfl⟩
  · obtain (h | h) | h := h5
    · exact .inl h
    · exact .inr (.inl h)
    · exact .inr (.inr h)
  · intro hr
    obtain h | h := h7
    · rw [hr] at h; cases h
    · exact h
/-- Port 0 in service. -/
def linked (s : State) : State := s.setF F.lnkStatusState 3 0
/-- A packet of context 0 from chip 1. -/
def pkt (type len off size : Nat) (body : Bytes) (check : Nat := 0) (txn : Nat := 0) (status : Nat := 0) : Packet :=
  ⟨16383, 1, type, 0, 0, 0, len, status, 0, off, size, txn, 0, check, true, true, false, none, body⟩
theorem wit_run_failed_waits : let r := { written toHbm 0 with status := .damagedBlock }; let s := { streaming r with requests := [⟨1, 0, .streamWrite 0 0 0, 0, 0, false, pkt 2 0 0 16 [], none⟩] }
    r.status ≠ .ok ∧ ((s.core 0).strm 0).run = some r ∧ r.flight = [] ∧ s.strmAsks 0 0 = true := by decide +kernel
/-- In the held stage of a service hold. -/
def held2 (s : State) : State := linked (s.setF F.svcStatusHold 2)
/-- The packet of a message that a port delivers. -/
def packed (m : Culvert) : Packet := { packetOf 8 m.dstChip m.dstCore m.ctxTag m.srcCore (culvertBytes m) with srcChip := m.srcChip, vcBit := false, route := m.route, deadline := m.deadline }
theorem wit_alloc_held : ∀ k ∈ [6, 7], let s := held2 (at0 id); let m := msg k (2 + 256) (fun m => { m with came := some (0, false) }); let u := come s (packed m)
    m.came = some (0, false) ∧ arrives s 0 (packed m) = true ∧ (u.core 0).rst = 0 ∧ u.held = true ∧ u.isHere m.srcChip = true := by decide +kernel
theorem wit_block_held : let s := held2 (at0 id); let p := { blockPkt (zeros 16) zblock.tag with length := 5 }; let u := come s p
    arrives s 0 p = true ∧ p.type = 7 ∧ u.stopped = false ∧ (u.core 0).rst = 0 ∧ u.parked = [] ∧ u.held = true ∧ u.isHere p.srcChip = true := by decide +kernel
/-- A bound INVOKE in context 0, its page mapped, port 0 in service. -/
def fabric : State := linked (mapped boundInv [])
/-- What a read of a place gives. -/
def reads (s : State) (p : Packet) : Fetched × State := (come s p).readOffset (.link 0) p.ctxTag (p.offset % 2 ^ 50) p.size (packetUnits p)
theorem wit_read : ∀ p ∈ [pkt 1 0 0 1 [], pkt 1 0 0 256 []], arrives fabric 0 p = true ∧ (come fabric p).windowDiked (p.offset % 2 ^ 50) = false ∧
    (match (reads fabric p).1 with | .data bs => !(come fabric p).overfills 0 ((reads fabric p).2.answer p .ok bs) | _ => false) = true := by decide +kernel
theorem wit_read_failed : let p := pkt 1 0 (2 ^ 48) 1 []; arrives fabric 0 p = true ∧ (come fabric p).windowDiked (p.offset % 2 ^ 50) = false ∧
    (reads fabric p).1 = .failed .accessViolation ∧ (come fabric p).overfills 0 ((reads fabric p).2.answer p .accessViolation) = false := by decide +kernel
/-- Its first sector is damaged and being fetched again. -/
def refetching : State := { fabric with hbmErr := [(65536, [(0, 1), (1, 1), (2, 1)])], refetch := [⟨0, 65536, 0, false, false, false⟩] }
theorem wit_read_waits : let p := pkt 1 0 0 1 []; arrives refetching 0 p = true ∧ (reads refetching p).1 = .wait ∧
    (come refetching p).overfills 0 ((reads refetching p).2.park 0 p) = false := by decide +kernel
theorem wit_read_diked : let s := linked (at0 (fun c => { c with rst := 1 })); let p := pkt 1 0 0x2000000000000 1 []; arrives s 0 p = true ∧ (come s p).windowDiked (p.offset % 2 ^ 50) = true := by decide +kernel
/-- WRITE of 16 zero bytes. -/
def wpkt (check : Nat) (off : Nat := 0) : Packet := pkt 2 1 off 0 (zeros 16) check
theorem wit_write_pkt : ∀ c ∈ [0, crc32c (zeros 16)], arrives fabric 0 (wpkt c) = true ∧ (c ≠ 0 ↔ crc32c (slice (wpkt c).body 0 (writeLen (wpkt c))) = (wpkt c).check) ∧
    (wpkt c).offset % 2 ^ 50 < 2 ^ 48 ∧
    (let w := (come fabric (wpkt c)).writeVa (.link 0) 0 0 (slice (wpkt c).body 0 (writeLen (wpkt c))) false (packetUnits (wpkt c))
     (come fabric (wpkt c)).overfills 0 (w.2.answer (wpkt c) w.1) = false) := by decide +kernel
theorem wit_write_window : let p := wpkt (crc32c (zeros 16)) 0x2000000000000; arrives fabric 0 p = true ∧ crc32c (slice p.body 0 (writeLen p)) = p.check ∧ 2 ^ 48 ≤ p.offset % 2 ^ 50 := by
  decide +kernel
/-- A block of 16 bytes asked of another chip. -/
def awaited : StrmBlock := { sblock (zeros 64) with waiting := 1 }
/-- A stream of core 0 with that block in flight, and a request of its own. -/
def asking (who : Requester) (type : Nat) : State := linked { streaming (flying toHbm awaited) with requests := [⟨7, 0, who, 0, 0, false, pkt type 0 0 16 [], none⟩] }
theorem wit_read_data_none : let p := pkt 3 1 0 0 (zeros 16) (crc32c (zeros 16)); arrives fabric 0 p = true ∧ (come fabric p).requests.find? (fun r => r.txn == p.txn && r.packet.type == 1) = none := by decide +kernel
theorem wit_read_data : let s := asking (.stream 0 0 0) 1; let p := pkt 3 1 0 0 (zeros 16) (crc32c (zeros 16)) 7; let u := come s p
    arrives s 0 p = true ∧ u.requests.find? (fun r => r.txn == p.txn && r.packet.type == 1) = some ⟨7, 0, .stream 0 0 0, 0, 0, false, pkt 1 0 0 16 [], none⟩ ∧ Status.ofCode p.status = some .ok ∧
    crc32c (slice p.body 0 16) = p.check ∧ ((u.core 0).strm 0).run = some (flying toHbm awaited) ∧ (flying toHbm awaited).flight.find? (fun b => b.index == 0) = some awaited ∧ awaited.status = .ok ∧
    (flying toHbm awaited).desc.srcCmp = false := by decide +kernel
theorem wit_write_ack : let s := asking (.streamWrite 0 0 0) 2; let p := pkt 4 0 0 0 [] 0 7; let u := come s p
    arrives s 0 p = true ∧ u.requests.find? (fun r => r.txn == p.txn && r.packet.type == 2) = some ⟨7, 0, .streamWrite 0 0 0, 0, 0, false, pkt 2 0 0 16 [], none⟩ ∧ Status.ofCode p.status = some .ok ∧
    ((u.core 0).strm 0).run = some (flying toHbm awaited) ∧ (flying toHbm awaited).status = .ok := by decide +kernel
theorem wit_mgmt : arrives fabric 0 (pkt 9 0 0 0 []) = true := by decide +kernel

/-- A gather descriptor: mode, bags; one-element rows of FP32, its table at 256, tags at 512, chips at 0 of the context, for core 0. -/
def gdesc (mode bags : Nat) : Bytes :=
  slice ([0, BitVec.ofNat 8 mode, 11, 0] ++ natLe 2 4 ++ natLe 2 1 ++ natLe 4 bags ++ zeros 4 ++ natLe 8 256 ++ natLe 8 512 ++ natLe 8 0 ++ natLe 4 4 ++ natLe 4 4 ++ natLe 2 1 ++ [0, 0] ++ zeros 4 ++
    (if mode = 4 then natLe 4 0 ++ natLe 4 4 else natLe 4 2 ++ natLe 4 3) ++ zeros 4 ++ natLe 4 4) 0 128
/-- Its entry, ready. -/
def gentry (mode bags : Nat) : GEntry := ⟨gdesc mode bags, 0, 0, 0, 0, [0]⟩
/-- A run of it. -/
def grun (mode bags : Nat) (f : GRun → GRun := id) : GRun := f (GRun.fresh { gentry mode bags with runs := 1, met := [] } 0)
/-- Engine 0 with an entry and a run; offsets in polder 2, the context's page with chip, row and tag, a good one or not. -/
def gathering (y : Option GEntry) (g : Option GRun) (good : Bool := true) : State :=
  let s := mapped (at0 (arrays (fun c => { c with spm := Mem.writeN c.spm granule (natLe 4 0 ++ natLe 4 1) })))
    ([0xFF, 0x3F] ++ zeros 510 ++ (if good then natLe 4 (crc32c (zeros 4)) else zeros 8))
  s.setEngine 0 ⟨y.toList, g⟩
/-- The run that starts. -/
def gstart (mode bags : Nat) : GRun := GRun.fresh { gentry mode bags with runs := 1, met := [] } 0
/-- The state it starts in. -/
def gu (mode bags : Nat) : State := let s := gathering (some (gentry mode bags)) none
  s.setEngine 0 { s.engine 0 with entries := [(gstart mode bags).entry] }
theorem wit_gather_start : ∀ mode ∈ [0, 4], let y := gentry mode 1; let s := gathering (some y) none
    (s.engine 0).run = none ∧ pickEntry ((s.engine 0).entries.filter (fun y => s.live y.tag)) = some y ∧
    s.overfills 0 (if mode = 4 then (gu mode 1).setGRun 0 (some (gstart mode 1)) else (gu mode 1).advanceGather 0 (gstart mode 1) (gatherFuel (gstart mode 1))) = false ∧ gMode y.desc = mode ∧ gBags y.desc = 1 ∧
    (mode = 0 → (match (gu mode 1).openBag 0 (gstart mode 1) 0 with | (.rows [f], _) => (gu mode 1).isHere f.chip | _ => false) = true) := by decide +kernel
/-- The fetch of its row. -/
def gfetch : RowFetch := ⟨0, 16383, 256, 512, 0, none, false⟩
/-- A run with it in flight; all rows of the bag are then in, or not. -/
def gflying (full : Bool) : GRun := grun 0 1 (fun g => { g with fetches := [gfetch], bags := [(0, if full then 1 else 2)], nextBag := 1, rowCount := 1 })
/-- What its row data asks. -/
def gdata (full good : Bool) : Bool :=
  let g := gflying full; let s := gathering none (some g) good
  decide ((s.engine 0).run = some g) && decide (g.fetches[0]? = some gfetch) && gfetch.txn.isNone && !gfetch.again && !g.stopped && s.live g.entry.tag && s.isHere gfetch.chip && g.todo.isEmpty &&
  decide (gBags g.entry.desc ≤ g.nextBag) &&
  (match s.localRow 0 g gfetch with
   | (.data bs, u) => !s.overfills 0 (u.rowIn 0 gfetch (.ok (bs, true)) [] ⟨[], []⟩ .agree) && (decide (crc32c (slice bs 0 4) = field bs 4 4) == good)
   | _ => false)
theorem wit_row_damaged : gdata false false = true := by decide +kernel
theorem wit_row_kept : gdata false true = true ∧ (gflying false).bags.any (fun b => b.1 == 0 && b.2 == 1) = false ∧ (gflying false).bags ≠ [] := by decide +kernel
theorem wit_row_last : gdata true true = true ∧ (gflying true).bags.any (fun b => b.1 == 0 && b.2 == 1) = true ∧
    (match ((gathering none (some (gflying true))).localRow 0 (gflying true) gfetch).2.progress 0 |>.poolBag 0 { gflying true with fetches := [], rows := [⟨0, zeros 4, 0, 0⟩] } 0 ⟨[], []⟩ .agree with
     | (some g2, _) => g2.fetches.isEmpty && g2.bags.isEmpty
     | _ => false) = true := by decide +kernel
/-- GATHER of a row at 256 with its tag at 512. -/
def gpkt : Packet := pkt 5 1 256 4 (natLe 8 512 ++ zeros 8)
theorem wit_gather_packet : arrives fabric 0 gpkt = true ∧ (match (come fabric gpkt).readVa (.link 0) 0 256 4 false with
    | (.data row, x) => (match x.readVa (.link 0) 0 512 8 false with | (.data tag, y) => !(come fabric gpkt).overfills 0 (y.answer gpkt .ok (row ++ tag)) | _ => false)
    | _ => false) = true := by decide +kernel
theorem wit_seal : ∀ rails ∈ [Rails.agree, Rails.lasting], ∀ k ∈ [0, 3], let g := grun 4 1 (fun g => { g with rowCount := k }); let s := gathering none (some g)
    (s.engine 0).run = some g ∧ gMode g.entry.desc = 4 ∧ g.stopped = false ∧ s.live g.entry.tag = true ∧ g.fetches = [] ∧ field g.entry.desc 60 4 ≠ 0 ∧
    field g.entry.desc 56 4 + field g.entry.desc 60 4 ≤ gShardRows g.entry.desc ∧ s.inTideWindow 0 (gTags g.entry.desc) = false ∧ s.overfills 0 (s.sealNext 0 g rails) = false ∧
    (match s.sealRead 0 g (field g.entry.desc 56 4 + g.rowCount) with
     | (.data row, x) => (x.sealRow 0 g (field g.entry.desc 56 4 + g.rowCount) row).1 == .ok
     | _ => false) = true ∧ (k = 0 ↔ g.rowCount + 1 < field g.entry.desc 60 4) := by decide +kernel

/-- The stack of an address under the interleave. -/
def stackAt (key dpa : Nat) : StackId := ⟨stackOf key dpa, Nat.mod_lt _ (by decide)⟩
/-- A request of context 0 at a place in a page: what it writes, if it does. -/
def hreq (dpa : Nat) (data : Bytes) (noise : Noise := Noise.none) : HscReq := ⟨dpa, 0, !data.isEmpty, 0, data, false, [], noise, Noise.none, [], 2 ^ 48⟩
theorem wit_hsc : ∀ a, a = 0 ∨ a = 0x13BFFFFFFE0 → ∀ d ∈ [[], zeros 1, zeros 32], let s := enabled; let r := hreq a d; ∃ k : StackId,
    stackOf s.key (32 * (r.dpa / 32)) = k ∧ regionOf r.dpa = .context ∧ s.power = .on ∧ (s.hsc k).state = 0 ∧ s.tag (tagIndex r.ctxTag) = r.ctxTag ∧ s.hbmErr = [] ∧ s.hbmPassing = [] ∧
    s.memWf = true ∧ r.data.length ≤ 32 - r.off % 32 ∧ (r.write = true ↔ r.data ≠ []) := by
  intro a ha d hd
  refine ⟨stackAt enabled.key (32 * ((hreq a d).dpa / 32)), rfl, ?_, rfl, rfl, (by decide +kernel : enabled.tag (tagIndex 0) = 0), rfl, rfl, (by decide +kernel : enabled.memWf = true), ?_⟩
  · obtain rfl | rfl := ha <;> rfl
  · simp only [List.mem_cons, List.not_mem_nil, or_false] at hd
    obtain rfl | rfl | rfl := hd <;> simp [hreq, zeros]
theorem wit_hsc_key : enabled.failed = false ∧ enabled.hbmKey 0 = none ∧ ({ enabled with failed := true } : State).failed = true ∧ regionOf 0 ≠ .beyond := by decide +kernel
/-- Its memory is encrypted. -/
def sealing : State := withCtx (fun c => { c with hbmKey := some 5 })
theorem wit_hsc_sealed : ∃ k : StackId, let s := sealing; let r := hreq 0 (zeros 32)
    stackOf s.key (32 * (r.dpa / 32)) = k ∧ regionOf r.dpa = .context ∧ s.power = .on ∧ s.failed = false ∧ s.tag (tagIndex r.ctxTag) = r.ctxTag ∧ s.hbmKey (tagIndex r.ctxTag) = some 5 ∧
    r.write = true ∧ r.strike = [] ∧ r.passing = [] ∧
    (s.writePiece ⟨32 * (r.dpa / 32) + r.off % 32, r.mirror, r.va⟩ (r.data.take (32 - r.off % 32)) .sectors (tagIndex r.ctxTag) false r.noise).1 = .ok :=
  ⟨stackAt sealing.key 0, rfl, rfl, rfl, rfl, by decide +kernel, by decide +kernel, rfl, rfl, rfl, by decide +kernel⟩
/-- Errors that no codeword corrects. -/
def storm : Noise := ⟨[(0, 1), (1, 1), (2, 1)], [(0, 1), (1, 1), (2, 1)]⟩
theorem wit_hsc_fatal : let s := State.reset; let r := hreq 0x13E00000000 [] storm; ∃ k : StackId,
    stackOf s.key (32 * (r.dpa / 32)) = k ∧ regionOf r.dpa = .firmware ∧ s.power = .on ∧ s.deaf = false ∧ (s.servePlain k r).1 = true :=
  ⟨stackAt State.reset.key (32 * (0x13E00000000 / 32)), rfl, by decide +kernel, rfl, by decide +kernel, by decide +kernel⟩
/-- Context 0 with a bank of one object, its first sector under repair. -/
def repairing : State := { (mapped (withCtx (fun c => { c with bank0 := { c.bank0 with digest := some [], base := 0, size := 2 ^ 21, manifest := manifest } })) []).askObject entry with
  refetch := [⟨0, 65536, 0, false, false, false⟩] }
/-- What its text comes to. -/
def repairText (wire : Bytes) : Bytes × Bool × State := repairing.objectText entry wire
theorem wit_refetch : let s := repairing; s.refetch.find? (fun r => r.ctx == 0 && !r.failed) = some ⟨0, 65536, 0, false, false, false⟩ ∧ s.stopped = false ∧
    (s.ctx 0).bankAt 0 = some (s.ctx 0).bank0 ∧ (s.ctx 0).bank0.covering s.chip 0 = some entry ∧ s.parked = [] ∧ (∀ p ∈ s.ctxs, p.2.ckpt = none) ∧ (repairText []).2.1 = true ∧
    objectBad entry (repairText []).1 = true ∧ (repairText object).1 = object ∧ (repairText object).2.1 = true ∧ objectBad entry object = false ∧
    0 < (s.ctx 0).bank0.base + field entry 16 8 + footprint object ∧
    ((repairText object).2.2.placeObject .mp ((repairText object).2.2.tag 0) ((s.ctx 0).bank0.base + field entry 16 8) object).1 = .ok := by decide +kernel
theorem wit_scrub : ∀ k : StackId, State.reset.stopped = false ∧ (State.reset.hsc k).state = 0 ∧ State.reset.hbmErr = [] ∧ State.reset.hbmPassing = [] ∧ (State.reset.hsc k).scrubAt + 1 < stackSectors := by
  decide +kernel
theorem storm_bad (s : State) (k n : Nat) (a : s.hbmErr = []) (b : s.hbmPassing = []) : s.readOnce k n storm.first = (none, { s with hbmPassing := [] }) := by
  have h : hbmDecode ([] ++ (storm.first ++ [])) = .uncorrectable := by decide +kernel
  have g : hbmDecode (Table.get ([] : Table Upset) [] n ++ (storm.first ++ Table.get ([] : Table Upset) [] n)) = .uncorrectable := h
  unfold State.readOnce State.passing State.sectorErrs
  simp only [a, b, g]
  rfl
theorem wit_scrub_bad (k : StackId) (n : Nat) : ∃ u1 u2, State.reset.readOnce k n storm.first = (none, u1) ∧ u1.readOnce k n storm.second = (none, u2) :=
  ⟨_, _, storm_bad _ _ _ rfl rfl, storm_bad _ _ _ rfl rfl⟩

/-- Port 0 in a state of Table 13.1, with what it holds. -/
def portOf (st : Nat) (f : PortSt → PortSt := id) : State := (State.reset.setF F.lnkStatusState st 0).setPort 0 (f PortSt.off)
/-- A flit that has been sent. -/
def sent (n : Nat) : SentFlit := ⟨n, 0, 0, 0, [], []⟩
/-- A flit with a payload on a clean line, and the CRC of its bytes. -/
def sealed (ctrl : Bool) (payload : Bytes) (seq : Nat := 0) (fill : Nat := 0) : Flit :=
  ⟨seq, 0, 0, false, 0, 0, 31, fill, payload, crc32c (flitBody seq 0 ctrl 0 false 0 0 31 fill payload), ⟨[], []⟩⟩
theorem sealed_intact (ctrl : Bool) (payload : Bytes) (seq fill : Nat) : flitIntact ctrl (sealed ctrl payload seq fill) = true := beq_self_eq_true _
/-- What has come once its line has been read, and once its head has. -/
def lined (s : State) (f : Flit) : State := (s.takeLine 0 f.line).2
def headed (s : State) (f : Flit) : State := (lined s f).takeHead 0 f
/-- The line of a control flit, and the start of its content. -/
def ctlOk (s : State) (payload head : Bytes) : Bool := !s.stopped && s.lineUp 0 && (s.takeLine 0 ⟨[], []⟩).1 && payload.take head.length == head
theorem takeCtl_sealed {s : State} {payload head : Bytes} (h : ctlOk s payload head = true) :
    s.takeCtl 0 (sealed true payload) head = (true, headed s (sealed true payload)) := by
  simp only [ctlOk, Bool.and_eq_true, Bool.not_eq_true'] at h
  obtain ⟨⟨⟨h1, h2⟩, h3⟩, h4⟩ := h
  have g : (s.takeLine 0 (sealed true payload).line).1 = true := h3
  unfold State.takeCtl
  simp only [h1, h2, sealed_intact, g, Bool.not_true, Bool.or_self, Bool.false_eq_true, if_false]
  exact Prod.ext h4 rfl
theorem wit_flit : ∀ st ∈ [3, 4], let s := portOf st; s.stopped = false ∧ s.portState 0 = st ∧ (s.port 0).late = false ∧ fecBegins (s.port 0).rxPos = true ∧
    16 < (fecStruck ((List.range 17).map (fun j => (j, 1)))).length ∧ (s.takeLine 0 ⟨[], []⟩).1 = true := by decide +kernel
theorem wit_flit_good : ∀ ctrl : Bool, ∀ seq fill : Nat, flitIntact ctrl (sealed ctrl [] seq fill) = true := fun ctrl seq fill => sealed_intact ctrl [] seq fill
theorem wit_flit_bad : ((portOf 3).takeLine 0 ⟨(List.range 17).map (fun j => (j, 1)), []⟩).1 = false := by decide +kernel
theorem wit_transmit_ack : let s := portOf 3 (fun x => { x with keys := { LinkKeys.none with switchTx := some [] } }); s.due (s.port 0).ctlAt = true ∧ (s.port 0).keys.switchTx = some [] := by
  decide +kernel
theorem wit_transmit_resend : ((portOf 3 (fun x => { x with resend := [sent 1] })).port 0).keys.switchTx = none ∧ ((portOf 3 (fun x => { x with resend := [sent 1] })).port 0).resend = [sent 1] := by decide +kernel
theorem wit_transmit_idle : let x := (portOf 3).port 0; x.keys.switchTx = none ∧ x.resend = [] ∧ x.candidates true = [] := by decide +kernel
/-- A packet waits on virtual channel 2. -/
def queued : State := portOf 3 (fun x => { x with queue := [⟨pkt 1 0 0 16 [], 2, 0⟩] })
theorem wit_transmit : let x := queued.port 0; x.resend = [] ∧ x.held.length < 2048 ∧
    queued.pick ((x.candidates true).any (fun c => decide (c.1 < 6) && inService c.2.1) && decide (15 ≤ x.grants)) (x.candidates true) = some (2, pkt 1 0 0 16 [], 0) := by decide +kernel
theorem wit_replay : ∀ st ∈ [3, 4], ∀ n ∈ [62, 63], let s := { portOf st (fun x => { x with held := [sent 1], replays := n }) with time := 1000 }; let x := s.port 0
    s.portState 0 = st ∧ x.held ≠ [] ∧ x.ackAt + 1000 ≤ s.time ∧ x.replays = n := by decide +kernel
theorem wit_lane : ∀ st ∈ [0, 3, 4], (portOf st).portState 0 = st ∧ (portOf st).stopped = false := by decide +kernel
/-- A port whose lane 31 has counted so many symbol errors. -/
def worn (st k : Nat) : State := portOf st (fun x => { x with laneErr := List.replicate 31 0 ++ [k] })
theorem wit_lane_window : (∀ k ∈ ([(0, 2800)] : List (LaneId × Nat)).foldl (fun c m => c.modify m.1.val (· + m.2)) ((worn 3 0).port 0).laneErr, k ≤ (worn 3 0).laneLimit 0) ∧
    (∀ st ∈ [3, 4], (worn st 2800).portState 0 = st ∧ 31 < ((worn st 2800).port 0).laneErr.length ∧
      (worn st 2800).laneLimit 0 < (([(31, 1)] : List (LaneId × Nat)).foldl (fun c m => c.modify m.1.val (· + m.2)) ((worn st 2800).port 0).laneErr).getD 31 0) := by decide +kernel
theorem wit_retrain : ∀ d ∈ [true, false], let s := portOf 2 (fun x => { x with degrade := d, keys := { LinkKeys.none with step := if d then 5 else 0 } }); s.stopped = false ∧ s.portState 0 = 2 ∧ (s.chooseLanes 0 0).1 ≠ 0 ∧ (s.chooseLanes 0 (2 ^ 32 - 1)).1 = 0 ∧ (s.port 0).degrade = d ∧ (s.port 0).keys.step = (if d then 5 else 0) ∧ (s.port 0).dikeAt = none := by decide +kernel

/-- Content of an IDENT or a VERDICT from its byte 12: version, message, SEEN, verdict. -/
def identMsg (msg seen v : Byte) : Bytes := [3, msg, seen, v]
/-- A port that trains with its lanes locked. -/
def locking (f : PortSt → PortSt := id) : State := portOf 2 (fun x => f { x with locked := some 0 })
theorem training_sealed {s : State} {payload : Bytes} {msg : Nat} (h : ctlOk s payload (natLe 1 3 ++ natLe 1 msg) = true) (g : s.portState 0 = 2) :
    s.training 0 (sealed true payload) msg = (some payload, headed s (sealed true payload)) := by
  unfold State.training
  rw [takeCtl_sealed h]
  simp only [State.trains, g]
  rfl
theorem wit_ident (b : Byte) (hb : b ∈ [(0 : Byte), 1]) : let f := sealed true (identMsg 1 b 0)
    locking.training 0 f 1 = (some (identMsg 1 b 0), headed locking f) ∧ locking.stopped = false ∧ identField (identMsg 1 b 0) 14 1 % 2 = b.toNat := by
  simp only [List.mem_cons, List.not_mem_nil, or_false] at hb
  obtain rfl | rfl := hb <;> exact ⟨training_sealed (by decide +kernel) (by decide +kernel), by decide +kernel⟩
/-- The same with this end's outcome. -/
def outcome (n : Nat) : State := locking.setF F.topoPortOutcome n 0
theorem wit_ident_outcome : ∀ n ∈ [0, 1], (headed (outcome n) (sealed true (identMsg 1 1 0))).getF F.topoPortOutcome 0 = n ∧ ctlOk (outcome n) (identMsg 1 1 0) [3, 1] = true := by decide +kernel
theorem wit_verdict (n : Nat) (hn : n ∈ [0, 1, 2]) (v : Byte) (hv : v ∈ [(1 : Byte), 2, 4]) : let f := sealed true (identMsg 2 1 v); let u := headed (outcome n) f
    (outcome n).training 0 f 2 = (some (identMsg 2 1 v), u) ∧ (u.port 0).keys.step = 0 ∧ u.getF F.topoPortOutcome 0 = n ∧ (u.port 0).quarantined = false ∧ identField (identMsg 2 1 v) 15 1 = v.toNat := by
  simp only [List.mem_cons, List.not_mem_nil, or_false] at hn hv
  obtain rfl | rfl | rfl := hn <;> obtain rfl | rfl | rfl := hv <;> exact ⟨training_sealed (by decide +kernel) (by decide +kernel), by decide +kernel⟩
theorem wit_ident_sends : locking.portState 0 = 2 ∧ (locking.port 0).locked.isSome = true ∧ locking.getF F.topoPortPeerVerdict 0 = 0 ∧ locking.due (locking.port 0).identAt = true := by decide +kernel
theorem wit_verdict_sends : let s := (locking (fun x => { x with identAt := some 0 })).setF F.topoPortOutcome 1 0
    s.portState 0 = 2 ∧ (s.port 0).locked.isSome = true ∧ s.getF F.topoPortPeerVerdict 0 = 0 ∧ s.due (s.port 0).identAt = false ∧ s.getF F.topoPortOutcome 0 ≠ 0 ∧
    s.due (s.port 0).ctlAt = true := by decide +kernel
theorem wit_ident_timeout : let s := { portOf 2 (fun x => { x with locked := some 0 }) with time := 10000000 }
    s.portState 0 = 2 ∧ (s.port 0).keys.step = 0 ∧ (s.port 0).locked = some 0 ∧ 0 + 10000000 ≤ s.time ∧ (s.port 0).degrade = false := by decide +kernel
theorem wit_ident_retry : ∀ n ∈ [1, 4, 5], let s := ({ portOf n (fun x => { x with trainAt := some 0 }) with time := 100000000 } : State).setF F.lnkStatusPresent 1 0
    s.portState 0 = n ∧ (s.port 0).trainAt = some 0 ∧ (s.port 0).late = false ∧ 0 + 100000000 ≤ s.time ∧ s.flag F.lnkStatusPresent 0 = true := by decide +kernel
/-- Port 0 at a step of the key exchange. -/
def keying (st step : Nat) : State := { portOf st (fun x => { x with keys := { LinkKeys.none with step := step } }) with time := 20000000 }
theorem wit_keyx : ∀ n ∈ [1, 2, 3], let s := keying 2 n; s.stopped = false ∧ s.portState 0 = 2 ∧ (s.port 0).keys.step = n ∧ (s.port 0).keys.since + 20000000 ≤ s.time := by decide +kernel
/-- A fragment of the key exchange on a port that trains at a step, or is up with a message of its own. -/
def keyMsg : Bytes := [3, 3, 7]
def keyed (st step : Nat) : State := portOf st (fun x => { x with locked := some 0, keys := { LinkKeys.none with step := step, msg := [1] } })
theorem wit_keyx_fragment (n : Nat) (hn : n ∈ [1, 2, 3]) : let s := keyed 2 n; let u := headed s (sealed true keyMsg)
    s.takeCtl 0 (sealed true keyMsg) (natLe 1 3 ++ natLe 1 3) = (true, u) ∧ u.healthAt = none ∧ u.portState 0 = 2 ∧ (u.port 0).keys.step = n := by
  simp only [List.mem_cons, List.not_mem_nil, or_false] at hn
  obtain rfl | rfl | rfl := hn <;> exact ⟨takeCtl_sealed (by decide +kernel), by decide +kernel⟩
/-- A responder at step 3, a message of its own sent, which knows its peer's first message as a byte or not. -/
def responding (known : Bool) (h : Option Nat := none) : State :=
  { portOf 2 (fun x => { x with locked := some 0, keys := { LinkKeys.none with step := 3, msg := [1], encaps := if known then [0] else [] } }) with healthAt := h }
theorem wit_keyx_message (known : Bool) : let s := responding known; let u := headed s (sealed true keyMsg); let k := (u.port 0).keys
    s.takeCtl 0 (sealed true keyMsg) (natLe 1 3 ++ natLe 1 3) = (true, u) ∧ u.healthAt = none ∧ u.portState 0 = 2 ∧ k.step = 3 ∧ k.msg ≠ [] ∧
    (k.take 0 false (slice keyMsg 7 1)).2 = none ∧ (k.take 0 true (slice keyMsg 7 1)).2 = some [0] ∧ decide ([0] = k.encaps ++ k.peerChain) = known ∧
    (u.port 0).degrade = false ∧ (u.port 0).quarantined = false ∧ u.initiates 0 = false := by
  cases known <;> exact ⟨takeCtl_sealed (by decide +kernel), by decide +kernel, by decide +kernel, by decide +kernel, by decide +kernel, by decide +kernel, by decide +kernel, by decide +kernel,
    by decide +kernel, by decide +kernel, decide_eq_false (Nat.not_lt_zero _)⟩
theorem wit_keyx_held : let s := responding false (some 0); let u := headed s (sealed true keyMsg)
    s.takeCtl 0 (sealed true keyMsg) (natLe 1 3 ++ natLe 1 3) = (true, u) ∧ u.healthAt = some 0 ∧ u.portState 0 = 2 ∧ (u.port 0).keys.step = 3 :=
  ⟨takeCtl_sealed (by decide +kernel), by decide +kernel⟩
theorem wit_keyx_again : let s := keyed 3 5; let u := headed s (sealed true keyMsg)
    s.takeCtl 0 (sealed true keyMsg) (natLe 1 3 ++ natLe 1 3) = (true, u) ∧ u.portState 0 = 3 ∧ (u.port 0).keys.msg ≠ [] := ⟨takeCtl_sealed (by decide +kernel), by decide +kernel⟩
theorem wit_rotation : let s := keying 3 5; s.stopped = false ∧ s.portState 0 = 3 ∧ (s.port 0).keys.switchTx = none := by decide +kernel
/-- KEY_UPDATE whose switch points are so many packets. -/
def updateMsg (k : Nat) : Bytes := [3, 4] ++ (List.replicate 8 (natLe 8 k)).flatten
theorem wit_key_update (k : Nat) (hk : k ∈ [0, 1]) : let s := portOf 3 (fun x => { x with keys := { LinkKeys.none with step := 5, lastRx := [9] } }); let u := headed s (sealed true (updateMsg k))
    s.takeCtl 0 (sealed true (updateMsg k)) (natLe 1 3 ++ natLe 1 4) = (true, u) ∧ u.portState 0 = 3 ∧ (u.port 0).keys.nextRx = none ∧
    (List.range 8).map (fun v => field (updateMsg k) (2 + 8 * v) 8) = List.replicate 8 k ∧ (u.port 0).keys.lastRx ≠ List.replicate 8 k ∧
    (k = 0 → ∀ v, v < 8 → field (updateMsg k) (2 + 8 * v) 8 ≤ (u.port 0).keys.got.getD v 0) ∧ (k = 1 → (u.port 0).keys.got.getD 0 0 < field (updateMsg k) (2 + 8 * 0) 8) := by
  simp only [List.mem_cons, List.not_mem_nil, or_false] at hk
  obtain rfl | rfl := hk <;> exact ⟨takeCtl_sealed (by decide +kernel), by decide +kernel⟩
theorem wit_key_update_again : let s := portOf 3 (fun x => { x with keys := { LinkKeys.none with step := 5, lastRx := List.replicate 8 1 } }); let u := headed s (sealed true (updateMsg 1))
    s.takeCtl 0 (sealed true (updateMsg 1)) (natLe 1 3 ++ natLe 1 4) = (true, u) ∧ (u.port 0).keys.lastRx = List.replicate 8 1 ∧ (u.port 0).keys.nextRx = none :=
  ⟨takeCtl_sealed (by decide +kernel), by decide +kernel⟩
theorem wit_key_ack : let s := portOf 3 (fun x => { x with keys := { LinkKeys.none with switchTx := some [] } }); let u := headed s (sealed true [3, 5])
    s.takeCtl 0 (sealed true [3, 5]) (natLe 1 3 ++ natLe 1 5) = (true, u) ∧ u.portState 0 = 3 ∧ (u.port 0).keys.switchTx = some [] := ⟨takeCtl_sealed (by decide +kernel), by decide +kernel⟩

/-- A plan of two chips of one rack; this chip is one of them. -/
def planned (me : Nat) (up : Bool) : State :=
  let s := { State.reset with plan := some ⟨0, 1, [], [⟨0, 0, 0, 0, 0, false, []⟩, ⟨1, 1, 1, 0, 0, false, []⟩]⟩ }
  (s.setF F.topoPlanStatusLoaded 1).setF F.topoPlanStatusChip me |>.setF F.lnkStatusState (if up then 3 else 0) 1
theorem wit_time_asks : let s := planned 1 true; s.stopped = false ∧ s.plan.isSome = true ∧ s.machineMode = false ∧ s.timeRoot ≠ s.chip ∧ s.flag F.lnkTimeCtlFreeRun = false ∧
    s.parentPort (BitVec.allOnes 8) = some 1 := by decide +kernel
theorem wit_time_alone : let s := planned 1 false; s.timeRoot ≠ s.chip ∧ s.parentPort (BitVec.allOnes 8) = none := by decide +kernel
theorem wit_time_root : let s := { planned 0 false with unlocked := true }; s.stopped = false ∧ s.plan.isSome = true ∧ s.machineMode = false ∧ s.timeRoot = s.chip ∧ s.unlocked = true ∧
    (∀ n, n < 6 → s.portState n ≠ 3) := by decide +kernel
/-- Port 0 up with a question out, the chip locked or not, a step due or not. -/
def asked (u due : Bool) : State := { portOf 3 (fun x => { x with timeReq := some 5 }) with unlocked := u, stepDue := due }
theorem wit_time_answer (u due : Bool) : let s := asked u due; let y := headed s (sealed true [2])
    s.takeCtl 0 (sealed true [2]) [2] = (true, y) ∧ (y.port 0).timeReq = some 5 ∧ y.portState 0 = 3 ∧ y.machineMode = false ∧ y.unlocked = u ∧ y.stepDue = due := by
  cases u <;> cases due <;> exact ⟨takeCtl_sealed (by decide +kernel), by decide +kernel⟩
/-- Port 0 up on a chip that runs free or not. -/
def telling (free : Bool) : State := { (portOf 3).setF F.lnkTimeCtlFreeRun (b2n free) with unlocked := false }
theorem wit_time_question (free : Bool) : let s := telling free; let y := headed s (sealed true [1])
    s.takeCtl 0 (sealed true [1]) [1] = (true, y) ∧ y.portState 0 = 3 ∧ y.machineMode = false ∧ y.unlocked = false ∧ y.flag F.lnkTimeCtlFreeRun = free := by
  cases free <;> exact ⟨takeCtl_sealed (by decide +kernel), by decide +kernel⟩
/-- Machine mode, locked or not, with an edge expected at a time. -/
def racked (u : Bool) (next time : Nat) : State := { (State.reset.setF F.topoPlanStatusMode 1).setF F.lnkTimeNextNext next with unlocked := u, time := time }
theorem wit_edge : ∀ u ∈ [true, false], ∀ t ∈ [900, 899, 1100, 1101], (racked u 1000 t).machineMode = true ∧ (racked u 1000 t).unlocked = u ∧ (racked u 1000 t).stopped = false := by decide +kernel
theorem wit_edge_missing : let s := racked false 1000 1101; s.machineMode = true ∧ s.unlocked = false ∧ s.getF F.lnkTimeNextNext + 100 < s.time := by decide +kernel
theorem wit_resync : let p := (planned 1 true).setF F.lnkTimeCtlFreeRun 1; p.flag F.lnkTimeCtlFreeRun = true ∧ p.parentPort (BitVec.allOnes 8) = some 1 ∧ (State.reset.setF F.lnkTimeCtlFreeRun 1).flag F.lnkTimeCtlFreeRun = true ∧ (State.reset.setF F.lnkTimeCtlFreeRun 1).anyInvoke = false ∧
    (boundInv.setF F.lnkTimeCtlFreeRun 1).anyInvoke = true ∧ p.barQuiet = true ∧ State.reset.flag F.lnkTimeCtlFreeRun = false ∧ (State.reset.setF F.lnkTimeCtlFreeRun 1).parentPort (BitVec.allOnes 8) = none := by decide +kernel

theorem wit_locks : State.reset.stopped = false ∧ State.reset.deaf = false ∧ State.reset.barQuiet = true ∧ Path.diag ≠ .pf ∧ Path.diag ≠ .sideband := by decide +kernel
/-- Target 0 connected, with a load that uses it. -/
def targeted : State := loading.setF F.ethTgtState 1 0
theorem wit_target_error : targeted.stopped = false ∧ targeted.getF F.ethTgtState 0 = 1 ∧ targeted.parked = [] ∧ 0 ∈ targeted.known ∧ (targeted.ctx 0).load = some loadJob ∧ loadJob.uses 2 0 = true ∧ targeted.barQuiet = true := by
  decide +kernel
theorem targeted_ctxs : targeted.ctxs = Table.put [] 0 { CtxSt.fresh with load := some loadJob } := by decide +kernel
theorem wit_target_ckpt (c : Nat) : (targeted.ctx c).ckpt = none := by
  unfold State.ctx
  rw [targeted_ctxs]
  by_cases h : c = 0
  · subst h; rw [Table.get_put_self]; rfl
  · rw [Table.get_put_ne _ _ _ h]; rfl
theorem wit_inbound : let s := State.reset.setF F.ethPortState 2 0; s.stopped = false ∧ s.getF F.ethPortState 0 = 2 := by decide +kernel
theorem wit_diag : let s := (((State.reset.setF F.ethPortState 2 0).setF F.ethDiagEnable 1).setF F.topoPortExpKind 1 0).setF F.lnkStatusState 3 0; let k := s.diagKey
    s.diagTcp = 7810 ∧ 7810 ≠ s.diagTcp + 1 ∧ s.getF F.topoPortExpKind 0 ≠ 0 ∧ s.portState 0 = 3 ∧ s.stopped = false ∧ s.flag F.ethDiagEnable = true ∧ s.getF F.ethPortState 0 = 2 ∧ s.diag = false ∧ slice (zeros 64) 0 64 = k ∧ slice [1] 0 64 ≠ k := by decide +kernel
/-- The PCIe endpoint at a stage. -/
def attesting (x : Spdm) : State := State.reset.setEndpoint .pcie x
theorem wit_spdm : ∀ n ∈ [0, 1, 2, 3], let s := attesting ⟨n, true, true⟩; s.spdmOpen .pcie = true ∧ (s.endpoint .pcie).stage = n ∧ (s.endpoint .pcie).exchange = true ∧
    (s.endpoint .pcie).session = true ∧ s.healthAt = none := by decide +kernel
/-- An SPDM request: code, Param1, Param2, then its body. -/
def spdmMsg (p1 p2 : Byte) (body : Bytes := []) : Bytes := [0x11, 0, p1, p2] ++ body
theorem wit_spdm_params : spdmParam (spdmMsg 0 0) 1 % 16 = 0 ∧ spdmParam (spdmMsg 1 1) 1 % 16 ≠ 0 ∧ spdmParam (spdmMsg 1 1) 2 % 16 ≠ 0 ∧ spdmParam (spdmMsg 0 0) 2 % 16 = 0 ∧
    bit (spdmParam (spdmMsg 1 0) 1) 0 = true ∧ bit (spdmParam (spdmMsg 0 0) 1) 0 = false ∧ (State.reset.setEndpoint .diag ⟨3, true, true⟩).spdmOpen .diag = State.reset.spdmOpen .diag := by
  decide +kernel
theorem wit_spdm_held : ({ attesting ⟨3, false, false⟩ with healthAt := some 0 } : State).healthAt = some 0 ∧ ({ attesting ⟨3, false, false⟩ with healthAt := some 0 } : State).spdmOpen .pcie = true := by
  decide +kernel
theorem wit_ide : ideStream [4] < Config.ideStreams ∧ (State.reset.ide.get .fresh (ideStream [4])).take [4] = none ∧
    ((State.reset.ide.get .fresh (ideStream (slice [2] 0 47))).take (slice [2] 0 47)).isSome = true := by decide +kernel
theorem wit_token : let s := State.reset.setF F.secStatusJtagAllow 1; s.deaf = false ∧ s.healthAt = none ∧ s.flag F.secStatusJtagAllow = true := by decide +kernel
theorem wit_draw_held : let s := { State.reset with healthAt := some 0, heldDraw := some 0, time := 10000000 }; s.healthAt.isSome = true ∧ s.heldDraw = some 0 ∧ State.reset.heldDraw = none ∧ 0 + 10000000 ≤ s.time ∧ s.deaf = false := by decide +kernel
/-- Debug scope with the debug page. -/
def debugging : State := { State.reset with boot := { State.reset.boot with dbgScope := some 2 } }
theorem wit_debug : debugging.deaf = false ∧ debugging.barQuiet = true ∧ State.reset.barQuiet = true ∧ debugging.debugPage = true ∧ debugging.memWf = true ∧ State.reset.debugPage = false := by decide +kernel
theorem wit_debug_sel : ∀ n ∈ [0, 0xBF2FFF], bits n 23 16 ≤ 191 ∧ bits n 13 0 ≤ 12287 ∧ (BitVec.ofNat 32 n).toNat = n := by decide +kernel

/-- A state at a time. -/
def atTime (s : State) (n : Nat) : State := { s with time := n }
theorem wit_progress : ∀ n ∈ [0, 1000000000000], let s := atTime boundInv n; s.stopped = false ∧ (s.ctx 0).inv = some inv ∧ inv.bound = true ∧ inv.ending = none ∧ s.ctxState 0 = 1 ∧
    decide ((s.ctx 0).progressAt + s.getF F.tmoProgressProgressMs * 1000000 ≤ s.time) = (n != 0) := by decide +kernel
theorem wit_sequencer : ∀ n ∈ [0, 1000000000000], let s := atTime (task [opw 0 1]) n; s.stopped = false ∧ (s.core 0).running = some 0 ∧ ((s.core 0).slot 0).state ≠ 0 ∧ (s.core 0).rst = 0 ∧
    decide ((s.core 0).progressAt + s.getF F.tmoSeqSeqMs * 1000000 ≤ s.time) = (n != 0) := by decide +kernel
theorem wit_barrier : ∀ n ∈ [0, 1000000000000], let s := atTime (at0 (fun c => { c with slots := [(0, { sl0 with state := 3 })] })) n; ((s.core 0).slot 0).state = 3 ∧ s.live ((s.core 0).slot 0).tag = true ∧
    decide (((s.core 0).slot 0).waitSince + s.getF F.tmoBarrierBarrierMs * 1000000 ≤ s.time) = (n != 0) := by decide +kernel
theorem wit_sluice : ∀ n ∈ [0, 1000000000000], let s := atTime (at0 (credited 0 (fun x => { x with state := 2, timer := some 0 }))) n; ((s.core 0).cred 1).state = 2 ∧ ((s.core 0).cred 1).timer = some 0 ∧
    decide (0 + s.getF F.tmoSluiceSluiceMs * 1000000 ≤ s.time) = (n != 0) := by decide +kernel
theorem wit_response : ∀ n ∈ [0, 1000000000000], let s := atTime (asking (.streamWrite 0 0 0) 2) n; s.stopped = false ∧
    s.requests.find? (fun q => q.txn == 7) = some ⟨7, 0, .streamWrite 0 0 0, 0, 0, false, pkt 2 0 0 16 [], none⟩ ∧ (((s.core 0).strm 0).run.any (fun x => x.status == .ok)) = true ∧
    decide (0 + s.getF F.tmoLinkRspLinkRspMs * 1000000 ≤ s.time) = (n != 0) := by decide +kernel
theorem wit_heartbeat : let s := ({ atTime enabled 1000000000000 with hbAt := some 0 } : State).setF F.tmoHbHbEn 1; s.hbAt = some 0 ∧ s.flag F.tmoHbHbEn = true ∧
    0 + s.getF F.tmoHbHbS * 1000000000 ≤ s.time ∧ s.ctxState 0 = 1 := by decide +kernel
theorem wit_closing : ∀ n ∈ [0, 1000000000000], let s := atTime (at0 (two (fun p => { p with sluice := true, sluiceState := 2, closeAt := some 0 }))) n; let p := (s.core 0).polder 2
    p.valid = true ∧ p.sluice = true ∧ p.sluiceState = 2 ∧ p.closeAt = some 0 ∧ (if n = 0 then s.time < 0 + s.dikeNs else 0 + s.dikeNs ≤ s.time) := by decide +kernel
/-- Core 0 in a state of its reset, diked at 0, with a resident polder, one that is not, and perhaps a block in flight. -/
def diked (rst : Nat) (busy : Bool) : State := atTime (at0 (fun c => { strmed (if busy then some (flying toHbm (sblock (zeros 64))) else none) none
  { c with ht := [(1, pold 0 (fun p => { p with resident := true }))] } with rst := rst, dikeAt := some 0, dikeFor := 10000000 })) 1000000000
theorem wit_core_reset : ∀ n ∈ [0, 1, 3], let s := diked n false; s.stopped = false ∧ (s.core 0).rst = n ∧ (s.core 0).outstanding = 0 ∧ (s.core 0).dikeAt = some 0 ∧ 0 + ((s.core 0).dikeFor + 2000000) ≤ s.time := by
  decide +kernel
/-- The same with an open sluice that owes credit, and a polder that is none. -/
def owing : State := (diked 1 false).setCore 0 { (diked 1 false).core 0 with ht := [(2, pold 1 (fun p => { p with sluice := true, sluiceState := 1, credit := 1 })), (3, pold 2)] }
theorem wit_core_sluice : let c := owing.core 0; owing.stopped = false ∧ c.rst = 1 ∧ c.outstanding = 0 ∧ (2, c.polder 2) ∈ c.ht ∧ (c.polder 2).valid = true ∧ (c.polder 2).resident = false ∧
    (c.polder 2).sluice = true ∧ (c.polder 2).sluiceState = 1 ∧ (c.polder 2).credit ≠ 0 ∧ (3, c.polder 3) ∈ c.ht ∧ (c.polder 3).valid = true ∧ (c.polder 3).resident = false ∧
    (c.polder 3).sluice = false := by decide +kernel
theorem wit_core_busy : ((diked 1 true).core 0).outstanding ≠ 0 ∧ ((diked 1 true).core 0).rst = 1 := by decide +kernel

/-- Port 0 in a state at a time, with a dike begun at 0 or none. -/
def portAt (st n : Nat) (dike : Bool) (f : PortSt → PortSt := id) : State := atTime (portOf st (fun x => f { x with dikeAt := if dike then some 0 else none, dikeFor := 10000000 })) n
theorem wit_port_reset : ∀ st ∈ [1, 2, 3, 4], let s := portAt st 0 false; s.stopped = false ∧ s.portResets 0 = false ∧ s.barQuiet = true ∧ s.portState 0 = st ∧ s.portState 0 ≠ 0 := by decide +kernel
theorem wit_port_resets : (portAt 5 0 true).portResets 0 = true ∧ (portAt 2 0 true).portResets 0 = true ∧ (portAt 5 0 true).barQuiet = true := by decide +kernel
theorem wit_port_late : let s := portAt 2 1000000000 true; s.portState 0 = 2 ∧ (s.port 0).dikeAt = some 0 ∧ 0 + (s.port 0).dikeFor ≤ s.time ∧ (s.port 0).overdue = false := by decide +kernel
theorem wit_port_drained : let s := portAt 5 1000000000 true; s.portState 0 = 5 ∧ (s.port 0).trainAt = none ∧ (s.port 0).dikeAt = some 0 ∧ (s.port 0).overdue = false ∧ 0 + (s.port 0).dikeFor ≤ s.time := by decide +kernel
theorem wit_port_lifted : let s := portAt 3 0 true; s.portState 0 = 3 ∧ (s.port 0).dikeAt.isSome = true := by decide +kernel
theorem wit_port_escalates : ∀ st ∈ [2, 5], let s := portAt st 150000000 true; (s.port 0).dikeAt.or (s.port 0).trainAt = some 0 ∧ 0 + 150000000 ≤ s.time ∧ s.portState 0 = st := by decide +kernel
/-- Stack 0 in a state, diked at 0. -/
def stackIn (st : Nat) : State := atTime (State.reset.setHsc 0 { StackSt.up with state := st, dikeAt := some 0, dikeFor := 10000000, resetAt := some 0 }) 1800000000
theorem wit_stack : ∀ st ∈ [0, 1, 2], let s := stackIn st; s.stopped = false ∧ (s.hsc 0).state = st ∧ (s.hsc 0).dikeAt = some 0 ∧ 0 + (s.hsc 0).dikeFor ≤ s.time ∧ (s.hsc 0).resetAt = some 0 ∧ 0 + 1800000000 ≤ s.time ∧ s.deaf = false ∧ s.barQuiet = true ∧ (atTime s 5).time < 0 + 1800000000 := by decide +kernel
/-- The PF under its dike, in a step. -/
def funcDiked (step : Option Bool) (st : Nat) : State :=
  atTime (({ withCtx (fun c => { c with tearAt := some 0, tearFor := 10000000 }) with funcDikes := match step with | some b => [(0, b)] | none => [] } : State).setF F.cxsCtxStateState st 0) 100000000000
theorem wit_func : (funcDiked none 1).funcDiked 0 = false ∧ (funcDiked none 1).stopped = false ∧ 0 ∈ (funcDiked none 1).contextsOf 0 ∧ (funcDiked none 1).ctxState 0 = 1 := by decide +kernel
theorem wit_func_again : (funcDiked (some false) 3).funcDiked 0 = true ∧ (funcDiked (some false) 3).funcQuiet 0 = false := by decide +kernel
theorem wit_func_quiet : let s := ({ State.reset with funcDikes := [(0, false)] } : State); s.funcDikes.find 0 = some false ∧ s.funcQuiet 0 = true := by decide +kernel
theorem wit_func_lifted : (funcDiked (some true) 0).funcDikes.find 0 = some true := by decide +kernel
theorem wit_scratch : ∃ off p, findReg off = some p ∧ p.reg = .glbScratch ∧ off % 8 = 0 ∧ State.reset.barQuiet = true ∧ State.reset.stopped = false :=
  ⟨0x30, ⟨.glbScratch, 0, 0, 0⟩, by decide +kernel⟩
theorem wit_func_stuck : let s := funcDiked (some false) 3; s.funcDikes.find 0 = some false ∧ 0 ∈ s.contextsOf 0 ∧ s.ctxState 0 = 3 ∧ (s.ctx 0).tearAt = some 0 ∧ 0 + s.tearNs 0 ≤ s.time ∧ 0 + 100000000 ≤ s.time := by
  decide +kernel

theorem wit_warm : boundInv.deaf = false ∧ boundInv.barQuiet = true ∧ 0 ∈ boundInv.known ∧ boundInv.ctxState 0 = 1 := by decide +kernel
/-- A warm reset under way since 0. -/
def warm (n : Nat) : State := { State.reset with warmAt := some 0, time := n }
theorem wit_warm_done : ∀ n ∈ [6999999999, 7000000000], let s := warm n; s.warming = true ∧ s.warmAt = some 0 ∧ s.memWf = true ∧ s.time = n := by decide +kernel
theorem wit_warm_rom : let s := { warm 0 with boot := { State.reset.boot with slotA := none, slotB := none } }; s.warming = true ∧ s.boot.bootable 0 = false ∧ s.boot.bootable 1 = false := by decide +kernel
theorem wit_not_warm : State.reset.warming = false := by decide +kernel
theorem wit_power : ({ State.reset with power := .off } : State).power = .off ∧ ({ State.reset with power := .tripped } : State).power = .tripped ∧ State.reset.power = .on ∧ State.reset.power ≠ .off ∧
    State.reset.power ≠ .tripped := by decide +kernel
/-- A supply event under way, in a state of PWR_SUPPLY. -/
def dipped (st : Nat) : State := { State.reset.setF F.pwrSupplyState st with supply := some ⟨0, 43000⟩ }
theorem wit_supply : (dipped 1).supply = some ⟨0, 43000⟩ ∧ (dipped 1).getF F.pwrSupplyState = 1 ∧ (dipped 2).getF F.pwrSupplyState = 2 ∧ (dipped 1).power = .on ∧
    boundInv.supply = none ∧ (boundInv.ctx 0).inv = some inv ∧ boundInv.power = .on := by decide +kernel
theorem wit_weir : let s := { State.reset.setF F.pwrSupplyState 1 with trajectory := 5000 }; let x : WeirSample := { demand := 1000, vin := 54000, iin := 1000 }
    s.power = .on ∧ s.getF F.pwrSupplyState = 1 ∧ min x.demand (milliamps s.limitWatts x.vin) ≤ s.trajectory :=
  ⟨by decide +kernel, by decide +kernel, Nat.le_trans (Nat.min_le_left _ _) (by decide +kernel)⟩
theorem wit_weir_fall : let s := { State.reset with trajectory := 5000, otherMa := 10 }; let x : WeirSample := { demand := 1000, vin := 54000, iin := 1000, other := 10 }
    s.power = .on ∧ s.getF F.pwrSupplyState ≠ 1 ∧ min x.demand (milliamps s.limitWatts x.vin) < s.steppedDown x.other :=
  ⟨by decide +kernel, by decide +kernel, Nat.lt_of_le_of_lt (Nat.min_le_left _ _) (by decide +kernel)⟩
theorem wit_droop : (State.reset.clkField 0).droop = false ∧ ((State.reset.setField 0 { State.reset.clkField 0 with droop := true }).clkField 0).droop = true := ⟨rfl, rfl⟩
/-- Field 0 in the 105 °C stage, field 1 at a reading. -/
def hot (c : Nat) : State := (State.reset.setField 0 ⟨106, 3, 2, false⟩).setField 1 ⟨c, 1, 1, false⟩
theorem wit_thermal_held : let s := hot 103; s.power = .on ∧ (s.clkField 0).stage = 2 ∧ 100 < (s.setField 0 { s.clkField 0 with temp := 90 }).hottest := by decide +kernel
theorem wit_thermal_free : let s := hot 99; s.power = .on ∧ ¬ ((s.clkField 0).stage = 2 ∧ 100 < (s.setField 0 { s.clkField 0 with temp := 90 }).hottest) := by decide +kernel
/-- Table 18.5: the 105 °C stage of a field at 90 °C lasts while another reads 103 °C, and ends when that one reads 100 °C. -/
theorem test_thermal_hottest : let s := (hot 103).readField 0 90; (s.clkField 0).stage = 2 ∧ ((s.readField 1 100).clkField 0).stage = 0 := by decide +kernel
/-- R397: a core marked suspect for one context shows in the window of another that is enabled, and a refused COPY_IN of opcode 2 gives the window its status. -/
theorem test_window_ledger : let s := State.reset.setF F.hiuCtxCtlEnable 1 3
    ((s.suspectCore 0 5 1).ctx 3).window.suspects = [5] ∧ ((s.complete 3 (desc 2 []) .descInvalid).ctx 3).window.error = some .descInvalid ∧
    ((s.complete 3 (desc 0 []) .descInvalid).ctx 3).window.error = none := by decide +kernel

/-- A service hold in a stage, begun at 0, at a time. -/
def holding (st n : Nat) : State := atTime (State.reset.setF F.svcStatusHold st) n
theorem wit_button : ∀ st ∈ [0, 1, 2, 3], ∀ n ∈ [0, 9999999999, 10000000000], let s := holding st n; s.stopped = false ∧ s.getF F.svcStatusHold = st ∧ s.holdAt = 0 ∧ s.time = n := by decide +kernel
theorem wit_button_held : let s := boundInv; s.getF F.svcStatusHold ≠ 3 ∧ 0 ∈ s.known ∧ (s.ctx 0).runs = true ∧ s.ctxState 0 = 1 ∧ s.stopped = false ∧ s.ctxs.any (fun p => p.2.runs) = true := by decide +kernel
theorem wit_hold_held : ∀ st ∈ [1, 3], let s := { holding st 0 with mbx := some (mail 10 1 []) }; s.getF F.svcStatusHold = st ∧ s.ctxs.any (fun p => p.2.runs) = false ∧ s.stopped = false ∧
    s.mbx = some (mail 10 1 []) ∧ (mail 10 1 []).code = 10 ∧ (mail 10 1 []).arg = 1 := by decide +kernel
theorem wit_cable : ∀ st ∈ [0, 3, 5], (portOf st).stopped = false ∧ (portOf st).portState 0 = st ∧ (st = 3 → (portOf st).portResets 0 = false) ∧ (portOf st).getF F.svcStatusHold = 0 ∧ ((portOf st).setF F.svcStatusHold 1).getF F.svcStatusHold ≠ 0 := by decide +kernel
/-- This chip's plan entry: its port 0 leads somewhere. -/
def mine : ChipEntry := ⟨Config.serial, 0, 0, 0, 0, false, [⟨1, 0, 0, 0⟩]⟩
theorem wit_cable_in : let s := ({ (portOf 1).setF F.topoPlanStatusLoaded 1 with plan := some ⟨0, 1, [], [mine]⟩ } : State); s.ownEntry = some mine ∧ (mine.ports.getD 0 ⟨0, 0, 0, 0⟩).kind ≠ 0 ∧ s.portState 0 = 1 ∧ s.trains 0 = false ∧ s.stopped = false :=
  ⟨by simp [State.ownEntry, mine], by decide +kernel⟩
/-- Context 0 with an audit ring of 2 to the 5 records and a record that waits. -/
def auditing : State := { (enabled.setF F.hiuCtxCtlAuditLog2 5 0) with collector := [⟨0, zeros 32⟩] }
theorem wit_audit : (auditing.recordsOf 0).head? = some ⟨0, zeros 32⟩ ∧ auditing.parked = [] ∧ auditing.requests = [] ∧ (∀ p ∈ auditing.ctxs, p.2.ckpt = none) ∧ auditing.auditRoom 0 ≠ 0 ∧ auditing.getF F.hiuCtxCtlAuditLog2 0 = 5 ∧ auditing.stopped = false := by decide +kernel

theorem wit_free_waits : let r := srun (sdesc toHbm 1); let s := task [fw 1 0] (strmed (some r)); let u := after s
    s.atOp 0 0 sl0 .free (fw 1 0) 0 u ∧ (u.core 0).check 0 2 0 0 = none ∧ ((u.core 0).strm 0).run = some r ∧ (0, (u.core 0).strm 0) ∈ (u.core 0).strms ∧ bits r.desc.ctrl 1 0 = 0 ∧ r.desc.srcHandle = 2 :=
  ⟨atOp_of (by decide +kernel), by decide +kernel⟩
theorem wit_free_goes : let s := task [fw 1 0] (fun c => { strmed none none c with strms := [] }); let u := after s
    s.atOp 0 0 sl0 .free (fw 1 0) 0 u ∧ (u.core 0).check 0 2 0 0 = none ∧ (u.core 0).touches 0 2 = false ∧ (u.core 0).strms = [] ∧ (u.core 0).allocating 2 = false ∧ ((u.core 0).polder 2).sluice = false :=
  ⟨atOp_of (by decide +kernel), by decide +kernel⟩
/-- Core 0 with polder 2 as the tide of a ring of 2 members, and a block of a bank, ring and origin. -/
def tideCore : State := tided (tbind 0 1 2 false none) (landed 0 false)
def tidePkt (ring bank origin : Nat) : Packet := blockPkt (tideHeader 0 0 ring bank 0 origin 0 0 0) zblock.tag
theorem wit_mismatch : ∀ p ∈ [tidePkt 1 0 0, tidePkt 0 0 2, tidePkt 0 1 0], let s := tideCore; let c := s.core 0; let byte := p.offset % 2 ^ 50 - 0x2000000000000; let q := c.polder 2
    p.type = 7 ∧ s.stopped = false ∧ s.parked = [] ∧ c.rst = 0 ∧ 0x2000000000000 ≤ p.offset % 2 ^ 50 ∧ byte < spmBytes ∧ c.polderAt (byte / granule) = some (2, q) ∧ q.owner = p.ctxTag ∧ q.sluice = true ∧
    q.sluiceState ≠ 2 ∧ q.credit ≠ 0 ∧ c.tideRole 2 = some (tbind 0 1 2 false none, .tide) ∧
    (p ≠ tidePkt 0 1 0 → hdrRing (slice p.body 0 16) ≠ 0 ∨ ¬ hdrOrigin (slice p.body 0 16) < 2) ∧ (p = tidePkt 0 1 0 → hdrBank (slice p.body 0 16) ≠ s.bank 0) := by decide +kernel
theorem wit_mismatch_again : let s := tided (tbind 0 1 2 false none) { landed 0 false with checked := false, failed := true }; let q := (s.core 0).polder 2
    q.landed.any (fun x => x.failed && x.seq % 2 ^ 24 == hdrSeq (slice (tidePkt 1 0 0).body 0 16)) = true ∧ q.sluice = true ∧ q.sluiceState ≠ 2 ∧ q.owner = (tidePkt 1 0 0).ctxTag ∧
    (s.core 0).tideRole 2 = some (tbind 0 1 2 false none, .tide) := by decide +kernel
/-- MOMENTS_FINAL over one record in the vector unit: empty, of one element, of many. -/
def moments (n : Nat) : State := (rowHas 2 0).setCore 0 { (rowHas 2 0).core 0 with
  spm := Mem.writeN ((rowHas 2 0).core 0).spm (granule * 2) (RowRec.bytes ⟨n, .fin false 1 0, .fin false 1 0, 1, false, false⟩) }
/-- What it reads. -/
def momentsRead (n : Nat) : Option Bytes × State := (moments n).spmRead 0 (((moments n).core 0).abs ((rowOp 2 1).handles.getD 1 0) 0) 16
theorem wit_moments : ∀ n ∈ [0, 1, 4294967295], let s := moments n; let f := rowFields (rowWord 2 1)
    (s.core 0).vu = [rowOp 2 1] ∧ (s.core 0).rst < 2 ∧ (rowOp 2 1).kind = .rowstat ∧ (rowOp 2 1).row = none ∧ bits (rowOp 2 1).word 115 112 = 2 ∧ f.ok = true ∧
    s.overfills 0 (s.runBatch 0 (rowOp 2 1) .agree) = false ∧ min 16 (f.rows - 0) = 1 ∧ (momentsRead n).1.isSome = true ∧
    (rowRecOf (slice (got [] (momentsRead n)) 0 16)).kind ≤ 1 ∧ (rowRecOf (slice (got [] (momentsRead n)) 0 16)).n = n ∧
    ((momentsRead n).2.writeCodes 0 ((rowOp 2 1).handles.getD 2 0) 0 (bitsOf f.cfmt) 0 [0]).1 = true ∧
    (((momentsRead n).2.writeCodes 0 ((rowOp 2 1).handles.getD 2 0) 0 (bitsOf f.cfmt) 0 [0]).2.writeCodes 0 ((rowOp 2 1).handles.getD 3 0) 0 (bitsOf f.cfmt) 0 [0]).1 = true := by
  decide +kernel

theorem wit_frame_task : ∃ t, exec (.controlNop 0) (task [opw 0 1]) = .next t := ⟨_, rfl⟩
theorem wit_frame_compute : ∃ t, exec (.matrix 0) (matTask 1 0) = .next t := ⟨_, rfl⟩
theorem wit_frame_batch : let s := vuHas (vlong 1); s.memWf = true ∧ (s.core 0).vu = [vlong 1] ∧ ((vlong 1).kind = .vector) ∧ (vop .sfu (sw 0 0)).kind ≠ .vector := by decide +kernel
theorem wit_frame_batch_runs : ∃ t, exec (.vectorBatch 0 .agree) (vuHas (vlong 1)) = .next t := ⟨_, rfl⟩
theorem wit_frame_manage : ∃ t, exec .rackSyncEdge (racked true 1000 900) = .next t := ⟨_, rfl⟩
theorem wit_frame_context : ∃ t, exec (.sqTail 0 0 0) enabled = .next t := ⟨_, rfl⟩

/-- Lengths of the example table of chapter 6. -/
def exampleTable : List Nat := ((((((List.replicate 272 0).set 0 2).set 0x3C 2).set 0x40 3).set 0x41 3).set 271 3).set 262 4
/-- Table 6.5. -/
theorem test_codewords : codewords exampleTable = [(0, 2, 0), (0x3C, 2, 1), (0x40, 3, 4), (0x41, 3, 5), (271, 3, 6), (262, 4, 14)] := by decide +kernel
/-- The fragmentation example of chapter 5: polders of 64, 32, 96 and 32 granules, the second and fourth freed. -/
theorem test_best_fit : bestFit [(64, 32), (192, 192)] 24 = some 64 ∧ bestFit [(88, 8), (192, 192)] 180 = some 192 ∧ bestFit [(88, 8), (372, 12)] 16 = none := by decide +kernel
/-- Table 13.7: from (3, 1, 0) to (0, 3, 2). -/
theorem test_route : [7, 4, 8, 12, 28].map (fun p => nextHop (State.reset.routeBits none 7 44) p 44) = [some 0, some 2, some 2, some 4, some 4] ∧
    nextHop (State.reset.routeBits none 7 44) 44 44 = none ∧ datelineBit 7 0 none = true ∧ datelineBit 4 2 (some (1, true)) = false := by decide +kernel
/-- The MXFP8 example of chapter 2: 1,000 and 0.01. -/
theorem test_mx : mxConvert e4m3 (fun _ => .nearest) [.fin false 1000 0, fp32.decode 0x3C23D70A] = (128, [0x7E, 3]) := by decide +kernel
/-- R338: v goes as ⌊v / 6⌋, v mod 6 at the odd levels from −5, every v reads back, and the pairs (5, 2) to (5, 5) give none. -/
theorem test_pam6 : (List.range 32).all (fun v => pam6Read (pam6 v).1 (pam6 v).2 == some v) = true ∧ [2, 3, 4, 5].all (fun b => (pam6Read 5 b).isNone) = true ∧
    (List.range 6).map pam6Level = [-5, -3, -1, 1, 3, 5] := by decide +kernel
/-- R339: x^16 = x^12 + x^3 + x + 1; 32 check symbols that leave no remainder; 16 damaged symbols are corrected, 17 are not. R340: the third flit spans two codewords. -/
theorem test_fec : fecX 0x8000 = 0x100B ∧ fecMul 0x8000 2 = 0x100B ∧ fecCheck ([1, 2] ++ fecCheck [1, 2]) = List.replicate 32 0 ∧ (fecCheck [1, 2]).length = 32 ∧
    (fecDecode ((List.range 16).map (fun j => (j, 1)))).isSome = true ∧ (fecDecode ((List.range 17).map (fun j => (j, 1)))).isSome = false ∧
    (List.range 20).filter fecBegins = [0, 2, 5, 8, 11, 14, 17] ∧ ((List.range 20).filter (fun k => !fecInside k)) = [0] := by decide +kernel
/-- The freeboard example of chapter 4 after the first pass: 36 × 31.25 × 2^−23, and the small second term rounds it up. -/
theorem test_freeboard : code32 (freeboardMatrix 4 32 8 64 (.fin false 125 (-2))) = 957128705 := by decide +kernel
/-- Addresses of Table 19.12. -/
theorem test_addresses : [0x20128, 0x9094, 0x14094, 0x11094, 0x1E094, 0x26094, 0x50948, 0x50940].map (fun a => (findReg a).map (fun p => (p.reg, p.index))) =
    [some (.hscPtRoot, 37), some (.topoCtxBlock, 37), some (.cxsCtxCfg, 37), some (.ckuCtxCfg, 37), some (.seCmpCtxCfg, 37), some (.secCtxCfg, 37), some (.hiuSqBase, 37), some (.hiuCtxCtl, 37)] := by
  decide +kernel

/-! Well-formed commands: for each check one command that passes and those that fail. -/
theorem test_wf_descriptors : (Instr.descriptorFetch 0 [zeros 64]).wf = true ∧ (Instr.descriptorFetch 0 [zeros 63]).wf = false ∧ (Instr.copyIn 0 (zeros 128)).wf = true ∧ (Instr.copyOut 0 (zeros 64)).wf = false ∧
    (Instr.loadShard 0 [] [zeros 65]).wf = false := by decide +kernel
theorem test_wf_hits : (Instr.expandBlock 0 0 [(2111, 255)]).wf = true ∧ (Instr.expandBlock 0 0 [(2112, 255)]).wf = false ∧ (Instr.expandBlock 0 0 [(0, 256)]).wf = false ∧
    (Instr.copyBlock 0 (zeros 2113) []).wf = false ∧ (Instr.copyBlock 0 [] [(2112, 1)]).wf = false ∧ (Instr.streamBlockWrite 0 0 (zeros 2113) []).wf = false ∧
    (Instr.streamBlockWrite 0 0 [] [(2112, 1)]).wf = false ∧ (Instr.tableLoad 0 0 (zeros 257)).wf = false ∧ (Instr.invokeBind 0 [(0, ⟨[(0, 256)], []⟩)]).wf = false ∧
    (Instr.shardObjectArrived 0 0 [0] ⟨[(1, 1)], []⟩).wf = false ∧ (Instr.checkpoint 0 [] [(0, ⟨[], [(0, 256)]⟩)]).wf = false ∧
    (Instr.checkpointObjectDone 0 0 [(0, ⟨[(0, 256)], []⟩)]).wf = false := by decide +kernel
theorem test_wf_group : (Instr.meGroupDrain 0 0 ⟨[(255, 1)], [], [], [], .agree⟩).wf = true ∧ (Instr.meGroupDrain 0 0 ⟨[(256, 1)], [], [], [], .agree⟩).wf = false ∧
    (Instr.meGroupDrain 0 0 ⟨[], [], [], [(0, 2 ^ 32)], .agree⟩).wf = false := by decide +kernel
theorem test_wf_window : (Instr.windowRead 0 1 Noise.none).wf = true ∧ (Instr.windowRead 0 0 Noise.none).wf = false ∧ (Instr.windowRead (2 ^ 41) 1 Noise.none).wf = false ∧
    (Instr.windowRead 0 1 ⟨[(34, 1)], []⟩).wf = false ∧ (Instr.windowWrite 0 [] Noise.none).wf = false ∧ (Instr.windowWrite (2 ^ 41) [0] Noise.none).wf = false ∧
    (Instr.windowWrite 0 [0] ⟨[], [(34, 1)]⟩).wf = false := by decide +kernel
theorem test_wf_register : (Instr.registerWrite .pf 8 8 0 [(8, 8)]).wf = true ∧ (Instr.registerWrite .pf 8 8 0 [(2 ^ 26, 8)]).wf = false ∧ (Instr.registerWrite .pf 8 2 0).wf = false ∧ (Instr.registerWrite .pf 4 8 0).wf = false ∧
    (Instr.registerWrite .pf 0 4 (2 ^ 32)).wf = false ∧ (Instr.registerWrite .pf (2 ^ 26) 4 0).wf = false := by decide +kernel
theorem test_wf_dredger : (Instr.dredgerRead 0 ⟨[(287, 1)], []⟩ [] []).wf = true ∧ (Instr.dredgerRead 0 ⟨[(288, 1)], []⟩ [] []).wf = false ∧ (Instr.dredgerRead 0 Noise.none [(288, 1)] []).wf = false ∧
    (Instr.dredgerRead 0 Noise.none [] [(288, 1)]).wf = false := by decide +kernel
theorem test_wf_culvert : (msg 1 0).wf = true ∧ [msg (2 ^ 8) 0, msg 1 (2 ^ 32), msg 1 0 (fun m => { m with dstChip := 2 ^ 14 }), msg 1 0 (fun m => { m with dstCore := 2 ^ 8 }),
    msg 1 0 (fun m => { m with ctxTag := 2 ^ 16 }), msg 1 0 (fun m => { m with srcChip := 2 ^ 14 }), msg 1 0 (fun m => { m with srcCore := 2 ^ 8 }), msg 1 0 (fun m => { m with gen := 64 }),
    msg 1 0 (fun m => { m with len := 1 }), msg 1 0 (fun m => { m with route := 2 ^ 8 }), msg 1 0 (fun m => { m with deadline := 2 ^ 32 }), msg 1 0 (fun m => { m with len := 49, payload := zeros 49 })].all (fun m => !(Instr.arrive 0 m).wf && !(Instr.prepare m).wf) = true := by decide +kernel
theorem test_wf_packet : (wpkt 0).wf = true ∧ [{ wpkt 0 with dstChip := 2 ^ 14 }, { wpkt 0 with srcChip := 2 ^ 14 }, { wpkt 0 with type := 2 ^ 8 }, { wpkt 0 with route := 2 ^ 8 },
    { wpkt 0 with ctxTag := 2 ^ 16 }, { wpkt 0 with deadline := 2 ^ 32 }, { wpkt 0 with length := 258, body := zeros 4128 }, { wpkt 0 with length := 2 }, { wpkt 0 with status := 2 ^ 8 },
    { wpkt 0 with dstUnit := 2 ^ 8 }, { wpkt 0 with offset := 2 ^ 50 }, { wpkt 0 with size := 2 ^ 13 }, { wpkt 0 with txn := 2 ^ 16 }, { wpkt 0 with srcUnit := 2 ^ 8 },
    { wpkt 0 with check := 2 ^ 32 }].all (fun p => !(Instr.read 0 p).wf && !(Instr.block 0 none p ⟨[], []⟩).wf && !(Instr.gatherData 0 0 (some (0, p)) [] ⟨[], []⟩ .agree).wf) = true := by
  decide +kernel
theorem test_wf_memory : (Instr.hscRequest 0 (hreq 32 [])).wf = true ∧ [hreq 33 [], hreq (2 ^ 41) [], hreq 0 (zeros 33), { hreq 0 [0] with write := false }, { hreq 0 [] with ctxTag := 2 ^ 16 },
    { hreq 0 [] with strike := [(34, 1)] }, { hreq 0 [] with passing := [(34, 1)] }, hreq 0 [] ⟨[(34, 1)], []⟩, { hreq 0 [] with mirrorNoise := ⟨[(34, 1)], []⟩ }].all
      (fun r => !(Instr.hscRequest 0 r).wf) = true ∧ (Instr.pageWalk .hiu 0 (2 ^ 64) false Noise.none).wf = false ∧ (Instr.pageWalk .hiu 0 0 false ⟨[(34, 1)], []⟩).wf = false ∧
    (Instr.scrubRead 0 ⟨[(34, 1)], []⟩).wf = false ∧ (Instr.hbmTrainingLoss 0 (2 ^ 32) false).wf = false := by decide +kernel
/-- A data flit of zeros. -/
def zflit : Flit := ⟨0, 0, 0, false, 0, 0, 31, 0, zeros 320, 0, ⟨[], []⟩⟩
theorem test_wf_flits : (Instr.dataFlit 0 zflit).wf = true ∧ [{ zflit with seq := 2 ^ 12 }, { zflit with vc := 8 }, { zflit with ack := 2 ^ 12 }, { zflit with credA := 2 ^ 16 },
    { zflit with credB := 2 ^ 16 }, { zflit with start := 32 }, { zflit with fill := 32 }, { zflit with payload := [] }, { zflit with crc := 2 ^ 32 },
    { zflit with line := ⟨[(512, 1)], []⟩ }, { zflit with line := ⟨[(0, 2 ^ 16)], []⟩ }, { zflit with line := ⟨[], [(32, 0, 0)]⟩ }, { zflit with line := ⟨[], [(0, 6, 0)]⟩ },
    { zflit with line := ⟨[], [(0, 0, 6)]⟩ }].all
      (fun f => !(Instr.dataFlit 0 f).wf && !(Instr.idle 0 f).wf && !(Instr.linkKeyExchange 0 f false 0).wf && !(Instr.timeReq 0 f).wf && !(Instr.timeRsp 0 f 0).wf) = true ∧ (Instr.linkKeyExchange 0 zflit false 301).wf = false ∧
    (Instr.timeRsp 0 zflit (2 ^ 64)).wf = false ∧ (Instr.laneErrorWindow 0 [(0, 2 ^ 32)]).wf = false := by decide +kernel
theorem test_wf_rest : (Instr.dbgSpmRow .pf (zeros 287)).wf = false ∧ (Instr.supplyDrop (2 ^ 32)).wf = false ∧ (Instr.weirSample ⟨0, 0, 0, 0, 0, 0, false, false⟩).wf = true ∧
    [(⟨2 ^ 32, 0, 0, 0, 0, 0, false, false⟩ : WeirSample), ⟨0, 2 ^ 32, 0, 0, 0, 0, false, false⟩, ⟨0, 0, 2 ^ 32, 0, 0, 0, false, false⟩, ⟨0, 0, 0, 2 ^ 32, 0, 0, false, false⟩,
      ⟨0, 0, 0, 0, 2 ^ 32, 0, false, false⟩, ⟨0, 0, 0, 0, 0, 2 ^ 32, false, false⟩].all (fun x => !(Instr.weirSample x).wf) = true := by decide +kernel

end Sys2Proof.Tests

end
end

/-! PROOFS. O11: the life of an INVOKE (Tables 1.6, 4.9, 8.10). Two facts carry it. What the running INVOKE is to its ledger and its binding (`CtxSt.account`,
`CtxSt.bond`) outlives all that binding, unbinding and faulting set off; and nothing that unbinding sets off brings back to a core what was cleared from it
(`State.Winds`). -/

namespace Sys2Proof.Machine

/-! ### What a context keeps -/

/-- Between two states every context keeps what a view shows of it. -/
structure State.Steady {α : Type} (f : CtxSt → α) (s t : State) : Prop where
  view : ∀ i, f (t.ctx i) = f (s.ctx i)

section
variable {α : Type} {f : CtxSt → α}

theorem State.Steady.refl (s : State) : s.Steady f s := ⟨fun _ => rfl⟩

theorem State.Steady.trans {s t u : State} (h : s.Steady f t) (k : t.Steady f u) : s.Steady f u := ⟨fun i => (k.view i).trans (h.view i)⟩

/-- An operation that changes no context keeps every view of them. -/
theorem State.Steady.of_ctxs {s t : State} (h : t.ctxs = s.ctxs) : s.Steady f t := ⟨fun i => by unfold State.ctx; rw [h]⟩

theorem State.Steady.emit (s : State) (o : Out) : s.Steady f (s.emit o) := .of_ctxs rfl
theorem State.Steady.ask (s : State) (l : List Asked) : s.Steady f { s with asked := l } := .of_ctxs rfl
theorem State.Steady.collect (s : State) (l : List Record) : s.Steady f { s with collector := l } := .of_ctxs rfl
theorem State.Steady.refetch (s : State) (l : List Refetch) : s.Steady f { s with refetch := l } := .of_ctxs rfl

theorem State.Steady.setCtx (s : State) (i : Nat) (x : CtxSt) (h : f x = f (s.ctx i) := by rfl) : s.Steady f (s.setCtx i x) := by
  refine ⟨fun j => ?_⟩
  by_cases e : j = i
  · subst e; rw [State.ctx_setCtx_self]; exact h
  · rw [State.ctx_setCtx_ne _ _ e]

theorem State.Steady.foldl {γ : Type} {g : State → γ → State} (hg : ∀ s a, State.Steady f s (g s a)) :
    ∀ (l : List γ) (s : State), State.Steady f s (l.foldl g s)
  | [], s => .refl s
  | a :: l, s => (hg s a).trans (State.Steady.foldl hg l (g s a))

/-- Folds that carry a value beside the state. -/
theorem State.Steady.foldl_snd {β γ : Type} {g : β × State → γ → β × State} (hg : ∀ x a, State.Steady f x.2 (g x a).2) :
    ∀ (l : List γ) (x : β × State), State.Steady f x.2 (l.foldl g x).2
  | [], x => .refl x.2
  | a :: l, x => (hg x a).trans (State.Steady.foldl_snd hg l (g x a))

end

/-- An INVOKE without what tells of its ending: what its ledger is made from, and whether it is bound. -/
def Invoke.unended (v : Invoke) : Invoke := { v with ending := none, endAt := none, haltSent := false }

/-- What a context's next ledger is made from, and the last one. -/
def CtxSt.account (c : CtxSt) : Option Invoke × Bytes := (c.inv.map Invoke.unended, c.lastBody)

/-- Whether a context has an INVOKE, and whether that is bound or waits to be. -/
def CtxSt.bond (c : CtxSt) : Option (Bool × Bool) := c.inv.map (fun v => (v.bound, v.waits))

/-- The bond is part of the account. -/
theorem State.Steady.bond {s t : State} (h : s.Steady CtxSt.account t) : s.Steady CtxSt.bond t := ⟨fun i => by
  have k := congrArg (fun a => a.1.map (fun v => (v.bound, v.waits))) (h.view i)
  simpa [CtxSt.account, CtxSt.bond, Option.map_map, Function.comp_def, Invoke.unended] using k⟩

/-- A kept bond shows in an INVOKE that is there. -/
theorem State.Steady.bond_inv {s t : State} (h : s.Steady CtxSt.bond t) {i : Nat} {v : Invoke} (hv : (s.ctx i).inv = some v) :
    ∃ x, (t.ctx i).inv = some x ∧ x.bound = v.bound ∧ x.waits = v.waits := by
  have k := h.view i
  rw [CtxSt.bond, CtxSt.bond, hv, Option.map_some, Option.map_eq_some_iff] at k
  obtain ⟨x, hx, e⟩ := k
  exact ⟨x, hx, congrArg Prod.fst e, congrArg Prod.snd e⟩

/-- A kept account shows in an INVOKE that is there: at most its ending is new. -/
theorem State.Steady.account_inv {s t : State} (h : s.Steady CtxSt.account t) {i : Nat} {v : Invoke} (hv : (s.ctx i).inv = some v) :
    ∃ x, (t.ctx i).inv = some x ∧ x.unended = v.unended := by
  have k := congrArg Prod.fst (h.view i)
  rw [CtxSt.account, CtxSt.account, hv, Option.map_some, Option.map_eq_some_iff] at k
  exact k

/-! ### Completions and messages -/

/-- A completion changes of a context its held completions, its phase and its window's status alone. -/
theorem State.complete_steady {α : Type} {f : CtxSt → α} (hf : ∀ c h p w, f { c with heldCpl := h, phase := p, window := w } = f c)
    (s : State) (i : Nat) (d : Desc) (st : Status) (b : Bool) (info : Nat) : s.Steady f (s.complete i d st b info) := by
  have put : ∀ bs, s.Steady f (s.putCompletion i bs) := by
    intro bs
    unfold State.putCompletion
    dsimp only
    split
    · exact .setCtx s i _ (hf _ _ (s.ctx i).phase (s.ctx i).window)
    · unfold State.writeCompletion
      dsimp only
      generalize hx : State.setF _ F.hiuCtxStateCqTail _ _ = x
      have kx : s.Steady f x := hx ▸ .of_ctxs rfl
      have flip : x.Steady f (x.setCtx i { x.ctx i with phase := !(s.ctx i).phase }) := .setCtx x i _ (hf _ (x.ctx i).heldCpl _ (x.ctx i).window)
      split_ifs
      · exact kx.trans flip
      · exact (kx.trans flip).trans (.of_ctxs rfl)
      · exact kx
      · exact kx.trans (.of_ctxs rfl)
  refine (put (completionBytes d st b info s.time)).trans ?_
  unfold State.complete State.covered
  dsimp only
  split
  · exact .refl _
  · exact .setCtx _ i _ (hf _ (State.ctx _ i).heldCpl (State.ctx _ i).phase _)

theorem State.complete_account (s : State) (i : Nat) (d : Desc) (st : Status) (b : Bool) (info : Nat) :
    s.Steady CtxSt.account (s.complete i d st b info) := s.complete_steady (fun _ _ _ _ => rfl) i d st b info

theorem State.egress_ctxs (s : State) (n : Nat) (p : Packet) (came : Option (Nat × Bool)) : (s.egress n p came).2.ctxs = s.ctxs := by
  unfold State.egress State.enqueue
  dsimp only
  split_ifs <;> rfl

theorem State.launch_ctxs (s : State) (p : Packet) : (s.launch p).2.ctxs = s.ctxs := by
  unfold State.launch
  dsimp only
  split
  · rfl
  split
  · exact s.egress_ctxs ..
  split
  · rfl
  split
  · rfl
  · exact s.egress_ctxs ..

theorem State.send_ctxs (s : State) (dstChip dstCore type tag srcCore gen arg : Nat) (payload : Bytes) :
    (s.send dstChip dstCore type tag srcCore gen arg payload).ctxs = s.ctxs := by
  unfold State.send
  dsimp only
  split
  · rfl
  · exact s.launch_ctxs _

section
variable {α : Type} {f : CtxSt → α}

theorem State.send_steady (s : State) (dstChip dstCore type tag srcCore gen arg : Nat) (payload : Bytes) :
    s.Steady f (s.send dstChip dstCore type tag srcCore gen arg payload) := .of_ctxs (s.send_ctxs ..)

theorem State.sendMembers_steady (s : State) (tag : Nat) (members : List Nat) (type arg : Nat) (payload : Bytes) :
    s.Steady f (s.sendMembers tag members type arg payload) := by
  refine .foldl (fun s m => ?_) members s
  split
  · exact .refl s
  · exact s.send_steady ..

theorem State.pumpReads_steady (s : State) (t : Nat) : s.Steady f (s.pumpReads t) := by
  refine .foldl (fun s a => ?_) _ s
  split
  · exact .of_ctxs rfl
  · exact .refl s

theorem State.forgetReads_steady (s : State) (j : Job) : s.Steady f (s.forgetReads j) := by
  unfold State.forgetReads
  exact (State.Steady.ask s _).trans (.foldl (fun s t => s.pumpReads_steady t) _ _)

end

/-! ### Faults of contexts -/

theorem State.endInvoke_account (s : State) (i : Nat) (st : Status) : s.Steady CtxSt.account (s.endInvoke i st) := by
  unfold State.endInvoke
  dsimp only
  split
  · exact .refl s
  · next v hv => exact .setCtx s i _ (by simp [CtxSt.account, hv, Invoke.unended])

/-- An event of the window leaves the INVOKE's own summary. -/
theorem State.gauge_window_account (s : State) (i : Nat) (g : Gauge) : s.Steady CtxSt.account (s.gauge i g true) := by
  unfold State.gauge
  simp only [if_true]
  split
  · exact (State.Steady.collect s _).trans (.setCtx _ i _)
  · exact .setCtx s i _

theorem State.endSwitch_account (s : State) (i : Nat) (st : Status) : s.Steady CtxSt.account (s.endSwitch i st) := by
  unfold State.endSwitch
  dsimp only
  split
  · exact .setCtx s i _
  · split
    · exact .refl s
    · refine State.Steady.trans ?_ (State.complete_account ..)
      exact (State.Steady.setCtx s i _).trans (.of_ctxs rfl)

theorem State.withdraw_account (s : State) (i : Nat) (st : Option Status) : s.Steady CtxSt.account (s.withdraw i st) := by
  unfold State.withdraw
  dsimp only
  split
  · split
    · exact (State.Steady.setCtx s i _).trans (State.send_steady ..)
    · exact .refl s
  · split_ifs
    · exact .refl s
    · exact (s.sendMembers_steady ..).trans (State.endSwitch_account ..)
    · split
      · exact (s.send_steady ..).trans (State.endSwitch_account ..)
      · exact s.send_steady ..

theorem State.endOthers_account (s : State) (i : Nat) (st inv : Status) (before : Option Nat) (run : Status := st) :
    s.Steady CtxSt.account (s.endOthers i st inv before run).2 := by
  unfold State.endOthers
  dsimp only
  refine State.Steady.trans ?_ (State.withdraw_account ..)
  generalize hx : State.completeAll _ _ _ _ = x
  have hx : s.Steady CtxSt.account x := by
    rw [← hx]
    refine State.Steady.trans ?_ (State.Steady.foldl (fun s d => s.complete_account ..) _ _)
    refine State.Steady.trans ?_ (State.Steady.foldl (fun s j => s.forgetReads_steady j) _ _)
    refine State.Steady.trans ?_ (State.Steady.foldl (fun s j => s.complete_account ..) _ _)
    refine State.Steady.trans ?_ (State.Steady.foldl (fun s j => ?_) _ _)
    · exact .setCtx s i _
    · unfold State.copyEarly
      split
      · exact .refl s
      · exact s.gauge_window_account ..
  have e : ∀ c : Bool, s.Steady CtxSt.account (if c = true then x.endInvoke i inv else x) := by
    intro c
    split
    · exact hx.trans (x.endInvoke_account ..)
    · exact hx
  exact e _

theorem State.setHalted_account (s : State) (i : Nat) : s.Steady CtxSt.account (s.setHalted i) :=
  .setCtx s i _ (by cases h : (s.ctx i).inv <;> simp [CtxSt.account, h, Invoke.unended])

/-- A fault ends the running INVOKE of a context; it takes nothing else of it. -/
theorem State.faultWith_account (s : State) (i : Nat) (st inv : Status) (d : Nat) : s.Steady CtxSt.account (s.faultWith i st inv d) := by
  unfold State.faultWith
  have h := s.endInvoke_account i inv
  dsimp only
  split
  · generalize hx : State.log _ 0x0001 _ _ st 2 _ = x
    have k : s.Steady CtxSt.account x := hx ▸ h.trans (.of_ctxs rfl)
    have k2 := (k.trans (.setCtx x i { x.ctx i with inflight := 0, faultOf := d } rfl)).trans (State.endOthers_account _ i .cancelled .cancelled none)
    unfold State.setCtx at k2
    generalize (State.endOthers _ i .cancelled .cancelled none).2 = y at k2
    split
    · split
      · exact (k2.trans (y.sendMembers_steady ..)).trans (State.setHalted_account ..)
      · exact k2
    · exact k2
  split
  · split
    · exact h.trans (.of_ctxs rfl)
    · exact h
  · exact h

theorem State.faultTag_account (s : State) (tag : Nat) (st : Status) : s.Steady CtxSt.account (s.faultTag tag st) := by
  unfold State.faultTag
  dsimp only
  split
  · exact s.faultWith_account ..
  · split
    · exact s.endInvoke_account ..
    · exact .refl s

theorem State.sendNamed_account (s : State) (dstChip dstCore type tag srcCore gen arg : Nat) (payload : Bytes) :
    s.Steady CtxSt.account (s.sendNamed dstChip dstCore type tag srcCore gen arg payload) := by
  unfold State.sendNamed
  dsimp only
  split
  · exact (s.send_steady ..).trans (State.faultTag_account ..)
  · exact s.send_steady ..

/-! ### Check events keep bonds -/

theorem State.tally_bond (s : State) (i : Nat) (f : Tally → Tally) (w : Bool) : s.Steady CtxSt.bond (s.tally i f w) := by
  unfold State.tally
  dsimp only
  split
  · exact .setCtx s i _
  · split
    · exact .refl s
    · next v hv => exact .setCtx s i _ (by simp [CtxSt.bond, hv])

theorem State.gauge_bond (s : State) (i : Nat) (g : Gauge) (w : Bool) : s.Steady CtxSt.bond (s.gauge i g w) := by
  cases w with
  | true => exact (s.gauge_window_account i g).bond
  | false =>
    unfold State.gauge
    simp only [Bool.false_eq_true, if_false]
    split
    · exact .refl s
    · next v hv =>
      split
      · exact (State.Steady.collect s _).trans (.setCtx _ i _ (by show _ = CtxSt.bond (s.ctx i); simp [CtxSt.bond, hv]))
      · exact .setCtx s i _ (by simp [CtxSt.bond, hv])

theorem State.transient_bond (s : State) (i type source : Nat) (w : Bool) : s.Steady CtxSt.bond (s.transient i type source w) :=
  (s.tally_bond ..).trans (.of_ctxs rfl)

theorem State.lastingUnit_bond (s : State) (i : Nat) (w : Bool) : s.Steady CtxSt.bond (s.lastingUnit i w) := (s.tally_bond ..).trans (.of_ctxs rfl)

theorem State.movedBlocks_bond (s : State) (i type source op passed again : Nat) (lost w : Bool) (counted : Nat) (supply : Bool) :
    s.Steady CtxSt.bond (s.movedBlocks i type source op passed again lost w counted supply) := by
  unfold State.movedBlocks
  dsimp only
  refine State.Steady.trans ?_ (State.gauge_bond ..)
  have h := (State.Steady.foldl (fun s _ => s.transient_bond i type source w) (List.range (again - b2n lost)) s).trans (State.tally_bond _ i (fun t => { t with blocks := t.blocks + passed }) w)
  split
  · exact h.trans ((State.lastingUnit_bond ..).trans (State.tally_bond ..))
  · exact h

/-! ### Reads of device memory keep bonds -/

theorem State.readOnce_ctxs (s : State) (k sector : Nat) (noise : Upset) : (s.readOnce k sector noise).2.ctxs = s.ctxs := by
  unfold State.readOnce
  dsimp only
  split
  · split <;> rfl
  · rfl

theorem State.readBack_ctxs (s : State) (k sector : Nat) (noise : Upset) : (s.readBack k sector noise).ctxs = s.ctxs := by
  have h := s.readOnce_ctxs k sector noise
  unfold State.readBack
  split <;> simp_all [State.badSector]

theorem State.askObject_bond (s : State) (e : Bytes) : s.Steady CtxSt.bond (s.askObject e) := by
  refine .foldl (fun s p => ?_) _ s
  unfold State.askRead
  exact (State.Steady.ask s _).trans (State.pumpReads_steady ..)

theorem State.sectorEvent_bond (s : State) (i k : Nat) (w : Bool) (st : Option Status) (supply : Bool) :
    s.Steady CtxSt.bond (s.sectorEvent i k w st supply) := s.gauge_bond ..

theorem State.readSector_bond (s : State) (i sector : Nat) (mirror win : Bool) (va : Nat) (noise partner : Noise) (spare : Bool) :
    s.Steady CtxSt.bond (s.readSector i sector mirror win va noise partner spare).2 := by
  unfold State.readSector
  dsimp only
  generalize stackOf s.key (sector * 32) = k
  have h1 : s.Steady CtxSt.bond (s.readOnce k sector noise.first).2 := .of_ctxs (s.readOnce_ctxs ..)
  generalize s.readOnce k sector noise.first = x at h1 ⊢
  obtain ⟨_ | bs, s1⟩ := x
  case some => exact h1
  have h2 : s.Steady CtxSt.bond (s1.readOnce k sector noise.second).2 := h1.trans (.of_ctxs (s1.readOnce_ctxs ..))
  dsimp only
  generalize s1.readOnce k sector noise.second = x at h2 ⊢
  obtain ⟨_ | bs, s2⟩ := x
  case some => exact h2.trans ((State.transient_bond ..).trans (State.sectorEvent_bond ..))
  dsimp only
  generalize hy : (if (s2.refetch.find? fun r => r.ctx == i && r.sector == sector).isSome = true then s2 else s2.bump F.hscStackCorrUncorr k) = y
  have h3 : s.Steady CtxSt.bond y := by
    rw [← hy]
    split
    · exact h2
    · exact h2.trans (.of_ctxs rfl)
  generalize hz : (if (mirror && !spare && _) = true then _ else (none, y)) = z
  have h4 : s.Steady CtxSt.bond z.2 := by
    rw [← hz]
    split
    · exact h3.trans (.of_ctxs (y.readOnce_ctxs ..))
    · exact h3
  obtain ⟨_ | bs, s4⟩ := z
  case some =>
    refine h4.trans (State.Steady.trans ?_ ((State.transient_bond ..).trans (State.sectorEvent_bond ..)))
    exact .of_ctxs (State.readBack_ctxs ..)
  dsimp only
  have last : ∀ supply : Bool, s.Steady CtxSt.bond
      (((s4.badSector k (sector * 32) false).lastingUnit i win).sectorEvent i k win (some .uncorrectable) supply) := by
    intro supply
    have bad : s.Steady CtxSt.bond (s4.badSector k (sector * 32) false) := h4.trans (.of_ctxs rfl)
    exact bad.trans ((State.lastingUnit_bond ..).trans (State.sectorEvent_bond ..))
  split
  · split
    · exact (last _).trans (State.Steady.refetch ..)
    · exact h4
  · split
    · split
      · exact (h4.trans (State.Steady.refetch ..)).trans (State.askObject_bond ..)
      · exact (last _).trans (State.Steady.refetch ..)
    · exact (last _).trans (State.Steady.refetch ..)

theorem State.readDpa_bond (s : State) (i dpa n : Nat) (mirror win : Bool) (va : Nat) (noise : Noise) :
    s.Steady CtxSt.bond (s.readDpa i dpa n mirror win va noise).2 := by
  unfold State.readDpa
  dsimp only
  split
  · exact .refl s
  split
  · exact .refl s
  split
  · exact .refl s
  generalize (if s.stackDown dpa = true then _ else _) = base
  generalize hx : List.foldl _ (Fetched.data [], s) _ = x
  have h : s.Steady CtxSt.bond x.2 := by
    rw [← hx]
    refine .foldl_snd (fun acc j => ?_) _ (Fetched.data [], s)
    generalize (if j = 0 then noise else Noise.none) = nz
    split
    · split
      · exact .refl _
      · have k := acc.2.readSector_bond i (base + j) mirror win va nz Noise.none (s.stackDown dpa)
        split
        · next e => rw [e] at k; exact k
        · exact k
    · exact .refl _
  obtain ⟨r, t⟩ := x
  cases r <;> exact h

theorem State.nodeRead_ctxs (s : State) (dpa : Nat) (noise : Noise) : (s.nodeRead dpa noise).2.ctxs = s.ctxs := by
  unfold State.nodeRead
  dsimp only
  split
  · rfl
  have h1 := s.readOnce_ctxs (stackOf s.key dpa) (dpa / 32) noise.first
  generalize s.readOnce (stackOf s.key dpa) (dpa / 32) noise.first = x at h1 ⊢
  obtain ⟨_ | bs, s1⟩ := x
  case some => exact h1
  have h2 := s1.readOnce_ctxs (stackOf s.key dpa) (dpa / 32) noise.second
  dsimp only at h1 ⊢
  generalize s1.readOnce (stackOf s.key dpa) (dpa / 32) noise.second = x at h2 ⊢
  obtain ⟨_ | bs, s2⟩ := x <;> exact h2.trans h1

theorem State.nodeEntry_ctxs (s : State) (f i dpa : Nat) (noise : Noise) : (s.nodeEntry f i dpa noise).2.ctxs = s.ctxs := by
  unfold State.nodeEntry
  split
  · rfl
  · exact s.nodeRead_ctxs ..

theorem State.walk_ctxs (s : State) (f i va : Nat) (noise : Noise) : (s.walk f i va noise).2.ctxs = s.ctxs := by
  unfold State.walk
  dsimp only
  split
  · rfl
  have h1 := s.nodeEntry_ctxs f i (entryDpa (s.getF F.hscPtRootRoot i * 4096) va 3) noise
  generalize s.nodeEntry f i _ noise = x at h1 ⊢
  obtain ⟨r | e1, s1⟩ := x
  case error => exact h1
  dsimp only at h1 ⊢
  split
  · exact h1
  split
  · exact h1
  split
  · exact h1
  generalize hk : s1.keepNode _ _ _ _ = t1
  have h1 : t1.ctxs = s.ctxs := hk ▸ h1
  have h2 := t1.nodeEntry_ctxs f i (entryDpa (bits e1 40 12 * 4096) va 2) Noise.none
  generalize t1.nodeEntry f i _ Noise.none = x at h2 ⊢
  obtain ⟨r | e2, s2⟩ := x
  case error => exact h2.trans h1
  dsimp only at h2 ⊢
  split
  · exact h2.trans h1
  split
  · exact h2.trans h1
  split
  · exact h2.trans h1
  generalize hk : s2.keepNode _ _ _ _ = t2
  have h2 : t2.ctxs = s.ctxs := hk ▸ h2.trans h1
  have h3 := t2.nodeRead_ctxs (entryDpa (bits e2 40 12 * 4096) va 1) Noise.none
  generalize t2.nodeRead _ Noise.none = x at h3 ⊢
  obtain ⟨r | e3, s3⟩ := x
  case error => exact h3.trans h2
  dsimp only at h3 ⊢
  split_ifs <;> exact h3.trans h2

theorem State.leaf_ctxs (s : State) (u : Translator) (i va : Nat) (noise : Noise) : (s.leaf u i va noise).2.ctxs = s.ctxs := by
  unfold State.leaf
  dsimp only
  split
  · rfl
  split
  · rfl
  have h := s.walk_ctxs (unitField u) i va noise
  split
  · next e => rw [e] at h; exact h
  · exact h

theorem State.ptFault_ctxs (s : State) (reason tag va : Nat) : (s.ptFault reason tag va).ctxs = s.ctxs := by
  unfold State.ptFault
  split <;> rfl

theorem State.translate_ctxs (s : State) (u : Translator) (tag va : Nat) (write : Bool) (noise : Noise) :
    (s.translate u tag va write noise).2.ctxs = s.ctxs := by
  unfold State.translate
  dsimp only
  split
  · exact s.ptFault_ctxs ..
  split
  · exact s.ptFault_ctxs ..
  split
  · exact s.ptFault_ctxs ..
  split
  · rfl
  split
  · rfl
  split
  · exact s.ptFault_ctxs ..
  next w _ _ =>
    have h := s.leaf_ctxs u (tagIndex tag) w noise
    generalize s.leaf u (tagIndex tag) w noise = x at h ⊢
    obtain ⟨r | l, t⟩ := x
    · exact (t.ptFault_ctxs ..).trans h
    · dsimp only at h ⊢
      split
      · exact (t.ptFault_ctxs ..).trans h
      · exact h

theorem State.readVa_bond (s : State) (t : Translator) (tag va n : Nat) (win : Bool) (u : Units) (noise : Noise) :
    s.Steady CtxSt.bond (s.readVa t tag va n win u noise).2 := by
  unfold State.readVa
  dsimp only
  refine .foldl_snd (fun acc p => ?_) _ (Fetched.data [], s)
  obtain ⟨r, a⟩ := acc
  cases r with
  | data bs =>
    dsimp only
    have k : a.Steady CtxSt.bond _ := .of_ctxs (a.translate_ctxs t tag p.1 false Noise.none)
    generalize a.translate t tag p.1 false Noise.none = x at k ⊢
    obtain ⟨st | q, b⟩ := x
    · exact k
    · dsimp only at k ⊢
      generalize (if u = Units.sectors then q.dpa / 32 * 32 else q.dpa) = lo
      generalize (if u = Units.sectors then _ else p.2) = m
      have l := k.trans (b.readDpa_bond (tagIndex tag) lo m q.mirror win q.va (if p.1 = va then noise else Noise.none))
      split
      · next e => rw [e] at l; exact l
      · exact l
  | failed st => exact .refl a
  | wait => exact .refl a

theorem State.cxsRead_bond (s : State) (tag va n : Nat) : s.Steady CtxSt.bond (s.cxsRead tag va n).2 := by
  unfold State.cxsRead
  split
  · exact .refl s
  · have h := s.readVa_bond .mp tag va n false .sectors Noise.none
    generalize s.readVa .mp tag va n false = x at h ⊢
    obtain ⟨r, t⟩ := x
    cases r <;> exact h

/-! ### What an INVOKE names is read and validated: bonds stay -/

section
variable {α β γ : Type} {f : CtxSt → γ}

theorem State.Steady.rdThen {s : State} {x : Rd α} {g : α → State → Rd β} (hx : s.Steady f x.2) (hg : ∀ a t, State.Steady f t (g a t).2) :
    s.Steady f (rdThen x g).2 := by
  obtain ⟨e | a, t⟩ := x
  · exact hx
  · exact hx.trans (hg a t)

theorem State.Steady.rdEach {g : α → State → Rd β} (hg : ∀ a t, State.Steady f t (g a t).2) (l : List α) (s : State) :
    s.Steady f (rdEach g l s).2 :=
  .foldl_snd (fun x a => .rdThen (.refl x.2) (fun _ t => .rdThen (hg a t) (fun _ u => .refl u))) l (.ok [], s)

theorem State.Steady.rdCheck {s : State} {ok : Bool} {st : Status} {k : Rd β} (hk : s.Steady f k.2) : s.Steady f (rdCheck ok st s k).2 := by
  unfold Machine.rdCheck
  split
  · exact hk
  · exact .refl s

end

theorem State.readCoreRec_bond (s : State) (tag va len j : Nat) : s.Steady CtxSt.bond (s.readCoreRec tag va len j).2 :=
  .rdThen (s.cxsRead_bond ..) fun _ t => .rdCheck <| .rdThen (t.cxsRead_bond ..) fun _ t => .rdThen (t.cxsRead_bond ..) fun _ t => .rdCheck (.refl t)

theorem State.readImage_bond (s : State) (tag va : Nat) : s.Steady CtxSt.bond (s.readImage tag va).2 :=
  .rdThen (s.cxsRead_bond ..) fun _ t => .rdCheck <| .rdThen (.rdEach (fun _ t => t.readCoreRec_bond ..) _ t) fun _ t => .rdCheck (.refl t)

theorem State.readMap_bond (s : State) (tag va : Nat) : s.Steady CtxSt.bond (s.readMap tag va).2 :=
  .rdThen (s.cxsRead_bond ..) fun _ t => .rdCheck <|
    .rdThen (.rdEach (fun _ t => .rdThen (t.cxsRead_bond ..) fun _ t => .rdCheck <| .rdThen (t.cxsRead_bond ..) fun _ t => .refl t) _ t) fun _ t =>
      .rdThen (.rdEach (fun _ t => .rdThen (t.cxsRead_bond ..) fun _ t => .refl t) _ t) fun _ t => .rdCheck (.refl t)

theorem State.readGather_bond (s : State) (tag va : Nat) (recs : List CoreRec) : s.Steady CtxSt.bond (s.readGather tag va recs).2 := by
  unfold State.readGather
  split
  · exact .refl s
  · exact .rdThen (s.cxsRead_bond ..) fun _ t => .rdCheck <| .rdThen (.rdEach (fun _ t => t.cxsRead_bond ..) _ t) fun _ t => .rdCheck (.refl t)

@[simp] theorem State.setInv_inv (s : State) (i : Nat) (f : Invoke → Invoke) : ((s.setInv i f).ctx i).inv = (s.ctx i).inv.map f := by
  simp [State.setInv]

@[simp] theorem State.setInv_core (s : State) (i : Nat) (f : Invoke → Invoke) (c : Nat) : (s.setInv i f).core c = s.core c := rfl

/-- A change of the running INVOKE that leaves its binding. -/
theorem State.setInv_bond (s : State) (i : Nat) (f : Invoke → Invoke) (h : ∀ v, (f v).bound = v.bound ∧ (f v).waits = v.waits) :
    s.Steady CtxSt.bond (s.setInv i f) :=
  .setCtx s i _ (by cases e : (s.ctx i).inv <;> simp [CtxSt.bond, e, h])

theorem State.noteRing_bond (s : State) (i : Nat) (m : TideMap) : s.Steady CtxSt.bond (s.noteRing i m) := s.setInv_bond _ _ (fun _ => ⟨rfl, rfl⟩)

theorem State.checkMap_bond (s : State) (i : Nat) (m : Option TideMap) : s.Steady CtxSt.bond (s.checkMap i m).2 := by
  unfold State.checkMap
  split
  · exact .refl s
  split
  · exact s.noteRing_bond ..
  · dsimp only
    split
    · exact s.noteRing_bond ..
    · exact .refl s

/-- Validating an INVOKE binds nothing. -/
theorem State.validate_bond (s : State) (i : Nat) (v : Invoke) : s.Steady CtxSt.bond (s.validate i v).2 := by
  refine .rdThen (s.readImage_bond ..) fun recs t => .rdThen ?_ fun m t => ?_
  · split
    · exact .refl t
    · exact .rdThen (t.readMap_bond ..) fun _ t => .refl t
  · have h := t.checkMap_bond i m
    generalize t.checkMap i m = x at h ⊢
    obtain ⟨_ | ⟨st, gate⟩, u⟩ := x
    · refine h.trans (.rdThen (u.readGather_bond ..) fun ds u => ?_)
      cases m <;> dsimp only <;> split_ifs <;> exact .refl u
    · dsimp only at h ⊢
      split
      · exact h.trans (.of_ctxs rfl)
      · exact h

/-! ### An INVOKE is bound on its cores: bonds stay -/

theorem State.setCore_steady {α : Type} {f : CtxSt → α} (s : State) (c : Nat) (x : CoreSt) : s.Steady f (s.setCore c x) := .of_ctxs rfl

theorem State.openSluice_account (s : State) (core h : Nat) : s.Steady CtxSt.account (s.openSluice core h) := by
  unfold State.openSluice
  dsimp only
  split
  · exact .refl s
  · exact (s.setCore_steady ..).trans (State.sendNamed_account ..)

theorem State.reply_account (s : State) (core : Nat) (m : Culvert) (h : Nat) (st : Status) : s.Steady CtxSt.account (s.reply core m h st) :=
  s.sendNamed_account ..

theorem State.finishAllocs_account (s : State) (core : Nat) : s.Steady CtxSt.account (s.finishAllocs core) := by
  refine (s.setCore_steady ..).trans (.foldl (fun s a => ?_) _ _)
  dsimp only
  split
  · exact (s.openSluice_account ..).trans (State.reply_account ..)
  · exact s.openSluice_account ..

theorem State.zeroGranules_account (s : State) (core : Nat) (gs : List Nat) : s.Steady CtxSt.account (s.zeroGranules core gs) :=
  (s.setCore_steady ..).trans (State.finishAllocs_account ..)

theorem State.recordAllocFail_steady {α : Type} {f : CtxSt → α} (s : State) (core reason : Nat) (r : AllocReq) : s.Steady f (s.recordAllocFail core reason r) := by
  unfold State.recordAllocFail
  split
  · exact .refl s
  · exact .of_ctxs rfl

/-- An ALLOC that is placed leaves what ledgers are made from. -/
theorem State.alloc_account {s t : State} {core tag : Nat} {r : AllocReq} {reply : Option Culvert} {b : Bool}
    (h : s.alloc core tag r reply = .ok (b, t)) : s.Steady CtxSt.account t := by
  unfold State.alloc at h
  dsimp only at h
  split at h
  · cases h
  · split at h
    · cases h
      exact (s.setCore_steady ..).trans (State.openSluice_account ..)
    · cases h
      exact s.setCore_steady ..

theorem State.cxsAlloc_account (s : State) (core tag : Nat) (r : AllocReq) : s.Steady CtxSt.account (s.cxsAlloc core tag r).2 := by
  unfold State.cxsAlloc
  split
  · exact s.recordAllocFail_steady ..
  · next h => exact State.alloc_account h
  · next h => exact (State.alloc_account h).trans (State.zeroGranules_account ..)

/-- What only reads a scratchpad changes no context. -/
theorem State.ReadOf.steady {α : Type} {f : CtxSt → α} {s t : State} (h : s.ReadOf t) : s.Steady f t := .of_ctxs (by rw [h.rest])

theorem State.spmSettle_steady {α : Type} {f : CtxSt → α} (s : State) (core cw : Nat) : s.Steady f (s.spmSettle core cw).2 := by
  unfold State.spmSettle
  dsimp only
  split
  · exact .refl s
  · have h : s.Steady f _ := (s.spmRead_readOf core (cw * 32) 32 Noise.none).steady
    generalize s.spmRead core (cw * 32) 32 = x at h ⊢
    obtain ⟨_ | bs, t⟩ := x
    · exact h
    · exact h.trans (t.setCore_steady ..)

theorem State.spmWrite_steady {α : Type} {f : CtxSt → α} (s : State) (core abs : Nat) (bs : Bytes) : s.Steady f (s.spmWrite core abs bs).2 := by
  unfold State.spmWrite
  dsimp only
  split
  · exact .refl s
  have part : ∀ (s : State) (p : Prop) [Decidable p] (cw : Nat), s.Steady f (if p then (true, s) else s.spmSettle core cw).2 := by
    intro s p _ cw
    split
    · exact .refl s
    · exact s.spmSettle_steady ..
  have h1 := part s (abs % 32 = 0 ∧ 32 ≤ bs.length) (abs / 32)
  generalize (if abs % 32 = 0 ∧ 32 ≤ bs.length then (true, s) else _) = x at h1 ⊢
  obtain ⟨ok1, t⟩ := x
  have h2 := part t ((abs + bs.length - 1) % 32 = 31 ∨ (abs + bs.length - 1) / 32 = abs / 32) ((abs + bs.length - 1) / 32)
  dsimp only at h1 h2 ⊢
  generalize (if (abs + bs.length - 1) % 32 = 31 ∨ (abs + bs.length - 1) / 32 = abs / 32 then (true, t) else _) = y at h2 ⊢
  obtain ⟨ok2, u⟩ := y
  dsimp only at h2 ⊢
  split
  · exact (h1.trans h2).trans (u.setCore_steady ..)
  · exact h1.trans h2

theorem State.loadCode_bond (s : State) (tag va : Nat) (r : CoreRec) (hit : Hit) : s.Steady CtxSt.bond (s.loadCode tag va r hit).2 := by
  unfold State.loadCode
  dsimp only
  split
  · split <;> exact .refl s
  refine .rdThen (s.cxsAlloc_account ..).bond fun _ t => .rdThen (t.cxsRead_bond ..) fun bs t => ?_
  generalize moveBlocks bs hit = x
  obtain ⟨landed, again, lost⟩ := x
  dsimp only
  have h : t.Steady CtxSt.bond _ := t.spmWrite_steady r.core ((t.core r.core).abs r.handle 0) landed
  generalize t.spmWrite _ _ landed = x at h ⊢
  obtain ⟨_ | _, u⟩ := x
  · exact h
  · dsimp only at h ⊢
    have k := h.trans (u.movedBlocks_bond (tagIndex tag) 7 (sourceOf 0 r.core) 0xFFFF (ceilDiv landed.length 2048) again lost false 0 false)
    split <;> exact k

theorem State.bindTide_account (s : State) (tag : Nat) (m : TideMap) (r : InnerRec) (k : Nat) : s.Steady CtxSt.account (s.bindTide tag m r k).2 :=
  .rdThen ((s.setCore_steady ..).trans (.rdEach (fun _ t => t.cxsAlloc_account ..) _ _)) fun _ t => .refl t

theorem State.bindMap_account (s : State) (tag : Nat) (m : TideMap) : s.Steady CtxSt.account (s.bindMap tag m).2 :=
  .rdThen (.rdEach (fun _ t => .rdEach (fun _ t => t.bindTide_account ..) _ t) _ s) fun _ t => .refl t

theorem State.switch_ctxs (s : State) (core : Nat) : (s.switch core).ctxs = s.ctxs := by
  unfold State.switch State.gate
  dsimp only
  split
  · rfl
  split
  · split <;> rfl
  · rfl

theorem State.serveWaiter_ctxs (s : State) (core k : Nat) : (s.serveWaiter core k).ctxs = s.ctxs := by
  unfold State.serveWaiter
  dsimp only
  split
  · rfl
  split
  · rfl
  · exact State.switch_ctxs ..
  · split <;> rfl

theorem State.cxsLoad_ctxs (core n : Nat) : ∀ (s : State), (s.cxsLoad core n).ctxs = s.ctxs := by
  induction n with
  | zero => intro s; rfl
  | succ n ih =>
    intro s
    unfold State.cxsLoad
    dsimp only
    split
    · split
      · rfl
      · rw [ih, State.send_ctxs]; rfl
    · rfl

theorem State.queueTasks_steady {α : Type} {f : CtxSt → α} (s : State) (tag prio : Nat) (r : CoreRec) : s.Steady f (s.queueTasks tag prio r) :=
  (s.setCore_steady ..).trans (.of_ctxs (State.cxsLoad_ctxs ..))

theorem State.bindGather_steady {α : Type} {f : CtxSt → α} (s : State) (tag prio : Nat) (ds : List Bytes) : s.Steady f (s.bindGather tag prio ds) := by
  unfold State.bindGather
  refine State.Steady.trans ?_ (.foldl (fun s d => .of_ctxs (s.serveWaiter_ctxs ..)) _ _)
  refine .foldl (fun s d => ?_) _ s
  exact .of_ctxs rfl

theorem State.showMap_bond (s : State) (i : Nat) (m : Option TideMap) : s.Steady CtxSt.bond (s.showMap i m) := by
  unfold State.showMap
  split
  · exact .refl s
  · dsimp only
    refine State.Steady.trans ?_ (State.setInv_bond _ _ _ (fun _ => ⟨rfl, rfl⟩))
    refine State.Steady.trans ?_ (State.noteRing_bond ..)
    refine State.Steady.trans ?_ (.setCtx _ i _)
    exact .of_ctxs rfl

/-- Binding an INVOKE marks it bound; all it loads on its cores leaves that mark. -/
theorem State.bindAll_bound {s t : State} {i : Nat} {v x : Invoke} {recs : List CoreRec} {m : Option TideMap} {ds : List Bytes} {hits : List (CoreId × Hit)}
    {r : Except (Option Status) Unit} (hx : (s.ctx i).inv = some x) (h : s.bindAll i v recs m ds hits = (r, t)) :
    ∃ y, (t.ctx i).inv = some y ∧ y.bound = true ∧ y.waits = false := by
  obtain rfl : (s.bindAll i v recs m ds hits).2 = t := by rw [h]
  unfold State.bindAll
  dsimp only
  generalize hu : State.setInv s i _ = u
  obtain ⟨y, hy, hb, hw⟩ : ∃ y, (u.ctx i).inv = some y ∧ y.bound = true ∧ y.waits = false := by
    rw [← hu, State.setInv_inv, hx]
    exact ⟨_, rfl, rfl, rfl⟩
  rw [← hb, ← hw]
  refine State.Steady.bond_inv (State.Steady.rdThen ?_ fun _ t => .rdThen ?_ fun _ t => ?_) hy
  · refine State.Steady.trans ?_ (.rdEach (fun r t => t.loadCode_bond ..) _ _)
    refine State.Steady.trans ?_ (State.showMap_bond ..)
    exact .foldl (fun s r => s.setCore_steady ..) _ u
  · cases m with
    | none => exact .refl t
    | some m => exact (t.bindMap_account ..).bond
  · refine State.Steady.trans ?_ (State.Steady.setCtx _ i _)
    exact State.Steady.trans (.foldl (fun s r => s.queueTasks_steady ..) _ t) (State.bindGather_steady ..)

/-! ### What winding an INVOKE down may change -/

/-- Nothing of a tag stands on a core: no stream of it is bound, no counter is its own, no task of it waits or holds a slot. -/
structure CoreSt.Cleared (tag : Nat) (c : CoreSt) : Prop where
  strms : ∀ p ∈ c.strms, p.2.owner = tag → p.2.bound = false
  bars : ∀ p ∈ c.bars, p.2.owner ≠ tag
  queue : ∀ w ∈ c.queue, w.tag ≠ tag
  slots : ∀ j < 4, (c.slot j).tag = tag → (c.slot j).state = 0 ∧ (c.slot j).ending = false

/-- Registers that winding down may write: those of faulting, and what the sequencer counts. -/
def windRegs : List Reg := .seqEvents :: .seqSwitches :: faultRegs

/-- What freeing what an INVOKE held, and sending what that asks for, may change, as its ledger and its completion see it: a core that is cleared of a tag
stays so, and no context comes to be torn down. -/
structure State.Winds (s t : State) : Prop where
  time : t.time = s.time
  boot : t.boot = s.boot
  regs : ∀ q, q ∉ windRegs → ∀ j, t.reg q j = s.reg q j
  out : ∃ l, t.out = s.out ++ l
  held : ∀ i x, x ∈ (s.ctx i).heldCpl → x ∈ (t.ctx i).heldCpl
  account : s.Steady CtxSt.account t
  untorn : ∀ i, s.ctxState i ≠ 3 → t.ctxState i ≠ 3
  cleared : ∀ tag k, (s.core k).Cleared tag → (t.core k).Cleared tag

theorem State.Winds.refl (s : State) : s.Winds s := ⟨rfl, rfl, fun _ _ _ => rfl, ⟨[], by simp⟩, fun _ _ h => h, .refl s, fun _ h => h, fun _ _ h => h⟩

theorem State.Winds.trans {s t u : State} (h : s.Winds t) (k : t.Winds u) : s.Winds u where
  time := k.time.trans h.time
  boot := k.boot.trans h.boot
  regs := fun q hq j => (k.regs q hq j).trans (h.regs q hq j)
  out := by
    obtain ⟨l, hl⟩ := h.out
    obtain ⟨m, hm⟩ := k.out
    exact ⟨l ++ m, by rw [hm, hl, List.append_assoc]⟩
  held := fun i x hx => k.held i x (h.held i x hx)
  account := h.account.trans k.account
  untorn := fun i hi => k.untorn i (h.untorn i hi)
  cleared := fun tag c hc => k.cleared tag c (h.cleared tag c hc)

theorem State.Winds.foldl {α : Type} {f : State → α → State} (hf : ∀ s a, State.Winds s (f s a)) : ∀ (l : List α) (s : State), State.Winds s (l.foldl f s)
  | [], s => .refl s
  | a :: l, s => (hf s a).trans (State.Winds.foldl hf l (f s a))

/-- What reports, completes and sends winds down when it leaves the accounts and tears no context down. -/
theorem State.Talk.winds {s t : State} (h : s.Talk faultRegs t) (a : s.Steady CtxSt.account t) (u : ∀ i, s.ctxState i ≠ 3 → t.ctxState i ≠ 3) : s.Winds t where
  time := h.time
  boot := by rw [h.rest]
  regs := fun q hq j => h.regs q (fun m => hq (List.mem_cons_of_mem _ (List.mem_cons_of_mem _ m))) j
  out := h.out
  held := h.held
  account := a
  untorn := u
  cleared := fun tag k hk => by rw [h.core]; exact hk

theorem State.Winds.puts_before {s t u : State} {o : Out} (h : s.Winds t) (k : t.puts u o) : s.puts u o := by
  obtain ⟨l, e, m⟩ := k
  obtain ⟨l', e'⟩ := h.out
  exact ⟨l' ++ l, by rw [e, e', List.append_assoc], List.mem_append_right _ m⟩

theorem State.Winds.completes_before {s t u : State} {i : Nat} {d : Desc} {st : Status} {b : Bool} {info : Nat} (h : s.Winds t)
    (k : t.completes u i d st b info) : s.completes u i d st b info := by
  unfold State.completes at *
  rw [h.time] at k
  exact k.imp_left (fun ⟨a, ph, p⟩ => ⟨a, ph, h.puts_before p⟩)

/-- A change of a core that keeps it cleared of whatever it was cleared of. -/
theorem State.Winds.setCore (s : State) (c : Nat) (x : CoreSt) (h : ∀ tag, (s.core c).Cleared tag → x.Cleared tag) : s.Winds (s.setCore c x) where
  time := rfl
  boot := rfl
  regs := fun _ _ _ => rfl
  out := ⟨[], by simp⟩
  held := fun _ _ h => h
  account := s.setCore_steady ..
  untorn := fun _ h => h
  cleared := fun tag k hk => by
    by_cases e : k = c
    · subst e; rw [State.core_setCore_self]; exact h tag hk
    · rw [State.core_setCore_ne _ _ e]; exact hk

/-- A register write that touches no context's state. -/
theorem State.Winds.setF (s : State) (f : Fld) (v i : Nat) (h : f.reg ∈ windRegs := by decide) (k : f.reg ≠ .cxsCtxState := by decide) :
    s.Winds (s.setF f v i) where
  time := rfl
  boot := rfl
  regs := fun q hq j => s.reg_setF_ne f v i j (fun e => hq (e ▸ h))
  out := ⟨[], by simp⟩
  held := fun _ _ h => h
  account := .of_ctxs rfl
  untorn := fun j hj => by
    unfold State.ctxState
    rw [s.getF_setF_reg v i j (f := f) (g := F.cxsCtxStateState) (Ne.symm k)]
    exact hj
  cleared := fun _ _ h => h

/-! ### Faults tear no context down -/

/-- A context's state once one's state is set: the value set, or as it was. -/
theorem State.ctxState_setF_state (s : State) (v i j : Nat) :
    (s.setF F.cxsCtxStateState v i).ctxState j = v % 8 ∨ (s.setF F.cxsCtxStateState v i).ctxState j = s.ctxState j := by
  by_cases k : Reg.cxsCtxState.key j = Reg.cxsCtxState.key i
  · left
    have e : (s.setF F.cxsCtxStateState v i).ctxState j = (s.setF F.cxsCtxStateState v i).getF F.cxsCtxStateState i := by
      unfold State.ctxState State.getF State.reg
      rw [show F.cxsCtxStateState.reg.key j = F.cxsCtxStateState.reg.key i from k]
    rw [e, State.getF_setF_self]
    rfl
  · right
    exact congrArg (fun r => bits r _ _) (s.reg_setReg_key _ k)

theorem State.faultWith_untorn (s : State) (i : Nat) (st inv : Status) (d j : Nat) (h : s.ctxState j ≠ 3) : (s.faultWith i st inv d).ctxState j ≠ 3 := by
  have h1 : (s.endInvoke i inv).ctxState j ≠ 3 := by rw [(s.endInvoke_talk i inv).ctxState]; exact h
  unfold State.faultWith
  dsimp only
  generalize s.endInvoke i inv = s1 at h1 ⊢
  have other : ∀ (s : State) (f : Fld) (v : Nat), f.lo ≤ f.hi → (10 < f.lo ∨ f.hi < 8) → (s.setF f v i).ctxState j = s.ctxState j :=
    fun s f v hw hd => s.getF_setF_bits v i j hw hd
  split
  · generalize hx : State.log _ 0x0001 _ _ st 2 _ = x
    have hx : x.ctxState j ≠ 3 := by
      rw [← hx, State.log_ctxState, other _ _ _ (by decide) (by decide), other _ _ _ (by decide) (by decide)]
      rcases s1.ctxState_setF_state 2 i j with e | e <;> rw [e]
      · decide
      · exact h1
    have hy := ((State.Talk.setCtx_same x i { x.ctx i with inflight := 0, faultOf := d } rfl).trans (State.endOthers_talk _ i .cancelled .cancelled none)).ctxState j
    unfold State.setCtx at hy
    generalize (State.endOthers _ i .cancelled .cancelled none).2 = y at hy
    split
    · split
      · rw [((y.sendMembers_talk ..).trans (State.setHalted_talk ..)).ctxState, hy]; exact hx
      · rw [hy]; exact hx
    · rw [hy]; exact hx
  split
  · split
    · rw [other _ _ _ (by decide) (by decide)]; exact h1
    · exact h1
  · exact h1

theorem State.faultTag_winds (s : State) (tag : Nat) (st : Status) : s.Winds (s.faultTag tag st) := by
  refine (s.faultTag_talk tag st).winds (s.faultTag_account tag st) (fun j hj => ?_)
  unfold State.faultTag
  dsimp only
  split
  · exact s.faultWith_untorn _ _ _ _ j hj
  · split
    · rw [(s.endInvoke_talk ..).ctxState]; exact hj
    · exact hj

theorem State.send_winds (s : State) (dstChip dstCore type tag srcCore gen arg : Nat) (payload : Bytes) :
    s.Winds (s.send dstChip dstCore type tag srcCore gen arg payload) :=
  (s.send_talk ..).faulting.winds (s.send_steady ..) (fun j hj => by rw [(s.send_talk ..).ctxState]; exact hj)

theorem State.sendNamed_winds (s : State) (dstChip dstCore type tag srcCore gen arg : Nat) (payload : Bytes) :
    s.Winds (s.sendNamed dstChip dstCore type tag srcCore gen arg payload) := by
  unfold State.sendNamed
  dsimp only
  split
  · exact (s.send_winds ..).trans (State.faultTag_winds ..)
  · exact s.send_winds ..

theorem State.reply_winds (s : State) (core : Nat) (m : Culvert) (h : Nat) (st : Status) : s.Winds (s.reply core m h st) := s.sendNamed_winds ..

/-! ### Unbinding -/

/-- Changes of a core that do not touch its streams, counters, queue and slots keep it cleared. -/
theorem CoreSt.Cleared.of_eq {tag : Nat} {c d : CoreSt} (h : c.Cleared tag) (hs : d.strms = c.strms := by rfl) (hb : d.bars = c.bars := by rfl)
    (hq : d.queue = c.queue := by rfl) (hl : d.slots = c.slots := by rfl) : d.Cleared tag where
  strms := by rw [hs]; exact h.strms
  bars := by rw [hb]; exact h.bars
  queue := by rw [hq]; exact h.queue
  slots := by unfold CoreSt.slot; rw [hl]; exact h.slots

theorem State.release_winds (s : State) (core h : Nat) : s.Winds (s.release core h) := by
  unfold State.release
  dsimp only
  split
  · exact .refl s
  · refine State.Winds.trans ?_ (.foldl (fun s m => s.reply_winds ..) _ _)
    refine .setCore s core _ fun tag hc => ⟨?_, hc.bars, hc.queue, hc.slots⟩
    intro p hp
    obtain ⟨q, hq, rfl⟩ := List.mem_map.1 hp
    have := hc.strms q hq
    split <;> exact this

theorem State.freePolder_winds (s : State) (core h : Nat) : s.Winds (s.freePolder core h) := by
  unfold State.freePolder
  dsimp only
  split
  · exact .refl s
  split
  · have k := (State.Winds.setCore s core ((s.core core).setPolder h { (s.core core).polder h with sluiceState := 2, closeAt := some s.time }) fun _ hc => hc.of_eq).trans
      (State.sendNamed_winds _ ((s.core core).polder h).peerChip ((s.core core).polder h).peerCore 0x05 ((s.core core).polder h).owner core ((s.core core).polder h).gen
        ((s.core core).polder h).peerCredit (sluicePayload h))
    split
    · exact k.trans (State.release_winds ..)
    · exact k
  split
  · exact .refl s
  · exact s.release_winds ..

theorem State.freeOwned_winds (s : State) (core tag : Nat) : s.Winds (s.freeOwned core tag) := by
  unfold State.freeOwned
  refine (State.Winds.foldl (fun s h => s.freePolder_winds core h) ((s.core core).owned tag false) s).trans ?_
  exact .setCore _ core _ fun _ hc => hc.of_eq

theorem State.gate_winds (s : State) (core : Nat) : s.Winds (s.gate core) := by
  unfold State.gate
  dsimp only
  split
  · refine State.Winds.trans ?_ (.setF _ F.seqEventsGated _ core)
    exact .setCore s core _ fun _ hc => hc.of_eq
  · exact .refl s

/-- A slot that starts keeps its tag: of a cleared core it is not one of the tag, for those hold no ready task. -/
theorem State.switch_winds (s : State) (core : Nat) : s.Winds (s.switch core) := by
  unfold State.switch
  dsimp only
  split
  · exact .refl s
  split
  · exact s.gate_winds core
  · next i hi =>
    refine State.Winds.trans ?_ (.setF _ F.seqSwitchesCount _ core)
    refine .setCore s core _ fun tag hc => ⟨hc.strms, hc.bars, hc.queue, fun j hj ht => ?_⟩
    by_cases e : j = i
    · subst e
      have ready := CoreSt.pick_state hi
      have := (hc.slots j hj (by simpa [CoreSt.slot, CoreSt.setSlot] using ht)).1
      omega
    · have same : CoreSt.slot { (s.core core).setSlot i { (s.core core).slot i with state := 2 } with running := some i, gated := false, progressAt := s.time } j =
          (s.core core).slot j := CoreSt.slot_setSlot_ne _ _ e
      rw [same] at ht ⊢
      exact hc.slots j hj ht

theorem State.cxsLoad_winds (core n : Nat) : ∀ (s : State), s.Winds (s.cxsLoad core n) := by
  induction n with
  | zero => intro s; exact .refl s
  | succ n ih =>
    intro s
    unfold State.cxsLoad
    dsimp only
    split
    · split
      · exact .refl s
      · refine State.Winds.trans ?_ (ih _)
        refine State.Winds.trans ?_ (State.send_winds ..)
        refine .setCore s core _ fun tag hc => ⟨hc.strms, hc.bars, ?_, hc.slots⟩
        intro w hw
        obtain ⟨y, hy, rfl⟩ := List.mem_map.1 hw
        have := hc.queue y hy
        split <;> exact this
    · exact .refl s

/-- Keys set to one value hold it; the others are as they were. -/
theorem Table.get_foldl_put {α : Type} (d v : α) (j : Nat) : ∀ (l : List Nat) (t : Table α),
    (l.foldl (fun (t : Table α) k => t.put k v) t).get d j = if j ∈ l then v else t.get d j
  | [], t => by simp
  | k :: l, t => by
    rw [List.foldl_cons, Table.get_foldl_put d v j l]
    by_cases hj : j ∈ l
    · simp [hj]
    · by_cases e : j = k
      · subst e; simp [hj]
      · simp [hj, e, Table.get_put_ne _ _ _ e]

/-- A core without the tasks, streams, counters, tide bindings and trailer entries of a tag; `early` drops the blocks held for RESEND too (R275). -/
def CoreSt.without (c : CoreSt) (tag : Nat) (early : Bool) : CoreSt :=
  let mine := (List.range 4).filter (fun j => (c.slot j).tag == tag && ((c.slot j).state != 0 || (c.slot j).ending))
  let ran := c.running.any (fun j => mine.contains j)
  { c with
    slots := mine.foldl (fun (t : Table Slot) j => t.put j .empty) c.slots
    running := if ran then none else c.running
    lastRan := if ran then c.running.getD c.lastRan else c.lastRan
    strms := c.strms.map (fun (p : Nat × Strm) => if p.2.owner == tag then (p.1, p.2.unbound) else p)
    creds := c.creds.map (fun (p : Nat × Credit) => if early && p.2.owner == tag then (p.1, { p.2 with held := [] }) else p)
    bars := c.bars.filter (fun p => p.2.owner != tag)
    queue := c.queue.filter (fun w => w.tag != tag)
    tides := c.tides.filter (fun t => t.tag != tag)
    trailerOwner := c.trailerOwner.filter (fun p => p.2 != tag)
    rngs := c.rngs.del (tagIndex tag) }

theorem State.unbindCore_eq (s : State) (core tag : Nat) (early : Bool) :
    s.unbindCore core tag early = (((s.setCore core ((s.core core).without tag early)).freeOwned core tag).switch core).cxsLoad core 4 := rfl

/-- The slots of a tag that were in use are empty; the others are as they were. -/
theorem CoreSt.without_slot (c : CoreSt) (tag : Nat) (early : Bool) {j : Nat} (hj : j < 4) :
    (c.without tag early).slot j = if (c.slot j).tag = tag ∧ ((c.slot j).state ≠ 0 ∨ (c.slot j).ending = true) then .empty else c.slot j := by
  refine (Table.get_foldl_put .empty .empty j _ c.slots).trans ?_
  refine if_congr ?_ rfl rfl
  simp [List.mem_filter, hj]

/-- Streams of a core without a tag are its own, or unbound. -/
theorem CoreSt.without_strms {c : CoreSt} {tag : Nat} {early : Bool} {p : Nat × Strm} (h : p ∈ (c.without tag early).strms) :
    (p ∈ c.strms ∧ p.2.owner ≠ tag) ∨ p.2.bound = false := by
  obtain ⟨q, hq, rfl⟩ := List.mem_map.1 h
  by_cases e : q.2.owner = tag
  · right; simp [e, Strm.unbound, Strm.free]
  · left; simp [e, hq]

theorem CoreSt.without_cleared (c : CoreSt) (tag : Nat) (early : Bool) : (c.without tag early).Cleared tag where
  strms := fun p hp ho => (CoreSt.without_strms hp).elim (fun h => absurd ho h.2) id
  bars := fun p hp => by simpa using (List.mem_filter.1 hp).2
  queue := fun w hw => by simpa using (List.mem_filter.1 hw).2
  slots := fun j hj => by
    rw [c.without_slot tag early hj]
    split
    · exact fun _ => ⟨rfl, rfl⟩
    · next h => intro ht; simpa [ht] using h

/-- Taking one tag off a core leaves it cleared of the others it was cleared of. -/
theorem CoreSt.Cleared.without {c : CoreSt} {tag : Nat} (h : c.Cleared tag) (other : Nat) (early : Bool) : (c.without other early).Cleared tag where
  strms := fun p hp ho => (CoreSt.without_strms hp).elim (fun k => h.strms p k.1 ho) id
  bars := fun p hp => h.bars p (List.mem_filter.1 hp).1
  queue := fun w hw => h.queue w (List.mem_filter.1 hw).1
  slots := fun j hj => by
    rw [c.without_slot other early hj]
    split
    · exact fun _ => ⟨rfl, rfl⟩
    · exact h.slots j hj

theorem State.unbindCore_winds (s : State) (core tag : Nat) (early : Bool) : s.Winds (s.unbindCore core tag early) := by
  rw [s.unbindCore_eq]
  exact (((State.Winds.setCore s core _ fun _ hc => hc.without tag early).trans (State.freeOwned_winds ..)).trans (State.switch_winds ..)).trans
    (State.cxsLoad_winds ..)

/-- An unbound core is cleared of the tag. -/
theorem State.unbindCore_cleared (s : State) (core tag : Nat) (early : Bool) : ((s.unbindCore core tag early).core core).Cleared tag := by
  rw [s.unbindCore_eq]
  refine (((State.freeOwned_winds _ core tag).trans (State.switch_winds _ core)).trans (State.cxsLoad_winds core 4 _)).cleared tag core ?_
  rw [State.core_setCore_self]
  exact (s.core core).without_cleared tag early

theorem State.setEngine_winds (s : State) (e : Nat) (x : GeSt) : s.Winds (s.setEngine e x) :=
  ⟨rfl, rfl, fun _ _ _ => rfl, ⟨[], by simp⟩, fun _ _ h => h, .of_ctxs rfl, fun _ h => h, fun _ _ h => h⟩

theorem State.hashBusy_winds (s : State) (l : List (Nat × Nat × Nat)) : s.Winds { s with hashBusy := l } :=
  ⟨rfl, rfl, fun _ _ _ => rfl, ⟨[], by simp⟩, fun _ _ h => h, .of_ctxs rfl, fun _ h => h, fun _ _ h => h⟩

/-- What unbinding does once the INVOKE's cores are unbound: polders elsewhere, engines, hashes, the map shown. -/
def State.unbindRest (s : State) (i : Nat) (v : Invoke) : State :=
  let tag := v.desc.ctxTag
  let s := ((s.cores.map (·.1)).filter (fun k => !v.cores.contains k)).foldl (fun (s : State) k => s.freeOwned k tag) s
  let s := (List.range 16).foldl (fun (s : State) e =>
    let x := s.engine e
    if x.entries.any (fun y => y.tag == tag) then s.setEngine e { x with entries := x.entries.filter (fun y => y.tag != tag) } else s) s
  let s := { s with hashBusy := s.hashBusy.filter (fun h => h.2.2 != i) }
  ((s.setF F.tideCtxMapped 0 i).setF F.tideCtxRings 0 i).setF F.tideCtxMirror 1 i

theorem State.unbind_eq (s : State) (i : Nat) (v : Invoke) :
    s.unbind i v = (v.cores.foldl (fun (s : State) k => s.unbindCore k v.desc.ctxTag v.ending.isSome) s).unbindRest i v := rfl

theorem State.unbindRest_winds (s : State) (i : Nat) (v : Invoke) : s.Winds (s.unbindRest i v) := by
  unfold State.unbindRest
  dsimp only
  refine State.Winds.trans ?_ (.setF _ F.tideCtxMirror 1 i)
  refine State.Winds.trans ?_ (.setF _ F.tideCtxRings 0 i)
  refine State.Winds.trans ?_ (.setF _ F.tideCtxMapped 0 i)
  refine State.Winds.trans ?_ (State.hashBusy_winds ..)
  refine State.Winds.trans (.foldl (fun s k => s.freeOwned_winds k v.desc.ctxTag) _ s) (.foldl (fun s e => ?_) _ _)
  split
  · exact s.setEngine_winds ..
  · exact .refl s

theorem State.unbind_winds (s : State) (i : Nat) (v : Invoke) : s.Winds (s.unbind i v) := by
  rw [s.unbind_eq]
  exact (State.Winds.foldl (fun s k => s.unbindCore_winds ..) _ s).trans (State.unbindRest_winds ..)

/-- Cores unbound one after another are all cleared. -/
theorem State.unbindCores_cleared (tag : Nat) (early : Bool) {k : Nat} {l : List Nat} (h : k ∈ l) :
    ∀ s : State, ((l.foldl (fun (s : State) k => s.unbindCore k tag early) s).core k).Cleared tag := by
  induction l with
  | nil => cases h
  | cons j l ih =>
    intro s
    rw [List.foldl_cons]
    by_cases m : k ∈ l
    · exact ih m _
    · obtain rfl : k = j := (List.mem_cons.1 h).resolve_right m
      exact (State.Winds.foldl (fun s j => s.unbindCore_winds j tag early) l _).cleared tag k (s.unbindCore_cleared k tag early)

/-- Every core of an INVOKE that is unbound is cleared of its tag. -/
theorem State.unbind_cleared (s : State) (i : Nat) (v : Invoke) {k : Nat} (h : k ∈ v.cores) : ((s.unbind i v).core k).Cleared v.desc.ctxTag := by
  rw [s.unbind_eq]
  exact (State.unbindRest_winds _ i v).cleared _ k (State.unbindCores_cleared _ _ h s)

/-! ### The ledger's body -/

@[simp] theorem length_natLe : ∀ (n v : Nat), (natLe n v).length = n
  | 0, _ => rfl
  | n + 1, v => by simp [natLe, length_natLe n]

@[simp] theorem length_slice (bs : Bytes) (off n : Nat) : (slice bs off n).length = n := by
  simp [slice]

@[simp] theorem length_zeros (n : Nat) : (zeros n).length = n := by simp [zeros]
@[simp] theorem length_shake256 (msg : Bytes) : (shake256 msg).length = 64 := length_slice ..
@[simp] theorem length_sat4 (n : Nat) : (sat4 n).length = 4 := length_natLe ..
@[simp] theorem length_suspectBytes (cores : List Nat) : (suspectBytes cores).length = 24 := length_natLe ..
@[simp] theorem length_aliasId (b : Boot) : b.aliasId.length = 32 := length_slice ..
@[simp] theorem length_measurement (m : Image) : m.measurement.length = 64 := by
  unfold Image.measurement
  rw [show List.range 4 = [0, 1, 2] ++ [3] from rfl, List.foldl_append]
  exact length_shake256 _

theorem leNat_natLe : ∀ (n v : Nat), leNat (natLe n v) = v % 256 ^ n
  | 0, v => by simp [natLe, leNat, Nat.mod_one]
  | n + 1, v => by
    rw [natLe, leNat, leNat_natLe n, BitVec.toNat_ofNat, show 2 ^ 8 = 256 from rfl, Nat.pow_succ', Nat.mod_mul (a := 256)]

/-- A field past the first bytes is a field of the rest. -/
theorem field_append_right {a : Bytes} {o : Nat} (b : Bytes) (n : Nat) (h : a.length ≤ o) : field (a ++ b) o n = field b (o - a.length) n := by
  unfold field slice
  rw [List.drop_append, List.drop_eq_nil_of_le h, List.nil_append]

/-- The field that little-endian bytes begin with is their value. -/
theorem field_natLe (n v : Nat) (b : Bytes) : field (natLe n v ++ b) 0 n = v % 256 ^ n := by
  unfold field slice
  have : ((natLe n v ++ b).drop 0).take n = natLe n v := by
    rw [List.drop_zero, List.take_left' (length_natLe n v)]
  rw [this]
  simp [leNat_natLe]

theorem State.ledgerBody_length (s : State) (f : LedgerFields) : (s.ledgerBody f).length = 512 := by
  unfold State.ledgerBody
  dsimp only
  simp only [List.length_append, length_natLe, length_slice, length_zeros, length_sat4, length_suspectBytes, length_aliasId,
    length_measurement]

/-- The first 32 bytes of a ledger's body (Table 4.9). -/
theorem State.ledgerBody_head (s : State) (f : LedgerFields) : ∃ rest, s.ledgerBody f =
    natLe 2 1 ++ (natLe 2 512 ++ (natLe 2 f.tag ++ (natLe 1 f.status.code ++ (natLe 1 f.flags ++ (natLe 8 f.id ++ (natLe 8 f.start ++ (natLe 8 s.time ++ rest))))))) := by
  unfold State.ledgerBody
  simp only [List.append_assoc]
  exact ⟨_, rfl⟩

theorem Status.code_lt (st : Status) : st.code < 256 := by cases st <;> decide

/-- Tag, status, identity, start and end time as the body of a ledger shows them (Table 4.9). -/
theorem State.ledgerBody_fields (s : State) (f : LedgerFields) :
    field (s.ledgerBody f) 4 2 = f.tag % 65536 ∧ field (s.ledgerBody f) 6 1 = f.status.code ∧ field (s.ledgerBody f) 8 8 = f.id % 2 ^ 64 ∧
      field (s.ledgerBody f) 16 8 = f.start % 2 ^ 64 ∧ field (s.ledgerBody f) 24 8 = s.time % 2 ^ 64 := by
  obtain ⟨rest, e⟩ := s.ledgerBody_head f
  rw [e]
  have := Nat.mod_eq_of_lt f.status.code_lt
  simp [field_append_right, field_natLe, this]

/-- A ledger's body depends on the state through the time, the chip number and what the boot fixed. -/
theorem State.ledgerBody_congr {s t : State} (f : LedgerFields) (ht : t.time = s.time) (hb : t.boot = s.boot) (hc : t.chip = s.chip) :
    t.ledgerBody f = s.ledgerBody f := by
  unfold State.ledgerBody
  rw [ht, hb, hc]

/-- How an INVOKE ends shows in its ledger through the status alone. -/
theorem State.invokeFields_congr {s t : State} {i : Nat} {v x : Invoke} (st : Status) (he : t.flag F.secCtxCfgHbmEnc i = s.flag F.secCtxCfgHbmEnc i)
    (hv : x.unended = v.unended) : t.invokeFields i x st = s.invokeFields i v st := by
  have k : ∀ w : Invoke, s.invokeFields i w st = s.invokeFields i w.unended st := fun _ => rfl
  have e : t.invokeFields i x st = s.invokeFields i x st := by unfold State.invokeFields; rw [he]
  rw [e, k x, hv, ← k v]

/-- The body of an INVOKE's ledger is the same after what leaves the time, the boot, the chip's number and the context's encryption, and of the INVOKE at most
tells of its ending. -/
theorem State.invokeBody_congr {s t : State} {i : Nat} {v x : Invoke} (st : Status) (ht : t.time = s.time) (hb : t.boot = s.boot)
    (hr : ∀ r : Reg, r = .topoPlanStatus ∨ r = .secCtxCfg → ∀ j, t.reg r j = s.reg r j) (hv : x.unended = v.unended) :
    t.ledgerBody (t.invokeFields i x st) = s.ledgerBody (s.invokeFields i v st) := by
  have plan := hr .topoPlanStatus (.inl rfl) 0
  have chip : t.chip = s.chip := by
    unfold State.chip State.flag State.getF
    rw [show F.topoPlanStatusLoaded.reg = .topoPlanStatus from rfl, show F.topoPlanStatusChip.reg = .topoPlanStatus from rfl, plan]
  have enc : t.flag F.secCtxCfgHbmEnc i = s.flag F.secCtxCfgHbmEnc i := by
    unfold State.flag State.getF
    rw [show F.secCtxCfgHbmEnc.reg = .secCtxCfg from rfl, hr .secCtxCfg (.inr rfl)]
  rw [State.invokeFields_congr st enc hv, State.ledgerBody_congr _ ht hb chip]

/-- A ledger's body leaves for host memory signed (R113). -/
theorem State.writeLedger_signed (s : State) (addr : Nat) (body : Bytes) : s.puts (s.writeLedger addr body) (.hostWrite addr
    (body ++ slice (Config.mldsaSign (Config.freeValue s.boot.aliasAt).toNat "DRUHAL-GAUGE" body (Config.freeValue s.free).toNat) 0 3309 ++ zeros 19)) :=
  ⟨[_], rfl, List.mem_singleton.2 rfl⟩

/-! ### Closing an INVOKE -/

theorem State.tryCancel_talk (s : State) (i : Nat) : s.Talk talkRegs (s.tryCancel i) := by
  unfold State.tryCancel
  dsimp only
  split
  · exact .refl s
  · split
    · exact .refl s
    · exact (State.Talk.setCtx_same s i _).trans (State.complete_talk ..)

theorem State.tryCancel_account (s : State) (i : Nat) : s.Steady CtxSt.account (s.tryCancel i) := by
  unfold State.tryCancel
  dsimp only
  split
  · exact .refl s
  · split
    · exact .refl s
    · refine State.Steady.trans ?_ (State.complete_account ..)
      exact .setCtx s i _

theorem State.route_account (s : State) (i : Nat) (d : Desc) : s.Steady CtxSt.account (s.route i d) := by
  unfold State.route
  dsimp only
  split
  · exact .setCtx s i _
  split
  · unfold State.refuseDesc
    refine State.Steady.trans ?_ (State.complete_account ..)
    split
    · exact .of_ctxs rfl
    · exact .refl s
  · split_ifs <;> exact .setCtx s i _

theorem State.dispatch_account (i : Nat) : ∀ (k : Nat) (s : State), s.Steady CtxSt.account (s.dispatch i k)
  | 0, s => .refl s
  | k + 1, s => by
    unfold State.dispatch
    dsimp only
    split
    · exact .refl s
    split
    · exact .refl s
    · refine State.Steady.trans ?_ (State.dispatch_account i k _)
      refine State.Steady.trans ?_ (State.route_account ..)
      exact .setCtx s i _

/-- Going on starts no INVOKE and writes no ledger. -/
theorem State.goOn_account (s : State) (i : Nat) : s.Steady CtxSt.account (s.goOn i) := by
  unfold State.goOn
  refine (s.dispatch_account i 65).trans ?_
  generalize s.dispatch i 65 = t
  unfold State.askFetch
  dsimp only
  split
  · exact .refl t
  split
  · exact .refl t
  · refine State.Steady.trans ?_ (State.Steady.emit ..)
    exact .setCtx t i _

/-- A context that is not being torn down is freed of nothing. -/
theorem State.freeIfIdle_untorn {s : State} {i : Nat} (h : s.ctxState i ≠ 3) : s.freeIfIdle i = s := by
  unfold State.freeIfIdle
  simp [h]

/-- Closing an INVOKE: what the flushed records leave, the signed ledger, the context without its INVOKE, the completion, and a CANCEL that waited for it. -/
theorem State.closeInvoke_spec (s : State) (i : Nat) (v : Invoke) (st : Status) : let body := s.ledgerBody (s.invokeFields i v st)
    ∃ n, s.Talk talkRegs (s.closeInvoke i v st) ∧ ((s.closeInvoke i v st).ctx i).inv = none ∧ ((s.closeInvoke i v st).ctx i).lastBody = body ∧
      s.puts (s.closeInvoke i v st) (.hostWrite (field v.desc.bytes 48 8)
        (body ++ slice (Config.mldsaSign (Config.freeValue s.boot.aliasAt).toNat "DRUHAL-GAUGE" body (Config.freeValue n).toNat) 0 3309 ++ zeros 19)) ∧
      s.completes (s.closeInvoke i v st) i v.desc st true v.tally.events := by
  intro body
  have k1 := s.flushRecords_talk i
  unfold State.closeInvoke
  dsimp only
  generalize s.flushRecords i = s1 at k1 ⊢
  have boot : s1.boot = s.boot := by rw [k1.rest]
  have hb : s1.ledgerBody (s1.invokeFields i v st) = body :=
    State.invokeBody_congr st k1.time boot (fun r hr j => k1.regs r (by rcases hr with rfl | rfl <;> decide) j) rfl
  rw [hb]
  have p2 := s1.writeLedger_signed (field v.desc.bytes 48 8) body
  have k2 := s1.writeLedger_talk (field v.desc.bytes 48 8) body
  rw [boot] at p2
  generalize s1.writeLedger _ body = s2 at p2 k2 ⊢
  have k3 : s2.Talk talkRegs (s2.setCtx i { s2.ctx i with inv := none, lastBody := body }) := .setCtx_same _ _ _
  have a3 : ((s2.setCtx i { s2.ctx i with inv := none, lastBody := body }).ctx i).account = (none, body) := by
    rw [State.ctx_setCtx_self]; rfl
  generalize s2.setCtx i _ = s3 at k3 a3 ⊢
  have c4 := s3.complete_completes i v.desc st true v.tally.events
  have k4 := (s3.complete_talk i v.desc st true v.tally.events).trans (State.tryCancel_talk _ i)
  have a4 := ((s3.complete_account i v.desc st true v.tally.events).trans (State.tryCancel_account _ i)).view i
  have c4 := (State.tryCancel_talk _ i).completes c4
  generalize State.tryCancel _ i = s4 at c4 k4 a4 ⊢
  have a4 := a4.trans a3
  refine ⟨s1.free, (k1.trans (k2.trans (k3.trans k4))), ?_, congrArg Prod.snd a4, ?_, ?_⟩
  · simpa [CtxSt.account] using congrArg Prod.fst a4
  · exact (k3.trans k4).puts (k1.puts_before p2)
  · exact (k1.trans (k2.trans k3)).completes_before c4

/-! ### The life of an INVOKE, command by command -/

/-- Of the registers a completion writes the context's ring indices alone. -/
theorem State.complete_getF (s : State) (i : Nat) (d : Desc) (st : Status) (b : Bool) (info : Nat) {f : Fld} (j : Nat) (h : f.reg ≠ .hiuCtxState) :
    (s.complete i d st b info).getF f j = s.getF f j := by
  have cov : ∀ t : State, (t.covered i d st).getF f j = t.getF f j := by
    intro t
    unfold State.covered
    dsimp only
    split <;> rfl
  unfold State.complete
  rw [cov]
  unfold State.putCompletion
  dsimp only
  split
  · rfl
  · unfold State.writeCompletion
    dsimp only
    split_ifs <;> simp [State.getF_setF_reg _ (f := F.hiuCtxStateCqTail) _ _ _ h]

/-- A commit that takes effect leaves the queued work, the time and the step (R284). -/
theorem State.bankSwitch_keeps (s : State) (i : Nat) : ((s.bankSwitch i).ctx i).work = (s.ctx i).work ∧ (s.bankSwitch i).time = s.time ∧
    (s.bankSwitch i).getF F.tideCtxStep i = s.getF F.tideCtxStep i := by
  unfold State.bankSwitch
  dsimp only
  split
  · next w _ =>
    split
    · next n _ =>
      split
      · generalize hx : State.setF _ F.tideCtxSwitch 0 i = x
        have hc : x.ctxs = s.ctxs := hx ▸ rfl
        have ht : x.time = s.time := hx ▸ rfl
        have hf : x.getF F.tideCtxStep i = s.getF F.tideCtxStep i := by
          rw [← hx, State.getF_setF_bits _ _ _ _ (by decide) (by decide), State.getF_setF_bits _ _ _ _ (by decide) (by decide)]
        refine ⟨?_, ?_, ?_⟩
        · rw [(State.complete_steady (f := CtxSt.work) (fun _ _ _ _ => rfl) ..).view, State.ctx_setCtx_self]
          show (x.ctx i).work = _
          unfold State.ctx
          rw [hc]
        · rw [(State.complete_talk ..).time]
          exact ht
        · rw [State.complete_getF _ _ _ _ _ _ _ (by decide)]
          exact hf
      · exact ⟨rfl, rfl, rfl⟩
    · exact ⟨rfl, rfl, rfl⟩
  · exact ⟨rfl, rfl, rfl⟩

/-- What an INVOKE records at its start (R48, Table 1.6 step 4). -/
theorem State.openInvoke_spec (s : State) (i : Nat) (d : Desc) : ∃ u, ((s.openInvoke i d).ctx i).inv = some u ∧ u.desc = d ∧ u.bound = false ∧
    u.ending = none ∧ u.id = field d.bytes 8 8 ∧ u.timeStart = s.time ∧ (field d.bytes 40 8 ≠ 0 → u.seed = field d.bytes 40 8) ∧ u.tally = Tally.zero ∧
    ((s.openInvoke i d).ctx i).work = (s.ctx i).work ∧ (s.openInvoke i d).getF F.tideCtxStep i = (s.getF F.tideCtxStep i + 1) % 2 ^ 32 := by
  obtain ⟨hw, ht, hs⟩ := s.bankSwitch_keeps i
  unfold State.openInvoke
  dsimp only
  generalize s.bankSwitch i = b at hw ht hs ⊢
  have step : (b.setF F.tideCtxStep (b.getF F.tideCtxStep i + 1) i).getF F.tideCtxStep i = (s.getF F.tideCtxStep i + 1) % 2 ^ 32 := by
    rw [State.getF_setF_self, hs]
    rfl
  generalize hc : b.setF F.tideCtxStep (b.getF F.tideCtxStep i + 1) i = c at step ⊢
  have cw : (c.ctx i).work = (s.ctx i).work := by rw [← hc]; exact hw
  have ct : c.time = s.time := by rw [← hc]; exact ht
  by_cases seed : field d.bytes 40 8 = 0
  · simp only [seed, if_true, State.ctx_setCtx_self]
    exact ⟨_, rfl, rfl, rfl, rfl, rfl, ct, fun h => absurd rfl h, rfl, cw, step⟩
  · simp only [seed, if_false, State.ctx_setCtx_self]
    exact ⟨_, rfl, rfl, rfl, rfl, rfl, ct, fun _ => rfl, rfl, cw, step⟩

/-- INVOKE whose checks pass opens it (steps 3 and 4 of Table 1.6). -/
theorem exec_invoke_opens {s r : State} {ctx : CtxId} {d : Desc} {rest : List Desc} (hen : s.ctxState ctx = 1) (hns : s.noStart = false)
    (hid : (s.ctx ctx).idleWork = true) (hw : (s.ctx ctx).work = d :: rest) (hop : d.opcode = 1) (hd : s.descFault ctx d = none)
    (hh : s.invokeHeld ctx d = false) (hs : s.healthAt = none ∨ field d.bytes 40 8 ≠ 0) (hb : s.blockOk ctx = true)
    (hr : (s.setCtx ctx { s.ctx ctx with work := rest }).freeRunRefuses ctx (field d.bytes 24 8) = (.ok false, r)) :
    exec (.invoke ctx) s = .next (r.openInvoke ctx d) := by
  have hd' : (s.setCtx ctx { s.ctx ctx with work := rest }).descFault ctx d = none := hd
  have hb' : (s.setCtx ctx { s.ctx ctx with work := rest }).blockOk ctx = true := hb
  have draw : (s.healthAt.isSome && field d.bytes 40 8 == 0) = false := by
    rcases hs with h | h <;> simp [h]
  show execInvoke ctx s = _
  unfold execInvoke
  simp [hen, hns, hid, hw, hop, hd, hh, hd', hb', hr, draw]

/-- With fabric time not running free no map is read (R381). -/
theorem State.freeRunRefuses_locked {s r : State} {i va : Nat} {b : Bool} (h : s.flag F.lnkTimeCtlFreeRun = false) (hr : s.freeRunRefuses i va = (.ok b, r)) :
    r = s := by
  unfold State.freeRunRefuses at hr
  simp [h] at hr
  exact hr.2.symm

/-- INVOKE_BIND of an INVOKE that can be bound runs step 5 of Table 1.6, where the collector has room for its event (R110). -/
theorem exec_invokeBind_binds {s : State} {ctx : CtxId} {v : Invoke} {hits : List (CoreId × Hit)} (hv : (s.ctx ctx).inv = some v) (hb : v.bound = false)
    (he : v.ending = none) (hen : s.ctxState ctx = 1) (hst : s.stopped = false) (ho : s.overfills ctx (s.bind ctx v hits) = false) :
    exec (.invokeBind ctx hits) s = .next (s.bind ctx v hits) := by
  show execInvokeBind ctx s hits = _
  unfold execInvokeBind
  simp [hv, hb, he, hen, hst, State.unlessFull, ho]

/-- The resources that a validated INVOKE asks for, core by core. -/
def coreNeeds (recs : List CoreRec) : List (Nat × Nat × Nat) := recs.map (fun r => (r.core, r.streams, r.counters))

/-- The trailer entries that a map asks for, core by core (R277). -/
def trailNeeds (m : Option TideMap) : List (Nat × Nat) :=
  match m with
  | some t => t.cores.map (fun k => (k, trailCount t k))
  | none => []

/-- With a resource held elsewhere the INVOKE waits, and nothing is bound (R230). -/
theorem State.bind_waits {s u : State} {i : Nat} {v : Invoke} {hits : List (CoreId × Hit)} {recs : List CoreRec} {m : Option TideMap} {ds : List Bytes}
    (hv : (s.ctx i).inv = some v) (hb : v.bound = false) (hval : s.validate i v = (.ok (recs, m, ds), u))
    (hf : u.fits (coreNeeds recs) (ds.map (fun d => field d 0 1)) (trailNeeds m) = false) :
    ∃ x, ((s.bind i v hits).ctx i).inv = some x ∧ x.waits = true ∧ x.bound = false ∧ (s.bind i v hits).core = u.core := by
  have k := s.validate_bond i v
  rw [hval] at k
  obtain ⟨y, hy, yb, -⟩ := k.bond_inv hv
  unfold State.bind
  rw [hval]
  dsimp only
  rw [if_pos]
  · exact ⟨_, (State.setInv_inv ..).trans (congrArg _ hy), rfl, yb.trans hb, rfl⟩
  · unfold coreNeeds trailNeeds at hf
    cases m <;> simp_all

/-- With all of it free and no INVOKE ahead, what binding leaves is what stands, and the INVOKE is bound. -/
theorem State.bind_binds {s u t : State} {i : Nat} {v : Invoke} {hits : List (CoreId × Hit)} {recs : List CoreRec} {m : Option TideMap} {ds : List Bytes}
    {r : Unit} (hv : (s.ctx i).inv = some v) (hval : s.validate i v = (.ok (recs, m, ds), u))
    (hf : u.fits (coreNeeds recs) (ds.map (fun d => field d 0 1)) (trailNeeds m) = true)
    (ha : u.aheadOf i { v with prio := u.getF F.cxsCtxCfgPriority i } = false) (hall : u.bindAll i v recs m ds hits = (.ok r, t)) :
    s.bind i v hits = t ∧ ∃ x, (t.ctx i).inv = some x ∧ x.bound = true ∧ x.waits = false := by
  have k := s.validate_bond i v
  rw [hval] at k
  obtain ⟨y, hy, -⟩ := k.bond_inv hv
  refine ⟨?_, State.bindAll_bound hy hall⟩
  unfold State.bind
  rw [hval]
  dsimp only
  rw [if_neg]
  · rw [hall]
  · unfold coreNeeds trailNeeds at hf
    cases m <;> simp_all

/-- CANCEL_STREAMS_STOPPED unbinds an INVOKE that is ending once its work is quiet (Table 8.10 step 6). -/
theorem exec_cancelStreamsStopped_unbinds {s : State} {ctx : CtxId} {v : Invoke} (hv : (s.ctx ctx).inv = some v) (hb : v.bound = true)
    (he : v.ending.isSome = true) (hs : v.stopped = false) (hq : s.quiet v = true) :
    exec (.cancelStreamsStopped ctx) s = .next ((s.unbind ctx v).setInv ctx (fun v => { v with stopped := true })) := by
  show execCancelStreamsStopped ctx s = _
  unfold execCancelStreamsStopped
  simp [hv, hb, he, hs, hq]

/-- What INVOKE_END leaves of an INVOKE whose work is done, before the queue goes on: unbound, its ledger closed. -/
def State.endedInvoke (s : State) (i : Nat) (v : Invoke) : State :=
  let t := if v.stopped then s else s.unbind i v
  t.closeInvoke i (((t.ctx i).inv).getD v) v.goodStatus

theorem exec_invokeEnd_ends {s : State} {ctx : CtxId} {v : Invoke} (hv : (s.ctx ctx).inv = some v) (hb : v.bound = true) (he : v.ending = none)
    (ht : s.tasksEnded v = true) (hq : s.quiet v = true) (hf : s.recordsFit ctx = true) (hrom : s.boot.rom = false) (hh : s.healthAt = none) :
    exec (.invokeEnd ctx) s = .next (((s.endedInvoke ctx v).goOn ctx).freeIfIdle ctx) := by
  have halt : s.haltRing ctx v v.goodStatus = (.ok (), s) := by simp [State.haltRing, he]
  show execInvokeEnd ctx s = _
  unfold execInvokeEnd State.endedInvoke
  cases hs : v.stopped <;> simp [hv, hb, he, ht, hq, hf, hrom, hh, halt, hs]

/-- An INVOKE without its ending keeps its descriptor and its summary. -/
theorem Invoke.unended_fields {v x : Invoke} (h : x.unended = v.unended) : x.desc = v.desc ∧ x.tally = v.tally :=
  ⟨show x.unended.desc = v.unended.desc by rw [h], show x.unended.tally = v.unended.tally by rw [h]⟩

/-- What unbinding and closing leave of an INVOKE whose work is done, seen from before (Table 1.6 steps 11 to 14, R28). -/
theorem State.endedInvoke_spec {s : State} {i : Nat} {v : Invoke} (hv : (s.ctx i).inv = some v) (hen : s.ctxState i ≠ 3) :
    let body := s.ledgerBody (s.invokeFields i v v.goodStatus)
    let t := s.endedInvoke i v
    ∃ n, t.ctxState i ≠ 3 ∧ (t.ctx i).account = (none, body) ∧
      s.puts t (.hostWrite (field v.desc.bytes 48 8)
        (body ++ slice (Config.mldsaSign (Config.freeValue s.boot.aliasAt).toNat "DRUHAL-GAUGE" body (Config.freeValue n).toNat) 0 3309 ++ zeros 19)) ∧
      s.completes t i v.desc v.goodStatus true v.tally.events := by
  dsimp only
  unfold State.endedInvoke
  have k : s.Winds (if v.stopped then s else s.unbind i v) := by
    split
    · exact .refl s
    · exact s.unbind_winds i v
  generalize (if v.stopped = true then s else s.unbind i v) = t at k ⊢
  obtain ⟨x, hx, e⟩ := k.account.account_inv hv
  obtain ⟨hd, htally⟩ := Invoke.unended_fields e
  have hb : t.ledgerBody (t.invokeFields i x v.goodStatus) = s.ledgerBody (s.invokeFields i v v.goodStatus) :=
    State.invokeBody_congr _ k.time k.boot (fun r hr j => k.regs r (by rcases hr with rfl | rfl <;> decide) j) e
  obtain ⟨n, talk, inv, last, puts, completes⟩ := t.closeInvoke_spec i x v.goodStatus
  rw [hb] at last puts
  rw [hd, k.boot] at puts
  rw [hd, htally] at completes
  dsimp only
  rw [hx, Option.getD_some]
  refine ⟨n, ?_, ?_, k.puts_before puts, k.completes_before completes⟩
  · rw [talk.ctxState]
    exact k.untorn i hen
  · simp [CtxSt.account, inv, last]

/-- Settles O11, command by command: an INVOKE that starts (`openInvoke_spec`), that waits (`bind_waits`) or is bound (`bind_binds`), since neither
validating nor loading cores touches the mark of its binding; that is unbound early, since nothing that unbinding sets off brings work of a cleared tag
back to a core (`unbind_cleared`); and that ends, since unbinding changes nothing its ledger is made from (`endedInvoke_spec`). -/
theorem invokeLifeComplete : Obligations.InvokeLifeComplete := by
  unfold Obligations.InvokeLifeComplete
  intro s ctx d rest v
  refine ⟨?start, ?waits, ?binds, ?early, ?ends⟩
  case start =>
    intro hen hns hid hw hop hd hh hs hb r hr
    refine ⟨fun hfree => ?_, ?_⟩
    · obtain rfl := State.freeRunRefuses_locked (s := s.setCtx ctx { s.ctx ctx with work := rest }) hfree hr
      exact ⟨by rw [State.ctx_setCtx_self], rfl, rfl⟩
    · obtain ⟨u, hu⟩ := r.openInvoke_spec ctx d
      exact ⟨_, u, exec_invoke_opens hen hns hid hw hop hd hh hs hb hr, hu⟩
  case waits =>
    intro hits u recs m ds hv hb he hen hst ho hval hf
    obtain ⟨x, hx⟩ := State.bind_waits (hits := hits) hv hb hval hf
    exact ⟨_, x, exec_invokeBind_binds hv hb he hen hst ho, hx⟩
  case binds =>
    intro hits u recs m ds r t hv hb he hen hst ho hval hf ha hall
    obtain ⟨rfl, hx⟩ := State.bind_binds hv hval hf ha hall
    exact ⟨exec_invokeBind_binds hv hb he hen hst ho, hx⟩
  case early =>
    intro hv hb he hs hq
    refine ⟨_, exec_cancelStreamsStopped_unbinds hv hb he hs hq, ?_, fun k hk => ?_⟩
    · obtain ⟨x, hx, e⟩ := (s.unbind_winds ctx v).account.account_inv hv
      exact ⟨_, (State.setInv_inv ..).trans (congrArg _ hx), rfl, (Invoke.unended_fields e).1⟩
    · have clear := s.unbind_cleared ctx v hk
      rw [State.setInv_core]
      exact ⟨clear.strms, clear.bars, clear.queue, fun j => clear.slots j j.isLt⟩
  case ends =>
    intro hv hb he ht hq hf hrom hh hen
    obtain ⟨n, untorn, account, puts, completes⟩ := State.endedInvoke_spec hv (by rw [hen]; decide)
    have talk := (s.endedInvoke ctx v).goOn_talk ctx
    have after := ((State.goOn_account _ ctx).view ctx).trans account
    obtain ⟨htag, hstatus, hid, hstart, hend⟩ := s.ledgerBody_fields (s.invokeFields ctx v v.goodStatus)
    refine ⟨_, n, exec_invokeEnd_ends hv hb he ht hq hf hrom hh, ?_⟩
    rw [State.freeIfIdle_untorn (by unfold State.ctxState; rw [talk.getF F.cxsCtxStateState]; exact untorn)]
    exact ⟨by simpa [CtxSt.account] using congrArg Prod.fst after, congrArg Prod.snd after, State.ledgerBody_length .., htag, hstatus, hid, hstart, hend,
      talk.puts puts, talk.completes completes⟩

end Sys2Proof.Machine

/-! PROOFS. O18: a MATRIX in the matrix engine (R60 to R77). What is seen of a core's engine and around it is one value (`State.meView`), and each operation of the
engine has one equation that says what it does to it: reading operands and filling shadows nothing, the end of an operation one operation less. So what is left
of a command is its own act: an operation that enters, a tile that becomes the active one, a pass tried once more, a group that commits. -/

namespace Sys2Proof.Machine

/-! ### Marks of suspect units outlive messages, completions and faults -/

/-- The words of CKU_SUSPECT. -/
def State.suspects (s : State) : Nat → Nat := s.reg .ckuSuspect

theorem State.suspects_setF (s : State) (f : Fld) (v i : Nat) (h : Reg.ckuSuspect ≠ f.reg := by decide) : (s.setF f v i).suspects = s.suspects :=
  funext fun j => s.reg_setF_ne f v i j h

theorem State.suspects_bump (s : State) (f : Fld) (i n : Nat) (h : Reg.ckuSuspect ≠ f.reg := by decide) : (s.bump f i n).suspects = s.suspects :=
  s.suspects_setF _ _ _ h

theorem State.Talk.suspects {rs : List Reg} {s t : State} (h : s.Talk rs t) (k : Reg.ckuSuspect ∉ rs := by decide) : t.suspects = s.suspects :=
  funext (h.regs _ k)

theorem State.complete_suspects (s : State) (i : Nat) (d : Desc) (st : Status) (b : Bool) (info : Nat) :
    (s.complete i d st b info).suspects = s.suspects := by
  unfold State.complete
  rw [(State.covered_talk (rs := []) ..).suspects]
  unfold State.putCompletion
  dsimp only
  split
  · rfl
  · unfold State.writeCompletion
    dsimp only
    split_ifs <;> exact State.suspects_setF ..

theorem State.gauge_suspects (s : State) (i : Nat) (g : Gauge) (w : Bool) : (s.gauge i g w).suspects = s.suspects := by
  unfold State.gauge
  dsimp only
  split
  · split_ifs <;> rfl
  · split
    · rfl
    · split_ifs <;> rfl

theorem State.egress_suspects (s : State) (n : Nat) (p : Packet) (came : Option (Nat × Bool)) : (s.egress n p came).2.suspects = s.suspects := by
  unfold State.egress
  dsimp only
  split_ifs
  · rfl
  · rfl
  · exact s.suspects_bump ..
  · exact s.suspects_bump ..

theorem State.send_suspects (s : State) (dstChip dstCore type tag srcCore gen arg : Nat) (payload : Bytes) :
    (s.send dstChip dstCore type tag srcCore gen arg payload).suspects = s.suspects := by
  unfold State.send State.launch
  dsimp only
  split
  · rfl
  split
  · exact s.suspects_bump ..
  split
  · exact s.egress_suspects ..
  split
  · exact s.suspects_bump ..
  split
  · rfl
  · exact s.egress_suspects ..

theorem State.sendMembers_suspects (s : State) (tag : Nat) (members : List Nat) (type arg : Nat) (payload : Bytes) :
    (s.sendMembers tag members type arg payload).suspects = s.suspects := by
  refine List.foldlRecOn (motive := fun t => State.suspects t = s.suspects) _ _ rfl fun t ht m _ => ?_
  split
  · exact ht
  · exact (t.send_suspects ..).trans ht

theorem State.endInvoke_suspects (s : State) (i : Nat) (st : Status) : (s.endInvoke i st).suspects = s.suspects := by
  unfold State.endInvoke
  dsimp only
  split <;> rfl

theorem State.endSwitch_suspects (s : State) (i : Nat) (st : Status) : (s.endSwitch i st).suspects = s.suspects := by
  unfold State.endSwitch
  dsimp only
  split
  · rfl
  split
  · rfl
  · exact (State.complete_suspects ..).trans (State.suspects_setF ..)

theorem State.withdraw_suspects (s : State) (i : Nat) (st : Option Status) : (s.withdraw i st).suspects = s.suspects := by
  unfold State.withdraw
  dsimp only
  split
  · split
    · exact State.send_suspects ..
    · rfl
  split
  · rfl
  split
  · exact (State.endSwitch_suspects ..).trans (s.sendMembers_suspects ..)
  split
  · exact (State.endSwitch_suspects ..).trans (s.send_suspects ..)
  · exact s.send_suspects ..

theorem State.endOthers_suspects (s : State) (i : Nat) (st inv : Status) (before : Option Nat) (run : Status) :
    (s.endOthers i st inv before run).2.suspects = s.suspects := by
  unfold State.endOthers
  dsimp only
  refine (State.withdraw_suspects ..).trans ?_
  generalize hx : State.completeAll _ _ _ _ = x
  have hx : x.suspects = s.suspects := by
    rw [← hx]
    refine List.foldlRecOn (motive := fun t => State.suspects t = s.suspects) _ _ ?_ fun t ht d _ => (t.complete_suspects ..).trans ht
    refine List.foldlRecOn (motive := fun t => State.suspects t = s.suspects) _ _ ?_ fun t ht j _ => ((t.forgetReads_talk (rs := []) j).suspects).trans ht
    refine List.foldlRecOn (motive := fun t => State.suspects t = s.suspects) _ _ ?_ fun t ht j _ => (t.complete_suspects ..).trans ht
    refine List.foldlRecOn (motive := fun t => State.suspects t = s.suspects) _ _ rfl fun t ht j _ => ?_
    unfold State.copyEarly
    split
    · exact ht
    · exact (t.gauge_suspects ..).trans ht
  have e : ∀ c : Bool, (if c = true then x.endInvoke i inv else x).suspects = s.suspects := by
    intro c
    split
    · exact (x.endInvoke_suspects ..).trans hx
    · exact hx
  exact e _

theorem State.faultWith_suspects (s : State) (i : Nat) (st inv : Status) (d : Nat) : (s.faultWith i st inv d).suspects = s.suspects := by
  have h := s.endInvoke_suspects i inv
  unfold State.faultWith
  dsimp only
  generalize s.endInvoke i inv = t at h ⊢
  split
  · generalize hx : State.log _ 0x0001 _ _ st 2 _ = x
    have hx : x.suspects = s.suspects := by
      rw [← hx, (State.Talk.log (rs := []) ..).suspects, State.suspects_setF _ F.cxsCtxStateStatus, State.suspects_setF _ F.cxsCtxStateResume,
        State.suspects_setF _ F.cxsCtxStateState, h]
    have hy := (State.endOthers_suspects _ i .cancelled .cancelled none .cancelled).trans
      ((State.Talk.setCtx_same (rs := []) x i { x.ctx i with inflight := 0, faultOf := d } rfl).suspects.trans hx)
    unfold State.setCtx at hy
    generalize (State.endOthers _ i .cancelled .cancelled none).2 = y at hy ⊢
    split
    · split
      · exact ((State.setHalted_talk (rs := []) ..).suspects.trans (y.sendMembers_suspects ..)).trans hy
      · exact hy
    · exact hy
  split
  · split
    · exact (t.suspects_setF ..).trans h
    · exact h
  · exact h

theorem State.faultTag_suspects (s : State) (tag : Nat) (st : Status) : (s.faultTag tag st).suspects = s.suspects := by
  unfold State.faultTag
  dsimp only
  split
  · exact s.faultWith_suspects ..
  split
  · exact s.endInvoke_suspects ..
  · rfl

/-! ### What the work of a matrix engine leaves of its core and of the device -/

/-- What is seen of a core's matrix engine (the scratchpad, the operations without their shadows) and, around it, of device memory, of contexts and of suspect units. -/
structure MeView where
  hbm : Mem
  spm : Mem
  ops : List MeOp
  states : Nat → Nat
  gens : Nat → Nat
  suspects : Nat → Nat

/-- The view of one core's matrix engine. -/
def State.meView (s : State) (core : Nat) : MeView :=
  ⟨s.hbm, (s.core core).spm, (s.core core).ops, s.reg .cxsCtxState, s.reg .hiuCtxCtl, s.suspects⟩

/-- That view with what reading operands and filling shadows leaves alone besides: the slots, the form of the active tile, the supply. -/
structure FeedView where
  me : MeView
  slots : Table Slot
  form : Nat
  supply : Option Supply

def State.feedView (s : State) (core : Nat) : FeedView := ⟨s.meView core, (s.core core).slots, (s.core core).meForm, s.supply⟩

/-- Registers that no view shows. -/
def outOfView (r : Reg) : Bool := r != .cxsCtxState && r != .hiuCtxCtl && r != .ckuSuspect

theorem State.feedView_setF (s : State) (core : Nat) (f : Fld) (v i : Nat) (h : outOfView f.reg = true := by decide) :
    (s.setF f v i).feedView core = s.feedView core := by
  have k : ∀ q, outOfView q = false → (s.setF f v i).reg q = s.reg q := fun q hq => funext fun j => s.reg_setF_ne f v i j (by rintro rfl; simp [h] at hq)
  unfold State.feedView State.meView State.suspects
  rw [k .cxsCtxState rfl, k .hiuCtxCtl rfl, k .ckuSuspect rfl]
  rfl

theorem State.feedView_bump (s : State) (core : Nat) (f : Fld) (i n : Nat) (h : outOfView f.reg = true := by decide) :
    (s.bump f i n).feedView core = s.feedView core := s.feedView_setF core _ _ _ h

/-- A core that is replaced shows through the view what it now holds. -/
theorem State.feedView_setCore (s : State) (core : Nat) (x : CoreSt) :
    (s.setCore core x).feedView core = ⟨{ s.meView core with spm := x.spm, ops := x.ops }, x.slots, x.meForm, s.supply⟩ := by
  unfold State.feedView State.meView
  rw [State.core_setCore_self]
  rfl

theorem State.tally_feedView (s : State) (core i : Nat) (f : Tally → Tally) (w : Bool) : (s.tally i f w).feedView core = s.feedView core := by
  unfold State.tally
  dsimp only
  split
  · rfl
  · split <;> rfl

theorem State.gauge_feedView (s : State) (core i : Nat) (g : Gauge) (w : Bool) : (s.gauge i g w).feedView core = s.feedView core := by
  unfold State.gauge
  dsimp only
  split
  · split_ifs <;> rfl
  · split
    · rfl
    · split_ifs <;> rfl

theorem State.log_feedView (s : State) (core code source tag : Nat) (st : Status) (sev : Nat) (arg : Bytes) :
    (s.log code source tag st sev arg).feedView core = s.feedView core := by
  obtain ⟨e, h⟩ := s.log_rest code source tag st sev arg
  rw [h]
  rfl

theorem State.transient_feedView (s : State) (core i type source : Nat) (w : Bool) : (s.transient i type source w).feedView core = s.feedView core := by
  unfold State.transient
  dsimp only
  rw [State.log_feedView, State.feedView_bump _ _ F.ckuTransientCount, State.tally_feedView]

theorem State.lastingUnit_feedView (s : State) (core i : Nat) (w : Bool) : (s.lastingUnit i w).feedView core = s.feedView core :=
  (State.feedView_bump _ _ F.ckuLastingCount _ _).trans (s.tally_feedView ..)

/-! ### Reading operands at the port -/

theorem State.passed1_feedView (s : State) (core cw : Nat) : (s.passed1 core cw).feedView core = s.feedView core := by
  unfold State.passed1
  dsimp only
  split
  · rfl
  · rw [State.feedView_setCore]; rfl

theorem State.spmRead_feedView (s : State) (core abs n : Nat) (noise : Noise := Noise.none) :
    (s.spmRead core abs n noise).2.feedView core = s.feedView core := by
  unfold State.spmRead
  dsimp only
  split
  · rfl
  · refine List.foldlRecOn (motive := fun acc : Option Bytes × State => acc.2.feedView core = s.feedView core) _ _ rfl ?_
    rintro ⟨b, t⟩ ht k -
    dsimp only at ht ⊢
    generalize readCodeword _ _ _ = r
    obtain ⟨left, one, two, bad⟩ := r
    have count : ∀ (p : Prop) [Decidable p] (t : State) (f : Fld) (n : Nat), outOfView f.reg = true →
        (if p then t else t.bump f core n).feedView core = t.feedView core := by
      intro p _ t f n h
      split
      · rfl
      · exact t.feedView_bump core f core n h
    have step := (((count (bad = 0) _ F.spmEventsUncorr bad rfl).trans (count (two = 0) _ F.spmCorrTwoSym two rfl)).trans
      (count (one = 0) _ F.spmCorrOneSym one rfl)).trans ((t.passed1_feedView core k.1).trans ht)
    cases b <;> cases left <;> exact step

theorem State.slotBody_feedView (s : State) (core h slot : Nat) (trail : Option Nat) : (s.slotBody core h slot trail).2.feedView core = s.feedView core := by
  unfold State.slotBody
  dsimp only
  split
  · have k := s.spmRead_feedView core (((s.core core).polder h).tagAbs slot) 64
    generalize s.spmRead core _ 64 = x at k ⊢
    obtain ⟨_ | tag, t⟩ := x
    · exact k
    · have k2 := (t.spmRead_feedView core (((s.core core).polder h).slotAbs slot) (storedLen tag)).trans k
      dsimp only
      generalize t.spmRead core _ _ = y at k2 ⊢
      obtain ⟨_ | d, u⟩ := y <;> exact k2
  · have k := s.spmRead_feedView core (((s.core core).polder h).slotAbs slot) 2048
    generalize s.spmRead core _ 2048 = x at k ⊢
    obtain ⟨_ | d, t⟩ := x <;> exact k

theorem State.damage_feedView (s : State) (core cause : Nat) (e : Bool) : (s.damage core cause e).feedView core = s.feedView core := by
  unfold State.damage
  dsimp only
  split
  · exact s.feedView_bump ..
  · rw [State.feedView_setF _ _ F.seCmpDamageCause, State.feedView_setF _ _ F.seCmpDamageExpander, State.feedView_setF _ _ F.seCmpDamageValid,
      State.feedView_bump _ _ F.seCmpDamageCount]

theorem State.expandSlot_feedView (s : State) (core tag h slot : Nat) (stream : Bool) : (s.expandSlot core tag h slot stream).2.feedView core = s.feedView core := by
  have k := s.slotBody_feedView core h slot none
  unfold State.expandSlot
  generalize s.slotBody core h slot none = x at k ⊢
  obtain ⟨_ | ⟨tb, _⟩, t⟩ := x
  · exact k
  dsimp only at k ⊢
  split
  · exact (t.tally_feedView ..).trans k
  · exact k
  · next cause _ =>
    have k2 := ((t.damage core cause stream).slotBody_feedView core h slot none).trans ((t.damage_feedView core cause stream).trans k)
    generalize (t.damage core cause stream).slotBody core h slot none = y at k2 ⊢
    obtain ⟨_ | ⟨tb, _⟩, u⟩ := y
    · exact k2
    dsimp only at k2 ⊢
    split
    · exact (State.transient_feedView ..).trans ((u.tally_feedView ..).trans k2)
    · exact k2
    · next cause _ =>
      exact (State.tally_feedView ..).trans ((State.lastingUnit_feedView ..).trans
        ((State.feedView_bump _ _ F.seCmpDamageLasting _ _).trans ((u.damage_feedView core cause stream).trans k2)))

theorem State.portRead_feedView (s : State) (core tag h off len : Nat) (stream : Bool := false) :
    (s.portRead core tag h off len stream).2.feedView core = s.feedView core := by
  unfold State.portRead
  dsimp only
  split
  · rfl
  split
  · refine List.foldlRecOn (motive := fun acc : Except Status Bytes × State => acc.2.feedView core = s.feedView core) _ _ rfl fun acc ht j _ => ?_
    split
    · exact ht
    · have k := (acc.2.expandSlot_feedView core tag h (off / 2048 + j) stream).trans ht
      generalize acc.2.expandSlot core tag h _ stream = x at k ⊢
      obtain ⟨_ | bs, t⟩ := x <;> exact k
  · have k := s.spmRead_feedView core ((s.core core).abs h off) len
    generalize s.spmRead core _ len = x at k ⊢
    obtain ⟨_ | bs, t⟩ := x <;> exact k

theorem State.bufferedRead_feedView (s : State) (core tag h off len : Nat) (buf : List (Nat × Bytes)) :
    (s.bufferedRead core tag h off len buf).2.2.feedView core = s.feedView core := by
  unfold State.bufferedRead
  dsimp only
  split
  · rfl
  split
  · refine List.foldlRecOn (motive := fun acc : Except Status Bytes × List (Nat × Bytes) × State => acc.2.2.feedView core = s.feedView core) _ _ rfl
      fun acc ht j _ => ?_
    split
    · exact ht
    split
    · exact ht
    · have k := (acc.2.2.expandSlot_feedView core tag h (off / 2048 + j) false).trans ht
      generalize acc.2.2.expandSlot core tag h _ false = x at k ⊢
      obtain ⟨_ | bs, t⟩ := x <;> exact k
  · exact s.portRead_feedView ..

theorem State.movingScales_feedView (s : State) (core : Nat) (o : MeOp) : (s.movingScales core o).2.feedView core = s.feedView core := by
  unfold State.movingScales
  dsimp only
  split
  · rfl
  · refine List.foldlRecOn (motive := fun acc : Except Status Bytes × State => acc.2.feedView core = s.feedView core) _ _ rfl fun acc ht j _ => ?_
    split
    · exact ht
    · have k := (acc.2.portRead_feedView core o.tag o.hSc (o.sc + ((o.blocksOf o.pass).1 + j) * o.mPad + 8 * o.group) 8).trans ht
      generalize acc.2.portRead core o.tag o.hSc _ 8 = x at k ⊢
      obtain ⟨_ | bs, t⟩ := x <;> exact k

theorem State.drainRead_feedView (s : State) (core : Nat) (o : MeOp) (rows : Nat) : (s.drainRead core o rows).2.feedView core = s.feedView core := by
  unfold State.drainRead
  split
  · rfl
  · refine List.foldlRecOn (motive := fun acc : Option (List (List Nat × RowCheck)) × State => acc.2.feedView core = s.feedView core) _ _ rfl
      fun acc ht j _ => ?_
    dsimp only
    split
    · exact ht
    · have k := (acc.2.spmRead_feedView core ((acc.2.core core).abs (o.handles.getD 2 0) (o.ac + (8 * o.group + j) * o.nForm * 4)) (o.n * 4)).trans ht
      generalize acc.2.spmRead core _ (o.n * 4) = x at k ⊢
      obtain ⟨_ | ab, t⟩ := x
      · exact k
      · have k2 := (t.spmRead_feedView core ((acc.2.core core).abs (o.handles.getD 3 0) (o.ck + (8 * o.group + j) * 16)) 16).trans k
        dsimp only
        generalize t.spmRead core _ 16 = y at k2 ⊢
        obtain ⟨_ | cb, u⟩ := y <;> exact k2

/-! ### Filling shadows -/

theorem State.fillTile_feedView (s : State) (core : Nat) (o : MeOp) (pass : Nat) : (s.fillTile core o pass).2.feedView core = s.feedView core := by
  unfold State.fillTile
  dsimp only
  have k := s.portRead_feedView core o.tag (o.handles.getD 0 0) (o.st + 2048 * pass) (o.kForm * o.nForm * bitsOf o.sfmt / 8)
  generalize s.portRead core o.tag _ _ _ = x at k ⊢
  obtain ⟨st | bs, t⟩ := x
  · exact k
  have scales : ∀ c : Bool, (if c = true then t.portRead core o.tag o.hSc (o.stScale + (o.blocksOf pass).1 * o.nForm) ((o.blocksOf pass).2 * o.nForm)
      else (.ok [], t)).2.feedView core = s.feedView core := by
    intro c
    split
    · exact (t.portRead_feedView ..).trans k
    · exact k
  have k2 := scales (isMx o.sfmt)
  dsimp only
  generalize (if isMx o.sfmt = true then _ else _) = y at k2 ⊢
  obtain ⟨st | sc, u⟩ := y <;> exact k2

/-- A new front operation stands before the others without their shadows. -/
theorem CoreSt.setMe_ops (c : CoreSt) (o : MeOp) : (c.setMe o).ops = o.bare :: c.ops.drop 1 := by
  simp [CoreSt.setMe, CoreSt.ops]

/-- A core that gets other shadows shows through the view what it did. -/
theorem State.feedView_shadows (s : State) (core : Nat) (l : List MeOp) (h : l.map MeOp.bare = (s.core core).ops) :
    (s.setCore core { s.core core with me := l }).feedView core = s.feedView core := by
  rw [State.feedView_setCore]
  unfold State.feedView State.meView
  rw [← h]
  rfl

/-- Filling a shadow shows in no view. -/
theorem State.fillShadow_feedView (s : State) (core : Nat) : (s.fillShadow core).feedView core = s.feedView core := by
  unfold State.fillShadow
  dsimp only
  split
  · rfl
  next o rest hme =>
  have hops : (s.core core).ops = o.bare :: rest.map MeOp.bare := by rw [CoreSt.ops, hme]; rfl
  split
  · split
    · rfl
    · have k := s.fillTile_feedView core o (if o.active = true then o.pass + 1 else o.pass)
      generalize s.fillTile core o _ = x at k ⊢
      have e : (x.2.core core).ops = (s.core core).ops := congrArg (fun v => v.me.ops) k
      exact (State.feedView_shadows _ _ _ ((CoreSt.setMe_ops (x.2.core core) _).trans (by rw [e, hops]; rfl))).trans k
  · split
    · rfl
    · next p more =>
      split
      · rfl
      · have k := s.fillTile_feedView core p 0
        generalize s.fillTile core p 0 = x at k ⊢
        have e : (x.2.core core).ops = (s.core core).ops := congrArg (fun v => v.me.ops) k
        exact (State.feedView_shadows _ _ _ (by rw [e, hops]; rfl)).trans k

/-- The tile of an operation alone in the engine fills its shadow. -/
theorem State.fillShadow_alone {s : State} {core : Nat} {o : MeOp} (h : (s.core core).me = [o]) (ha : o.active = false) (hs : o.shadow = none) :
    ((s.fillShadow core).core core).me = [{ o with shadow := some (s.fillTile core o o.pass).1 }] := by
  have k := s.fillTile_feedView core o o.pass
  unfold State.fillShadow
  simp only [h, ha, hs]
  have e : ((s.fillTile core o o.pass).2.core core).ops = (s.core core).ops := congrArg (fun v => v.me.ops) k
  have len : ((s.fillTile core o o.pass).2.core core).me.length = 1 := by simpa [CoreSt.ops, h] using congrArg List.length e
  simp [CoreSt.setMe, List.drop_eq_nil_of_le len.le]

/-! ### An operation leaves the engine -/

theorem State.feedView_me {s t : State} {core : Nat} (h : t.feedView core = s.feedView core) : t.meView core = s.meView core := congrArg FeedView.me h

theorem State.meView_ops {s t : State} {core : Nat} (h : t.meView core = s.meView core) : (t.core core).ops = (s.core core).ops := congrArg MeView.ops h

theorem State.meView_setCore (s : State) (core : Nat) (x : CoreSt) : (s.setCore core x).meView core = { s.meView core with spm := x.spm, ops := x.ops } :=
  congrArg FeedView.me (s.feedView_setCore core x)

/-- A core changed elsewhere shows through the view what it did. -/
theorem State.meView_setCore_same (s : State) (core : Nat) (x : CoreSt) (hs : x.spm = (s.core core).spm := by rfl) (ho : x.me = (s.core core).me := by rfl) :
    (s.setCore core x).meView core = s.meView core := by
  rw [State.meView_setCore, hs, CoreSt.ops, ho]
  rfl

theorem State.Talk.meView {s t : State} (h : s.Talk talkRegs t) (k : t.suspects = s.suspects) (core : Nat) : t.meView core = s.meView core := by
  unfold State.meView
  rw [h.core, k, funext (h.regs .cxsCtxState (by decide)), funext (h.regs .hiuCtxCtl (by decide)), h.rest]

theorem State.cxsLoad_meView (core n : Nat) : ∀ s : State, (s.cxsLoad core n).meView core = s.meView core := by
  induction n with
  | zero => intro s; rfl
  | succ n ih =>
    intro s
    unfold State.cxsLoad
    dsimp only
    split
    · split
      · rfl
      · exact (ih _).trans (((State.send_talk ..).meView (State.send_suspects ..) core).trans (s.meView_setCore_same core _))
    · rfl

theorem State.freeSlot_meView (s : State) (core i : Nat) : (s.freeSlot core i).meView core = s.meView core := by
  unfold State.freeSlot
  dsimp only
  split
  · exact (State.cxsLoad_meView ..).trans (s.meView_setCore_same core _)
  · rfl

theorem State.gate_meView (s : State) (core : Nat) : (s.gate core).meView core = s.meView core := by
  unfold State.gate
  dsimp only
  split
  · exact (State.feedView_me (State.feedView_bump _ core F.seqEventsGated core 1)).trans (s.meView_setCore_same core _)
  · rfl

/-- The operation at the front leaves, and nothing else that the view shows. -/
theorem State.dropMe_meView (s : State) (core : Nat) : (s.dropMe core).meView core = { s.meView core with ops := (s.meView core).ops.drop 1 } := by
  unfold State.dropMe
  dsimp only
  split
  · next h => simp [State.meView, CoreSt.ops, h]
  · next o r h =>
    rw [State.gate_meView, State.freeSlot_meView, State.feedView_me (State.fillShadow_feedView ..), State.meView_setCore]
    simp [State.meView, CoreSt.ops, h]

/-! ### Faults as seen through the view -/

/-- A live context faults through its tag. -/
theorem State.faultTag_faults (s : State) (tag : Nat) (st : Status) : s.faults (s.faultTag tag st) tag st := by
  intro hs ht
  unfold State.faultTag
  dsimp only
  rw [if_pos ht]
  exact s.faultWith_state _ st st _ hs

/-- A fault is one seen from any state in which contexts and tags show as they do where it happens. -/
theorem State.faults_before {s t u : State} {tag : Nat} {st : Status} (hs : t.reg .cxsCtxState = s.reg .cxsCtxState)
    (hg : t.reg .hiuCtxCtl = s.reg .hiuCtxCtl) (k : t.faults u tag st) : s.faults u tag st := by
  unfold State.faults State.ctxState State.tag State.getF at *
  rw [show t.reg F.cxsCtxStateState.reg = s.reg F.cxsCtxStateState.reg from hs, show t.reg F.hiuCtxCtlGen.reg = s.reg F.hiuCtxCtlGen.reg from hg] at k
  exact k

/-- The operation at the front ends with a status: it leaves, memory and marks stay, its context faults. -/
theorem State.failMe_spec (s : State) (core tag : Nat) (st : Status) :
    let t := s.failMe core tag st
    s.faults t tag st ∧ (t.core core).ops = (s.core core).ops.drop 1 ∧ (t.core core).spm = (s.core core).spm ∧ t.hbm = s.hbm ∧ t.suspects = s.suspects := by
  have view := s.dropMe_meView core
  have talk := (s.dropMe core).faultTag_talk tag st
  unfold State.failMe
  dsimp only
  refine ⟨State.faults_before (congrArg MeView.states view) (congrArg MeView.gens view) (State.faultTag_faults _ tag st), ?_, ?_, ?_, ?_⟩
  · rw [talk.core]; exact congrArg MeView.ops view
  · rw [talk.core]; exact congrArg MeView.spm view
  · rw [talk.rest]; exact congrArg MeView.hbm view
  · rw [State.faultTag_suspects]; exact congrArg MeView.suspects view

/-! ### MATRIX enters the engine -/

theorem State.step1_meView (s : State) (core i n : Nat) : (s.step1 core i n).meView core = s.meView core :=
  s.meView_setCore_same core _

@[simp] theorem State.step1_me (s : State) (core i n : Nat) : ((s.step1 core i n).core core).me = (s.core core).me := by
  unfold State.step1 State.progress
  simp [CoreSt.setSlot]

section
variable {s u : State} {core : CoreId} {i : Nat} {sl : Slot} {w v : Nat}

theorem exec_matrix_move (h : s.atOp core i sl .matrix w v u) (hc : sl.compute = false) :
    exec (.matrix core) s = .next (u.faultTag sl.tag .descInvalid) := by
  show execMatrix core s = _
  unfold execMatrix
  rw [State.runOp_atOp h rfl]
  simp [hc]

theorem exec_matrix_refuses {st : Status} (h : s.atOp core i sl .matrix w v u) (hc : sl.compute = true)
    (hf : (matrixOp i sl w v).fault (u.core core) sl w v = some st) : exec (.matrix core) s = .next (u.faultTag sl.tag st) := by
  show execMatrix core s = _
  unfold execMatrix
  rw [State.runOp_atOp h rfl]
  simp [hc, hf]

theorem exec_matrix_empty (h : s.atOp core i sl .matrix w v u) (hc : sl.compute = true) (hf : (matrixOp i sl w v).fault (u.core core) sl w v = none)
    (hm : (matrixOp i sl w v).m = 0) : exec (.matrix core) s = .next (u.step1 core i 2) := by
  show execMatrix core s = _
  unfold execMatrix
  rw [State.runOp_atOp h rfl]
  simp [hc, hf, hm]

theorem exec_matrix_enters (h : s.atOp core i sl .matrix w v u) (hc : sl.compute = true) (hf : (matrixOp i sl w v).fault (u.core core) sl w v = none)
    (hm : (matrixOp i sl w v).m ≠ 0) (hlen : (u.core core).me.length < 2)
    (hacc : (matrixOp i sl w v).handles.any (fun h => (u.core core).accumulating i h) = false) (haw : (u.core core).awaits (matrixOp i sl w v).regions = false)
    (hdr : ((matrixOp i sl w v).draws && (u.core core).vu.any (fun x => x.slot == i && x.draws)) = false) :
    exec (.matrix core) s =
      .next (((u.setCore core { u.core core with me := (u.core core).me ++ [matrixOp i sl w v] }).fillShadow core).step1 core i 2) := by
  show execMatrix core s = _
  unfold execMatrix
  rw [State.runOp_atOp h rfl]
  simp only [hc, hf, hm, hacc, haw, hdr, Nat.not_le.2 hlen]
  rfl

end

/-- What entering the engine leaves behind the task and in the engine (R60, R61). -/
theorem State.enterMe_spec (u : State) (core i : Nat) (o : MeOp) (ha : o.active = false) (hs : o.shadow = none) (hp : o.pass = 0) :
    let t := ((u.setCore core { u.core core with me := (u.core core).me ++ [o] }).fillShadow core).step1 core i 2
    (t.core core).slot i = ((u.core core).slot i).advance 2 ∧ (t.core core).ops = (u.core core).ops ++ [o] ∧ (t.core core).spm = (u.core core).spm ∧
      t.hbm = u.hbm ∧
      ((u.core core).me = [] → (t.core core).me = [{ o with shadow := some ((u.setCore core { u.core core with me := [o] }).fillTile core o 0).1 }]) := by
  have bare : o.bare = o := by unfold MeOp.bare; rw [← hs]
  have view := (u.setCore core { u.core core with me := (u.core core).me ++ [o] }).fillShadow_feedView core
  rw [State.feedView_setCore] at view
  have alone : (u.core core).me = [] → (((u.setCore core { u.core core with me := (u.core core).me ++ [o] }).fillShadow core).core core).me =
      [{ o with shadow := some ((u.setCore core { u.core core with me := [o] }).fillTile core o 0).1 }] := by
    intro h
    rw [h, ← hp]
    exact State.fillShadow_alone (by rw [State.core_setCore_self]; rfl) ha hs
  generalize (State.setCore u core _).fillShadow core = x at view alone ⊢
  have step := x.step1_meView core i 2
  dsimp only
  refine ⟨?_, ?_, ?_, ?_, fun h => ?_⟩
  · rw [State.step1_slot]
    unfold CoreSt.slot
    rw [show (x.core core).slots = (u.core core).slots from congrArg FeedView.slots view]
  · rw [State.meView_ops step, show (x.core core).ops = _ from congrArg (fun v => v.me.ops) view]
    simp [CoreSt.ops, bare]
  · exact (congrArg MeView.spm step).trans (congrArg (fun v => v.me.spm) view)
  · exact (congrArg MeView.hbm step).trans (congrArg (fun v => v.me.hbm) view)
  · rw [State.step1_me, alone h]

/-! ### The swap -/

/-- What the swap of an operation's next tile finds: the filled shadow, or else what filling it now comes to. -/
def State.meetShadow (s : State) (core : Nat) (o : MeOp) : MeShadow × State :=
  match o.shadow with
  | some f => (f, s)
  | none => s.fillTile core o o.pass

theorem State.meetShadow_feedView (s : State) (core : Nat) (o : MeOp) : (s.meetShadow core o).2.feedView core = s.feedView core := by
  unfold State.meetShadow
  split
  · rfl
  · exact s.fillTile_feedView ..

/-- The core once the tile found is the active one. -/
def CoreSt.swapped (c : CoreSt) (o : MeOp) (tile : MeTile) : CoreSt :=
  { c.setMe { o with active := true, tile := tile, shadow := none } with meForm := o.form, filler := false }

/-- The swap goes on with what it finds in the shadow: a status ends the operation, a tile becomes the active one. -/
def State.swapIn (s : State) (core : Nat) (o : MeOp) (f : MeShadow) : State :=
  match f.error with
  | some st => s.failMe core o.tag st
  | none => (s.setCore core ((s.core core).swapped o f.tile)).fillShadow core

theorem exec_meSwap_front {s : State} {core : CoreId} {o : MeOp} {rest : List MeOp} (feed : Nat) (hme : (s.core core).me = o :: rest)
    (ha : o.active = false) (hr : (s.core core).rst < 2) :
    exec (.meSwap core feed) s =
      .next (((s.meetShadow core o).2.bump F.coreMeFrzFeedCount core feed).swapIn core o (s.meetShadow core o).1) := by
  show execMeSwap core feed s = _
  unfold execMeSwap State.meetShadow State.swapIn
  dsimp only
  rw [hme]
  dsimp only
  rw [if_neg (by simp [ha, hr])]
  cases o.shadow with
  | none => dsimp only; cases (s.fillTile core o o.pass).1.error <;> rfl
  | some f => dsimp only; cases f.error <;> rfl

/-- A tile that fills: it is the active one, and memory stays. -/
theorem State.swapIn_swaps {s : State} {core : Nat} {o : MeOp} {f : MeShadow} (he : f.error = none) :
    let t := s.swapIn core o f
    (t.core core).ops = { o with active := true, tile := f.tile, shadow := none } :: (s.core core).ops.drop 1 ∧ (t.core core).meForm = o.form ∧
      (t.core core).spm = (s.core core).spm ∧ t.hbm = s.hbm := by
  unfold State.swapIn
  rw [he]
  dsimp only
  have view := (s.setCore core ((s.core core).swapped o f.tile)).fillShadow_feedView core
  rw [State.feedView_setCore] at view
  exact ⟨(congrArg (fun v => v.me.ops) view).trans (CoreSt.setMe_ops ..), congrArg FeedView.form view, congrArg (fun v => v.me.spm) view,
    congrArg (fun v => v.me.hbm) view⟩

/-! ### A breach -/

/-- An operation whose pass is tried once more (R77, R504). -/
def MeOp.again (o : MeOp) (supply : Bool) : MeOp :=
  { o with active := false, shadow := none, retrying := true, retries := o.retries + 1, supply := o.supply || supply }

/-- A first breach commits nothing: the front operation is tried once more, and every shadow is to be filled anew. -/
theorem State.drainGroup_retries {s : State} {core : Nat} {o : MeOp} {rows : List RowResult} {hit : GroupHit} {kappa chk : Nat}
    (hb : rows.any (fun r => !r.ok) = true) (hr : o.retrying = false) :
    s.drainGroup core o rows hit kappa chk =
      ((s.bump F.coreMePassesCount core).setCore core
        { s.core core with me := o.again s.inSupply :: ((s.core core).me.drop 1).map MeOp.bare }).fillShadow core := by
  unfold State.drainGroup
  simp only [hb, hr]
  rfl

theorem State.drainGroup_lasting {s : State} {core : Nat} {o : MeOp} {rows : List RowResult} {hit : GroupHit} {kappa chk : Nat}
    (hb : rows.any (fun r => !r.ok) = true) (hr : o.retrying = true) :
    s.drainGroup core o rows hit kappa chk = (s.lastingUnit (tagIndex o.tag)).meLasting core { o with supply := o.supply || s.inSupply } false := by
  unfold State.drainGroup
  simp only [hb, hr]
  rfl

theorem State.meEvents_feedView (s : State) (core : Nat) (o : MeOp) (passes : Nat) (a b : Bool) :
    (s.meEvents core o passes a b).feedView core = s.feedView core := by
  unfold State.meEvents
  dsimp only
  split
  · exact s.gauge_feedView ..
  · exact (State.gauge_feedView ..).trans (s.gauge_feedView ..)

/-- Marking a core suspect writes its bit of CKU_SUSPECT, and nothing else that the view shows. -/
theorem State.suspectCore_spec (s : State) (i core type : Nat) :
    (s.suspectCore i core type).meView core = { s.meView core with suspects := (s.suspectCore i core type).suspects } ∧
      (s.suspectCore i core type).isSuspect core = true := by
  unfold State.suspectCore
  dsimp only
  generalize hx : s.setF F.ckuSuspectCores _ _ = x
  have view : x.meView core = { s.meView core with suspects := x.suspects } := by
    subst hx
    unfold State.meView
    rw [show (State.setF s F.ckuSuspectCores _ _).reg .cxsCtxState = s.reg .cxsCtxState from funext fun j => s.reg_setF_ne _ _ _ j (by decide),
      show (State.setF s F.ckuSuspectCores _ _).reg .hiuCtxCtl = s.reg .hiuCtxCtl from funext fun j => s.reg_setF_ne _ _ _ j (by decide)]
    rfl
  have mark : x.isSuspect core = true := by
    subst hx
    unfold State.isSuspect bit
    rw [State.getF_setF_self]
    show Nat.testBit (_ % 2 ^ 32) _ = true
    rw [Nat.testBit_mod_two_pow, Nat.testBit_or, Nat.testBit_two_pow_self]
    simp [Nat.mod_lt]
  have talk : ∀ y : State, x.Talk [] y →
      x.Talk [] ((y.log 0x0030 (sourceOf 0 core) (y.tag i) .breachLasting 2 (natLe 1 type)).markWindows (some core)) :=
    fun y h => (h.then_log ..).trans (State.markWindows_talk ..)
  have seen : ∀ t : State, x.Talk [] t → t.meView core = { s.meView core with suspects := t.suspects } ∧ t.isSuspect core = true := by
    intro t h
    refine ⟨?_, ?_⟩
    · rw [h.suspects, (h.more (List.nil_subset talkRegs)).meView h.suspects, view]
    · unfold State.isSuspect at *
      rw [h.getF F.ckuSuspectCores]
      exact mark
  refine seen _ (talk _ ?_)
  split
  · exact .refl x
  · exact .setCtx_same ..

/-- A lasting breach of a pass: the core is suspect, the operation leaves, its context faults, and nothing is committed (R103). -/
theorem State.meLasting_spec (s : State) (core : Nat) (o : MeOp) :
    let t := s.meLasting core o false
    s.faults t o.tag .breachLasting ∧ (t.core core).ops = (s.core core).ops.drop 1 ∧ (t.core core).spm = (s.core core).spm ∧ t.hbm = s.hbm ∧
      t.isSuspect core = true := by
  unfold State.meLasting
  simp only [Bool.false_and, Bool.false_eq_true, if_false, Bool.not_false]
  generalize hx : State.meEvents _ core o (o.passes + 1) true false = x
  have hx : x.meView core = s.meView core := by
    rw [← hx, State.feedView_me (State.meEvents_feedView ..), State.feedView_me (State.tally_feedView ..),
      State.feedView_me (State.feedView_bump _ _ F.coreMePassesCount _ _)]
  obtain ⟨view, mark⟩ := x.suspectCore_spec (tagIndex o.tag) core (if o.cls = .int then 2 else 1)
  generalize x.suspectCore _ core _ = y at view mark ⊢
  rw [hx] at view
  obtain ⟨hf, hops, hspm, hhbm, hsus⟩ := y.failMe_spec core o.tag .breachLasting
  refine ⟨State.faults_before (congrArg MeView.states view) (congrArg MeView.gens view) hf, hops.trans ?_, hspm.trans (congrArg MeView.spm view),
    hhbm.trans (congrArg MeView.hbm view), ?_⟩
  · rw [show (y.core core).ops = (s.core core).ops from congrArg MeView.ops view]
  · rw [← mark]
    show bit (bits ((y.failMe core o.tag .breachLasting).suspects _) _ _) _ = bit (bits (y.suspects _) _ _) _
    rw [hsus]

/-- A pass tried once more: its operation stands at the front with its group, ready for its tile to be filled again, and no memory has changed. -/
theorem State.drainGroup_retries_spec {s : State} {core : Nat} {o : MeOp} {rows : List RowResult} {hit : GroupHit} {kappa chk : Nat}
    (hb : rows.any (fun r => !r.ok) = true) (hr : o.retrying = false) :
    let t := s.drainGroup core o rows hit kappa chk
    (t.core core).ops = o.again s.inSupply :: (s.core core).ops.drop 1 ∧ (t.core core).spm = (s.core core).spm ∧ t.hbm = s.hbm := by
  rw [State.drainGroup_retries hb hr]
  have view := State.fillShadow_feedView ((s.bump F.coreMePassesCount core).setCore core
    { s.core core with me := o.again s.inSupply :: ((s.core core).me.drop 1).map MeOp.bare }) core
  rw [State.feedView_setCore] at view
  refine ⟨(congrArg (fun v => v.me.ops) view).trans ?_, congrArg (fun v => v.me.spm) view, congrArg (fun v => v.me.hbm) view⟩
  simp only [CoreSt.ops, List.map_cons, List.map_map, List.map_drop]
  rfl

/-- A pass that has breached again: its operation leaves, its core is suspect, its context faults, and no memory has changed. -/
theorem State.drainGroup_lasting_spec {s : State} {core : Nat} {o : MeOp} {rows : List RowResult} {hit : GroupHit} {kappa chk : Nat}
    (hb : rows.any (fun r => !r.ok) = true) (hr : o.retrying = true) :
    let t := s.drainGroup core o rows hit kappa chk
    (t.core core).ops = (s.core core).ops.drop 1 ∧ t.isSuspect core = true ∧ s.faults t o.tag .breachLasting ∧
      (t.core core).spm = (s.core core).spm ∧ t.hbm = s.hbm := by
  rw [State.drainGroup_lasting hb hr]
  have unit := s.lastingUnit_feedView core (tagIndex o.tag) false
  obtain ⟨hfault, hops, hspm, hhbm, hmark⟩ := (s.lastingUnit (tagIndex o.tag)).meLasting_spec core { o with supply := o.supply || s.inSupply }
  rw [State.meView_ops (State.feedView_me unit)] at hops
  exact ⟨hops, hmark, State.faults_before (congrArg (fun v => v.me.states) unit) (congrArg (fun v => v.me.gens) unit) hfault,
    hspm.trans (congrArg (fun v => v.me.spm) unit), hhbm.trans (congrArg (fun v => v.me.hbm) unit)⟩

/-! ### A group commits -/

/-- What writing results into a scratchpad leaves: device memory and the engine's operations. -/
def State.heldView (s : State) (core : Nat) : Mem × List MeOp := (s.hbm, (s.core core).ops)

theorem State.heldView_of_feedView {s t : State} {core : Nat} (h : t.feedView core = s.feedView core) : t.heldView core = s.heldView core :=
  congrArg (fun v => (v.me.hbm, v.me.ops)) h

theorem State.heldView_setCore (s : State) (core : Nat) (x : CoreSt) (h : x.me = (s.core core).me := by rfl) :
    (s.setCore core x).heldView core = s.heldView core := by
  unfold State.heldView CoreSt.ops
  rw [State.core_setCore_self, h]
  rfl

theorem State.spmSettle_heldView (s : State) (core cw : Nat) : (s.spmSettle core cw).2.heldView core = s.heldView core := by
  unfold State.spmSettle
  dsimp only
  split
  · rfl
  · have k := State.heldView_of_feedView (s.spmRead_feedView core (cw * 32) 32)
    generalize s.spmRead core (cw * 32) 32 = x at k ⊢
    obtain ⟨_ | bs, t⟩ := x
    · exact k
    · exact (t.heldView_setCore core _).trans k

theorem State.spmWrite_heldView (s : State) (core abs : Nat) (bs : Bytes) : (s.spmWrite core abs bs).2.heldView core = s.heldView core := by
  unfold State.spmWrite
  dsimp only
  split
  · rfl
  have part : ∀ (t : State) (p : Prop) [Decidable p] (cw : Nat), (if p then (true, t) else t.spmSettle core cw).2.heldView core = t.heldView core := by
    intro t p _ cw
    split
    · rfl
    · exact t.spmSettle_heldView ..
  have k1 := part s (abs % 32 = 0 ∧ 32 ≤ bs.length) (abs / 32)
  generalize (if abs % 32 = 0 ∧ 32 ≤ bs.length then (true, s) else _) = x at k1 ⊢
  have k2 := part x.2 ((abs + bs.length - 1) % 32 = 31 ∨ (abs + bs.length - 1) / 32 = abs / 32) ((abs + bs.length - 1) / 32)
  generalize (if (abs + bs.length - 1) % 32 = 31 ∨ (abs + bs.length - 1) / 32 = abs / 32 then (true, x.2) else _) = y at k2 ⊢
  split
  · exact (y.2.heldView_setCore core _).trans (k2.trans k1)
  · exact k2.trans k1

theorem State.commitGroup_heldView (s : State) (core : Nat) (o : MeOp) (rows : List RowResult) (outs : Option (List (List Nat))) :
    (s.commitGroup core o rows outs).2.heldView core = s.heldView core := by
  unfold State.commitGroup
  dsimp only
  generalize hx : rows.zipIdx.foldl _ _ = x
  have kx : x.2.heldView core = s.heldView core := by
    rw [← hx]
    exact List.foldlRecOn (motive := fun acc : Bool × State => acc.2.heldView core = s.heldView core) _ _ rfl
      fun acc h p _ => (acc.2.spmWrite_heldView ..).trans h
  cases outs with
  | none => exact (x.2.spmWrite_heldView ..).trans kx
  | some l => exact (State.spmWrite_heldView ..).trans ((x.2.spmWrite_heldView ..).trans kx)

/-! ### Summaries of contexts do not matter to a commit -/

/-- The state with other contexts. -/
def State.withCtxs (s : State) (x : Table CtxSt) : State := { s with ctxs := x }

theorem State.tally_withCtxs (s : State) (i : Nat) (f : Tally → Tally) (w : Bool := false) : s.tally i f w = s.withCtxs (s.tally i f w).ctxs := by
  unfold State.tally
  dsimp only
  split
  · rfl
  · split <;> rfl

theorem State.spmRead_withCtxs (s : State) (x : Table CtxSt) (core abs n : Nat) :
    (s.withCtxs x).spmRead core abs n = Prod.map id (State.withCtxs · x) (s.spmRead core abs n) := by
  unfold State.spmRead
  dsimp only
  split
  · rfl
  · refine List.foldl_hom (Prod.map id (State.withCtxs · x)) (init := (some (((s.core core).spm).readN abs n), s)) ?_
    rintro ⟨b, t⟩ k
    have count : ∀ (p : Prop) [Decidable p] (t : State) (f : Fld) (n : Nat),
        (if p then t.withCtxs x else (t.withCtxs x).bump f core n) = (if p then t else t.bump f core n).withCtxs x := by
      intro p _ t f n
      split <;> rfl
    have passed : (t.withCtxs x).passed1 core k.1 = (t.passed1 core k.1).withCtxs x := by
      unfold State.passed1
      dsimp only
      rw [show (t.withCtxs x).core core = t.core core from rfl]
      split <;> rfl
    rw [show (s.withCtxs x).core core = s.core core from rfl]
    dsimp only [Prod.map]
    generalize readCodeword _ _ _ = r
    obtain ⟨left, one, two, bad⟩ := r
    cases b <;> cases left <;> simp only [passed, count] <;> rfl

theorem State.spmSettle_withCtxs (s : State) (x : Table CtxSt) (core cw : Nat) :
    (s.withCtxs x).spmSettle core cw = Prod.map id (State.withCtxs · x) (s.spmSettle core cw) := by
  unfold State.spmSettle
  rw [State.spmRead_withCtxs, show (s.withCtxs x).core core = s.core core from rfl]
  dsimp only
  split
  · rfl
  · generalize s.spmRead core (cw * 32) 32 = r
    obtain ⟨_ | bs, t⟩ := r <;> rfl

theorem State.spmWrite_withCtxs (s : State) (x : Table CtxSt) (core abs : Nat) (bs : Bytes) :
    (s.withCtxs x).spmWrite core abs bs = Prod.map id (State.withCtxs · x) (s.spmWrite core abs bs) := by
  unfold State.spmWrite
  dsimp only
  split
  · rfl
  have part : ∀ (t : State) (p : Prop) [Decidable p] (cw : Nat), (if p then (true, t.withCtxs x) else (t.withCtxs x).spmSettle core cw) =
      Prod.map id (State.withCtxs · x) (if p then (true, t) else t.spmSettle core cw) := by
    intro t p _ cw
    split
    · rfl
    · exact t.spmSettle_withCtxs x core cw
  simp only [part s]
  generalize (if abs % 32 = 0 ∧ 32 ≤ bs.length then (true, s) else _) = y
  dsimp only [Prod.map]
  simp only [part y.2]
  generalize (if (abs + bs.length - 1) % 32 = 31 ∨ (abs + bs.length - 1) / 32 = abs / 32 then (true, y.2) else _) = z
  dsimp only [Prod.map, id]
  split <;> rfl

/-- One row's accumulators written, after those of the rows before it. -/
def commitRow (core : Nat) (o : MeOp) (acc : Bool × State) (p : RowResult × Nat) : Bool × State :=
  let (b, s) := acc.2.spmWrite core ((acc.2.core core).abs (o.handles.getD 2 0) (o.ac + (8 * o.group + p.2) * o.nForm * 4)) (p.1.acc.map (natLe 4)).flatten
  (acc.1 && b, s)

theorem commitRow_withCtxs (core : Nat) (o : MeOp) (x : Table CtxSt) (acc : Bool × State) (p : RowResult × Nat) :
    commitRow core o (Prod.map id (State.withCtxs · x) acc) p = Prod.map id (State.withCtxs · x) (commitRow core o acc p) := by
  unfold commitRow
  dsimp only [Prod.map]
  rw [show (acc.2.withCtxs x).core core = acc.2.core core from rfl, State.spmWrite_withCtxs]
  rfl

theorem State.commitGroup_withCtxs (s : State) (x : Table CtxSt) (core : Nat) (o : MeOp) (rows : List RowResult) (outs : Option (List (List Nat))) :
    (s.withCtxs x).commitGroup core o rows outs = Prod.map id (State.withCtxs · x) (s.commitGroup core o rows outs) := by
  have written : rows.zipIdx.foldl (commitRow core o) (true, s.withCtxs x) =
      Prod.map id (State.withCtxs · x) (rows.zipIdx.foldl (commitRow core o) (true, s)) :=
    List.foldl_hom _ (init := (true, s)) (commitRow_withCtxs core o x)
  unfold commitRow at written
  unfold State.commitGroup
  dsimp only at written ⊢
  rw [written]
  generalize rows.zipIdx.foldl _ (true, s) = y
  dsimp only [Prod.map]
  rw [State.spmWrite_withCtxs]
  cases outs with
  | none => rfl
  | some l =>
    dsimp only [Prod.map]
    rw [State.spmWrite_withCtxs]
    rfl

/-! ### A group through the drain -/

/-- An operation with what the checks of a group's rows add to its event. -/
def MeOp.checked (o : MeOp) (rows : List RowResult) : MeOp :=
  { o with
    maxRatio := rows.foldl (fun m r => max m r.ratio) o.maxRatio
    unchecked := o.unchecked + (rows.filter (·.unchecked)).length
    saturated := o.saturated || rows.any (·.saturated) }

/-- A group whose rows have passed: committed, then the next group, the next pass or the end; a commit that fails ends the operation. -/
def State.groupDone (s : State) (core : Nat) (o : MeOp) (rows : List RowResult) (outs : Option (List (List Nat))) : State :=
  let (ok, s) := s.commitGroup core o rows outs
  if !ok then s.failMe core o.tag .uncorrectable else
  let s := s.tally (tagIndex o.tag) (fun t => { t with unchecked := t.unchecked + (rows.filter (·.unchecked)).length })
  if 8 * (o.group + 1) < o.m then s.setCore core ((s.core core).setMe { o with group := o.group + 1 })
  else s.passDone core o

/-- The last pass of a chain converts its results to the output's format (R71). -/
def MeOp.converts (o : MeOp) : Bool := o.final && o.pass + 1 == o.count && o.ofmt != 0

theorem State.drainGroup_plain {s : State} {core : Nat} {o : MeOp} {rows : List RowResult} {hit : GroupHit} {kappa chk : Nat}
    (hb : rows.any (fun r => !r.ok) = false) (hc : o.converts = false) :
    s.drainGroup core o rows hit kappa chk = s.groupDone core (o.checked rows) rows none := by
  have hc : (o.checked rows).converts = false := hc
  unfold MeOp.converts MeOp.checked at hc
  dsimp only at hc
  unfold State.drainGroup
  simp only [hb, hc, Bool.false_eq_true, if_false]
  rfl

/-- Values of a row's accumulators, as the conversion takes them. -/
def MeOp.results (o : MeOp) (rows : List RowResult) : List (List FV) :=
  rows.map (fun r => r.acc.map (fun v => if o.cls = .int then ofInt32 v else fp32.decode v))

/-- With the check of conversions on, their rows are counted in the summary (R92). -/
def State.countConverted (s : State) (i n : Nat) (check : Bool) : State :=
  if check then s.tally i (fun t => { t with convRows := t.convRows + n }) else s

/-- An operation with what a group's conversion adds to its event. -/
def MeOp.converted (o : MeOp) (rows : List RowResult) (check : Bool) (ratio : Nat) : MeOp :=
  { o with convRows := if check then o.convRows + rows.length else o.convRows, convRatio := max o.convRatio ratio }

theorem State.drainGroup_converts {s : State} {core : Nat} {o : MeOp} {rows : List RowResult} {hit : GroupHit} {kappa chk ratio : Nat} {f : Fmt}
    {codes : List (List Nat)} {after : Rng} (hb : rows.any (fun r => !r.ok) = false) (hc : o.converts = true) (hf : outFormat o.ofmt = some f)
    (hv : convertGroup o f kappa (bit chk (4 - o.ofmt)) (s.rng core (tagIndex o.tag)) (o.results rows) hit.conv = (codes, true, ratio, after)) :
    s.drainGroup core o rows hit kappa chk =
      ((s.countConverted (tagIndex o.tag) rows.length (bit chk (4 - o.ofmt))).setRng core (tagIndex o.tag) after).groupDone core
        ((o.checked rows).converted rows (bit chk (4 - o.ofmt)) ratio) rows (some codes) := by
  have hc : (o.checked rows).converts = true := hc
  have hv : convertGroup (o.checked rows) f kappa (bit chk (4 - o.ofmt)) (s.rng core (tagIndex o.tag)) ((o.checked rows).results rows) hit.conv =
    (codes, true, ratio, after) := hv
  unfold MeOp.converts MeOp.checked at hc
  unfold MeOp.results MeOp.checked at hv
  dsimp only at hc hv
  unfold State.drainGroup State.countConverted State.groupDone MeOp.converted MeOp.checked
  cases hk : bit chk (4 - o.ofmt) <;> rw [hk] at hv <;>
    simp only [hb, hc, hf, hk, hv, Bool.false_eq_true, if_false, if_true]

/-! ### The end of a pass -/

/-- A new front operation shows through the view in place of the one before. -/
theorem State.meView_setMe (s : State) (core : Nat) (o : MeOp) :
    (s.setCore core ((s.core core).setMe o)).meView core = { s.meView core with ops := o.bare :: (s.meView core).ops.drop 1 } := by
  rw [State.meView_setCore, CoreSt.setMe_ops]
  rfl

/-- An operation that waits for the swap to its next pass. -/
def MeOp.nextPass (o : MeOp) : MeOp := { o with passes := o.passes + 1, active := false, retrying := false, pass := o.pass + 1, group := 0 }

/-- A state in which a pass has been counted, as `passDone` leaves it before the next one. -/
def State.countPass (s : State) (core : Nat) (o : MeOp) : State :=
  let s := (s.bump F.coreMePassesCount core).tally (tagIndex o.tag) (fun t => { t with tiles := t.tiles + 1 })
  let s := if o.retrying then s.transient (tagIndex o.tag) (if o.cls = .int then 2 else 1) (sourceOf 0 core) else s
  s.setCore core { s.core core with progressAt := s.time }

theorem State.countPass_meView (s : State) (core : Nat) (o : MeOp) : (s.countPass core o).meView core = s.meView core := by
  unfold State.countPass
  dsimp only
  refine (State.meView_setCore_same _ core _).trans ?_
  have k := ((State.tally_feedView _ core (tagIndex o.tag) (fun t => { t with tiles := t.tiles + 1 }) false).trans
    (s.feedView_bump core F.coreMePassesCount core 1))
  split
  · exact State.feedView_me ((State.transient_feedView ..).trans k)
  · exact State.feedView_me k

theorem State.passDone_next {s : State} {core : Nat} {o : MeOp} (h : o.pass + 1 < o.count) :
    (s.passDone core o).meView core = { s.meView core with ops := o.nextPass.bare :: (s.meView core).ops.drop 1 } := by
  have e : s.passDone core o = ((s.countPass core o).setCore core (((s.countPass core o).core core).setMe o.nextPass)).fillShadow core := by
    unfold State.passDone
    exact if_pos h
  rw [e, State.feedView_me (State.fillShadow_feedView ..), State.meView_setMe, State.countPass_meView]

theorem State.passDone_last {s : State} {core : Nat} {o : MeOp} (h : o.count ≤ o.pass + 1) :
    (s.passDone core o).meView core = { s.meView core with ops := (s.meView core).ops.drop 1 } := by
  have e : s.passDone core o = ((s.countPass core o).meEvents core { o with passes := o.passes + 1 } (o.passes + 1) false false).dropMe core := by
    unfold State.passDone
    exact if_neg (Nat.not_lt.2 h)
  rw [e, State.dropMe_meView, State.feedView_me (State.meEvents_feedView ..), State.countPass_meView]

/-- What stands after a group of an operation before others has been committed as in `v`: its results, and the next group, the next pass or the end
(R61, R66, R77). -/
def MeOp.goesOn (o : MeOp) (core : Nat) (rest : List MeOp) (v t : State) : Prop :=
  (t.core core).spm = (v.core core).spm ∧ t.hbm = v.hbm ∧
  (8 * (o.group + 1) < o.m → ∃ x, (t.core core).ops = x :: rest.map MeOp.bare ∧ x.group = o.group + 1 ∧ x.pass = o.pass ∧ x.active = true) ∧
  (o.m ≤ 8 * (o.group + 1) → o.pass + 1 < o.count →
    ∃ x, (t.core core).ops = x :: rest.map MeOp.bare ∧ x.group = 0 ∧ x.pass = o.pass + 1 ∧ x.active = false ∧ x.retrying = false) ∧
  (o.m ≤ 8 * (o.group + 1) → o.count ≤ o.pass + 1 → (t.core core).ops = rest.map MeOp.bare)

theorem State.groupDone_goesOn {s v : State} {core : Nat} {o : MeOp} {rest : List MeOp} {rows : List RowResult} {outs : Option (List (List Nat))}
    (hc : s.commitGroup core o rows outs = (true, v)) (hrest : (s.core core).ops.drop 1 = rest.map MeOp.bare) (ha : o.active = true) :
    o.goesOn core rest v (s.groupDone core o rows outs) := by
  have held := s.commitGroup_heldView core o rows outs
  unfold State.groupDone
  rw [hc] at held ⊢
  have ops : (v.core core).ops.drop 1 = rest.map MeOp.bare := (congrArg (List.drop 1 ∘ Prod.snd) held).trans hrest
  have view := State.feedView_me (v.tally_feedView core (tagIndex o.tag) (fun t => { t with unchecked := t.unchecked + (rows.filter (·.unchecked)).length }) false)
  dsimp only
  simp only [Bool.not_true, Bool.false_eq_true, if_false]
  generalize State.tally v _ _ _ = y at view ⊢
  have front : (y.meView core).ops.drop 1 = rest.map MeOp.bare := by rw [view]; exact ops
  have after : ∀ (t : State) (l : List MeOp), t.meView core = { y.meView core with ops := l } →
      (t.core core).spm = (v.core core).spm ∧ t.hbm = v.hbm ∧ (t.core core).ops = l := by
    intro t l h
    rw [view] at h
    exact ⟨congrArg MeView.spm h, congrArg MeView.hbm h, congrArg MeView.ops h⟩
  by_cases more : 8 * (o.group + 1) < o.m
  · rw [if_pos more]
    obtain ⟨hspm, hhbm, hops⟩ := after _ _ (y.meView_setMe core { o with group := o.group + 1 })
    rw [front] at hops
    exact ⟨hspm, hhbm, fun _ => ⟨_, hops, rfl, rfl, ha⟩, fun h => absurd more (Nat.not_lt.2 h), fun h => absurd more (Nat.not_lt.2 h)⟩
  · rw [if_neg more]
    by_cases pass : o.pass + 1 < o.count
    · obtain ⟨hspm, hhbm, hops⟩ := after _ _ (State.passDone_next pass)
      rw [front] at hops
      exact ⟨hspm, hhbm, fun h => absurd h more, fun _ _ => ⟨_, hops, rfl, rfl, rfl, rfl⟩, fun _ h => absurd pass (Nat.not_lt.2 h)⟩
    · obtain ⟨hspm, hhbm, hops⟩ := after _ _ (State.passDone_last (Nat.not_lt.1 pass))
      rw [front] at hops
      exact ⟨hspm, hhbm, fun h => absurd h more, fun _ h => absurd h pass, fun _ _ => hops⟩

/-! ### The group is committed -/

/-- Counting converted rows and drawing from the generator change contexts and the generators alone. -/
theorem State.countConverted_setRng (s : State) (core i j n : Nat) (check : Bool) (r : Rng) :
    (s.countConverted i n check).setRng core j r = (s.setRng core j r).withCtxs (s.countConverted i n check).ctxs := by
  unfold State.countConverted
  split
  · rw [State.tally_withCtxs]; rfl
  · rfl

theorem State.setRng_ops (s : State) (core i : Nat) (r : Rng) : ((s.setRng core i r).core core).ops = (s.core core).ops := by
  unfold State.setRng
  rw [State.core_setCore_self]
  rfl

/-- What an operation has come to for its event, and its buffer, are nothing to a commit. -/
theorem State.commitGroup_event (s : State) (core : Nat) (o : MeOp) (rows : List RowResult) (outs : Option (List (List Nat))) (buf : List (Nat × Bytes))
    (ratio unchecked : Nat) (saturated : Bool) (convRows convRatio : Nat) :
    s.commitGroup core { o with
      buffer := buf, maxRatio := ratio, unchecked := unchecked, saturated := saturated, convRows := convRows, convRatio := convRatio } rows outs =
    s.commitGroup core o rows outs := by
  unfold State.commitGroup MeOp.cls MeOp.nForm MeOp.hOut MeOp.outBytes
  dsimp only

theorem convertGroup_buffer (o : MeOp) (buf : List (Nat × Bytes)) (f : Fmt) (kappa : Nat) (check : Bool) (rng : Rng) (rows : List (List FV)) (flips : Upset) :
    convertGroup { o with buffer := buf } f kappa check rng rows flips = convertGroup o f kappa check rng rows flips := by
  unfold convertGroup MeOp.nForm
  dsimp only

/-- Results that a group's rows come to once they have passed, and the state they are written in: as they are, or converted with the generator drawn from (R71). -/
def MeOp.finishes (o : MeOp) (core : Nat) (rows : List RowResult) (hit : GroupHit) (kappa chk : Nat) (s : State) (outs : Option (List (List Nat)))
    (t : State) : Prop :=
  o.converts = false ∧ outs = none ∧ t = s ∨
    ∃ f codes ratio after, o.converts = true ∧ outFormat o.ofmt = some f ∧ outs = some codes ∧ t = s.setRng core (tagIndex o.tag) after ∧
      convertGroup o f kappa (bit chk (4 - o.ofmt)) (s.rng core (tagIndex o.tag)) (o.results rows) hit.conv = (codes, true, ratio, after)

/-- A group whose rows pass, and whose conversion passes where there is one, is committed. -/
theorem State.drainGroup_commits {s t v : State} {core : Nat} {o : MeOp} {rest : List MeOp} {rows : List RowResult} {outs : Option (List (List Nat))}
    {hit : GroupHit} {kappa chk : Nat} (hb : rows.any (fun r => !r.ok) = false) (hf : o.finishes core rows hit kappa chk s outs t)
    (hc : t.commitGroup core o rows outs = (true, v)) (hrest : (s.core core).ops.drop 1 = rest.map MeOp.bare) (ha : o.active = true) :
    o.goesOn core rest v (s.drainGroup core o rows hit kappa chk) := by
  rcases hf with ⟨plain, rfl, rfl⟩ | ⟨f, codes, ratio, after, conv, fmt, rfl, rfl, hv⟩
  · rw [State.drainGroup_plain hb plain]
    exact State.groupDone_goesOn (o := o.checked rows) ((State.commitGroup_event (o := o) ..).trans hc) hrest ha
  · rw [State.drainGroup_converts hb conv fmt hv, State.countConverted_setRng]
    generalize (s.countConverted _ _ _).ctxs = x
    generalize bit chk (4 - o.ofmt) = check
    have written : ((s.setRng core (tagIndex o.tag) after).withCtxs x).commitGroup core o rows (some codes) = (true, v.withCtxs x) := by
      rw [State.commitGroup_withCtxs, hc]
      rfl
    have left : (((s.setRng core (tagIndex o.tag) after).withCtxs x).core core).ops.drop 1 = rest.map MeOp.bare :=
      (congrArg (List.drop 1) (s.setRng_ops core (tagIndex o.tag) after)).trans hrest
    exact State.groupDone_goesOn (v := v.withCtxs x) (o := (o.checked rows).converted rows check ratio) ((State.commitGroup_event (o := o) ..).trans written) left ha

/-! ### ME_GROUP_DRAIN reads its operands and drains them -/

theorem State.runGroup_drains {s u1 u2 u : State} {core : Nat} {o : MeOp} {hit : GroupHit} {inv : Invoke} {mv ms : Bytes} {buf : List (Nat × Bytes)}
    {olds : List (List Nat × RowCheck)} (hinv : (s.ctx (tagIndex o.tag)).inv = some inv)
    (hfirst : ¬ (o.pass = 0 ∧ o.group = 0 ∧ o.start = false ∧ o.firstGroupBad (s.chainCounts core o) = true))
    (hmv : s.bufferedRead core o.tag (o.handles.getD 1 0) (o.mv + (o.pass * o.mPad + 8 * o.group) * o.kForm * bitsOf o.mfmt / 8)
      (o.kForm * bitsOf o.mfmt) o.buffer = (.ok mv, buf, u1))
    (hms : u1.movingScales core { o with buffer := buf } = (.ok ms, u2))
    (hold : u2.drainRead core { o with buffer := buf } (min 8 (o.m - 8 * o.group)) = (some olds, u)) :
    s.runGroup core o hit = u.drainGroup core { o with buffer := buf } (o.rowResults inv.kappa mv ms olds hit) hit inv.kappa inv.drainChk ∧
      u.feedView core = s.feedView core := by
  refine ⟨?_, ?_⟩
  · unfold State.runGroup
    rw [hinv]
    dsimp only
    rw [if_neg (by simpa using hfirst), hmv]
    dsimp only
    rw [hms]
    dsimp only
    rw [hold]
    rfl
  · have k1 := s.bufferedRead_feedView core o.tag (o.handles.getD 1 0) (o.mv + (o.pass * o.mPad + 8 * o.group) * o.kForm * bitsOf o.mfmt / 8)
      (o.kForm * bitsOf o.mfmt) o.buffer
    have k2 := u1.movingScales_feedView core { o with buffer := buf }
    have k3 := u2.drainRead_feedView core { o with buffer := buf } (min 8 (o.m - 8 * o.group))
    rw [hmv] at k1
    rw [hms] at k2
    rw [hold] at k3
    exact k3.trans (k2.trans k1)

theorem exec_meGroupDrain_front {s : State} {core : CoreId} {o : MeOp} {rest : List MeOp} {drain : Nat} {hit : GroupHit}
    (hme : (s.core core).me = o :: rest) (ha : o.active = true) (hr : (s.core core).rst < 2)
    (ho : s.overfills (tagIndex o.tag) ((s.bump F.coreMeFrzDrainCount core drain).runGroup core o hit) = false) :
    exec (.meGroupDrain core drain hit) s = .next ((s.bump F.coreMeFrzDrainCount core drain).runGroup core o hit) := by
  show execMeGroupDrain core drain hit s = _
  unfold execMeGroupDrain
  dsimp only
  rw [hme]
  dsimp only
  rw [if_neg (by simp [ha, hr]), State.unlessFull, ho]
  rfl

/-! ### All of it together -/

/-- Settles O18: MATRIX enters or faults (`enterMe_spec`), the swap takes what fills the shadow (`swapIn_swaps`), and a group retries, ends or commits. -/
theorem matrixComplete : Obligations.MatrixComplete := by
  unfold Obligations.MatrixComplete
  intro s core
  refine ⟨?enters, ?faults, ?swap, ?drain⟩
  case enters =>
    intro u i sl w v hat hc hf
    refine ⟨fun hm => ⟨_, exec_matrix_empty hat hc hf hm, ?_, ?_⟩, fun hm hlen hacc haw hdr => ?_⟩
    · rw [State.step1_slot, hat.slot]
    · exact State.step1_me ..
    · have spec := u.enterMe_spec core i (matrixOp i sl w v) rfl rfl rfl
      rw [hat.slot] at spec
      exact ⟨_, exec_matrix_enters hat hc hf hm hlen hacc haw hdr, spec⟩
  case faults =>
    intro u i sl w v st hat h
    refine ⟨u.faultTag sl.tag st, ?_, u.faultTag_faults sl.tag st, ?_, ?_⟩
    · rcases h with ⟨hc, rfl⟩ | ⟨hc, hf⟩
      · exact exec_matrix_move hat hc
      · exact exec_matrix_refuses hat hc hf
    · rw [(u.faultTag_talk sl.tag st).rest]
    · rw [(u.faultTag_talk sl.tag st).rest]
  case swap =>
    intro o rest feed f u hme ha hr hf
    have hf : s.meetShadow core o = (f, u) := hf
    have ex := exec_meSwap_front feed hme ha hr
    have view := s.meetShadow_feedView core o
    rw [hf] at ex view
    have view := (u.feedView_bump core F.coreMeFrzFeedCount core feed).trans view
    have ops : ((u.bump F.coreMeFrzFeedCount core feed).core core).ops.drop 1 = rest.map MeOp.bare := by
      rw [State.meView_ops (State.feedView_me view), CoreSt.ops, hme]
      rfl
    refine ⟨fun he => ⟨_, ex, ?_⟩, fun st he => ⟨_, ex, ?_⟩⟩
    · rw [← ops]
      exact State.swapIn_swaps he
    · unfold State.swapIn
      rw [he]
      dsimp only
      obtain ⟨hfault, hops, -⟩ := (u.bump F.coreMeFrzFeedCount core feed).failMe_spec core o.tag st
      exact ⟨State.faults_before (congrArg (fun v => v.me.states) view) (congrArg (fun v => v.me.gens) view) hfault, hops.trans ops⟩
  case drain =>
    intro o rest drain hit inv mv ms buf olds u1 u2 u hme ha hr ho hinv hfirst hmv hms hold
    obtain ⟨run, view⟩ := State.runGroup_drains (s := s.bump F.coreMeFrzDrainCount core drain) hinv hfirst hmv hms hold
    have ex := exec_meGroupDrain_front hme ha hr ho
    rw [run] at ex
    have view := view.trans (s.feedView_bump core F.coreMeFrzDrainCount core drain)
    have ops : (u.core core).ops.drop 1 = rest.map MeOp.bare := by
      rw [State.meView_ops (State.feedView_me view), CoreSt.ops, hme]
      rfl
    refine ⟨fun hb hy => ⟨_, ex, ?_⟩, fun hb hy => ⟨_, ex, ?_⟩, fun outs u' u'' hb hconv hcommit => ⟨_, ex, ?_⟩⟩
    · obtain ⟨hops, hmem⟩ := State.drainGroup_retries_spec (s := u) (core := core) (o := { o with buffer := buf }) (hit := hit) (kappa := inv.kappa)
        (chk := inv.drainChk) hb hy
      rw [ops, show u.inSupply = s.inSupply from congrArg (fun v => v.supply.isSome) view] at hops
      exact ⟨hops, hmem⟩
    · rw [← ops]
      exact State.drainGroup_lasting_spec (o := { o with buffer := buf }) hb hy
    · refine State.drainGroup_commits (o := { o with buffer := buf }) hb ?_ ((State.commitGroup_event (o := o) ..).trans hcommit) ops ha
      rcases hconv with ⟨hc, ho, hu⟩ | ⟨f, codes, ratio, after, hc, hf, ho, hu, hv⟩
      · exact .inl ⟨hc, ho, hu⟩
      · exact .inr ⟨f, codes, ratio, after, hc, hf, ho, hu, (convertGroup_buffer (o := o) ..).trans hv⟩

end Sys2Proof.Machine

/-! PROOFS. Scratchpads read and written (R123, R128 to R130): what a protected read takes away and counts (`State.Fetches`), what a write leaves (`State.Stores`),
and which bytes a write may change. -/

namespace Sys2Proof.Machine

/-! ### Protected reads -/

/-- A table from which keys have been left out holds what it held under the others. -/
theorem Table.get_filter_key {α : Type} (t : Table α) (d : α) (p : Nat → Bool) (j : Nat) :
    Table.get (t.filter (fun q => p q.1)) d j = if p j then t.get d j else d := by
  induction t with
  | nil => simp
  | cons q r ih =>
    obtain ⟨i, v⟩ := q
    by_cases hj : i = j
    · subst hj
      cases hp : p i <;> simp [hp, Table.get, ih]
    · cases hp : p i <;> simp [hp, hj, Table.get, ih]

/-- Leaving keys out empties no key and fills none. -/
theorem Table.get_filter_key_of_get {α : Type} {t : Table α} {d : α} {j : Nat} (p : Nat → Bool) (h : t.get d j = d) :
    Table.get (t.filter (fun q => p q.1)) d j = d := by
  rw [Table.get_filter_key, h, ite_self]

/-- Registers that count what the decoder of a scratchpad meets. -/
def spmRegs : List Reg := [.spmCorr, .spmEvents]

/-- What protected reads of a core's scratchpad may change: the decoder's counts, and the errors that waited for the next read of a codeword, which go. -/
structure State.Fetches (core : Nat) (s t : State) : Prop where
  read : s.ReadOf t
  others : ∀ k, k ≠ core → t.core k = s.core k
  regs : ∀ q, q ∉ spmRegs → t.reg q = s.reg q
  passing : ∀ cw, (s.core core).passing cw = [] → (t.core core).passing cw = []

section
variable {core : Nat}

theorem State.Fetches.refl (s : State) : s.Fetches core s := ⟨.refl s, fun _ _ => rfl, fun _ _ => rfl, fun _ h => h⟩

theorem State.Fetches.trans {s t u : State} (h : s.Fetches core t) (k : t.Fetches core u) : s.Fetches core u :=
  ⟨h.read.trans k.read, fun c hc => (k.others c hc).trans (h.others c hc), fun q hq => (k.regs q hq).trans (h.regs q hq),
    fun cw e => k.passing cw (h.passing cw e)⟩

theorem State.Fetches.count {s t : State} (h : s.Fetches core t) (f : Fld) (i n : Nat) (p : Prop) [Decidable p] (hf : f.reg ∈ spmRegs := by decide) :
    s.Fetches core (if p then t else t.bump f i n) := by
  split
  · exact h
  · exact ⟨h.read.bump .., h.others, fun q hq => (funext fun j => t.reg_bump_ne f i n j (by rintro rfl; exact hq hf)).trans (h.regs q hq), h.passing⟩

theorem State.passed1_fetches (s : State) (cw : Nat) : s.Fetches core (s.passed1 core cw) := by
  refine ⟨s.passed1_readOf core cw, ?_, ?_, ?_⟩ <;> unfold State.passed1 <;> dsimp only <;> split
  · exact fun _ _ => rfl
  · exact fun k hk => s.core_setCore_ne _ hk
  · exact fun _ _ => rfl
  · exact fun _ _ => rfl
  · exact fun _ h => h
  · intro w h
    rw [State.core_setCore_self]
    exact Table.get_filter_key_of_get (· != cw) h

theorem State.spmRead_fetches (s : State) (abs n : Nat) (noise : Noise := Noise.none) : s.Fetches core (s.spmRead core abs n noise).2 := by
  unfold State.spmRead
  dsimp only
  split
  · exact .refl s
  · refine List.foldlRecOn (motive := fun acc : Option Bytes × State => s.Fetches core acc.2) _ _ (.refl s) ?_
    rintro ⟨b, t⟩ ht k -
    dsimp only at ht ⊢
    generalize readCodeword _ _ _ = r
    obtain ⟨left, one, two, bad⟩ := r
    have step := (((ht.trans (t.passed1_fetches k.1)).count F.spmCorrOneSym core one (one = 0)).count F.spmCorrTwoSym core two (two = 0)).count
      F.spmEventsUncorr core bad (bad = 0)
    cases b <;> cases left <;> exact step

/-- What a pair of a result and a state came from, given what each result leaves. -/
theorem State.Fetches.of_eq {α : Type} {s t : State} {x : α × State} {a : α} (h : s.Fetches core x.2) (e : x = (a, t)) : s.Fetches core t := by
  subst e; exact h

theorem State.word_fetches (s : State) (h idx : Nat) : s.Fetches core (s.word core h idx).2 := by
  unfold State.word
  dsimp only
  split
  · exact .refl s
  · have k := s.spmRead_fetches (core := core) ((s.core core).abs h (16 * idx)) 16
    generalize s.spmRead core _ 16 = x at k ⊢
    obtain ⟨_ | bs, t⟩ := x <;> exact k

theorem State.Fetches.core_eq {s t : State} (h : s.Fetches core t) (c : Nat) : t.core c = { s.core c with spmPassing := (t.core c).spmPassing } := h.read.core c

theorem State.Fetches.spm {s t : State} (h : s.Fetches core t) (c : Nat) : (t.core c).spm = (s.core c).spm := by rw [h.core_eq c]
theorem State.Fetches.ht {s t : State} (h : s.Fetches core t) (c : Nat) : (t.core c).ht = (s.core c).ht := by rw [h.core_eq c]
theorem State.Fetches.vu {s t : State} (h : s.Fetches core t) (c : Nat) : (t.core c).vu = (s.core c).vu := by rw [h.core_eq c]
theorem State.Fetches.strms {s t : State} (h : s.Fetches core t) (c : Nat) : (t.core c).strms = (s.core c).strms := by rw [h.core_eq c]
theorem State.Fetches.hbm {s t : State} (h : s.Fetches core t) : t.hbm = s.hbm := by rw [h.read.rest]
theorem State.Fetches.supply {s t : State} (h : s.Fetches core t) : t.supply = s.supply := by rw [h.read.rest]

end

/-! ### Writes -/

/-- No error stands in a codeword, and none waits for its next read. -/
def CoreSt.clean (c : CoreSt) (cw : Nat) : Prop := c.errs cw = [] ∧ c.passing cw = []

/-- What writes into a core's scratchpad may change: its bytes, and as a read does the counts and errors; codewords that are clean stay so. -/
structure State.Stores (core : Nat) (s t : State) : Prop where
  rest : t = { s with regs := t.regs, cores := t.cores }
  own : t.core core = { s.core core with spm := (t.core core).spm, spmErr := (t.core core).spmErr, spmPassing := (t.core core).spmPassing }
  others : ∀ k, k ≠ core → t.core k = s.core k
  regs : ∀ q, q ∉ spmRegs → t.reg q = s.reg q
  clean : ∀ cw, (s.core core).clean cw → (t.core core).clean cw
  wf : (s.core core).spm.wf = true → (t.core core).spm.wf = true

section
variable {core : Nat}

theorem State.Stores.refl (s : State) : s.Stores core s := ⟨rfl, rfl, fun _ _ => rfl, fun _ _ => rfl, fun _ h => h, fun h => h⟩

theorem State.Stores.trans {s t u : State} (h : s.Stores core t) (k : t.Stores core u) : s.Stores core u := by
  refine ⟨?_, ?_, fun c hc => (k.others c hc).trans (h.others c hc), fun q hq => (k.regs q hq).trans (h.regs q hq), fun cw e => k.clean cw (h.clean cw e),
    fun e => k.wf (h.wf e)⟩
  · have a := k.rest
    rw [h.rest] at a
    exact a
  · rw [k.own, h.own]

theorem State.Fetches.stores {s t : State} (h : s.Fetches core t) : s.Stores core t := by
  have e := h.core_eq core
  refine ⟨h.read.rest, ?_, h.others, h.regs, fun cw hc => ⟨?_, h.passing cw hc.2⟩, fun w => ?_⟩
  · rw [e]
  · unfold CoreSt.errs
    rw [e]
    exact hc.1
  · rw [e]
    exact w

theorem State.Stores.of_eq {α : Type} {s t : State} {x : α × State} {a : α} (h : s.Stores core x.2) (e : x = (a, t)) : s.Stores core t := by
  subst e; exact h

theorem State.Stores.ht {s t : State} (h : s.Stores core t) : (t.core core).ht = (s.core core).ht := by rw [h.own]
theorem State.Stores.vu {s t : State} (h : s.Stores core t) : (t.core core).vu = (s.core core).vu := by rw [h.own]
theorem State.Stores.strms {s t : State} (h : s.Stores core t) : (t.core core).strms = (s.core core).strms := by rw [h.own]
theorem State.Stores.hbm {s t : State} (h : s.Stores core t) : t.hbm = s.hbm := by rw [h.rest]
theorem State.Stores.supply {s t : State} (h : s.Stores core t) : t.supply = s.supply := by rw [h.rest]

theorem State.Stores.abs {s t : State} (h : s.Stores core t) (a b : Nat) : (t.core core).abs a b = (s.core core).abs a b := by
  unfold CoreSt.abs CoreSt.polder
  rw [h.ht]

/-- A change of a core's bytes that takes errors of codewords away. -/
theorem State.Stores.setCore (s : State) (m : Mem) (p : Nat → Bool) (hw : (s.core core).spm.wf = true → m.wf = true) :
    s.Stores core (s.setCore core { s.core core with spm := m, spmErr := (s.core core).spmErr.filter (fun q => p q.1) }) := by
  refine ⟨rfl, ?_, fun k hk => s.core_setCore_ne _ hk, fun _ _ => rfl, fun cw hc => ?_, fun w => ?_⟩ <;> rw [State.core_setCore_self]
  · exact ⟨Table.get_filter_key_of_get p hc.1, hc.2⟩
  · exact hw w

theorem State.spmSettle_stores (s : State) (cw : Nat) : s.Stores core (s.spmSettle core cw).2 := by
  unfold State.spmSettle
  dsimp only
  split
  · exact .refl s
  · have k := (s.spmRead_fetches (core := core) (cw * 32) 32).stores
    generalize s.spmRead core (cw * 32) 32 = x at k ⊢
    obtain ⟨_ | bs, t⟩ := x
    · exact k
    · exact k.trans (.setCore t _ (· != cw) (fun w => Mem.writeN_wf _ _ w))

/-- The codeword at an end of a write: settled where the write covers it in part. -/
theorem State.spmSettle_unless_stores (s : State) (cw : Nat) (p : Prop) [Decidable p] :
    s.Stores core (if p then (true, s) else s.spmSettle core cw).2 := by
  split
  · exact .refl s
  · exact s.spmSettle_stores cw

theorem State.spmWrite_stores (s : State) (abs : Nat) (bs : Bytes) : s.Stores core (s.spmWrite core abs bs).2 := by
  unfold State.spmWrite
  dsimp only
  split
  · exact .refl s
  have k1 := s.spmSettle_unless_stores (core := core) (abs / 32) (abs % 32 = 0 ∧ 32 ≤ bs.length)
  generalize (if abs % 32 = 0 ∧ 32 ≤ bs.length then (true, s) else _) = x at k1 ⊢
  have k2 := k1.trans (x.2.spmSettle_unless_stores ((abs + bs.length - 1) / 32)
    ((abs + bs.length - 1) % 32 = 31 ∨ (abs + bs.length - 1) / 32 = abs / 32))
  generalize (if (abs + bs.length - 1) % 32 = 31 ∨ (abs + bs.length - 1) / 32 = abs / 32 then (true, x.2) else _) = y at k2 ⊢
  split
  · exact k2.trans (.setCore y.2 _ (fun w => !(decide (abs / 32 ≤ w) && decide (w ≤ (abs + bs.length - 1) / 32))) (fun w => Mem.writeN_wf _ _ w))
  · exact k2

theorem State.writeCodes_stores (s : State) (h off w first : Nat) (codes : List Nat) : s.Stores core (s.writeCodes core h off w first codes).2 := by
  unfold State.writeCodes
  split
  · exact .refl s
  · exact s.spmWrite_stores ..

theorem State.putWrites_stores (s : State) (l : List VuWrite) : s.Stores core (s.putWrites core l).2 := by
  unfold State.putWrites
  refine List.foldlRecOn (motive := fun acc : Bool × State => s.Stores core acc.2) _ _ (.refl s) fun acc h x _ => ?_
  split
  · exact h.trans (acc.2.writeCodes_stores ..)
  · exact h

/-! ### Bytes that a write does not reach -/

theorem Mem.readN_length (m : Mem) (a n : Nat) : (m.readN a n).length = n := by
  induction n generalizing a with
  | zero => rfl
  | succ n ih => simp [Mem.readN, ih]

/-- A protected read gives as many bytes as it asks for. -/
theorem State.spmRead_length (s : State) (core abs n : Nat) (noise : Noise := Noise.none) :
    ∀ bs ∈ (s.spmRead core abs n noise).1, bs.length = n := by
  unfold State.spmRead
  dsimp only
  split
  · rintro bs ⟨⟩
    exact Mem.readN_length ..
  · refine List.foldlRecOn (motive := fun acc : Option Bytes × State => ∀ bs ∈ acc.1, bs.length = n) _ _ ?_ ?_
    · rintro bs ⟨⟩
      exact Mem.readN_length ..
    rintro ⟨b, t⟩ ht k -
    dsimp only at ht ⊢
    generalize readCodeword _ _ _ = r
    obtain ⟨left, one, two, bad⟩ := r
    cases b <;> cases left <;> dsimp only <;> rintro bs ⟨⟩
    next b left =>
      refine List.foldlRecOn (motive := fun bs : Bytes => bs.length = n) _ _ (ht b rfl) fun bs h p _ => ?_
      split
      · simpa using h
      · exact h

/-- Settling a codeword leaves the bytes of the others, and of the codeword too when it is clean. -/
theorem State.spmSettle_read {s : State} {cw a : Nat} (hw : (s.core core).spm.wf = true) (h : (s.core core).clean cw ∨ a / 32 ≠ cw) :
    ((s.spmSettle core cw).2.core core).spm.read a = (s.core core).spm.read a := by
  unfold State.spmSettle
  dsimp only
  split
  · rfl
  next dirty =>
    have hcw : a / 32 ≠ cw := h.resolve_left fun hc => dirty (by rw [hc.1, hc.2]; rfl)
    have k := s.spmRead_fetches (core := core) (cw * 32) 32
    have len := s.spmRead_length core (cw * 32) 32
    generalize s.spmRead core (cw * 32) 32 = x at k len ⊢
    obtain ⟨_ | bs, t⟩ := x
    · exact congrArg (Mem.read · a) (k.spm core)
    · have e : (t.core core).spm = (s.core core).spm := k.spm core
      have len : bs.length = 32 := len bs rfl
      dsimp only
      rw [State.core_setCore_self, e, Mem.read_writeN_outside hw _ _ _ (by omega)]

/-- A write leaves every byte outside it, unless the byte's codeword is one that it covers in part and that is not clean. -/
theorem State.spmWrite_read {s : State} {abs a : Nat} {bs : Bytes} (hw : (s.core core).spm.wf = true) (hout : bs ≠ [] → a < abs ∨ abs + bs.length ≤ a)
    (h : bs ≠ [] → (s.core core).clean (a / 32) ∨ a / 32 < abs / 32 ∨ (abs + bs.length - 1) / 32 < a / 32) :
    ((s.spmWrite core abs bs).2.core core).spm.read a = (s.core core).spm.read a := by
  unfold State.spmWrite
  dsimp only
  split
  · rfl
  next hbs =>
  have hbs : bs ≠ [] := by simpa using hbs
  have hout := hout hbs
  have h := h hbs
  -- settling an end of the write leaves the byte
  have settle : ∀ (t : State) (cw : Nat) (p : Prop) [Decidable p], s.Stores core t → abs / 32 ≤ cw → cw ≤ (abs + bs.length - 1) / 32 →
      ((if p then (true, t) else t.spmSettle core cw).2.core core).spm.read a = (t.core core).spm.read a := by
    intro t cw p _ ht lo hi
    split
    · rfl
    · refine State.spmSettle_read (ht.wf hw) ?_
      rcases h with h | h
      · by_cases e : a / 32 = cw
        · subst e
          exact .inl (ht.clean _ h)
        · exact .inr e
      · exact .inr (by omega)
  have ends : abs / 32 ≤ (abs + bs.length - 1) / 32 := by
    have : 0 < bs.length := List.length_pos_iff.2 hbs
    omega
  have r1 := settle s (abs / 32) (abs % 32 = 0 ∧ 32 ≤ bs.length) (.refl s) (le_refl _) ends
  have k1 := s.spmSettle_unless_stores (core := core) (abs / 32) (abs % 32 = 0 ∧ 32 ≤ bs.length)
  generalize (if abs % 32 = 0 ∧ 32 ≤ bs.length then (true, s) else _) = x at r1 k1 ⊢
  have r2 := settle x.2 ((abs + bs.length - 1) / 32) ((abs + bs.length - 1) % 32 = 31 ∨ (abs + bs.length - 1) / 32 = abs / 32) k1 ends (le_refl _)
  have k2 := k1.trans (x.2.spmSettle_unless_stores ((abs + bs.length - 1) / 32)
    ((abs + bs.length - 1) % 32 = 31 ∨ (abs + bs.length - 1) / 32 = abs / 32))
  generalize (if (abs + bs.length - 1) % 32 = 31 ∨ (abs + bs.length - 1) / 32 = abs / 32 then (true, x.2) else _) = y at r2 k2 ⊢
  split
  · dsimp only
    rw [State.core_setCore_self, Mem.read_writeN_outside (k2.wf hw) _ _ _ hout, r2, r1]
  · exact r2.trans r1

end

end Sys2Proof.Machine

/-! PROOFS. O55 and O17: control, phase and barrier operations. What such an operation may touch is one relation (`State.Runs`): every path of it goes
through reading its words, moving the task on, selecting the next task, or faulting, and each of these keeps to it. -/

namespace Sys2Proof.Machine

/-- Registers that a task's control operations may write: those of completing and faulting, the counts of corrected reads, of the expert gate and of the
sequencer. -/
def taskRegs : List Reg :=
  [.cxsCtxState, .hiuCtxState, .hiuCtxAudit, .ckuTransient, .ckuLasting, .ckuSuspect, .ckuAuditStall, .lnkDrop, .topoUnreach, .topoEdgeDrop, .glbExpert,
    .tideCtx, .spmCorr, .spmEvents, .seqEvents, .seqSwitches]

/-- What control, phase and barrier operations of a core may change: its sequencer, its counters and its queue of tasks, some registers, and what reporting
and completing change besides. `eng` tells whether a gather engine may find its entry satisfied. -/
structure State.Runs (eng : Prop) (core : Nat) (s t : State) : Prop where
  rest : t = { s with
    free := t.free, regs := t.regs, cores := t.cores, engines := t.engines, ctxs := t.ctxs, ports := t.ports, collector := t.collector, stallAt := t.stallAt
    events := t.events, psn := t.psn, asked := t.asked, out := t.out }
  engines : ¬ eng → t.engines = s.engines
  others : ∀ k, k ≠ core → t.core k = s.core k
  own : t.core core = { s.core core with
    slots := (t.core core).slots, running := (t.core core).running, lastRan := (t.core core).lastRan, gated := (t.core core).gated
    bars := (t.core core).bars, progressAt := (t.core core).progressAt, queue := (t.core core).queue, lastCtx := (t.core core).lastCtx
    spmPassing := (t.core core).spmPassing }
  regs : ∀ q, q ∉ taskRegs → ∀ j, t.reg q j = s.reg q j

section
variable {eng : Prop} {core : Nat}

theorem State.Runs.refl (s : State) : s.Runs eng core s := ⟨rfl, fun _ => rfl, fun _ _ => rfl, rfl, fun _ _ _ => rfl⟩

theorem State.Runs.trans {s t u : State} (h : s.Runs eng core t) (k : t.Runs eng core u) : s.Runs eng core u := by
  refine ⟨?_, fun e => (k.engines e).trans (h.engines e), fun c hc => (k.others c hc).trans (h.others c hc), ?_,
    fun q hq j => (k.regs q hq j).trans (h.regs q hq j)⟩
  · have a := k.rest
    rw [h.rest] at a
    exact a
  · rw [k.own, h.own]

theorem State.Talk.runs {s t : State} (h : s.Talk faultRegs t) : s.Runs eng core t := by
  have e : faultRegs ⊆ taskRegs := by decide
  refine ⟨?_, fun _ => by rw [h.rest], fun k _ => h.core k, by rw [h.core], (h.more e).regs⟩
  have a := h.rest
  rw [a]

theorem State.Fetches.runs {s t : State} (h : s.Fetches core t) : s.Runs eng core t := by
  have e : spmRegs ⊆ taskRegs := by decide
  refine ⟨?_, fun _ => by rw [h.read.rest], h.others, ?_, fun q hq j => congrFun (h.regs q fun m => hq (e m)) j⟩
  · have a := h.read.rest
    rw [a]
  · have a := h.core_eq core
    rw [a]

theorem State.Runs.bump (s : State) (f : Fld) (i n : Nat) (h : f.reg ∈ taskRegs := by decide) : s.Runs eng core (s.bump f i n) :=
  ⟨rfl, fun _ => rfl, fun _ _ => rfl, rfl, fun _ hq j => s.reg_bump_ne f i n j (by rintro rfl; exact hq h)⟩

/-- A change of the core's sequencer, counters or queue. -/
theorem State.Runs.setCore (s : State) (x : CoreSt)
    (h : x = { s.core core with
      slots := x.slots, running := x.running, lastRan := x.lastRan, gated := x.gated, bars := x.bars, progressAt := x.progressAt, queue := x.queue
      lastCtx := x.lastCtx } := by rfl) : s.Runs eng core (s.setCore core x) := by
  refine ⟨rfl, fun _ => rfl, fun k hk => s.core_setCore_ne _ hk, ?_, fun _ _ _ => rfl⟩
  rw [State.core_setCore_self, h]

/-! ### The sequencer -/

theorem State.step1_runs (s : State) (i n : Nat) : s.Runs eng core (s.step1 core i n) :=
  (State.Runs.setCore s _).trans (State.Talk.runs (.setCtx_same _ _ _))

theorem State.gate_runs (s : State) : s.Runs eng core (s.gate core) := by
  unfold State.gate
  dsimp only
  split
  · exact (State.Runs.setCore s _).trans (.bump ..)
  · exact .refl s

theorem State.switch_runs (s : State) : s.Runs eng core (s.switch core) := by
  unfold State.switch
  dsimp only
  split
  · exact .refl s
  split
  · exact s.gate_runs
  · exact (State.Runs.setCore s _).trans (.bump ..)

theorem State.yield_runs (s : State) (i : Nat) (sl : Slot) : s.Runs eng core (s.yield core i sl) :=
  (State.Runs.setCore s _).trans (State.switch_runs _)

theorem State.wake_runs (s : State) (i : Nat) : s.Runs eng core (s.wake core i) := (State.Runs.setCore s _).trans (State.switch_runs _)

theorem State.cxsLoad_runs (n : Nat) : ∀ s : State, s.Runs eng core (s.cxsLoad core n) := by
  induction n with
  | zero => exact .refl
  | succ n ih =>
    intro s
    unfold State.cxsLoad
    dsimp only
    split
    · split
      · exact .refl s
      · exact ((State.Runs.setCore s _).trans (State.send_talk ..).faulting.runs).trans (ih _)
    · exact .refl s

theorem State.freeSlot_runs (s : State) (i : Nat) : s.Runs eng core (s.freeSlot core i) := by
  unfold State.freeSlot
  dsimp only
  split
  · exact (State.Runs.setCore s _).trans (State.cxsLoad_runs ..)
  · exact .refl s

theorem State.faultTag_runs (s : State) (tag : Nat) (st : Status) : s.Runs eng core (s.faultTag tag st) := (s.faultTag_talk tag st).runs

/-- Decoding reads words; at most it counts corrections and a refusal of the expert gate. -/
theorem State.decodeAt_runs (s : State) (sl : Slot) : s.Runs eng core (s.decodeAt core sl).2 := by
  unfold State.decodeAt
  dsimp only
  split
  · exact .refl s
  have hw := s.word_fetches (core := core) sl.codeHandle sl.pc
  generalize s.word core sl.codeHandle sl.pc = x at hw ⊢
  obtain ⟨_ | w, t⟩ := x
  · exact hw.runs
  dsimp only at hw ⊢
  split
  · exact hw.runs
  split
  · exact hw.runs
  split
  · exact hw.runs
  split
  · exact hw.runs.trans (.bump ..)
  split
  · have hv := hw.trans (t.word_fetches sl.codeHandle (sl.pc + 1))
    generalize t.word core sl.codeHandle (sl.pc + 1) = y at hv ⊢
    obtain ⟨_ | v, u⟩ := y
    · exact hv.runs
    dsimp only
    split_ifs <;> exact hv.runs
  · exact hw.runs

/-- An operation runs, is skipped or faults, each as far as its meaning may. -/
theorem State.runOp_runs {f : Nat → Slot → Nat → Nat → State → State} (hf : ∀ i sl w v t, State.Runs eng core t (f i sl w v t)) (s : State)
    (want : OpKind → Nat → Bool) : s.Runs eng core (s.runOp core want f) := by
  unfold State.runOp
  split
  · exact .refl s
  next i sl _ =>
  have h := s.decodeAt_runs (eng := eng) (core := core) sl
  generalize s.decodeAt core sl = x at h ⊢
  obtain ⟨_ | st | ⟨k, skip, w, v⟩, t⟩ := x <;> dsimp only at h ⊢
  case idle => exact .refl s
  case fault => exact h.trans (t.faultTag_runs ..)
  case op =>
    split
    · exact .refl s
    split
    · exact h.trans (t.step1_runs ..)
    · exact h.trans (hf ..)

/-! ### The operations -/

/-- A counter that serves its waiter wakes a task, or adds to what its engine's entry has met. -/
theorem State.serveWaiter_runs (s : State) (k : Nat) (h : eng) : s.Runs eng core (s.serveWaiter core k) := by
  unfold State.serveWaiter
  dsimp only
  split
  · exact .refl s
  split
  · exact .refl s
  · exact (State.Runs.setCore s _).trans (State.wake_runs ..)
  · split
    · refine (State.Runs.setCore s _).trans ⟨rfl, fun n => absurd h n, fun _ _ => rfl, rfl, fun _ _ _ => rfl⟩
    · exact .refl s

/-- A change of the core, then the task moves on. -/
theorem State.setCore_step1_runs (s : State) (i n : Nat) (x : CoreSt)
    (h : x = { s.core core with
      slots := x.slots, running := x.running, lastRan := x.lastRan, gated := x.gated, bars := x.bars, progressAt := x.progressAt, queue := x.queue
      lastCtx := x.lastCtx } := by rfl) : s.Runs eng core ((s.setCore core x).step1 core i n) :=
  (State.Runs.setCore s x h).trans (State.step1_runs ..)

end

section
variable {core : CoreId} {s : State} {eng : Prop}

theorem execEnd_runs {t : State} (h : exec (.endTask core) s = .next t) : s.Runs eng core t := by
  obtain rfl := Host.Outcome.next.inj h
  exact State.runOp_runs (fun i _ _ _ t => (t.step1_runs i 1).trans (State.yield_runs ..)) s _

theorem execLoop_runs {t : State} (h : exec (.loop core) s = .next t) : s.Runs eng core t := by
  obtain rfl := Host.Outcome.next.inj h
  refine State.runOp_runs (fun i sl w _ t => ?_) s _
  dsimp only
  split
  · exact t.faultTag_runs ..
  split
  · exact t.faultTag_runs ..
  split
  · exact t.faultTag_runs ..
  split
  · exact t.faultTag_runs ..
  have k := t.word_fetches (core := core.val) sl.codeHandle (sl.pc + 1 + bits w 96 79 - 1)
  generalize t.word core.val sl.codeHandle _ = x at k ⊢
  obtain ⟨_ | last, u⟩ := x <;> dsimp only at k ⊢
  · exact k.runs.trans (u.faultTag_runs ..)
  split_ifs
  · exact k.runs.trans (u.faultTag_runs ..)
  · exact k.runs.trans (u.setCore_step1_runs ..)
  · exact k.runs.trans (u.setCore_step1_runs ..)

theorem execBarrierWait_runs {t : State} (h : exec (.barrierWait core) s = .next t) : s.Runs eng core t := by
  obtain rfl := Host.Outcome.next.inj h
  refine State.runOp_runs (fun i sl w _ t => ?_) s _
  dsimp only
  split
  · exact t.faultTag_runs ..
  split
  · exact t.faultTag_runs ..
  split
  · exact t.setCore_step1_runs ..
  · exact ((t.step1_runs i 1).trans (.setCore _ _)).trans (State.yield_runs ..)

theorem execBarrierArrive_runs {t : State} (h : exec (.barrierArrive core) s = .next t) : s.Runs eng core t := by
  obtain rfl := Host.Outcome.next.inj h
  refine State.runOp_runs (fun i sl w _ t => ?_) s _
  dsimp only
  split
  · exact t.faultTag_runs ..
  split
  · exact .refl t
  · exact (t.step1_runs i 1).trans (State.sendNamed_talk ..).runs

theorem execBarrierTarget_runs {t : State} (h : exec (.barrierTarget core) s = .next t) (he : eng) : s.Runs eng core t := by
  obtain rfl := Host.Outcome.next.inj h
  refine State.runOp_runs (fun i sl w _ t => ?_) s _
  dsimp only
  split
  · exact t.faultTag_runs ..
  · exact (t.setCore_step1_runs ..).trans (State.serveWaiter_runs _ _ he)

theorem execBarrierTest_runs {t : State} (h : exec (.barrierTest core) s = .next t) : s.Runs eng core t := by
  obtain rfl := Host.Outcome.next.inj h
  refine State.runOp_runs (fun i sl w _ t => ?_) s _
  dsimp only
  split
  · exact t.faultTag_runs ..
  · exact t.setCore_step1_runs ..

theorem execPhaseCompute_runs {t : State} (h : exec (.phaseCompute core) s = .next t) : s.Runs eng core t := by
  obtain rfl := Host.Outcome.next.inj h
  refine State.runOp_runs (fun i sl w _ t => ?_) s _
  split
  · exact .refl t
  · exact t.setCore_step1_runs ..

theorem execCheckSettle_runs {t : State} (h : exec (.checkSettle core) s = .next t) : s.Runs eng core t := by
  obtain rfl := Host.Outcome.next.inj h
  refine State.runOp_runs (fun i _ _ _ t => ?_) s _
  split
  · exact .refl t
  · exact t.step1_runs ..

/-- Every control, phase and barrier operation keeps to what such operations may touch. -/
theorem exec_task_runs {t : State} {slot : SlotId} {c : Instr}
    (hc : c ∈ [Instr.controlNop core, .checkSettle core, .pset core, .endTask core, .loop core, .phaseMove core, .phaseCompute core, .barrierWait core,
      .barrierArrive core, .barrierTarget core, .barrierTest core, .slotFree core slot]) (h : exec c s = .next t) :
    s.Runs (c = .barrierTarget core) core t := by
  simp only [List.mem_cons, List.not_mem_nil, or_false] at hc
  rcases hc with rfl | rfl | rfl | rfl | rfl | rfl | rfl | rfl | rfl | rfl | rfl | rfl
  · obtain rfl := Host.Outcome.next.inj h
    exact State.runOp_runs (fun _ _ _ _ t => t.step1_runs ..) s _
  · exact execCheckSettle_runs h
  · obtain rfl := Host.Outcome.next.inj h
    exact State.runOp_runs (fun _ _ _ _ t => t.setCore_step1_runs ..) s _
  · exact execEnd_runs h
  · exact execLoop_runs h
  · obtain rfl := Host.Outcome.next.inj h
    exact State.runOp_runs (fun _ _ _ _ t => t.setCore_step1_runs ..) s _
  · exact execPhaseCompute_runs h
  · exact execBarrierWait_runs h
  · exact execBarrierArrive_runs h
  · exact execBarrierTarget_runs h rfl
  · exact execBarrierTest_runs h
  · obtain rfl := Host.Outcome.next.inj h
    exact s.freeSlot_runs slot

end

/-- Settles O55: each operation keeps to `State.Runs`, and only TARGET serves a waiter (`exec_task_runs`). -/
theorem taskOperationsFrame : Obligations.TaskOperationsFrame := by
  unfold Obligations.TaskOperationsFrame
  intro s t core slot c hc h
  have k := exec_task_runs hc h
  exact ⟨k.rest, k.engines, k.others, k.own, k.regs⟩

/-! ### Barrier operations -/

section
variable {s u : State} {core : CoreId} {i : Nat} {sl : Slot} {w v : Nat}

theorem exec_barrierWait_meets (h : s.atOp core i sl .wait w v u) (hb : (u.core core).boundBar sl.tag (bits w 115 110) = true)
    (hn : ((u.core core).bar (bits w 115 110)).waiter = none) (hc : ((u.core core).bar (bits w 115 110)).target ≤ ((u.core core).bar (bits w 115 110)).count) :
    exec (.barrierWait core) s = .next ((u.setCore core ((u.core core).setBar (bits w 115 110) { (u.core core).bar (bits w 115 110) with
      count := ((u.core core).bar (bits w 115 110)).count - ((u.core core).bar (bits w 115 110)).target })).step1 core i 1) := by
  show execBarrierWait core s = _
  unfold execBarrierWait
  rw [State.runOp_atOp h rfl]
  simp only [hb, hn, hc]
  rfl

theorem exec_barrierWait_waits (h : s.atOp core i sl .wait w v u) (hb : (u.core core).boundBar sl.tag (bits w 115 110) = true)
    (hn : ((u.core core).bar (bits w 115 110)).waiter = none) (hc : ((u.core core).bar (bits w 115 110)).count < ((u.core core).bar (bits w 115 110)).target) :
    exec (.barrierWait core) s = .next (((u.step1 core i 1).setCore core
      (((u.step1 core i 1).core core).setBar (bits w 115 110) { (u.core core).bar (bits w 115 110) with waiter := some (.slot i) })).yield core i
      { ((u.step1 core i 1).core core).slot i with state := 3, waitCtr := bits w 115 110, waitSince := (u.step1 core i 1).time }) := by
  show execBarrierWait core s = _
  unfold execBarrierWait
  rw [State.runOp_atOp h rfl]
  simp only [hb, hn, Nat.not_le.2 hc]
  rfl

theorem exec_barrierTarget_bound (h : s.atOp core i sl .target w v u) (hb : (u.core core).boundBar sl.tag (bits w 115 110) = true) :
    exec (.barrierTarget core) s = .next (((u.setCore core ((u.core core).setBar (bits w 115 110)
      { (u.core core).bar (bits w 115 110) with target := bits w 109 87 })).step1 core i 1).serveWaiter core (bits w 115 110)) := by
  show execBarrierTarget core s = _
  unfold execBarrierTarget
  rw [State.runOp_atOp h rfl]
  simp only [hb]
  rfl

theorem exec_barrierTest_bound (h : s.atOp core i sl .test w v u) (hb : (u.core core).boundBar sl.tag (bits w 115 110) = true) :
    exec (.barrierTest core) s = .next ((u.setCore core ((u.core core).setSlot i { sl with
      preds := sl.preds.set (bits w 64 63)
        (decide (((u.core core).bar (bits w 115 110)).target ≤ ((u.core core).bar (bits w 115 110)).count)) })).step1 core i 1) := by
  show execBarrierTest core s = _
  unfold execBarrierTest
  rw [State.runOp_atOp h rfl]
  simp only [hb]
  rfl

/-- A message that names this chip goes on the on-chip network, and no fault comes of it. -/
theorem State.sendNamed_here (s : State) {dstChip : Nat} (h : s.isHere dstChip = true) (dstCore type tag srcCore gen arg : Nat) (payload : Bytes) :
    s.sendNamed dstChip dstCore type tag srcCore gen arg payload = s.emit (.culvert (s.message dstChip dstCore type tag srcCore gen arg payload)) := by
  unfold State.sendNamed State.outside
  simp [h, s.send_here h]

theorem exec_barrierArrive_here (h : s.atOp core i sl .arrive w v u) (hn : bits w 109 87 ≠ 0) (hd : bits w 72 65 ≤ 191)
    (hb : (u.core core).busy i = false) (hh : u.isHere (bits w 86 73) = true) :
    exec (.barrierArrive core) s = .next ((u.step1 core i 1).emit
      (.culvert (u.message (bits w 86 73) (bits w 72 65) 0x01 sl.tag core 0 (bits w 115 110 + 256 * bits w 109 87)))) := by
  have e : ¬ (bits w 109 87 = 0 ∨ 191 < bits w 72 65) := by omega
  have hh : (u.step1 core i 1).isHere (bits w 86 73) = true := hh
  show execBarrierArrive core s = _
  unfold execBarrierArrive
  rw [State.runOp_atOp h rfl]
  simp only [e, if_false, hb, Bool.false_eq_true, State.sendNamed_here _ hh]
  rfl

end

/-- Settles O17: each operation on a counter is the change of the counter or of its slot, and then the task moves on, waits or is served. -/
theorem barrierOperationsComplete : Obligations.BarrierOperationsComplete := by
  unfold Obligations.BarrierOperationsComplete
  intro s u core i sl w v
  refine ⟨?meets, ?waits, ?target, ?test, ?arrive⟩
  case meets =>
    intro h hb hn hc
    refine ⟨_, exec_barrierWait_meets h hb hn hc, ?_, ?_⟩
    · rw [State.step1_slot, State.core_setCore_self, ← h.slot]
      rfl
    · rw [State.step1_bar, State.core_setCore_self, CoreSt.bar_setBar_self]
  case waits =>
    intro h hb hn hc
    have slot : ((u.step1 core i 1).core core).slot i = sl.advance 1 := by rw [State.step1_slot, h.slot]
    refine ⟨_, exec_barrierWait_waits h hb hn hc, ?_, ?_, ?_, ?_⟩
    · rw [State.yield_slot _ _ _ _ (by simp)]
    · rw [State.yield_slot _ _ _ _ (by simp)]
    · rw [State.yield_slot _ _ _ _ (by simp), slot]
    · rw [State.yield_bar, State.core_setCore_self, CoreSt.bar_setBar_self]
  case target =>
    intro h hb
    refine ⟨_, exec_barrierTarget_bound h hb, ?_⟩
    rw [State.serveWaiter_target, State.step1_bar, State.core_setCore_self, CoreSt.bar_setBar_self]
  case test =>
    intro h hb
    refine ⟨_, exec_barrierTest_bound h hb, ?_⟩
    rw [State.step1_slot, State.core_setCore_self, CoreSt.slot_setSlot_self]
  case arrive =>
    intro h hn hd hb hh
    refine ⟨_, exec_barrierArrive_here h hn hd hb hh, ?_, rfl⟩
    show ((u.step1 core i 1).core core).slot i = _
    rw [State.step1_slot, h.slot]

end Sys2Proof.Machine

/-! PROOFS. O20: batches of the vector unit, and ULOAD. A batch is read (`State.batchOut_fetches`), then it fails, is lasting, or is written and counted; what
each of these leaves of the unit, of memory and of marks is one lemma. -/

namespace Sys2Proof.Machine

/-! ### The inputs of a batch -/

section
variable {core : Nat}

theorem State.codesAt_fetches (s : State) (h off w : Nat) (idx : List Nat) : s.Fetches core (s.codesAt core h off w idx).2 := by
  unfold State.codesAt
  dsimp only
  refine List.foldlRecOn (motive := fun acc : Option (List (Nat × Nat × Nat)) × State => s.Fetches core acc.2) _ _ (.refl s) fun acc ht r _ => ?_
  split
  · exact ht
  · have k := ht.trans (acc.2.spmRead_fetches ((acc.2.core core).abs h (off + r.1 * w / 8)) (ceilDiv ((r.2 + 1) * w) 8 - r.1 * w / 8))
    generalize acc.2.spmRead core _ _ = x at k ⊢
    obtain ⟨_ | bs, t⟩ := x <;> exact k

theorem State.sourceCodes_fetches (s : State) (h off mode w cols imm first n : Nat) :
    s.Fetches core (s.sourceCodes core h off mode w cols imm first n).2 := by
  unfold State.sourceCodes
  split
  · exact .refl s
  · exact s.codesAt_fetches ..

/-- A source that is read only where the operation has it. -/
theorem State.Fetches.unless {α : Type} {s t : State} (h : s.Fetches core t) {x : α × State} (k : t.Fetches core x.2) (p : Prop) [Decidable p] (a : α) :
    s.Fetches core (if p then x else (a, t)).2 := by
  split
  · exact h.trans k
  · exact h

theorem State.vecBatch_fetches (s : State) (o : VuOp) (first n : Nat) : s.Fetches core (s.vecBatch core o first n).2 := by
  unfold State.vecBatch
  dsimp only
  have h1 := s.sourceCodes_fetches (core := core) (o.handles.getD 0 0) o.a (vecFields o.word).ma (bitsOf (vecFields o.word).fa) (vecFields o.word).cols
    (vecFields o.word).imm first n
  generalize s.sourceCodes core _ o.a _ _ _ _ first n = x at h1 ⊢
  obtain ⟨_ | as, t⟩ := x
  · exact h1
  dsimp only at h1 ⊢
  generalize hy : ite ((vecFields o.word).fn == 0x0C && isMx (vecFields o.word).fa) _ _ = y
  have h2 : s.Fetches core y.2 := by
    rw [← hy]
    split
    · exact h1.trans (t.codesAt_fetches ..)
    · exact h1.unless (t.sourceCodes_fetches ..) _ _
  obtain ⟨_ | bs, u⟩ := y
  · exact h2
  dsimp only at h2 ⊢
  generalize hz : ite ((fnSources (vecFields o.word).fn).getD 1 ≥ 3) _ _ = z
  have h3 : s.Fetches core z.2 := hz ▸ h2.unless (u.sourceCodes_fetches ..) _ _
  obtain ⟨_ | cs, v⟩ := z
  · exact h3
  dsimp only at h3 ⊢
  split
  · exact h3
  split
  · split <;> exact h3
  · exact h3

theorem State.sfuBatch_fetches (s : State) (o : VuOp) (first n : Nat) : s.Fetches core (s.sfuBatch core o first n).2 := by
  unfold State.sfuBatch
  dsimp only
  have h1 := s.sourceCodes_fetches (core := core) (o.handles.getD 0 0) o.a 0 (bitsOf (sfuFields o.word).fa) (sfuFields o.word).cols 0 first n
  generalize s.sourceCodes core _ o.a _ _ _ _ first n = x at h1 ⊢
  obtain ⟨_ | as, t⟩ := x
  · exact h1
  dsimp only at h1 ⊢
  generalize hy : ite (o.kind == .micro && o.second) _ _ = y
  have h2 : s.Fetches core y.2 := hy ▸ h1.unless (t.sourceCodes_fetches ..) _ _
  obtain ⟨_ | bs, u⟩ := y
  · exact h2
  dsimp only at h2 ⊢
  generalize hz : ite (sfuFields o.word).qrow _ _ = z
  have h3 : s.Fetches core z.2 := hz ▸ h2.unless (u.sourceCodes_fetches ..) _ _
  obtain ⟨_ | cs, v⟩ := z <;> exact h3

theorem State.rowPart_fetches (s : State) (o : VuOp) (f : RowFields) (first count : Nat) : s.Fetches core (s.rowPart core o f first count).2 := by
  unfold State.rowPart
  dsimp only
  generalize hx : ite f.isUpdate _ _ = x
  have h1 : s.Fetches core x.2 := hx ▸ (State.Fetches.refl s).unless (s.sourceCodes_fetches ..) _ _
  obtain ⟨_ | ds, t⟩ := x
  · exact h1
  dsimp only at h1 ⊢
  generalize hy : ite (f.isUpdate || f.isFinal) _ _ = y
  have h2 : s.Fetches core y.2 := by
    rw [← hy]
    split
    · exact h1
    · exact h1.trans (t.spmRead_fetches ..)
  obtain ⟨_ | other, u⟩ := y
  · exact h2
  dsimp only at h2 ⊢
  have h3 := h2.trans (u.spmRead_fetches ((u.core core).abs (o.handles.getD 1 0) (o.b + 16 * first)) (16 * count))
  generalize u.spmRead core _ (16 * count) = z at h3 ⊢
  obtain ⟨_ | raw, v⟩ := z
  · exact h3
  dsimp only at h3 ⊢
  split <;> exact h3

/-- The rows that a ROWSTAT batch takes up: those under way, or else the next ones. -/
def State.rowsDue (s : State) (core : Nat) (o : VuOp) : Except Status RowPart × State :=
  let f := rowFields o.word
  let first := o.batch / f.parts * f.perBatch
  match o.row with
  | some r => if o.batch % f.parts = 0 then s.rowPart core o f first (min f.perBatch (f.rows - first)) else (.ok r, s)
  | none => s.rowPart core o f first (min f.perBatch (f.rows - first))

theorem State.rowsDue_fetches (s : State) (o : VuOp) : s.Fetches core (s.rowsDue core o).2 := by
  unfold State.rowsDue
  dsimp only
  split
  · split
    · exact s.rowPart_fetches ..
    · exact .refl s
  · exact s.rowPart_fetches ..

theorem State.rowBatch_fetches (s : State) (o : VuOp) : s.Fetches core (s.rowBatch core o).2 := by
  have rows := s.rowsDue_fetches (core := core) o
  unfold State.rowBatch
  dsimp only
  split
  next heq => exact rows.of_eq heq
  next heq => split <;> exact rows.of_eq heq

/-- Reading what a batch needs, whatever comes of it, is reading the scratchpad. -/
theorem State.batchOut_fetches (s : State) (o : VuOp) : s.Fetches core (s.batchOut core o).2 := by
  unfold State.batchOut
  dsimp only
  split
  · have h := s.vecBatch_fetches (core := core) o (o.batch * o.shape.2.2) (min o.shape.2.2 (o.shape.1 * o.shape.2.1 - o.batch * o.shape.2.2))
    generalize s.vecBatch core o _ _ = x at h ⊢
    obtain ⟨_ | ⟨codes, scales, rng⟩, t⟩ := x
    · exact h
    dsimp only at h ⊢
    split
    · exact h
    · have k := h.trans (t.sourceCodes_fetches (o.handles.getD 1 0) o.b 0 32 (vecFields o.word).cols 0 (o.batch * o.shape.2.2)
        (min o.shape.2.2 (o.shape.1 * o.shape.2.1 - o.batch * o.shape.2.2)))
      generalize t.sourceCodes core _ o.b 0 32 _ 0 _ _ = y at k ⊢
      obtain ⟨_ | bs, u⟩ := y <;> exact k
  · have h := s.rowBatch_fetches (core := core) o
    generalize s.rowBatch core o = x at h ⊢
    obtain ⟨st | ⟨writes, row⟩, t⟩ := x <;> exact h
  · have h := s.sfuBatch_fetches (core := core) o (o.batch * o.shape.2.2) (min o.shape.2.2 (o.shape.1 * o.shape.2.1 - o.batch * o.shape.2.2))
    generalize s.sfuBatch core o _ _ = x at h ⊢
    obtain ⟨_ | codes, t⟩ := x <;> exact h

/-- A batch that comes to results leaves the operation's progress to what counts it. -/
theorem State.batchOut_op {s u : State} {o : VuOp} {b : BatchOut} (h : s.batchOut core o = (.ok b, u)) :
    b.op.batch = o.batch ∧ b.op.retries = o.retries := by
  unfold State.batchOut at h
  dsimp only at h
  split at h
  · split at h
    · cases h
    split at h
    · cases h; exact ⟨rfl, rfl⟩
    split at h
    · cases h
    · cases h; exact ⟨rfl, rfl⟩
  · split at h
    · cases h
    · cases h; exact ⟨rfl, rfl⟩
  · split at h
    · cases h
    · cases h; exact ⟨rfl, rfl⟩

end

/-! ### An operation leaves the unit -/

section
variable {eng : Prop} {core : Nat}

theorem State.Runs.hbm {s t : State} (h : s.Runs eng core t) : t.hbm = s.hbm := by rw [h.rest]
theorem State.Runs.spm {s t : State} (h : s.Runs eng core t) : (t.core core).spm = (s.core core).spm := by rw [h.own]
theorem State.Runs.vu {s t : State} (h : s.Runs eng core t) : (t.core core).vu = (s.core core).vu := by rw [h.own]

/-- What a batch leaves of the vector unit, of the scratchpad and of device memory. -/
def State.vuView (s : State) (core : Nat) : List VuOp × Mem × Mem := ((s.core core).vu, (s.core core).spm, s.hbm)

theorem State.Runs.vuView {s t : State} (h : s.Runs eng core t) : t.vuView core = s.vuView core := by
  unfold State.vuView
  rw [h.vu, h.spm, h.hbm]

theorem State.vuView_setCore (s : State) (core : Nat) (x : CoreSt) : (s.setCore core x).vuView core = (x.vu, x.spm, s.hbm) := by
  unfold State.vuView
  rw [State.core_setCore_self]
  rfl

end

section
variable {core : Nat}

/-- The operation at the front leaves, and no memory changes. -/
theorem State.dropVu_vuView (s : State) (core : Nat) : (s.dropVu core).vuView core = ((s.core core).vu.drop 1, (s.core core).spm, s.hbm) := by
  unfold State.dropVu
  dsimp only
  split
  · next h => simp [State.vuView, h]
  · next o r h =>
    rw [(State.gate_runs (eng := False) _).vuView, (State.freeSlot_runs (eng := False) ..).vuView, State.vuView_setCore, h]
    rfl

/-- Nor do contexts, tags and marks. -/
theorem State.dropVu_meView (s : State) (core : Nat) : (s.dropVu core).meView core = s.meView core := by
  unfold State.dropVu
  dsimp only
  split
  · rfl
  · exact (State.gate_meView ..).trans ((State.freeSlot_meView ..).trans (s.meView_setCore_same core _))

/-- The operation at the front ends with a status: it leaves, memory and marks stay, its context faults. -/
theorem State.failVu_spec (s : State) (core tag : Nat) (st : Status) :
    let t := (s.dropVu core).faultTag tag st
    s.faults t tag st ∧ t.vuView core = ((s.core core).vu.drop 1, (s.core core).spm, s.hbm) ∧ t.suspects = s.suspects := by
  have view := s.dropVu_meView core
  refine ⟨State.faults_before (congrArg MeView.states view) (congrArg MeView.gens view) (State.faultTag_faults _ tag st), ?_, ?_⟩
  · exact (State.faultTag_runs (eng := False) ..).vuView.trans (s.dropVu_vuView core)
  · rw [State.faultTag_suspects]
    exact congrArg MeView.suspects view

/-- A lasting disagreement of the rails: the core is suspect, the operation leaves, its context faults, and nothing is written (R102, R103). -/
theorem State.vuLasting_spec (s : State) (core : Nat) (o : VuOp) :
    let t := s.vuLasting core o
    s.faults t o.tag .breachLasting ∧ t.vuView core = ((s.core core).vu.drop 1, (s.core core).spm, s.hbm) ∧ t.isSuspect core = true := by
  unfold State.vuLasting
  dsimp only
  generalize hb : s.bump F.vuBatchesCount core 2 = b
  have kb : b.feedView core = s.feedView core := hb ▸ s.feedView_bump core F.vuBatchesCount core 2
  have vb : b.vuView core = s.vuView core := hb ▸ rfl
  generalize hx : State.gauge _ _ _ = x
  have kx : x.feedView core = s.feedView core := by
    rw [← hx, State.gauge_feedView, State.tally_feedView, State.lastingUnit_feedView, kb]
  have vx : x.vuView core = s.vuView core := by
    rw [← hx, ((State.gauge_talk ..).faulting.runs (eng := False)).vuView, ((State.tally_talk ..).faulting.runs (eng := False)).vuView,
      ((State.lastingUnit_talk ..).faulting.runs (eng := False)).vuView, vb]
  obtain ⟨view, mark⟩ := x.suspectCore_spec (tagIndex o.tag) core o.type
  have vy := ((x.suspectCore_talk (tagIndex o.tag) core o.type).faulting.runs (eng := False) (core := core)).vuView.trans vx
  generalize x.suspectCore _ core _ = y at view mark vy ⊢
  rw [State.feedView_me kx] at view
  obtain ⟨hf, hv, hs⟩ := y.failVu_spec core o.tag .breachLasting
  refine ⟨State.faults_before (congrArg MeView.states view) (congrArg MeView.gens view) hf, hv.trans ?_, ?_⟩
  · exact congrArg (fun v : List VuOp × Mem × Mem => (v.1.drop 1, v.2)) vy
  · rw [← mark]
    show bit (bits (State.suspects _ _) _ _) _ = bit (bits (y.suspects _) _ _) _
    rw [hs]

/-! ### A batch that has been written -/

theorem State.ebbTest_fetches (s : State) (o : VuOp) (trail : Bytes) (kappa : Nat) : s.Fetches core (s.ebbTest core o trail kappa).2 := by
  unfold State.ebbTest
  have h := s.spmRead_fetches (core := core) ((s.core core).abs o.dHandle o.d) (4 * trailE trail)
  generalize s.spmRead core _ _ = x at h ⊢
  obtain ⟨_ | data, t⟩ := x <;> exact h

/-- The check of a completed ebb shard reads it and reports. -/
theorem State.ebbCheck_runs {eng : Prop} (s : State) (o : VuOp) (trail : Bytes) : s.Runs eng core (s.ebbCheck core o trail) := by
  unfold State.ebbCheck
  extract_lets i kappa y ev
  have test : ∀ {t u : State} {r : Option (Bool × Nat)}, s.Runs eng core t → t.ebbTest core o trail kappa = (r, u) → s.Runs eng core u :=
    fun h e => h.trans ((State.ebbTest_fetches ..).of_eq e).runs
  have counted : s.Runs eng core y := (s.tally_talk ..).faulting.runs
  split
  next t heq => exact (test counted heq).trans (t.faultTag_runs ..)
  next ratio t heq => exact (test counted heq).trans (t.gauge_talk ..).faulting.runs
  next ratio t heq =>
    split
    next u again => exact (test (test counted heq) again).trans (u.faultTag_runs ..)
    next ratio u again => exact (test (test counted heq) again).trans ((u.transient_talk ..).trans (State.gauge_talk ..)).faulting.runs
    next ratio u again =>
      exact (test (test counted heq) again).trans (((u.lastingUnit_talk ..).trans (State.gauge_talk ..)).faulting.runs.trans (State.faultTag_runs ..))

/-- A batch of an operation that has been written. -/
def VuOp.next (o : VuOp) (retried supply : Bool) : VuOp :=
  { o with batch := o.batch + 1, retries := o.retries + b2n retried, supply := o.supply || retried && supply }

/-- A written batch changes no memory; its operation stands at its next batch, or after the last one leaves. -/
theorem State.finishBatch_vuView (s : State) (core : Nat) (o : VuOp) (total : Nat) (retried : Bool) :
    (s.finishBatch core o total retried).vuView core =
      (if o.batch + 1 < total then o.next retried s.inSupply :: (s.core core).vu.drop 1 else (s.core core).vu.drop 1, (s.core core).spm, s.hbm) := by
  unfold State.finishBatch
  dsimp only
  generalize hb : s.bump F.vuBatchesCount core (1 + b2n retried) = b
  have vb : b.vuView core = s.vuView core := hb ▸ rfl
  have kt : b.Talk talkRegs (b.tally (tagIndex o.tag) (fun t => { t with batches := t.batches + 1 })) := b.tally_talk ..
  generalize hx : ite (retried = true) _ _ = x
  have vx : x.vuView core = s.vuView core := by
    rw [← vb, ← hx]
    split
    · exact ((kt.trans (State.transient_talk ..)).faulting.runs (eng := False)).vuView
    · exact (kt.faulting.runs (eng := False)).vuView
  obtain ⟨hvu, hspm, hhbm⟩ : (x.core core).vu = (s.core core).vu ∧ (x.core core).spm = (s.core core).spm ∧ x.hbm = s.hbm := by
    simpa [State.vuView] using vx
  generalize hy : x.setCore core _ = y
  have vy : y.vuView core = (o.next retried s.inSupply :: (s.core core).vu.drop 1, (s.core core).spm, s.hbm) := by
    rw [← hy, State.vuView_setCore, hvu, hspm, hhbm]
    rfl
  split
  · exact vy
  -- after the last batch: the event, an ebb add's trailer and check, and the operation leaves
  have leaves : ∀ z : State, z.vuView core = y.vuView core → (z.dropVu core).vuView core = ((s.core core).vu.drop 1, (s.core core).spm, s.hbm) := by
    intro z hz
    rw [vy] at hz
    exact (z.dropVu_vuView core).trans (congrArg (fun v : List VuOp × Mem × Mem => (v.1.drop 1, v.2)) hz)
  have kg : ∀ g : Gauge, (y.gauge (tagIndex o.tag) g).vuView core = y.vuView core := fun g =>
    ((y.gauge_talk (tagIndex o.tag) g false).faulting.runs (eng := False)).vuView
  generalize hz : y.gauge _ _ = z
  have kz : z.vuView core = y.vuView core := hz ▸ kg _
  split
  · exact leaves z kz
  · refine leaves _ ?_
    generalize hv : z.setCore core _ = v
    have kv : v.vuView core = y.vuView core := by
      rw [← hv, State.vuView_setCore, ← kz]
      rfl
    split
    · exact ((v.ebbCheck_runs (eng := False) ..).vuView).trans kv
    · exact kv

end

/-! ### VECTOR_BATCH -/

theorem exec_vectorBatch_front {s : State} {core : CoreId} {o : VuOp} {rest : List VuOp} {rails : Rails} (hvu : (s.core core).vu = o :: rest)
    (hr : (s.core core).rst < 2) (ho : s.overfills (tagIndex o.tag) (s.runBatch core o rails) = false) :
    exec (.vectorBatch core rails) s = .next (s.runBatch core o rails) := by
  show execVectorBatch core rails s = _
  unfold execVectorBatch State.vuBatch
  dsimp only
  rw [hvu]
  dsimp only
  rw [if_neg (Nat.not_le.2 hr), State.unlessFull, ho]
  rfl

/-- The state in which a batch writes its results: the rounding generator has given what it drew. -/
def State.seeded (s : State) (core i : Nat) (rng : Option Rng) : State :=
  match rng with
  | some r => s.setRng core i r
  | none => s

section
variable {s u v : State} {core : Nat} {o : VuOp} {rails : Rails}

theorem State.runBatch_fails {st : Status} (h : s.batchOut core o = (.error st, u)) : s.runBatch core o rails = (u.dropVu core).faultTag o.tag st := by
  unfold State.runBatch
  rw [h]

theorem State.runBatch_lasting {b : BatchOut} (h : s.batchOut core o = (.ok b, u)) : s.runBatch core o .lasting = u.vuLasting core o := by
  unfold State.runBatch
  rw [h]
  rfl

theorem State.runBatch_writes {b : BatchOut} (hr : rails ≠ .lasting) (h : s.batchOut core o = (.ok b, u)) :
    s.runBatch core o rails =
      if ((u.seeded core (tagIndex o.tag) b.rng).putWrites core b.writes).1 then
        ((u.seeded core (tagIndex o.tag) b.rng).putWrites core b.writes).2.finishBatch core b.op o.total (rails == .transient)
      else
        (((u.seeded core (tagIndex o.tag) b.rng).putWrites core b.writes).2.dropVu core).faultTag o.tag .uncorrectable := by
  obtain ⟨writes, op, rng⟩ := b
  unfold State.runBatch State.seeded
  rw [h]
  dsimp only
  rw [if_neg hr]
  cases rng <;> dsimp only <;> generalize State.putWrites _ core writes = x <;> obtain ⟨_ | _, t⟩ := x <;> rfl

theorem State.seeded_vuView (s : State) (core i : Nat) (rng : Option Rng) : (s.seeded core i rng).vuView core = s.vuView core := by
  unfold State.seeded
  split
  · exact s.vuView_setCore ..
  · rfl

/-- A written batch shows the scratchpad it wrote, and its operation at its next batch or gone. -/
theorem State.runBatch_written {b : BatchOut} {rest : List VuOp} (hvu : (s.core core).vu = o :: rest) (hr : rails ≠ .lasting)
    (h : s.batchOut core o = (.ok b, u)) (hp : (u.seeded core (tagIndex o.tag) b.rng).putWrites core b.writes = (true, v)) :
    (s.runBatch core o rails).vuView core =
      (if o.batch + 1 < o.total then
        { b.op with batch := o.batch + 1, retries := o.retries + b2n (rails == .transient), supply := b.op.supply || rails == .transient && s.inSupply } :: rest
        else rest, (v.core core).spm, v.hbm) := by
  have read := (s.batchOut_fetches (core := core) o).of_eq h
  have wrote := (State.putWrites_stores (core := core) (u.seeded core (tagIndex o.tag) b.rng) b.writes).of_eq hp
  obtain ⟨hbatch, hretries⟩ := State.batchOut_op h
  have vu : (v.core core).vu = o :: rest :=
    wrote.vu.trans ((congrArg Prod.fst (u.seeded_vuView core (tagIndex o.tag) b.rng)).trans ((read.vu core).trans hvu))
  have seeded : (u.seeded core (tagIndex o.tag) b.rng).supply = u.supply := by unfold State.seeded; split <;> rfl
  have supply : v.inSupply = s.inSupply := congrArg Option.isSome (wrote.supply.trans (seeded.trans read.supply))
  rw [State.runBatch_writes hr h, hp, if_pos rfl, State.finishBatch_vuView, vu, supply, VuOp.next, hbatch, hretries]
  rfl

end

/-- What a batch of a VECTOR that adds to no ebb block comes to. -/
theorem State.batchOut_vector {s u : State} {core : Nat} {o : VuOp} {codes scales : List Nat} {rng : Rng} (hk : o.kind = .vector) (he : o.ebb = none)
    (h : s.vecBatch core o (o.batch * o.shape.2.2) (min o.shape.2.2 (o.shape.1 * o.shape.2.1 - o.batch * o.shape.2.2)) = (some (codes, scales, rng), u)) :
    s.batchOut core o = (.ok ⟨[⟨o.dHandle, o.d, bitsOf (vecFields o.word).fd, o.batch * o.shape.2.2, codes⟩,
      ⟨o.handles.getD 2 0, o.c, 8, o.batch * o.shape.2.2 / 32, scales⟩], o, some rng⟩, u) := by
  unfold State.batchOut
  simp only [hk, he, h]

/-- What a batch of an SFU or MICRO operation comes to. -/
theorem State.batchOut_sfu {s u : State} {core : Nat} {o : VuOp} {codes : List Nat} (hk : o.kind = .sfu ∨ o.kind = .micro)
    (h : s.sfuBatch core o (o.batch * o.shape.2.2) (min o.shape.2.2 (o.shape.1 * o.shape.2.1 - o.batch * o.shape.2.2)) = (some codes, u)) :
    s.batchOut core o = (.ok ⟨[⟨o.dHandle, o.d, bitsOf (sfuFields o.word).fd, o.batch * o.shape.2.2, codes⟩], o, none⟩, u) := by
  unfold State.batchOut
  rcases hk with hk | hk <;> simp only [hk, h]

end Sys2Proof.Machine

/-! PROOFS. O20: batches of the vector unit, written, refused and lost (R93, R94, R102), and programs put in the micro store (R191, R192). -/

namespace Sys2Proof.Machine

section
variable {s u v : State} {core : Nat} {o : VuOp} {rest : List VuOp} {rails : Rails}

/-- What a batch shows once written, told apart by whether another follows. -/
theorem State.runBatch_ends {b : BatchOut} (hvu : (s.core core).vu = o :: rest) (hr : rails ≠ .lasting)
    (h : s.batchOut core o = (.ok b, u)) (hp : (u.seeded core (tagIndex o.tag) b.rng).putWrites core b.writes = (true, v)) :
    ((s.runBatch core o rails).core core).spm = (v.core core).spm ∧ (s.runBatch core o rails).hbm = v.hbm ∧
      (o.batch + 1 < o.total → ((s.runBatch core o rails).core core).vu =
        { b.op with
          batch := o.batch + 1, retries := o.retries + b2n (rails == .transient), supply := b.op.supply || rails == .transient && s.inSupply } :: rest) ∧
      (o.total ≤ o.batch + 1 → ((s.runBatch core o rails).core core).vu = rest) := by
  have view := State.runBatch_written hvu hr h hp
  refine ⟨congrArg (·.2.1) view, congrArg (·.2.2) view, fun hm => ?_, fun hm => ?_⟩
  · exact (congrArg Prod.fst view).trans (if_pos hm)
  · exact (congrArg Prod.fst view).trans (if_neg (Nat.not_lt.2 hm))

/-- A batch whose rails disagree twice writes nothing. -/
theorem State.runBatch_breaches {b : BatchOut} (hvu : (s.core core).vu = o :: rest) (h : s.batchOut core o = (.ok b, u)) :
    let t := s.runBatch core o .lasting
    (t.core core).vu = rest ∧ t.isSuspect core = true ∧ s.faults t o.tag .breachLasting ∧ (t.core core).spm = (u.core core).spm ∧ t.hbm = u.hbm := by
  have read := (s.batchOut_fetches (core := core) o).of_eq h
  obtain ⟨hf, view, mark⟩ := u.vuLasting_spec core o
  rw [State.runBatch_lasting h]
  refine ⟨(congrArg Prod.fst view).trans ?_, mark, State.faults_before (read.regs _ (by decide)) (read.regs _ (by decide)) hf,
    congrArg (·.2.1) view, congrArg (·.2.2) view⟩
  rw [read.vu, hvu]
  rfl

/-- A batch whose inputs fail ends the operation. -/
theorem State.runBatch_faults {st : Status} (hvu : (s.core core).vu = o :: rest) (h : s.batchOut core o = (.error st, u)) :
    let t := s.runBatch core o rails
    (t.core core).vu = rest ∧ s.faults t o.tag st ∧ (t.core core).spm = (u.core core).spm ∧ t.hbm = u.hbm := by
  have read := (s.batchOut_fetches (core := core) o).of_eq h
  obtain ⟨hf, view, -⟩ := u.failVu_spec core o.tag st
  rw [State.runBatch_fails h]
  refine ⟨(congrArg Prod.fst view).trans ?_, State.faults_before (read.regs _ (by decide)) (read.regs _ (by decide)) hf,
    congrArg (·.2.1) view, congrArg (·.2.2) view⟩
  rw [read.vu, hvu]
  rfl

end

/-- A first write that succeeds leaves the other writes to be made. -/
theorem State.putWrites_cons {s t : State} {core : Nat} {x : VuWrite} {xs : List VuWrite}
    (h : s.writeCodes core x.h x.off x.width x.first x.codes = (true, t)) : s.putWrites core (x :: xs) = t.putWrites core xs := by
  unfold State.putWrites
  rw [List.foldl_cons, if_pos rfl, h]

/-! ### ULOAD -/

/-- A table into which the values of a list were put from a key on holds them there. -/
theorem Table.find_foldl_put {α : Type} (entry : Nat) : ∀ (ws : List α) (first : Nat) (t : Table α) (k : Nat), k < ws.length →
    Table.find ((ws.zipIdx first).foldl (fun t (p : α × Nat) => t.put (entry + p.2) p.1) t) (entry + (first + k)) = ws[k]? := by
  intro ws
  induction ws using List.reverseRecOn with
  | nil => simp
  | append_singleton ws x ih =>
    intro first t k hk
    rw [List.zipIdx_append, List.foldl_append]
    simp only [List.zipIdx_cons, List.zipIdx_nil, List.foldl_cons, List.foldl_nil]
    by_cases h : k = ws.length
    · subst h
      simp
    · have hk : k < ws.length := by simp at hk; omega
      rw [Table.find_put_ne _ _ (by omega), ih first t k hk, List.getElem?_append_left hk]

section
variable {s u x : State} {core : CoreId} {i : Nat} {sl : Slot} {w v : Nat}

/-- What ULOAD of a program does whose row is the task's own code, whose words run, and whose entries no other program holds (R191, R192). -/
theorem exec_uload_loads {bs : Bytes} (h : s.atOp core i sl .uload w v u) (ws : List Nat) (hws : ws = (List.range (bits w 99 94)).map (fun k => field bs (8 * k) 8))
    (hfields : ¬ (bits w 99 94 = 0 ∨ 32 < bits w 99 94 ∨ bits w 115 110 < 16 ∨ bits w 109 100 < 256 ∨ 1024 < bits w 109 100 + bits w 99 94))
    (hown : (!((u.core core).polder (addr sl (bits w 93 65)).1).valid || ((u.core core).polder (addr sl (bits w 93 65)).1).owner != sl.tag ||
      !((u.core core).polder (addr sl (bits w 93 65)).1).code ||
      decide (((u.core core).polder (addr sl (bits w 93 65)).1).length * granule < 256 * (addr sl (bits w 93 65)).2 + 8 * bits w 99 94)) = false)
    (hidle : (u.core core).vu.any (fun o => o.kind == .micro && (sfuFields o.word).prog == bits w 115 110) = false)
    (hread : u.spmRead core ((u.core core).abs (addr sl (bits w 93 65)).1 (256 * (addr sl (bits w 93 65)).2)) (8 * bits w 99 94) = (some bs, x))
    (hok : ws.zipIdx.any (fun p => !microOk p.1 (p.2 + 1 == bits w 99 94)) = false)
    (hmine : (((u.core core).uprog (bits w 115 110)).valid && ((u.core core).uprog (bits w 115 110)).owner != sl.tag) = false)
    (hothers : (u.core core).udir.filter (fun p => p.2.valid && p.1 != bits w 115 110 && decide (p.2.base < bits w 109 100 + bits w 99 94) &&
      decide (bits w 109 100 < p.2.base + p.2.length)) = []) :
    exec (.uload core) s = .next ((x.setCore core { x.core core with
      ustore := ws.zipIdx.foldl (fun (t : Table Nat) p => t.put (bits w 109 100 + p.2) p.1) (x.core core).ustore
      udir := (x.core core).udir.put (bits w 115 110) ⟨true, false, sl.tag, bits w 109 100, bits w 99 94⟩ }).step1 core i 1) := by
  subst hws
  show execUload core s = _
  unfold execUload
  rw [State.runOp_atOp h rfl]
  dsimp only
  rw [if_neg hfields, hown, hidle, hread]
  dsimp only
  rw [hok, hmine, hothers]
  rfl

/-- What a loaded program leaves: its entry in the directory, its words in the store, the task behind the operation. -/
theorem State.loaded_spec (x : State) (core : CoreId) (i : Nat) (dir : Nat) (entry : UProg) (base : Nat) (ws : List Nat) :
    let t := (x.setCore core { x.core core with
      ustore := ws.zipIdx.foldl (fun (t : Table Nat) p => t.put (base + p.2) p.1) (x.core core).ustore
      udir := (x.core core).udir.put dir entry }).step1 core i 1
    (t.core core).uprog dir = entry ∧ (∀ k (hk : k < ws.length), (t.core core).uword (base + k) = ws[k]) ∧
      (t.core core).slot i = ((x.core core).slot i).advance 1 ∧ t.hbm = x.hbm := by
  refine ⟨?_, fun k hk => ?_, ?_, rfl⟩
  · unfold State.step1 State.progress CoreSt.uprog
    simp [CoreSt.setSlot]
  · have hfind := Table.find_foldl_put base ws 0 (x.core core).ustore k hk
    rw [Nat.zero_add, List.getElem?_eq_getElem hk] at hfind
    unfold State.step1 State.progress CoreSt.uword
    simp [CoreSt.setSlot, hfind]
  · rw [State.step1_slot, State.core_setCore_self]
    rfl

end

/-- No program but the one put there holds entries that a program is loaded to. -/
theorem CoreSt.udir_apart {dir : List (Nat × UProg)} {prog entry len : Nat}
    (h : ∀ x ∈ dir, x.2.valid = true → x.1 = prog ∨ entry + len ≤ x.2.base ∨ x.2.base + x.2.length ≤ entry) :
    dir.filter (fun p => p.2.valid && p.1 != prog && decide (p.2.base < entry + len) && decide (entry < p.2.base + p.2.length)) = [] := by
  refine List.filter_eq_nil_iff.2 fun x hx => ?_
  simp only [Bool.and_eq_true, bne_iff_ne, ne_eq, decide_eq_true_eq, not_and, not_lt]
  rintro ⟨⟨hv, hp⟩, hlo⟩
  rcases h x hx hv with h | h | h
  · exact absurd h hp
  · omega
  · exact h

/-- Words that may stand in a program, checked one by one. -/
theorem microOk_all {ws : List Nat} {len : Nat} (hlen : ws.length = len) (h : ∀ k, k < len → microOk (ws.getD k 0) (k + 1 == len) = true) :
    ws.zipIdx.any (fun p => !microOk p.1 (p.2 + 1 == len)) = false := by
  refine List.any_eq_false.2 fun p hp => ?_
  obtain ⟨hk, he⟩ := List.mem_zipIdx' hp
  have := h p.2 (hlen ▸ hk)
  rw [List.getD_eq_getElem _ _ hk, ← he] at this
  simp [this]

/-- Settles O20: a batch computes, then writes, fails or is lost (`State.runBatch_ends`, `State.runBatch_faults`, `State.runBatch_breaches`); a program that passes its
checks is put in the store (`State.loaded_spec`). -/
theorem batchesComplete : Obligations.BatchesComplete := by
  unfold Obligations.BatchesComplete
  intro s core
  refine ⟨fun o rest rails hvu hr ho => ?_, ?_⟩
  · have front := exec_vectorBatch_front hvu hr ho
    have written : ∀ {b : BatchOut} {u v : State}, rails ≠ .lasting → s.batchOut core o = (.ok b, u) →
        (u.seeded core (tagIndex o.tag) b.rng).putWrites core b.writes = (true, v) →
        ∃ t, exec (.vectorBatch core rails) s = .next t ∧ (t.core core).spm = (v.core core).spm ∧ t.hbm = v.hbm := fun hl h hp =>
      have ⟨hspm, hhbm, _⟩ := State.runBatch_ends hvu hl h hp
      ⟨_, front, hspm, hhbm⟩
    refine ⟨?_, ?_, ?_, ?_, ?_⟩
    · rintro ⟨writes, op, _ | r⟩ u v hl h hp
      · exact ⟨_, front, State.runBatch_ends hvu hl h hp⟩
      · exact ⟨_, front, State.runBatch_ends hvu hl h hp⟩
    · rintro b u rfl h
      exact ⟨_, front, State.runBatch_breaches hvu h⟩
    · intro st u h
      exact ⟨_, front, State.runBatch_faults hvu h⟩
    · intro codes scales rng u u1 u2 hl hk he h h1 h2
      exact written hl (State.batchOut_vector hk he h) ((State.putWrites_cons h1).trans (State.putWrites_cons h2))
    · intro codes u u1 hl hk h h1
      exact written hl (State.batchOut_sfu hk h) (State.putWrites_cons h1)
  · intro u x i sl w v bs h prog entry len a p ws hlen hlen' hprog hentry hend hvalid howner hcode hsize hidle hmine hothers hread hok
    have read := (u.spmRead_fetches (core := core) _ _).of_eq hread
    have hws : ws.length = len := by simp [ws]
    have hown : (!p.valid || p.owner != sl.tag || !p.code || decide (p.length * granule < 256 * a.2 + 8 * len)) = false := by
      simp [hvalid, howner, hcode, hsize]
    have hmine : (((u.core core).uprog prog).valid && ((u.core core).uprog prog).owner != sl.tag) = false := by
      cases hv : ((u.core core).uprog prog).valid
      · rfl
      · simp [hmine hv]
    obtain ⟨hdir, hstore, hslot, hhbm⟩ := x.loaded_spec core i prog ⟨true, false, sl.tag, entry, len⟩ entry ws
    refine ⟨_, exec_uload_loads h ws rfl (by omega) hown hidle hread (microOk_all hws hok) hmine (CoreSt.udir_apart hothers), hdir, fun k hk => ?_, ?_, hhbm⟩
    · rw [hstore k (hws ▸ hk)]
      simp [ws]
    · rw [hslot, read.core_eq core, ← h.slot]
      rfl

end Sys2Proof.Machine

/-! PROOFS. O57: which bytes of the scratchpad a batch of the vector unit may change (R93, R248, R249). -/

namespace Sys2Proof.Machine

/-- What a table holds under a key is the value for no key, or one that it lists. -/
theorem Table.get_eq_or_mem {α : Type} (t : Table α) (d : α) (k : Nat) : t.get d k = d ∨ ∃ p ∈ t, p.2 = t.get d k := by
  induction t with
  | nil => exact .inl rfl
  | cons p r ih =>
    obtain ⟨j, v⟩ := p
    unfold Table.get
    split
    · exact .inr ⟨_, List.mem_cons_self, rfl⟩
    · exact ih.imp_right fun ⟨q, hq, e⟩ => ⟨q, List.mem_cons_of_mem _ hq, e⟩

theorem State.core_spm_wf {s : State} (h : s.memWf = true) (k : Nat) : (s.core k).spm.wf = true := by
  unfold State.memWf at h
  rw [Bool.and_eq_true, List.all_eq_true] at h
  rcases Table.get_eq_or_mem s.cores .idle k with e | ⟨p, hp, e⟩
  · rw [State.core, e]
    rfl
  · rw [State.core, ← e]
    exact h.2 p hp

/-- First byte that a write of codes fills, and the byte after the last. -/
def VuWrite.lo (c : CoreSt) (x : VuWrite) : Nat := c.abs x.h (x.off + x.first * x.width / 8)
def VuWrite.hi (c : CoreSt) (x : VuWrite) : Nat := x.lo c + (ceilDiv ((x.first + x.codes.length) * x.width) 8 - x.first * x.width / 8)

/-- A byte that a write of codes leaves: it lies outside, and in a codeword that is clean or outside too. -/
def VuWrite.misses (c : CoreSt) (x : VuWrite) (a : Nat) : Prop :=
  x.codes ≠ [] → (a < x.lo c ∨ x.hi c ≤ a) ∧ (c.clean (a / 32) ∨ a / 32 < x.lo c / 32 ∨ (x.hi c - 1) / 32 < a / 32)

section
variable {s t u v : State} {core a : Nat}

theorem VuWrite.misses.stores {x : VuWrite} (h : x.misses (s.core core) a) (k : s.Stores core t) : x.misses (t.core core) a := by
  intro hx
  obtain ⟨hout, hcw⟩ := h hx
  unfold VuWrite.hi VuWrite.lo at *
  rw [k.abs]
  exact ⟨hout, hcw.imp_left (k.clean _)⟩

theorem State.writeCodes_read {x : VuWrite} (hw : (s.core core).spm.wf = true) (h : x.misses (s.core core) a) :
    ((s.writeCodes core x.h x.off x.width x.first x.codes).2.core core).spm.read a = (s.core core).spm.read a := by
  unfold State.writeCodes
  split
  · rfl
  next hx =>
  obtain ⟨hout, hcw⟩ := h (by simpa using hx)
  refine State.spmWrite_read hw (fun _ => ?_) (fun _ => ?_) <;> rw [length_natLe]
  · exact hout
  · exact hcw

/-- A batch's writes leave the bytes that each of them leaves. -/
theorem State.putWrites_read (l : List VuWrite) (hw : (s.core core).spm.wf = true) (h : ∀ x ∈ l, x.misses (s.core core) a) :
    ((s.putWrites core l).2.core core).spm.read a = (s.core core).spm.read a := by
  unfold State.putWrites
  refine (List.foldlRecOn (motive := fun acc : Bool × State => s.Stores core acc.2 ∧ (acc.2.core core).spm.read a = (s.core core).spm.read a) _ _ ⟨.refl s, rfl⟩
    fun acc ⟨k, e⟩ x hx => ?_).2
  split
  · exact ⟨k.trans (acc.2.writeCodes_stores ..), (State.writeCodes_read (k.wf hw) ((h x hx).stores k)).trans e⟩
  · exact ⟨k, e⟩

/-- What reads of the core's memory leave: where its writes go, and which codewords are clean. -/
theorem VuWrite.misses.fetches {x : VuWrite} (h : x.misses (s.core core) a) (k : s.Fetches core t) : x.misses (t.core core) a := by
  intro hx
  obtain ⟨hout, hcw⟩ := h hx
  have e := k.core_eq core
  have hc : (s.core core).clean (a / 32) → (t.core core).clean (a / 32) := fun c => ⟨by rw [e]; exact c.1, k.passing _ c.2⟩
  unfold VuWrite.hi VuWrite.lo at *
  rw [show (t.core core).abs x.h (x.off + x.first * x.width / 8) = (s.core core).abs x.h (x.off + x.first * x.width / 8) by rw [e]; rfl]
  exact ⟨hout, hcw.imp_left hc⟩

theorem VuWrite.misses.seeded {x : VuWrite} {i : Nat} {rng : Option Rng} (h : x.misses (s.core core) a) : x.misses ((s.seeded core i rng).core core) a := by
  unfold State.seeded
  split
  · unfold State.setRng
    rw [State.core_setCore_self]
    exact h
  · exact h

/-- A batch changes no byte that its writes leave. -/
theorem State.runBatch_read {o : VuOp} {rails : Rails} (hw : (s.core core).spm.wf = true)
    (h : ∀ b u, s.batchOut core o = (.ok b, u) → ∀ x ∈ b.writes, x.misses (s.core core) a) :
    ((s.runBatch core o rails).core core).spm.read a = (s.core core).spm.read a := by
  have read := s.batchOut_fetches (core := core) o
  rcases hb : s.batchOut core o with ⟨st | b, u⟩
  · obtain ⟨-, view, -⟩ := u.failVu_spec core o.tag st
    rw [State.runBatch_fails hb, show (_ : CoreSt).spm = (u.core core).spm from congrArg (·.2.1) view, (read.of_eq hb).spm]
  · replace read := read.of_eq hb
    by_cases hr : rails = .lasting
    · obtain ⟨-, view, -⟩ := u.vuLasting_spec core o
      rw [hr, State.runBatch_lasting hb, show (_ : CoreSt).spm = (u.core core).spm from congrArg (·.2.1) view, read.spm]
    · have seeded := u.seeded_vuView core (tagIndex o.tag) b.rng
      have hspm : ((u.seeded core (tagIndex o.tag) b.rng).core core).spm = (s.core core).spm := (congrArg (·.2.1) seeded).trans (read.spm core)
      have wrote := State.putWrites_read b.writes (hspm ▸ hw) fun x hx => ((h b u hb x hx).fetches read).seeded
      rw [State.runBatch_writes hr hb, ← hspm, ← wrote]
      split
      · exact congrArg (fun m : Mem => m.read a) (congrArg (·.2.1) (State.finishBatch_vuView ..))
      · exact congrArg (fun m : Mem => m.read a) (congrArg (·.2.1) (State.failVu_spec _ core o.tag .uncorrectable).2.1)

end

/-- Settles O57: the batch runs, waits or finds its core stopped, and running it changes no byte its writes leave. -/
theorem vectorBatchStores : Obligations.VectorBatchStores := by
  unfold Obligations.VectorBatchStores
  intro s t core rails o rest hwf hvu hexec c lo hi a h
  obtain rfl := Host.Outcome.next.inj hexec
  unfold State.vuBatch
  dsimp only
  rw [hvu]
  dsimp only
  split
  · rfl
  · unfold State.unlessFull
    split
    · rfl
    · exact State.runBatch_read (State.core_spm_wf hwf core) h

end Sys2Proof.Machine

/-! PROOFS. Device memory read, written and translated leaves the cores as they are (R289 to R299). -/

namespace Sys2Proof.Machine

theorem State.Talk.cores {rs : List Reg} {s t : State} (h : s.Talk rs t) : t.cores = s.cores := by rw [h.rest]

/-- What a pair of a result and a state came from has its cores. -/
theorem State.cores_of_eq {α : Type} {s t : State} {x : α × State} {a : α} (h : x.2.cores = s.cores) (e : x = (a, t)) : t.cores = s.cores := by
  subst e; exact h

/-! ### Sectors -/

theorem State.readOnce_cores (s : State) (k sector : Nat) (noise : Upset) : (s.readOnce k sector noise).2.cores = s.cores := by
  unfold State.readOnce
  dsimp only
  split
  · split <;> rfl
  · rfl

theorem State.readBack_cores (s : State) (k sector : Nat) (noise : Upset) : (s.readBack k sector noise).cores = s.cores := by
  unfold State.readBack
  split
  next heq => exact State.cores_of_eq (s.readOnce_cores ..) heq
  next heq => exact (State.cores_of_eq (s.readOnce_cores ..) heq :)

theorem State.askObject_cores (s : State) (e : Bytes) : (s.askObject e).cores = s.cores :=
  State.Talk.cores (rs := []) (.foldl (fun s _ => (State.Talk.ask s _).trans (State.pumpReads_talk ..)) _ s)

theorem State.sectorEvent_cores (s : State) (i k : Nat) (w : Bool) (st : Option Status) (supply : Bool) : (s.sectorEvent i k w st supply).cores = s.cores :=
  (s.gauge_talk ..).cores

/-- A retry that served a sector, and one that did not, report and leave the cores. -/
theorem State.servedSector_cores (s : State) (i k : Nat) (w : Bool) :
    ((s.transient i 0x0D (sourceOf 4 k) w).sectorEvent i k w none).cores = s.cores :=
  (State.sectorEvent_cores ..).trans (s.transient_talk ..).cores

theorem State.lostSector_cores (s : State) (i k dpa : Nat) (w : Bool) (supply : Bool) :
    (((s.badSector k dpa false).lastingUnit i w).sectorEvent i k w (some .uncorrectable) supply).cores = s.cores :=
  (State.sectorEvent_cores ..).trans (State.lastingUnit_talk ..).cores

theorem State.readSector_cores (s : State) (i sector : Nat) (mirror win : Bool) (va : Nat) (noise partner : Noise) (spare : Bool) :
    (s.readSector i sector mirror win va noise partner spare).2.cores = s.cores := by
  unfold State.readSector
  dsimp only
  generalize stackOf s.key (sector * 32) = k
  have h1 := s.readOnce_cores k sector noise.first
  generalize s.readOnce k sector noise.first = x at h1 ⊢
  obtain ⟨_ | bs, s1⟩ := x
  case some => exact h1
  have h2 := (s1.readOnce_cores k sector noise.second).trans h1
  dsimp only
  generalize s1.readOnce k sector noise.second = x at h2 ⊢
  obtain ⟨_ | bs, s2⟩ := x
  case some => exact (State.servedSector_cores ..).trans h2
  dsimp only
  generalize hy : (if (s2.refetch.find? fun r => r.ctx == i && r.sector == sector).isSome = true then s2 else s2.bump F.hscStackCorrUncorr k) = y
  have hy : y.cores = s.cores := by
    rw [← hy]
    split <;> exact h2
  generalize hz : (if (mirror && !spare && _) = true then _ else (none, y)) = z
  have hz : z.2.cores = s.cores := by
    rw [← hz]
    split
    · exact (y.readOnce_cores ..).trans hy
    · exact hy
  obtain ⟨_ | bs, s4⟩ := z
  case some => exact (State.servedSector_cores ..).trans ((State.readBack_cores ..).trans hz)
  dsimp only
  split
  · split
    · exact (State.lostSector_cores ..).trans hz
    · exact hz
  · split
    · split
      · exact (State.askObject_cores ..).trans hz
      · exact (State.lostSector_cores ..).trans hz
    · exact (State.lostSector_cores ..).trans hz

theorem State.readDpa_cores (s : State) (i dpa n : Nat) (mirror win : Bool) (va : Nat) (noise : Noise) :
    (s.readDpa i dpa n mirror win va noise).2.cores = s.cores := by
  unfold State.readDpa
  dsimp only
  split
  · rfl
  split
  · rfl
  split
  · rfl
  generalize (if s.stackDown dpa = true then _ else _) = base
  generalize hx : List.foldl _ (Fetched.data [], s) _ = x
  have h : x.2.cores = s.cores := by
    rw [← hx]
    refine List.foldlRecOn (motive := fun acc : Fetched × State => acc.2.cores = s.cores) _ _ rfl fun acc ih j _ => ?_
    generalize (if j = 0 then noise else Noise.none) = nz
    split
    · split
      · exact ih
      · have k := (acc.2.readSector_cores i (base + j) mirror win va nz Noise.none (s.stackDown dpa)).trans ih
        split
        · next e => exact State.cores_of_eq k e
        · exact k
    · exact ih
  obtain ⟨r, t⟩ := x
  cases r <;> exact h

/-! ### Translation -/

theorem State.nodeRead_cores (s : State) (dpa : Nat) (noise : Noise) : (s.nodeRead dpa noise).2.cores = s.cores := by
  unfold State.nodeRead
  dsimp only
  split
  · rfl
  split
  next e1 => exact State.cores_of_eq (s.readOnce_cores ..) e1
  next s1 e1 =>
    split
    next e2 => exact (State.cores_of_eq (s1.readOnce_cores ..) e2).trans (State.cores_of_eq (s.readOnce_cores ..) e1)
    next e2 => exact (State.cores_of_eq (s1.readOnce_cores ..) e2).trans (State.cores_of_eq (s.readOnce_cores ..) e1)

theorem State.nodeEntry_cores (s : State) (f i dpa : Nat) (noise : Noise) : (s.nodeEntry f i dpa noise).2.cores = s.cores := by
  unfold State.nodeEntry
  split
  · rfl
  · exact s.nodeRead_cores ..

/-- A choice of two results, each with the cores of `s`. -/
theorem State.ite_cores {α : Type} {s : State} {p : Prop} [Decidable p] {x y : α × State} (hx : x.2.cores = s.cores) (hy : y.2.cores = s.cores) :
    (if p then x else y).2.cores = s.cores := by
  split
  · exact hx
  · exact hy

theorem State.walk_cores (s : State) (f i va : Nat) (noise : Noise) : (s.walk f i va noise).2.cores = s.cores := by
  unfold State.walk
  dsimp only
  refine State.ite_cores rfl ?_
  have e1 := s.nodeEntry_cores f i (entryDpa (s.getF F.hscPtRootRoot i * 4096) va 3) noise
  generalize s.nodeEntry f i _ noise = x at e1 ⊢
  obtain ⟨_ | n1, s1⟩ := x
  · exact e1
  dsimp only at e1 ⊢
  refine State.ite_cores e1 (State.ite_cores e1 (State.ite_cores e1 ?_))
  generalize hk : s1.keepNode f i _ n1 = t1
  have e2 := (t1.nodeEntry_cores f i (entryDpa (bits n1 40 12 * 4096) va 2) Noise.none).trans ((hk ▸ rfl : t1.cores = s1.cores).trans e1)
  generalize t1.nodeEntry f i _ Noise.none = x at e2 ⊢
  obtain ⟨_ | n2, s2⟩ := x
  · exact e2
  dsimp only at e2 ⊢
  refine State.ite_cores e2 (State.ite_cores e2 (State.ite_cores e2 ?_))
  generalize hk : s2.keepNode f i _ n2 = t2
  have e3 := (t2.nodeRead_cores (entryDpa (bits n2 40 12 * 4096) va 1) Noise.none).trans ((hk ▸ rfl : t2.cores = s2.cores).trans e2)
  generalize t2.nodeRead _ Noise.none = x at e3 ⊢
  obtain ⟨_ | n3, s3⟩ := x
  · exact e3
  dsimp only at e3 ⊢
  exact State.ite_cores e3 (State.ite_cores e3 (State.ite_cores e3 (State.ite_cores e3 e3)))

theorem State.leaf_cores (s : State) (u : Translator) (i va : Nat) (noise : Noise) : (s.leaf u i va noise).2.cores = s.cores := by
  unfold State.leaf
  dsimp only
  split
  · rfl
  split
  · rfl
  split
  next e => exact (State.cores_of_eq (s.walk_cores (unitField u) i va noise) e :)
  · exact s.walk_cores ..

theorem State.ptFault_cores (s : State) (reason tag va : Nat) : (s.ptFault reason tag va).cores = s.cores := by
  unfold State.ptFault
  split <;> rfl

theorem State.translate_cores (s : State) (u : Translator) (tag va : Nat) (write : Bool) (noise : Noise) :
    (s.translate u tag va write noise).2.cores = s.cores := by
  unfold State.translate
  dsimp only
  split_ifs
  · exact s.ptFault_cores ..
  · exact s.ptFault_cores ..
  · exact s.ptFault_cores ..
  · rfl
  split
  · rfl
  split
  · exact s.ptFault_cores ..
  split
  next e => exact (State.ptFault_cores ..).trans (State.cores_of_eq (s.leaf_cores ..) e)
  next e =>
    replace e := State.cores_of_eq (s.leaf_cores ..) e
    split
    · exact (State.ptFault_cores ..).trans e
    · exact e

theorem State.readVa_cores (s : State) (t : Translator) (tag va n : Nat) (win : Bool) (u : Units) (noise : Noise) :
    (s.readVa t tag va n win u noise).2.cores = s.cores := by
  unfold State.readVa
  dsimp only
  refine List.foldlRecOn (motive := fun acc : Fetched × State => acc.2.cores = s.cores) _ _ rfl fun acc ih p _ => ?_
  split
  · split
    next e => exact (State.cores_of_eq (State.translate_cores ..) e).trans ih
    next q b e =>
      have k := (b.readDpa_cores (tagIndex tag) (if u = .sectors then q.dpa / 32 * 32 else q.dpa)
        (if u = .sectors then roundUp (q.dpa - (if u = .sectors then q.dpa / 32 * 32 else q.dpa) + p.2) 32 else p.2) q.mirror win q.va
        (if p.1 = va then noise else Noise.none)).trans ((State.cores_of_eq (State.translate_cores ..) e).trans ih)
      split
      next e => exact State.cores_of_eq k e
      · exact k
  · exact ih

/-! ### Writes -/

theorem State.rewriteBoth_cores (s : State) (sector : Nat) (bs : Bytes) (mirror : Bool) : (s.rewriteBoth sector bs mirror).cores = s.cores := by
  unfold State.rewriteBoth
  dsimp only
  split <;> rfl

theorem State.mergeServed_cores (s : State) (own : Option (Nat × Bool)) (k : Nat) : (s.mergeServed own k).cores = s.cores := by
  unfold State.mergeServed
  split
  · exact s.servedSector_cores ..
  · rfl

theorem State.mergeSector_cores (s : State) (sector : Nat) (mirror : Bool) (own : Option (Nat × Bool)) (noise : Noise) :
    (s.mergeSector sector mirror own noise).2.cores = s.cores := by
  unfold State.mergeSector
  dsimp only
  generalize stackOf s.key (sector * 32) = k
  have h1 := s.readOnce_cores k sector noise.first
  generalize s.readOnce k sector noise.first = x at h1 ⊢
  obtain ⟨_ | bs, s1⟩ := x
  case some => exact h1
  have h2 := (s1.readOnce_cores k sector noise.second).trans h1
  dsimp only
  generalize s1.readOnce k sector noise.second = x at h2 ⊢
  obtain ⟨_ | bs, s2⟩ := x
  case some => exact (State.mergeServed_cores ..).trans h2
  dsimp only
  generalize hy : s2.bump F.hscStackCorrUncorr k = y
  have hy : y.cores = s.cores := hy ▸ h2
  have bad : ∀ z : State, z.cores = s.cores → ∀ own : Option (Nat × Bool), (match own with
      | some (i, win) => ((z.badSector k (sector * 32) false).lastingUnit i win).sectorEvent i k win (some .uncorrectable)
      | none => z.badSector k (sector * 32) false).cores = s.cores := by
    rintro z hz (_ | ⟨i, win⟩)
    · exact hz
    · exact (State.lostSector_cores ..).trans hz
  split
  · split
    next e3 => exact (State.mergeServed_cores ..).trans ((State.readBack_cores ..).trans ((State.cores_of_eq (y.readOnce_cores ..) e3).trans hy))
    next s3 e3 => exact bad s3 ((State.cores_of_eq (y.readOnce_cores ..) e3).trans hy) own
  · exact bad y hy own

theorem State.writeOne_cores (s : State) (dpa : Nat) (bs : Bytes) (mirror : Bool) (own : Option (Nat × Bool)) (noise : Noise) :
    (s.writeOne dpa bs mirror own noise).2.cores = s.cores := by
  unfold State.writeOne
  dsimp only
  split
  · rfl
  refine List.foldlRecOn (motive := fun acc : Bool × State => acc.2.cores = s.cores) _ _ rfl fun acc ih j _ => ?_
  split_ifs
  · exact ih
  · exact (State.rewriteBoth_cores ..).trans ih
  all_goals
    split
    next e => exact (State.rewriteBoth_cores ..).trans ((State.cores_of_eq (State.mergeSector_cores ..) e).trans ih)
    next e => exact (State.cores_of_eq (State.mergeSector_cores ..) e).trans ih

theorem State.writeDpa_cores (s : State) (dpa : Nat) (bs : Bytes) (mirror : Bool) (own : Option (Nat × Bool)) (noise : Noise) :
    (s.writeDpa dpa bs mirror own noise).2.cores = s.cores := by
  unfold State.writeDpa
  split
  · rfl
  split
  next e => exact State.cores_of_eq (s.writeOne_cores ..) e
  next e => exact State.cores_of_eq (s.writeOne_cores ..) e

theorem State.mergeSpan_cores (s : State) (dpa n : Nat) (mirror : Bool) (own : Option (Nat × Bool)) (noise : Noise) :
    (s.mergeSpan dpa n mirror own noise).2.cores = s.cores := by
  unfold State.mergeSpan
  dsimp only
  refine List.foldlRecOn (motive := fun acc : Option Bytes × State => acc.2.cores = s.cores) _ _ rfl fun acc ih j _ => ?_
  split
  · exact ih
  split
  · exact ih
  split
  next e => exact (State.cores_of_eq (State.mergeSector_cores ..) e).trans ih
  · exact (State.mergeSector_cores ..).trans ih

theorem State.writePiece_cores (s : State) (q : Place) (bs : Bytes) (u : Units) (i : Nat) (win : Bool) (noise : Noise) :
    (s.writePiece q bs u i win noise).2.cores = s.cores := by
  unfold State.writePiece
  dsimp only
  split
  · exact s.writeDpa_cores ..
  split
  · exact s.writeDpa_cores ..
  split
  · rfl
  split
  next e => exact (State.writeDpa_cores ..).trans (State.cores_of_eq (s.mergeSpan_cores ..) e)
  next e => exact State.cores_of_eq (s.mergeSpan_cores ..) e

theorem State.writeVa_cores (s : State) (t : Translator) (tag va : Nat) (bs : Bytes) (win : Bool) (u : Units) :
    (s.writeVa t tag va bs win u).2.cores = s.cores := by
  unfold State.writeVa
  refine List.foldlRecOn (motive := fun acc : Status × State => acc.2.cores = s.cores) _ _ rfl fun acc ih p _ => ?_
  split
  · exact ih
  split
  next e => exact (State.cores_of_eq (State.translate_cores ..) e).trans ih
  next e => exact (State.writePiece_cores ..).trans ((State.cores_of_eq (State.translate_cores ..) e).trans ih)

end Sys2Proof.Machine

/-! PROOFS. A block committed at its destination leaves its run as it was but for what is still to be acknowledged (R212, R265). -/

namespace Sys2Proof.Machine

/-- The run of a stream, but for the acknowledgments it waits for. -/
def State.runView (s : State) (core j : Nat) : Option Run := ((s.core core).strm j).run.map (fun r => { r with acks := [] })

section
variable {s t : State} {core j : Nat}

theorem State.core_of_cores (h : t.cores = s.cores) (k : Nat) : t.core k = s.core k := congrArg (fun l => Table.get l CoreSt.idle k) h

theorem State.runView_of_strms (h : (t.core core).strms = (s.core core).strms) : t.runView core j = s.runView core j := by
  unfold State.runView CoreSt.strm
  rw [h]

theorem State.runView_of_cores (h : t.cores = s.cores) : t.runView core j = s.runView core j :=
  State.runView_of_strms (congrArg CoreSt.strms (State.core_of_cores h core))

theorem State.Stores.runView (h : s.Stores core t) : t.runView core j = s.runView core j := State.runView_of_strms h.strms

/-- What a stream's run is, given its view. -/
theorem State.runView_some {r : Run} (h : ((s.core core).strm j).run = some r) (k : t.runView core j = s.runView core j) :
    ∃ x, ((t.core core).strm j).run = some x ∧ { x with acks := [] } = { r with acks := [] } := by
  unfold State.runView at k
  rw [h] at k
  exact Option.map_eq_some_iff.1 k

/-- A change of a core other than its streams. -/
theorem State.runView_setCore (s : State) {c : CoreSt} (h : c.strms = (s.core core).strms) : (s.setCore core c).runView core j = s.runView core j :=
  State.runView_of_strms (by rw [State.core_setCore_self, h])

/-- Acknowledgments that a run waits for. -/
theorem State.runView_acks (s : State) (f : Run → List Nat) :
    (s.setCore core ((s.core core).setStrm j { (s.core core).strm j with run := ((s.core core).strm j).run.map (fun r => { r with acks := f r }) })).runView core j =
      s.runView core j := by
  unfold State.runView
  rw [State.core_setCore_self, CoreSt.strm_setStrm_self, Option.map_map]
  rfl

theorem State.sendPacket_cores (s : State) (p : Packet) : (s.sendPacket p).cores = s.cores := by
  unfold State.sendPacket
  dsimp only
  split
  · rfl
  split
  · exact (State.faultTag_talk ..).cores.trans (s.launch_talk p).cores
  · exact (s.launch_talk p).cores

theorem State.request_cores (s : State) (type tag a size srcUnit deadline : Nat) (service : Bool) (body : Bytes) (who : Requester) (piece : Nat) (again : Bool)
    (u : Units) : (s.request type tag a size srcUnit deadline service body who piece again u).2.cores = s.cores := by
  unfold State.request
  dsimp only
  have h := fun p => (s.launch_talk p).cores
  split
  next e => exact State.cores_of_eq (h _) e
  next e => exact (State.cores_of_eq (h _) e :)

theorem State.sendBlock_runView (s : State) (e : Nat) (hdr : Bytes) (hops deadline check : Nat) (service : Bool) (rest : Bytes) (strm : Option (Nat × Nat)) :
    (s.sendBlock core e hdr hops deadline check service rest strm).2.runView core j = s.runView core j := by
  unfold State.sendBlock
  exact (State.runView_of_cores (State.sendPacket_cores ..)).trans (s.runView_setCore rfl)

theorem State.putBlock_runView (s : State) (h slot : Nat) (rest : Bytes) (trail : Option Nat) :
    (s.putBlock core h slot rest trail).runView core j = s.runView core j := by
  unfold State.putBlock
  dsimp only
  generalize hx : ite (((s.core core).polder h).compressed = true) _ _ = x
  have k : s.Stores core x := by
    rw [← hx]
    split
    · split
      · exact s.spmWrite_stores ..
      · exact (s.spmWrite_stores ..).trans (State.spmWrite_stores ..)
    · exact s.spmWrite_stores ..
  split
  · refine Eq.trans ?_ k.runView
    exact x.runView_setCore rfl
  · exact k.runView

theorem State.originLanded_runView (s : State) (h slot : Nat) : (s.originLanded core h slot).2.runView core j = s.runView core j := by
  unfold State.originLanded
  dsimp only
  split
  · split
    · rfl
    · exact s.runView_setCore rfl
  · rfl

/-- A write at a destination on this chip leaves every stream as it was. -/
theorem State.writeSide_strms (s : State) (tag : Nat) (d : StreamDesc) (index a deadline : Nat) (bs : Bytes) (u : Units) (h : d.dstKind ≠ 2) :
    ((s.writeSide core j tag d index a deadline bs u).2.core core).strms = (s.core core).strms := by
  have hk : d.dstKind < 4 := bits_lt ..
  unfold State.writeSide
  split
  · split
    · rfl
    · split
      next e => exact ((s.spmWrite_stores ..).of_eq e).strms
      next e => exact ((s.spmWrite_stores ..).of_eq e).strms
  split
  · exact congrArg CoreSt.strms (State.core_of_cores (s.writeVa_cores ..) core)
  split
  · rfl
  · omega

theorem State.writeSide_runView (s : State) (tag : Nat) (d : StreamDesc) (index a deadline : Nat) (bs : Bytes) (u : Units) :
    (s.writeSide core j tag d index a deadline bs u).2.runView core j = s.runView core j := by
  by_cases h2 : d.dstKind = 2
  · unfold State.writeSide
    rw [if_neg (by omega), if_neg (by omega), if_neg (by omega)]
    split
    · split
      · exact State.runView_of_cores (s.writeVa_cores ..)
      · rfl
    refine List.foldlRecOn (motive := fun acc : Status × State => acc.2.runView core j = s.runView core j) _ _ rfl fun acc ih p _ => ?_
    split
    · exact ih
    split
    next e => exact (State.runView_of_cores (State.cores_of_eq (State.request_cores ..) e)).trans ih
    next e => exact (State.runView_acks ..).trans ((State.runView_of_cores (State.cores_of_eq (State.request_cores ..) e)).trans ih)
  · exact State.runView_of_strms (s.writeSide_strms _ _ _ _ _ _ _ h2)

/-- What a pair of a result and a state came from has its run. -/
theorem State.runView_of_eq {α : Type} {x : α × State} {a : α} (h : x.2.runView core j = s.runView core j) (e : x = (a, t)) :
    t.runView core j = s.runView core j := by
  subst e; exact h

/-- A block that commits leaves its run as it was but for acknowledgments. -/
theorem State.commitBlock_runView {s u : State} {core j tag : Nat} {d : StreamDesc} {b : StrmBlock} {plain : Bytes} {stored : Option (Bytes × Bytes)} {st : Status}
    (h : s.commitBlock core j tag d b plain stored = some (st, u)) : u.runView core j = s.runView core j := by
  have hx : ∀ x, s.commitBlock core j tag d b plain stored = some x → x.2.runView core j = s.runView core j := by
    unfold State.commitBlock
    dsimp only
    split
    · split
      · rintro x ⟨⟩; rfl
      split
      · rintro x ⟨⟩
      · rintro x ⟨⟩
        exact (State.runView_acks ..).trans (s.sendBlock_runView ..)
    split
    · split
      · rintro x ⟨⟩
        exact (State.originLanded_runView ..).trans (s.putBlock_runView ..)
      · split
        next e => rintro x ⟨⟩; exact ((s.spmWrite_stores ..).of_eq e).runView
        next e => rintro x ⟨⟩; exact (State.originLanded_runView ..).trans ((s.spmWrite_stores ..).of_eq e).runView
    split
    · split
      next y e =>
        rintro x ⟨⟩
        have k := State.runView_of_eq (s.writeSide_runView ..) e
        split
        · exact k
        · exact (State.writeSide_runView ..).trans k
      · rintro x ⟨⟩
        exact s.writeSide_runView ..
    split
    · rintro x ⟨⟩
      exact s.writeSide_runView ..
    · rintro x ⟨⟩
      refine List.foldlRecOn (motive := fun acc : (Status × State) × Nat => acc.1.2.runView core j = s.runView core j) _ _ rfl fun acc ih p _ => ?_
      split
      · exact ih
      · exact (State.writeSide_runView ..).trans ih
  exact hx _ h

end

end Sys2Proof.Machine

/-! PROOFS. STREAM_BLOCK_WRITE: blocks counted, fetched again and written (R96, R158, R212, R213). -/

namespace Sys2Proof.Machine

/-! ### A run put back into its stream -/

section
variable (s : State) (core j : Nat) (r : Run)

theorem State.setRun_core : (s.setRun core j r).core core = (s.core core).setStrm j { (s.core core).strm j with run := some r } := State.core_setCore_self ..

@[simp] theorem State.setRun_strm : ((s.setRun core j r).core core).strm j = { (s.core core).strm j with run := some r } := by
  rw [State.setRun_core, CoreSt.strm_setStrm_self]

@[simp] theorem State.setRun_spm : ((s.setRun core j r).core core).spm = (s.core core).spm := by rw [State.setRun_core]; rfl
@[simp] theorem State.setRun_hbm : (s.setRun core j r).hbm = s.hbm := rfl

end

/-- The flight of a run with one of its blocks replaced. -/
def Run.withBlock (r : Run) (b : StrmBlock) : Run := { r with flight := r.flight.map (fun y => if y.index == b.index then b else y) }

theorem State.setBlock_eq {s : State} {core j : Nat} {r : Run} (h : ((s.core core).strm j).run = some r) (b : StrmBlock) :
    s.setBlock core j b = s.setRun core j (r.withBlock b) := by
  unfold State.setBlock
  rw [h]
  rfl

/-- A block replaced in a run just put back. -/
theorem State.setRun_setBlock (s : State) (core j : Nat) (r : Run) (b : StrmBlock) :
    (((s.setRun core j r).setBlock core j b).core core).strm j = { (s.core core).strm j with run := some (r.withBlock b) } ∧
      (((s.setRun core j r).setBlock core j b).core core).spm = (s.core core).spm ∧ ((s.setRun core j r).setBlock core j b).hbm = s.hbm := by
  rw [State.setBlock_eq (r := r) (by simp)]
  simp

/-- The first block of a flight, its index found nowhere behind it, replaced. -/
theorem flight_withBlock {b b' : StrmBlock} {rest : List StrmBlock} (h : rest.all (fun y => y.index != b.index) = true) (hi : b'.index = b.index) :
    (b :: rest).map (fun y => if y.index == b'.index then b' else y) = b' :: rest := by
  have others : rest.map (fun y => if y.index == b.index then b' else y) = rest := by
    refine (List.map_congr_left fun y hy => ?_).trans rest.map_id
    have hne : y.index ≠ b.index := by simpa using List.all_eq_true.1 h y hy
    exact if_neg (by simpa using hne)
  rw [List.map_cons, hi, beq_self_eq_true, if_pos rfl, others]

/-! ### What host memory gives -/

section
variable (b : StrmBlock) (d : StreamDesc) (ext : Bytes)

/-- Host memory gives a block its bytes and its tag, nothing else. -/
theorem StrmBlock.take_eq : ∃ data tag, b.take d ext = { b with data := data, tag := tag } := by
  unfold StrmBlock.take
  split_ifs <;> exact ⟨_, _, rfl⟩

@[simp] theorem StrmBlock.take_index : (b.take d ext).index = b.index := by
  obtain ⟨_, _, e⟩ := b.take_eq d ext
  rw [e]

@[simp] theorem StrmBlock.take_again : (b.take d ext).again = b.again := by
  obtain ⟨_, _, e⟩ := b.take_eq d ext
  rw [e]

@[simp] theorem StrmBlock.take_plain : (b.take d ext).plain = b.plain := by
  obtain ⟨_, _, e⟩ := b.take_eq d ext
  rw [e]

end

/-! ### A block written at its destination -/

/-- The cores and device memory. -/
def State.memories (s : State) : List (Nat × CoreSt) × Mem := (s.cores, s.hbm)

theorem State.Talk.memories {rs : List Reg} {s t : State} (h : s.Talk rs t) : t.memories = s.memories := by rw [h.rest]; rfl

theorem State.countPacked_memories (s : State) (core : Nat) (tag : Bytes) : (s.countPacked core tag).memories = s.memories := by
  unfold State.countPacked
  split_ifs <;> rfl

/-- What a block is at a compressed destination: as it came, or packed by the tables of the core. -/
def CoreSt.storedForm (c : CoreSt) (r : Run) (b : StrmBlock) (plain : Bytes) : Option (Bytes × Bytes) :=
  let packed := packBlock (c.packTable r) (if r.desc.dstKind = 0 then (c.polder r.desc.dstHandle).classW else false) plain
  if r.desc.stored then some (b.tag, b.data) else if r.desc.pack then some (packed.tag, packed.payload) else none

/-- A block that commits is counted in its run, leaves the flight and feeds the digest. -/
theorem State.putChecked_commits {s u : State} {core strm : Nat} {r r' : Run} {b : StrmBlock} {plain : Bytes}
    (h : s.commitBlock core strm ((s.core core).strm strm).owner r.desc b plain ((s.core core).storedForm r b plain) = some (.ok, u))
    (hr : ((u.core core).strm strm).run = some r') :
    let t := s.putChecked core strm r b plain
    ∃ x, ((t.core core).strm strm).run = some x ∧ x.written = r'.written + 1 ∧ x.flight = r'.flight.drop 1 ∧ x.status = r'.status ∧
      (r.desc.digest = true → x.digest = r'.digest ++ plain) ∧ (t.core core).spm = (u.core core).spm ∧ t.hbm = u.hbm := by
  unfold CoreSt.storedForm at h
  unfold State.putChecked
  dsimp only at h ⊢
  rw [h]
  dsimp only
  rw [hr]
  dsimp only
  rw [if_neg (not_not.2 rfl)]
  generalize hx : ite (r.desc.srcCmp = true) u _ = x
  have kx : x.memories = u.memories := by
    rw [← hx]
    split
    · rfl
    · exact (u.tally_talk ..).memories
  generalize hy : ite ((b.again && !r.desc.srcCmp) = true) _ x = y
  have ky : y.memories = u.memories := by
    rw [← hy]
    split
    · exact (x.transient_talk ..).memories.trans kx
    · exact kx
  generalize hz : ite (r.desc.pack = true) _ y = z
  have kz : z.memories = u.memories := by
    rw [← hz]
    split
    · exact (y.countPacked_memories ..).trans ky
    · exact ky
  have ends : ∀ (v : State) (x : Run), v.memories = u.memories → let t := (v.setRun core strm x).progress (tagIndex ((s.core core).strm strm).owner)
      ((t.core core).strm strm).run = some x ∧ (t.core core).spm = (u.core core).spm ∧ t.hbm = u.hbm := by
    intro v x kv
    have hcore : v.core core = u.core core := State.core_of_cores (congrArg Prod.fst kv) core
    exact ⟨congrArg Strm.run (v.setRun_strm core strm x), (v.setRun_spm core strm x).trans (congrArg CoreSt.spm hcore), congrArg Prod.snd kv⟩
  have digest : r.desc.digest = true → (if r.desc.digest = true then r'.digest ++ plain else r'.digest) = r'.digest ++ plain := fun h => if_pos h
  split
  · obtain ⟨hrun, hspm, hhbm⟩ := ends _ _ ((State.gauge_talk ..).memories.trans kz)
    exact ⟨_, hrun, rfl, rfl, rfl, digest, hspm, hhbm⟩
  · obtain ⟨hrun, hspm, hhbm⟩ := ends _ _ kz
    exact ⟨_, hrun, rfl, rfl, rfl, digest, hspm, hhbm⟩

/-! ### STREAM_BLOCK_WRITE -/

section
variable {s : State} {core : CoreId} {strm : StreamId} {r : Run} {b : StrmBlock} {rest : List StrmBlock} {ext : Bytes} {hit : Upset}

theorem exec_streamBlockWrite_front (hrun : ((s.core core).strm strm).run = some r) (hflight : r.flight = b :: rest)
    (ho : s.overfills (tagIndex ((s.core core).strm strm).owner) (s.writeBlock core strm r b ext hit) = false) :
    exec (.streamBlockWrite core strm ext hit) s = .next (s.writeBlock core strm r b ext hit) := by
  show execStreamBlockWrite core strm ext hit s = _
  unfold execStreamBlockWrite
  rw [hrun]
  dsimp only
  rw [hflight]
  dsimp only
  rw [State.unlessFull, ho]
  rfl

end

/-- A block of a live run that has come in whole is counted, fails its check, or is written. -/
theorem State.writeBlock_live {s : State} {core strm : Nat} {r : Run} {b : StrmBlock} {ext : Bytes} {hit : Upset}
    (hlive : (s.live ((s.core core).strm strm).owner && r.status == .ok) = true) (hwait : b.waiting = 0) (hrst : (s.core core).rst < 2)
    (hasked : b.asked = true) (hok : b.status = .ok) :
    s.writeBlock core strm r b ext hit =
      let b' := b.take r.desc ext
      let u := s.setBlock core strm b'
      if r.desc.srcCmp then (if r.expanded ≤ b.index then u else u.putChecked core strm r b' b.plain)
      else if r.pass = 0 then u.setRun core strm { r with hist := blockHistogram r.hist b'.data, written := r.written + 1, flight := r.flight.drop 1 }
      else if crc32c (upsetBytes b'.data hit) ≠ crc32c b'.data then
        let u := u.bump F.seCmpDamageCount core
        let r := { r with supply := r.supply || u.inSupply }
        if b.again then
          ((u.damageLasting core).lastingBlock (tagIndex ((s.core core).strm strm).owner)).setRun core strm { r with status := .damagedBlock, breaches := r.breaches + 1 }
        else (u.setRun core strm r).setBlock core strm (b'.refetch r.desc)
      else u.putChecked core strm r b' (upsetBytes b'.data hit) := by
  unfold State.writeBlock
  dsimp only
  rw [if_neg (by omega), hlive, Bool.not_true, Bool.false_and, if_neg Bool.false_ne_true, hasked, Bool.not_true, if_neg Bool.false_ne_true, if_neg (not_not.2 hok),
    if_neg Bool.false_ne_true, StrmBlock.take_again, StrmBlock.take_plain]
  cases r.desc.srcCmp <;> simp

section
variable {s : State} {core : CoreId} {strm : StreamId} {r : Run} {b : StrmBlock} {rest : List StrmBlock} {ext : Bytes} {hit : Upset}
variable (hrun : ((s.core core).strm strm).run = some r) (hlive : (s.live ((s.core core).strm strm).owner && r.status == .ok) = true)
variable (hflight : r.flight = b :: rest) (hwait : b.waiting = 0) (hrst : (s.core core).rst < 2) (hasked : b.asked = true) (hok : b.status = .ok)

include hrun in
/-- A block put back changes no memory and none of what the stream is armed with. -/
theorem State.setBlock_keeps (b : StrmBlock) :
    let u := s.setBlock core strm b
    (u.core core).strm strm = { (s.core core).strm strm with run := some (r.withBlock b) } ∧ (u.core core).spm = (s.core core).spm ∧ u.hbm = s.hbm ∧
      ∀ r b plain, (u.core core).storedForm r b plain = (s.core core).storedForm r b plain := by
  rw [State.setBlock_eq hrun]
  refine ⟨s.setRun_strm .., s.setRun_spm .., rfl, fun r b plain => ?_⟩
  rw [State.setRun_core]
  rfl

include hrun hlive hflight hwait hrst hasked hok

/-- The histogram pass counts a block. -/
theorem State.writeBlock_counts (hpass : r.pass = 0) (hcmp : r.desc.srcCmp = false) :
    let t := s.writeBlock core strm r b ext hit
    t.hbm = s.hbm ∧ (t.core core).spm = (s.core core).spm ∧
      ((t.core core).strm strm).run = some { r with hist := blockHistogram r.hist (b.take r.desc ext).data, written := r.written + 1, flight := rest } := by
  obtain ⟨-, hspm, hhbm, -⟩ := State.setBlock_keeps hrun (b.take r.desc ext)
  rw [State.writeBlock_live hlive hwait hrst hasked hok]
  dsimp only
  rw [hcmp, if_neg Bool.false_ne_true, if_pos hpass, State.setRun_spm, State.setRun_strm, hflight]
  exact ⟨hhbm, hspm, rfl⟩

/-- A block whose check fails goes back to its source once, then fails the run. -/
theorem State.writeBlock_damaged (hrest : rest.all (fun y => y.index != b.index) = true) (hpass : r.pass ≠ 0) (hcmp : r.desc.srcCmp = false)
    (hcrc : crc32c (upsetBytes (b.take r.desc ext).data hit) ≠ crc32c (b.take r.desc ext).data) :
    let t := s.writeBlock core strm r b ext hit
    ∃ x, ((t.core core).strm strm).run = some x ∧ x.written = r.written ∧
      (b.again = false → x.status = .ok ∧ x.flight = (b.take r.desc ext).refetch r.desc :: rest) ∧ (b.again = true → x.status = .damagedBlock) ∧
      t.hbm = s.hbm ∧ (t.core core).spm = (s.core core).spm := by
  obtain ⟨-, hspm, hhbm, -⟩ := State.setBlock_keeps hrun (b.take r.desc ext)
  rw [State.writeBlock_live hlive hwait hrst hasked hok]
  dsimp only
  rw [hcmp, if_neg Bool.false_ne_true, if_neg hpass, if_pos hcrc]
  generalize hv : (s.setBlock core strm (b.take r.desc ext)).bump F.seCmpDamageCount core = v
  have hspm : (v.core core).spm = (s.core core).spm := hv ▸ hspm
  have hhbm : v.hbm = s.hbm := hv ▸ hhbm
  cases hagain : b.again
  · obtain ⟨hstrm, hspm', hhbm'⟩ := v.setRun_setBlock core strm { r with supply := r.supply || v.inSupply } ((b.take r.desc ext).refetch r.desc)
    have hst : r.status = .ok := by simpa using (Bool.and_eq_true_iff.1 hlive).2
    refine ⟨_, congrArg Strm.run hstrm, rfl, fun _ => ⟨hst, ?_⟩, fun h => absurd h Bool.false_ne_true, hhbm'.trans hhbm, hspm'.trans hspm⟩
    unfold Run.withBlock
    rw [hflight]
    exact flight_withBlock hrest (StrmBlock.take_index ..)
  · rw [if_pos rfl]
    have k := ((v.damageLasting core).lastingBlock_talk (tagIndex ((s.core core).strm strm).owner) false).memories
    refine ⟨_, congrArg Strm.run (State.setRun_strm ..), rfl, fun h => absurd h.symm Bool.false_ne_true, fun _ => rfl, (congrArg Prod.snd k).trans hhbm, ?_⟩
    exact (State.setRun_spm ..).trans ((congrArg CoreSt.spm (State.core_of_cores (congrArg Prod.fst k) core)).trans hspm)

/-- A sound block is written at its destination. -/
theorem State.writeBlock_writes {plain : Bytes} {u : State} (hrest : rest.all (fun y => y.index != b.index) = true) (hpass : r.pass ≠ 0)
    (hcmp : r.desc.srcCmp = true → b.index < r.expanded ∧ plain = b.plain)
    (hcrc : r.desc.srcCmp = false → crc32c (upsetBytes (b.take r.desc ext).data hit) = crc32c (b.take r.desc ext).data ∧
      plain = upsetBytes (b.take r.desc ext).data hit)
    (hcommit : (s.setBlock core strm (b.take r.desc ext)).commitBlock core strm ((s.core core).strm strm).owner r.desc (b.take r.desc ext) plain
      ((s.core core).storedForm r (b.take r.desc ext) plain) = some (.ok, u)) :
    let t := s.writeBlock core strm r b ext hit
    ∃ x, ((t.core core).strm strm).run = some x ∧ x.written = r.written + 1 ∧ x.flight = rest ∧
      x.status = .ok ∧ (r.desc.digest = true → x.digest = r.digest ++ plain) ∧ (t.core core).spm = (u.core core).spm ∧ t.hbm = u.hbm := by
  obtain ⟨hstrm, -, -, hform⟩ := State.setBlock_keeps hrun (b.take r.desc ext)
  have hwrite : s.writeBlock core strm r b ext hit = (s.setBlock core strm (b.take r.desc ext)).putChecked core strm r (b.take r.desc ext) plain := by
    rw [State.writeBlock_live hlive hwait hrst hasked hok]
    dsimp only
    cases hc : r.desc.srcCmp
    · obtain ⟨hsame, rfl⟩ := hcrc hc
      rw [if_neg Bool.false_ne_true, if_neg hpass, if_neg (not_not.2 hsame)]
    · obtain ⟨hexp, rfl⟩ := hcmp hc
      rw [if_pos rfl, if_neg (Nat.not_le.2 hexp)]
  obtain ⟨r', hr', view⟩ := State.runView_some (congrArg Strm.run hstrm) (State.commitBlock_runView hcommit)
  rw [← hform, show ((s.core core).strm strm).owner = _ from (congrArg Strm.owner hstrm).symm] at hcommit
  obtain ⟨x, hx, hwritten, hfl, hstatus, hdigest, hspm, hhbm⟩ := State.putChecked_commits hcommit hr'
  have hst : r.status = .ok := by simpa using (Bool.and_eq_true_iff.1 hlive).2
  have hflight' : r'.flight = b.take r.desc ext :: rest := by
    rw [show r'.flight = (r.withBlock (b.take r.desc ext)).flight from congrArg (·.flight) view, Run.withBlock, hflight]
    exact flight_withBlock hrest (StrmBlock.take_index ..)
  rw [hwrite]
  refine ⟨x, hx, hwritten.trans (congrArg (·.written + 1) view), hfl.trans ?_, (hstatus.trans (congrArg (·.status) view)).trans hst,
    fun h => (hdigest h).trans (congrArg (·.digest ++ plain) view), hspm, hhbm⟩
  rw [hflight']
  rfl

end

end Sys2Proof.Machine

/-! PROOFS. O24: blocks expanded, and tables loaded and built (R158 to R170). -/

namespace Sys2Proof.Machine

/-! ### EXPAND_BLOCK -/

/-- A block of a flight with one replaced is that one where its index is. -/
theorem mem_withBlock {r : Run} {b y : StrmBlock} (h : y ∈ (r.withBlock b).flight) (hi : y.index = b.index) : y = b := by
  obtain ⟨z, -, e⟩ := List.mem_map.1 h
  split at e
  · exact e.symm
  next hz =>
    subst e
    exact absurd (beq_iff_eq.2 hi) hz

theorem exec_expandBlock_front {s : State} {core : CoreId} {strm : StreamId} {r : Run} {hit : Upset} (hrun : ((s.core core).strm strm).run = some r) :
    exec (.expandBlock core strm hit) s = .next (s.expandBlock core strm r hit) := by
  show execExpandBlock core strm hit s = _
  unfold execExpandBlock
  rw [hrun]

/-- What the expander makes of a block on its way, struck by `hit`. -/
def State.expansion (s : State) (core strm : Nat) (r : Run) (b : StrmBlock) (hit : Upset) : Expanded :=
  let all := upsetBytes (b.tag ++ b.data) hit
  (s.core core).expand ((s.core core).strm strm).owner (slice all 0 64) (all.drop 64)
    (if r.desc.dstKind = 0 then some ((s.core core).polder r.desc.dstHandle).classW else none)

section
variable {s : State} {core strm : Nat} {r : Run} {b : StrmBlock} {hit : Upset}
variable (hfind : r.flight.find? (fun x => x.index == r.expanded) = some b)
variable (hready : ¬ ((!r.desc.srcCmp) = true ∨ (!b.asked) = true ∨ b.waiting ≠ 0 ∨ b.status ≠ .ok ∨ b.tag.isEmpty = true ∨ 2 ≤ (s.core core).rst ∨
  (r.status ≠ .ok ∧ (!b.again) = true)))

include hfind hready

/-- A good block gets the bytes it expands to. -/
theorem State.expandBlock_good {bs : Bytes} (hgot : s.expansion core strm r b hit = .bytes bs) :
    let t := s.expandBlock core strm r hit
    ∃ x, ((t.core core).strm strm).run = some x ∧ x.expanded = r.expanded + 1 ∧
      (∀ y ∈ x.flight, y.index = b.index → y.plain = slice bs 0 (r.desc.blockLen b.index)) ∧ t.hbm = s.hbm ∧ (t.core core).spm = (s.core core).spm := by
  unfold State.expansion at hgot
  unfold State.expandBlock
  dsimp only at hgot ⊢
  rw [hfind]
  dsimp only
  rw [if_neg hready, hgot]
  dsimp only
  generalize hv : ite (b.again = true) _ _ = v
  have kv : v.memories = s.memories := by
    rw [← hv]
    split
    · exact (State.transient_talk ..).memories.trans (s.tally_talk ..).memories
    · exact (s.tally_talk ..).memories
  obtain ⟨hstrm, hspm, hhbm⟩ := v.setRun_setBlock core strm { r with retries := r.retries + b2n b.again, expanded := r.expanded + 1 }
    { b with plain := slice bs 0 (r.desc.blockLen b.index) }
  refine ⟨_, congrArg Strm.run hstrm, rfl, ?_, hhbm.trans (congrArg Prod.snd kv),
    hspm.trans (congrArg CoreSt.spm (State.core_of_cores (congrArg Prod.fst kv) core))⟩
  exact fun y hy hi => by rw [mem_withBlock hy hi]

/-- A damaged block goes back to its source once. -/
theorem State.expandBlock_damaged {k : Nat} (hgot : s.expansion core strm r b hit = .damaged k) (hagain : b.again = false) :
    let t := s.expandBlock core strm r hit
    ∃ x, ((t.core core).strm strm).run = some x ∧ x.expanded = r.expanded ∧ (∀ y ∈ x.flight, y.index = b.index → y = b.refetch r.desc) ∧
      t.hbm = s.hbm ∧ (t.core core).spm = (s.core core).spm := by
  unfold State.expansion at hgot
  unfold State.expandBlock
  dsimp only at hgot ⊢
  rw [hfind]
  dsimp only
  rw [if_neg hready, hgot]
  dsimp only
  rw [hagain, if_neg Bool.false_ne_true]
  generalize hv : s.damage core k true = v
  have kv : v.memories = s.memories := by
    rw [← hv]
    unfold State.damage
    dsimp only
    split <;> rfl
  obtain ⟨hstrm, hspm, hhbm⟩ := v.setRun_setBlock core strm { r with supply := r.supply || v.inSupply } (b.refetch r.desc)
  exact ⟨_, congrArg Strm.run hstrm, rfl, fun y hy hi => mem_withBlock hy hi, hhbm.trans (congrArg Prod.snd kv),
    hspm.trans (congrArg CoreSt.spm (State.core_of_cores (congrArg Prod.fst kv) core))⟩

end

/-! ### TABLE_LOAD -/

theorem State.windowBytes_spm (s : State) (tag off len k : Nat) : ((s.windowBytes tag off len).2.core k).spm = (s.core k).spm := by
  unfold State.windowBytes
  extract_lets byte core b
  clear_value byte core b
  split
  · rfl
  refine List.foldlRecOn (motive := fun acc : Fetched × State => (acc.2.core k).spm = (s.core k).spm) _ _ rfl fun acc ih q _ => ?_
  split
  · split
    · exact ih
    · split_ifs
      · exact ih
      · exact ih
      · exact ih
      · split
        next e => exact (((State.spmRead_fetches ..).of_eq e).spm k).trans ih
        next e => exact (congrArg CoreSt.spm (State.core_of_cores (State.faultTag_talk ..).cores k)).trans ((((State.spmRead_fetches ..).of_eq e).spm k).trans ih)
  · exact ih

theorem State.readSide_spm {s : State} {t : Translator} {core tag kind h a len : Nat} {u : Units} {win : Bool} {x : Fetched × State}
    (e : s.readSide t core tag kind h a len u win = some x) (k : Nat) : (x.2.core k).spm = (s.core k).spm := by
  have va : ∀ a, ((s.readVa t tag a len win u Noise.none).2.core k).spm = (s.core k).spm := fun a =>
    congrArg CoreSt.spm (State.core_of_cores (s.readVa_cores ..) k)
  unfold State.readSide at e
  split at e
  · obtain rfl := Option.some.inj e
    split
    · rfl
    split
    · rfl
    split
    next e => exact ((State.spmRead_fetches ..).of_eq e).spm k
    next e => exact ((State.spmRead_fetches ..).of_eq e).spm k
  split at e
  · obtain rfl := Option.some.inj e
    exact va a
  split at e
  · obtain rfl := Option.some.inj e
    unfold State.readOffset
    split
    · exact va _
    split
    · rfl
    · exact s.windowBytes_spm ..
  · exact absurd e (by simp)

/-- The record of a table, once given, was read without a change of the scratchpads. -/
theorem State.tableBytes_spm {s u : State} {core strm tag : Nat} {r : Run} {ext bs : Bytes} (h : s.tableBytes core strm tag r ext = (some (.data bs), u)) (k : Nat) :
    (u.core k).spm = (s.core k).spm := by
  unfold State.tableBytes at h
  split at h
  · rw [← (Prod.mk.inj h).2]
  split at h
  · rw [← (Prod.mk.inj h).2]
  split at h
  · exact absurd (Prod.mk.inj h).1 (by simp)
  next e => exact (Prod.mk.inj h).2 ▸ State.readSide_spm e k
  · split at h
    · exact absurd (Prod.mk.inj h).1 (by simp)
    · exact absurd (Prod.mk.inj h).1 (by simp)

section
variable {s u : State} {core : CoreId} {strm : StreamId} {r : Run} {ext : Bytes}

theorem exec_tableLoad_front (hrun : ((s.core core).strm strm).run = some r)
    (ho : s.overfills (tagIndex ((s.core core).strm strm).owner) (s.tableLoad core strm r ext) = false) :
    exec (.tableLoad core strm ext) s = .next (s.tableLoad core strm r ext) := by
  show execTableLoad core strm s ext = _
  unfold execTableLoad
  rw [hrun]
  dsimp only
  rw [State.unlessFull, ho]
  rfl

theorem exec_tableBuildDone_front (hrun : ((s.core core).strm strm).run = some r)
    (ho : s.overfills (tagIndex ((s.core core).strm strm).owner) (s.tableBuild core strm r) = false) :
    exec (.tableBuildDone core strm) s = .next (s.tableBuild core strm r) := by
  show execTableBuildDone core strm s = _
  unfold execTableBuildDone
  rw [hrun]
  dsimp only
  rw [State.unlessFull, ho]
  rfl

end

/-- A table put in its slot. -/
theorem State.loadSlot_keeps (s : State) (core slot tag : Nat) (lens : List Nat) :
    ((s.loadSlot core slot tag lens).core core).tslots.get .clear slot = ⟨true, tag, tableId lens, lens⟩ ∧
      ((s.loadSlot core slot tag lens).core core).spm = (s.core core).spm ∧ ((s.loadSlot core slot tag lens).core core).strms = (s.core core).strms := by
  unfold State.loadSlot
  rw [State.core_setCore_self]
  exact ⟨Table.get_put_self .., rfl, rfl⟩

/-- A valid record's table enters its slot, and the run may go on. -/
theorem State.tableLoad_loads {s u : State} {core strm : Nat} {r : Run} {ext bs : Bytes}
    (hidle : ¬ (r.loaded = true ∨ (s.core core).rst ≠ 0 ∨ (!s.live ((s.core core).strm strm).owner) = true ∨ r.status ≠ .ok ∨
      (s.core core).expanding r.desc.tableSlot = true))
    (hown : (s.core core).foreign r.desc.tableSlot ((s.core core).strm strm).owner = false)
    (hbytes : s.tableBytes core strm ((s.core core).strm strm).owner r ext = (some (.data bs), u)) (hvalid : validRecord bs = true) :
    let t := s.tableLoad core strm r ext
    ((t.core core).strm strm).run = some { r with loaded := true } ∧
      (t.core core).tslots.get .clear r.desc.tableSlot = ⟨true, ((s.core core).strm strm).owner, tableId (recordLens bs), recordLens bs⟩ ∧ t.hbm = u.hbm ∧
      (t.core core).spm = (s.core core).spm := by
  unfold State.tableLoad
  dsimp only
  rw [if_neg hidle, hown, if_neg Bool.false_ne_true, hbytes]
  dsimp only
  rw [hvalid, Bool.not_true, if_neg Bool.false_ne_true]
  obtain ⟨hslot, hspm, -⟩ := u.loadSlot_keeps core r.desc.tableSlot ((s.core core).strm strm).owner (recordLens bs)
  refine ⟨congrArg Strm.run (State.setRun_strm ..), ?_, rfl, (State.setRun_spm ..).trans (hspm.trans (State.tableBytes_spm hbytes core))⟩
  rw [State.setRun_core]
  exact hslot

/-! ### TABLE_BUILD_DONE -/

/-- A table's record does not go to another chip where the table is not on one. -/
theorem StreamDesc.tableSide_here {d : StreamDesc} (h : d.tableKind ≠ 2) : ({ d with ctrl := setBits d.ctrl 3 2 d.tableKind } : StreamDesc).dstKind ≠ 2 := by
  have hsrc : d.srcKind < 4 := bits_lt ..
  have hdst : d.dstKind < 4 := bits_lt ..
  have hk : d.tableKind < 4 := by
    unfold StreamDesc.tableKind
    dsimp only
    split_ifs <;> omega
  have e : ({ d with ctrl := setBits d.ctrl 3 2 d.tableKind } : StreamDesc).dstKind = d.tableKind % 4 := bits_setBits_self ..
  rw [e]
  omega

theorem State.strms_of_writeSide {s u : State} {core j tag index a deadline : Nat} {d : StreamDesc} {bs : Bytes} {st : Status}
    (e : s.writeSide core j tag d index a deadline bs = (st, u)) (h : d.dstKind ≠ 2) : (u.core core).strms = (s.core core).strms := by
  have k := s.writeSide_strms (core := core) (j := j) tag d index a deadline bs .sectors h
  rw [e] at k
  exact k

section
variable {s : State} {core strm : Nat} {r : Run}
variable (hidle : ¬ (r.pass ≠ 0 ∨ r.written < s.passBlocks ((s.core core).strm strm).owner r ∨ (s.core core).rst ≠ 0 ∨
  (!s.live ((s.core core).strm strm).owner) = true ∨ r.status ≠ .ok ∨ (s.core core).expanding r.desc.tableSlot = true))
variable (hown : (s.core core).foreign r.desc.tableSlot ((s.core core).strm strm).owner = false)

include hidle hown

/-- A histogram without a symbol gives no table: the writing pass begins. -/
theorem State.tableBuild_none (h : buildTable r.hist = none) :
    s.tableBuild core strm r = s.setRun core strm { r with pass := 1, issued := 0, written := 0 } := by
  unfold State.tableBuild
  dsimp only
  rw [if_neg hidle, hown, if_neg Bool.false_ne_true, h]

/-- The table built enters its slot once its record is written. -/
theorem State.tableBuild_some {u : State} {lens : List Nat} (h : buildTable r.hist = some lens)
    (hwrite : (s.setRun core strm { r with pass := 1, issued := 0, written := 0, tableSlot := some r.desc.tableSlot }).writeSide core strm ((s.core core).strm strm).owner
      { r.desc with ctrl := setBits r.desc.ctrl 3 2 r.desc.tableKind } r.total r.desc.table 0 (tableRecord lens) = (.ok, u)) :
    s.tableBuild core strm r = u.loadSlot core r.desc.tableSlot ((s.core core).strm strm).owner lens := by
  unfold State.tableBuild
  dsimp only
  rw [if_neg hidle, hown, if_neg Bool.false_ne_true, h]
  dsimp only
  rw [hwrite]

end

/-- Settles O24: each command does what its run says (`exec_…_front`); a block is counted, fetched again or written (`State.writeBlock_…`), expanded or fetched again
(`State.expandBlock_…`), and a table is loaded or built (`State.tableLoad_loads`, `State.tableBuild_…`). -/
theorem streamBlocksComplete : Obligations.StreamBlocksComplete := by
  unfold Obligations.StreamBlocksComplete
  intro s core strm r c d tag hrun hok hlive
  have hgoing : (s.live ((s.core core).strm strm).owner && r.status == .ok) = true := by
    rw [hok]
    simpa using hlive
  refine ⟨?_, ?_, ?_, ?_⟩
  · intro b rest ext hit hflight hrest hwait hasked hst hrst ho b'
    have front := exec_streamBlockWrite_front hrun hflight ho
    refine ⟨fun hpass hcmp => ?_, fun hpass hcmp hcrc => ?_, ?_⟩
    · exact ⟨_, front, State.writeBlock_counts hrun hgoing hflight hwait hrst hasked hst hpass hcmp⟩
    · obtain ⟨x, h⟩ := State.writeBlock_damaged hrun hgoing hflight hwait hrst hasked hst hrest hpass hcmp hcrc
      exact ⟨_, x, front, h⟩
    · intro plain u hpass hcmp hcrc packed hcommit
      obtain ⟨x, h⟩ := State.writeBlock_writes hrun hgoing hflight hwait hrst hasked hst hrest hpass hcmp hcrc hcommit
      exact ⟨_, x, front, h⟩
  · intro b hit hfind hcmp hasked hwait hst htag hrst all got
    have hready : ¬ ((!r.desc.srcCmp) = true ∨ (!b.asked) = true ∨ b.waiting ≠ 0 ∨ b.status ≠ .ok ∨ b.tag.isEmpty = true ∨ 2 ≤ (s.core core).rst ∨
        (r.status ≠ .ok ∧ (!b.again) = true)) := by
      have hrst : ¬ 2 ≤ (s.core core).rst := Nat.not_le.2 hrst
      have hcmp : r.desc.srcCmp = true := hcmp
      simp [hcmp, hasked, hwait, hst, htag, hrst, hok]
    have front := exec_expandBlock_front (hit := hit) hrun
    refine ⟨fun bs hgot => ?_, fun k hgot hagain => ?_⟩
    · obtain ⟨x, h⟩ := State.expandBlock_good hfind hready hgot
      exact ⟨_, x, front, h⟩
    · obtain ⟨x, h⟩ := State.expandBlock_damaged hfind hready hgot hagain
      exact ⟨_, x, front, h⟩
  · intro ext bs u hloaded hrst hexp hown ho hbytes hvalid
    have hexp : (s.core core).expanding r.desc.tableSlot = false := hexp
    exact ⟨_, exec_tableLoad_front hrun ho, State.tableLoad_loads (by simp [hloaded, hrst, hlive, hok, hexp, c, tag]) hown hbytes hvalid⟩
  · intro hpass hwritten hrst hexp hown ho
    have front := exec_tableBuildDone_front hrun ho
    have hidle : ¬ (r.pass ≠ 0 ∨ r.written < s.passBlocks tag r ∨ c.rst ≠ 0 ∨ (!s.live tag) = true ∨ r.status ≠ .ok ∨ c.expanding d.tableSlot = true) := by
      simp [hpass, hwritten, hrst, hlive, hok, hexp]
    refine ⟨fun hnone => ?_, fun lens u hsome hwrite => ?_⟩
    · rw [State.tableBuild_none hidle hown hnone] at front
      exact ⟨_, front, congrArg Strm.run (State.setRun_strm ..), rfl⟩
    · rw [State.tableBuild_some hidle hown hsome hwrite] at front
      obtain ⟨hslot, -, hstrms⟩ := u.loadSlot_keeps core r.desc.tableSlot tag lens
      have hrun' : (((u.loadSlot core r.desc.tableSlot tag lens).core core).strm strm).run = ((u.core core).strm strm).run :=
        congrArg (fun l => (Table.get l Strm.free strm).run) hstrms
      refine ⟨_, front, hrun', fun hkind => hrun'.trans ?_, hslot, rfl, rfl⟩
      have kept := State.strms_of_writeSide hwrite (StreamDesc.tableSide_here hkind)
      exact (congrArg (fun l => (Table.get l Strm.free strm).run) kept).trans (congrArg Strm.run (State.setRun_strm ..))

end Sys2Proof.Machine

/-! PROOFS. Faults of contexts, and the handle table (R133 to R140, R422, Table 5.8): what a fault does to the state a context shows (`State.faultWith_cases`), what
messages and the faults of their senders may change (`State.Sends`), what placing, freeing and granting may change of a core (`State.Handles`), and the core that a
freed polder leaves (`CoreSt.released`). -/

namespace Sys2Proof.Machine

/-! ### Faults, context by context -/

/-- What a fault does: an enabled context comes to show the fault, and what ends with it talks on; one that is faulted may take a lasting status; of any other its
INVOKE ends (R105, R422). -/
theorem State.faultWith_cases (s : State) (i : Nat) (st inv : Status) (d : Nat) : ∃ e, s.Talk talkRegs e ∧
    ((s.ctxState i = 1 ∧ (((e.setF F.cxsCtxStateState 2 i).setF F.cxsCtxStateResume 0 i).setF F.cxsCtxStateStatus st.code i).Talk talkRegs (s.faultWith i st inv d)) ∨
      (s.ctxState i ≠ 1 ∧ s.faultWith i st inv d = e) ∨
      (s.ctxState i = 2 ∧ ∃ o, Status.ofCode (e.getF F.cxsCtxStateStatus i) = some o ∧
        s.faultWith i st inv d = e.setF F.cxsCtxStateStatus (standing (some o) st).code i)) := by
  have k := s.endInvoke_talk i inv
  refine ⟨s.endInvoke i inv, k, ?_⟩
  have hst := k.ctxState i
  unfold State.faultWith
  dsimp only
  generalize s.endInvoke i inv = e at hst ⊢
  split
  next h =>
    refine .inl ⟨hst ▸ h, ?_⟩
    generalize State.setF _ F.cxsCtxStateStatus st.code i = w
    have hx := State.Talk.log (rs := talkRegs) w 0x0001 (sourceOf 6 0) (w.tag i) st 2 (natLe 4 d)
    generalize State.log w 0x0001 _ _ st 2 _ = x at hx
    have hy := (hx.then_setCtx i { x.ctx i with inflight := 0, faultOf := d } rfl).trans (State.endOthers_talk _ i .cancelled .cancelled none)
    unfold State.setCtx at hy
    generalize (State.endOthers _ i .cancelled .cancelled none).2 = y at hy
    split
    · split
      · exact hy.trans ((y.sendMembers_talk ..).trans (State.setHalted_talk ..))
      · exact hy
    · exact hy
  next h =>
    split
    next h2 =>
      split
      next o ho => exact .inr (.inr ⟨hst ▸ h2.1, o, ho, rfl⟩)
      · exact .inr (.inl ⟨hst ▸ h, rfl⟩)
    · exact .inr (.inl ⟨hst ▸ h, rfl⟩)

/-- A fault of one context leaves what the others show. -/
theorem State.faultWith_elsewhere (s : State) {i j : Nat} (st inv : Status) (d : Nat) (h : Reg.cxsCtxState.key j ≠ Reg.cxsCtxState.key i) :
    (s.faultWith i st inv d).reg .cxsCtxState j = s.reg .cxsCtxState j := by
  have talk : ∀ {a b : State}, a.Talk talkRegs b → b.reg .cxsCtxState j = a.reg .cxsCtxState j := fun k => k.regs _ (by decide) j
  obtain ⟨e, ke, ⟨-, k⟩ | ⟨-, k⟩ | ⟨-, o, -, k⟩⟩ := s.faultWith_cases i st inv d
  · rw [talk k, ← talk ke]
    exact (State.reg_setReg_key _ _ h).trans ((State.reg_setReg_key _ _ h).trans (State.reg_setReg_key _ _ h))
  · rw [k, talk ke]
  · rw [k, ← talk ke]
    exact State.reg_setReg_key _ _ h

/-- Entries of the context states under one key are one entry. -/
theorem State.ctxState_key (s : State) {i j : Nat} (h : Reg.cxsCtxState.key j = Reg.cxsCtxState.key i) : s.ctxState j = s.ctxState i := by
  unfold State.ctxState State.getF State.reg
  rw [show F.cxsCtxStateState.reg.key j = F.cxsCtxStateState.reg.key i from h]

/-- A fault moves a context's state at most from enabled to faulted. -/
theorem State.faultWith_states (s : State) (i : Nat) (st inv : Status) (d j : Nat) :
    (s.faultWith i st inv d).ctxState j = s.ctxState j ∨ s.ctxState j = 1 ∧ (s.faultWith i st inv d).ctxState j = 2 := by
  by_cases h : Reg.cxsCtxState.key j = Reg.cxsCtxState.key i
  · rw [State.ctxState_key _ h, State.ctxState_key _ h]
    obtain ⟨e, ke, ⟨h1, -⟩ | ⟨-, k⟩ | ⟨-, o, -, k⟩⟩ := s.faultWith_cases i st inv d
    · exact .inr ⟨h1, (s.faultWith_state i st inv d h1).1⟩
    · exact .inl (by rw [k, ke.ctxState])
    · refine .inl ?_
      rw [k, ← ke.ctxState i]
      exact State.getF_setF_bits _ _ _ _ (by decide) (by decide)
  · exact .inl (congrArg (fun w => bits w _ _) (s.faultWith_elsewhere st inv d h))

theorem Status.ofCode_code (st : Status) : Status.ofCode st.code = some st := by cases st <;> rfl

/-- A context that has faulted with a status shows the same after another fault with it. -/
theorem State.faultWith_again {s : State} {i : Nat} {st inv : Status} {d : Nat} (h : s.ctxState i = 2 ∧ s.getF F.cxsCtxStateStatus i = st.code) :
    (s.faultWith i st inv d).ctxState i = 2 ∧ (s.faultWith i st inv d).getF F.cxsCtxStateStatus i = st.code := by
  obtain ⟨e, ke, ⟨h1, -⟩ | ⟨-, k⟩ | ⟨-, o, ho, k⟩⟩ := s.faultWith_cases i st inv d
  · rw [h.1] at h1
    cases h1
  · rw [k]
    exact ke.faulted h
  · obtain ⟨hs, hc⟩ := ke.faulted h
    rw [hc, Status.ofCode_code] at ho
    cases ho
    have same : standing (some st) st = st := ite_self st
    rw [k, same]
    refine ⟨(State.getF_setF_bits _ _ _ _ (by decide) (by decide)).trans hs, (State.getF_setF_self ..).trans ?_⟩
    cases st <;> rfl

theorem State.faultTag_states (s : State) (tag : Nat) (st : Status) (j : Nat) :
    (s.faultTag tag st).ctxState j = s.ctxState j ∨ s.ctxState j = 1 ∧ (s.faultTag tag st).ctxState j = 2 := by
  unfold State.faultTag
  dsimp only
  split
  · exact s.faultWith_states ..
  · split
    · exact .inl ((s.endInvoke_talk ..).ctxState j)
    · exact .inl rfl

/-! ### What messages may change, cores aside -/

/-- What messages, and the faults of their senders, may change besides cores; a context's state moves at most from enabled to faulted. -/
structure State.Sends (s t : State) : Prop where
  rest : t = { s with
    free := t.free, regs := t.regs, cores := t.cores, ctxs := t.ctxs, ports := t.ports, collector := t.collector, psn := t.psn, asked := t.asked
    stallAt := t.stallAt, events := t.events, out := t.out }
  regs : ∀ q, q ∉ faultRegs → ∀ j, t.reg q j = s.reg q j
  states : ∀ j, t.ctxState j = s.ctxState j ∨ s.ctxState j = 1 ∧ t.ctxState j = 2
  out : ∃ l, t.out = s.out ++ l

theorem State.Sends.refl (s : State) : s.Sends s := ⟨rfl, fun _ _ _ => rfl, fun _ => .inl rfl, [], by simp⟩

theorem State.Sends.trans {s t u : State} (h : s.Sends t) (k : t.Sends u) : s.Sends u where
  rest := by
    have a := k.rest
    rw [h.rest] at a
    exact a
  regs := fun q hq j => (k.regs q hq j).trans (h.regs q hq j)
  states := fun j => by
    have a := h.states j
    have b := k.states j
    omega
  out := by
    obtain ⟨l, hl⟩ := h.out
    obtain ⟨m, hm⟩ := k.out
    exact ⟨l ++ m, by rw [hm, hl, List.append_assoc]⟩

theorem State.Sends.foldl {α : Type} {f : State → α → State} (hf : ∀ s a, State.Sends s (f s a)) (l : List α) (s : State) : s.Sends (l.foldl f s) :=
  List.foldlRecOn (motive := fun t => s.Sends t) l f (.refl s) fun t ht a _ => ht.trans (hf t a)

theorem State.Talk.sends {s t : State} (h : s.Talk faultRegs t) (k : ∀ j, t.ctxState j = s.ctxState j ∨ s.ctxState j = 1 ∧ t.ctxState j = 2) : s.Sends t :=
  ⟨by have a := h.rest; rw [a], h.regs, k, h.out⟩

theorem State.Sends.setCore (s : State) (c : Nat) (x : CoreSt) : s.Sends (s.setCore c x) := ⟨rfl, fun _ _ _ => rfl, fun _ => .inl rfl, [], by simp⟩

theorem State.faultTag_sends (s : State) (tag : Nat) (st : Status) : s.Sends (s.faultTag tag st) := (s.faultTag_talk ..).sends (s.faultTag_states tag st)

theorem State.sendNamed_sends (s : State) (dstChip dstCore type tag srcCore gen arg : Nat) (payload : Bytes) :
    s.Sends (s.sendNamed dstChip dstCore type tag srcCore gen arg payload) := by
  have k : s.Sends (s.send dstChip dstCore type tag srcCore gen arg payload) := (s.send_talk ..).faulting.sends fun j => .inl ((s.send_talk ..).ctxState j)
  unfold State.sendNamed
  dsimp only
  split
  · exact k.trans (State.faultTag_sends ..)
  · exact k

section
variable {s t : State}

theorem State.Sends.hbm (h : s.Sends t) : t.hbm = s.hbm := by rw [h.rest]
theorem State.Sends.time (h : s.Sends t) : t.time = s.time := by rw [h.rest]

theorem State.Sends.getF (h : s.Sends t) (f : Fld) (i : Nat) (k : f.reg ∉ faultRegs := by decide) : t.getF f i = s.getF f i := by
  unfold State.getF
  rw [h.regs _ k]

theorem State.Sends.flag (h : s.Sends t) (f : Fld) (i : Nat) (k : f.reg ∉ faultRegs := by decide) : t.flag f i = s.flag f i := by
  unfold State.flag
  rw [h.getF f i k]

theorem State.Sends.tag (h : s.Sends t) (i : Nat) : t.tag i = s.tag i := by
  unfold State.tag
  rw [h.getF F.hiuCtxCtlGen]

theorem State.Sends.isHere (h : s.Sends t) (n : Nat) : t.isHere n = s.isHere n := by
  unfold State.isHere
  rw [h.flag F.topoPlanStatusLoaded, h.getF F.topoPlanStatusChip]

/-- A message is the same from any state that names this chip the same. -/
theorem State.Sends.message (h : s.Sends t) (dstChip dstCore type tag srcCore gen arg : Nat) (payload : Bytes := []) :
    t.message dstChip dstCore type tag srcCore gen arg payload = s.message dstChip dstCore type tag srcCore gen arg payload := by
  unfold State.message State.self
  rw [h.flag F.topoPlanStatusLoaded, h.getF F.topoPlanStatusChip]

theorem State.Sends.puts {r : State} {o : Out} (h : s.Sends t) (k : r.puts s o) : r.puts t o := by
  obtain ⟨l, e, m⟩ := k
  obtain ⟨l', e'⟩ := h.out
  exact ⟨l ++ l', by rw [e', e, List.append_assoc], List.mem_append_left _ m⟩

theorem State.Sends.puts_before {u : State} {o : Out} (h : s.Sends t) (k : t.puts u o) : s.puts u o := by
  obtain ⟨l, e, m⟩ := k
  obtain ⟨l', e'⟩ := h.out
  exact ⟨l' ++ l, by rw [e, e', List.append_assoc], List.mem_append_right _ m⟩

end

/-- An answer to a core of this chip is put on the on-chip network (R137). -/
theorem State.reply_here {s : State} {m : Culvert} (hh : s.isHere m.srcChip = true) (core h : Nat) (st : Status) : s.reply core m h st =
    s.emit (.culvert (s.message m.srcChip m.srcCore 0x08 m.ctxTag core ((s.core core).polder h).gen (st.code + 256 * h + 65536 * m.type))) :=
  s.sendNamed_here hh ..

theorem State.emit_puts (s : State) (o : Out) : s.puts (s.emit o) o := ⟨[o], rfl, List.mem_singleton.2 rfl⟩

theorem State.reply_sends (s : State) (core : Nat) (m : Culvert) (h : Nat) (st : Status) : s.Sends (s.reply core m h st) := s.sendNamed_sends ..

theorem State.reply_cores (s : State) (core : Nat) (m : Culvert) (h : Nat) (st : Status) : (s.reply core m h st).cores = s.cores := (s.sendNamed_talk ..).cores

theorem State.reply_core (s : State) (core : Nat) (m : Culvert) (h : Nat) (st : Status) (k : Nat) : (s.reply core m h st).core k = s.core k :=
  State.core_of_cores (s.reply_cores ..) k

/-! ### What an operation on handles may change of its core -/

/-- The streams of a core without the rings they keep. -/
def CoreSt.unringed (c : CoreSt) : List (Nat × Strm) := c.strms.map (fun q => (q.1, { q.2 with ring := none }))

/-- What arms a stream is no ring. -/
theorem CoreSt.armedOn_unringed {c d : CoreSt} (h : d.unringed = c.unringed) (k : Nat) : d.armedOn k = c.armedOn k := by
  have e : ∀ c : CoreSt, c.armedOn k = c.unringed.any (fun p =>
      (match p.2.run with | some r => r.desc.names k | none => false) || (match p.2.held with | some (d, _) => d.names k | none => false)) := fun c => by
    unfold CoreSt.armedOn CoreSt.unringed
    rw [List.any_map]
    rfl
  rw [e, e, h]

/-- What operations on a core's handles may change: its handle table, what waits on that, the rings of its streams, and what messages change. -/
structure State.Handles (core : Nat) (s t : State) : Prop extends State.Sends s t where
  own : t.core core = { s.core core with
    ht := (t.core core).ht, zeroing := (t.core core).zeroing, allocs := (t.core core).allocs, frees := (t.core core).frees, strms := (t.core core).strms }
  streams : (t.core core).unringed = (s.core core).unringed
  others : ∀ k, k ≠ core → t.core k = s.core k

section
variable {core : Nat}

theorem State.Handles.refl (s : State) : s.Handles core s := ⟨.refl s, rfl, rfl, fun _ _ => rfl⟩

theorem State.Handles.trans {s t u : State} (h : s.Handles core t) (k : t.Handles core u) : s.Handles core u :=
  ⟨h.toSends.trans k.toSends, by rw [k.own, h.own], k.streams.trans h.streams, fun c hc => (k.others c hc).trans (h.others c hc)⟩

theorem State.Handles.foldl {α : Type} {f : State → α → State} (hf : ∀ s a, State.Handles core s (f s a)) (l : List α) (s : State) :
    s.Handles core (l.foldl f s) :=
  List.foldlRecOn (motive := fun t => s.Handles core t) l f (.refl s) fun t ht a _ => ht.trans (hf t a)

theorem State.Sends.handles {s t : State} (h : s.Sends t) (k : t.cores = s.cores) : s.Handles core t :=
  ⟨h, by rw [State.core_of_cores k], by rw [State.core_of_cores k], fun c _ => State.core_of_cores k c⟩

/-- A change of the core's handle table and of what waits on it. -/
theorem State.Handles.setCore (s : State) (x : CoreSt)
    (h : x = { s.core core with ht := x.ht, zeroing := x.zeroing, allocs := x.allocs, frees := x.frees, strms := x.strms } := by rfl)
    (k : x.unringed = (s.core core).unringed := by rfl) : s.Handles core (s.setCore core x) :=
  ⟨.setCore s core x, by rw [State.core_setCore_self]; exact h, by rw [State.core_setCore_self]; exact k, fun _ hc => s.core_setCore_ne x hc⟩

theorem State.sendNamed_handles (s : State) (dstChip dstCore type tag srcCore gen arg : Nat) (payload : Bytes) :
    s.Handles core (s.sendNamed dstChip dstCore type tag srcCore gen arg payload) := (s.sendNamed_sends ..).handles (s.sendNamed_talk ..).cores

theorem State.reply_handles (s : State) (m : Culvert) (h : Nat) (st : Status) : s.Handles core (s.reply core m h st) := s.sendNamed_handles ..

theorem State.Handles.spm {s t : State} (h : s.Handles core t) : (t.core core).spm = (s.core core).spm := by rw [h.own]
theorem State.Handles.slot {s t : State} (h : s.Handles core t) (i : Nat) : (t.core core).slot i = (s.core core).slot i := by
  unfold CoreSt.slot
  rw [h.own]
theorem State.Handles.armedOn {s t : State} (h : s.Handles core t) (k : Nat) : (t.core core).armedOn k = (s.core core).armedOn k :=
  CoreSt.armedOn_unringed h.streams k

end

/-! ### A polder is freed -/

/-- A core once a polder of it has been freed (R135). -/
def CoreSt.released (c : CoreSt) (h : Nat) : CoreSt :=
  let p := c.polder h
  let gs := (List.range p.length).map (p.base + ·)
  { c.setPolder h { Polder.empty with gen := (p.gen + 1) % 64 } with
    zeroing := c.zeroing ++ gs.filter (fun g => !c.zeroing.contains g), frees := c.frees.filter (fun m => bits m.arg 7 0 != h)
    allocs := c.allocs.filter (fun a => a.handle != h)
    strms := c.strms.map (fun (q : Nat × Strm) => if q.2.ring == some h then (q.1, { q.2 with ring := none }) else q) }

/-- A core with an open sluice that begins to close (Table 5.8). -/
def CoreSt.closing (c : CoreSt) (h time : Nat) : CoreSt := c.setPolder h { c.polder h with sluiceState := 2, closeAt := some time }

section
variable {c : CoreSt} {h : Nat}

@[simp] theorem CoreSt.released_polder : (c.released h).polder h = { Polder.empty with gen := ((c.polder h).gen + 1) % 64 } := CoreSt.polder_setPolder_self ..

theorem CoreSt.released_polder_ne {k : Nat} (hk : k ≠ h) : (c.released h).polder k = c.polder k := CoreSt.polder_setPolder_ne _ _ hk

theorem CoreSt.released_unringed : (c.released h).unringed = c.unringed := by
  unfold CoreSt.unringed CoreSt.released
  dsimp only
  rw [List.map_map]
  refine List.map_congr_left fun q _ => ?_
  dsimp only [Function.comp]
  split <;> rfl

/-- The granules of a freed polder wait for the dredger. -/
theorem CoreSt.released_zeroing {k : Nat} (hk : k < (c.polder h).length) : (c.polder h).base + k ∈ (c.released h).zeroing := by
  unfold CoreSt.released
  dsimp only
  by_cases m : (c.polder h).base + k ∈ c.zeroing
  · exact List.mem_append_left _ m
  · refine List.mem_append_right _ (List.mem_filter.2 ⟨List.mem_map.2 ⟨k, List.mem_range.2 hk, rfl⟩, ?_⟩)
    simpa using m

@[simp] theorem CoreSt.closing_polder (time : Nat) : (c.closing h time).polder h = { c.polder h with sluiceState := 2, closeAt := some time } :=
  CoreSt.polder_setPolder_self ..

theorem CoreSt.closing_polder_ne {k : Nat} (time : Nat) (hk : k ≠ h) : (c.closing h time).polder k = c.polder k := CoreSt.polder_setPolder_ne _ _ hk

end

section
variable {s : State} {core h : Nat}

theorem State.release_invalid (hv : ((s.core core).polder h).valid = false) : s.release core h = s := by
  unfold State.release
  simp [hv]

/-- A valid polder is freed, then every culvert FREE of it is answered (R135, R137). -/
theorem State.release_valid (hv : ((s.core core).polder h).valid = true) : s.release core h =
    ((s.core core).frees.filter (fun m => bits m.arg 7 0 == h)).foldl (fun s m => s.reply core m h .ok) (s.setCore core ((s.core core).released h)) := by
  unfold State.release
  simp only [hv]
  rfl

theorem State.replies_handles (l : List Culvert) (s : State) (st : Status) : s.Handles core (l.foldl (fun s m => s.reply core m h st) s) :=
  .foldl (fun s m => s.reply_handles m h st) l s

theorem State.replies_core (l : List Culvert) (s : State) (st : Status) (k : Nat) : (l.foldl (fun s m => s.reply core m h st) s).core k = s.core k :=
  List.foldlRecOn (motive := fun t => State.core t k = s.core k) l _ rfl fun t ht _ _ => (t.reply_core ..).trans ht

theorem State.release_core (hv : ((s.core core).polder h).valid = true) : (s.release core h).core core = (s.core core).released h := by
  rw [State.release_valid hv, State.replies_core, State.core_setCore_self]

theorem State.release_handles (s : State) (core h : Nat) : s.Handles core (s.release core h) := by
  cases hv : ((s.core core).polder h).valid
  · rw [State.release_invalid hv]
    exact .refl s
  · rw [State.release_valid hv]
    exact (State.Handles.setCore s _ rfl CoreSt.released_unringed).trans (State.replies_handles ..)

theorem State.freePolder_invalid (hv : ((s.core core).polder h).valid = false) : s.freePolder core h = s := by
  unfold State.freePolder
  simp [hv]

/-- A polder that is no sluice is freed at once. -/
theorem State.freePolder_plain (hs : ((s.core core).polder h).sluice = false) : s.freePolder core h = s.release core h := by
  cases hv : ((s.core core).polder h).valid
  · rw [State.freePolder_invalid hv, State.release_invalid hv]
  · unfold State.freePolder
    simp [hv, hs]

/-- A sluice that already closes is left to its credit or to its timeout. -/
theorem State.freePolder_closes (hs : ((s.core core).polder h).sluice = true) (h2 : ((s.core core).polder h).sluiceState = 2) : s.freePolder core h = s := by
  unfold State.freePolder
  simp [hs, h2]

/-- An open sluice closes: its sender is told, and it frees at once where it owes no credit (Table 5.8). -/
theorem State.freePolder_open (hv : ((s.core core).polder h).valid = true) (hs : ((s.core core).polder h).sluice = true)
    (h1 : ((s.core core).polder h).sluiceState = 1) : let p := (s.core core).polder h
    let t := (s.setCore core ((s.core core).closing h s.time)).sendNamed p.peerChip p.peerCore 0x05 p.owner core p.gen p.peerCredit (sluicePayload h)
    s.freePolder core h = if p.credit = 0 then t.release core h else t := by
  unfold State.freePolder
  dsimp only
  rw [if_neg (by simp [hv]), if_pos (by simp [hs, h1])]
  rfl

/-- The core that freeing a polder leaves: as it was, with the polder freed, closing, or closed at once. -/
theorem State.freePolder_core (s : State) (core h : Nat) : let c := s.core core
    let d := (s.freePolder core h).core core
    d = c ∨ d = c.released h ∨ d = c.closing h s.time ∨ d = (c.closing h s.time).released h := by
  dsimp only
  cases hv : ((s.core core).polder h).valid
  · rw [State.freePolder_invalid hv]
    exact .inl rfl
  cases hs : ((s.core core).polder h).sluice
  · rw [State.freePolder_plain hs, State.release_core hv]
    exact .inr (.inl rfl)
  by_cases h1 : ((s.core core).polder h).sluiceState = 1
  · have e : ((s.setCore core ((s.core core).closing h s.time)).sendNamed ((s.core core).polder h).peerChip ((s.core core).polder h).peerCore 0x05
        ((s.core core).polder h).owner core ((s.core core).polder h).gen ((s.core core).polder h).peerCredit (sluicePayload h)).core core =
        (s.core core).closing h s.time := ((State.sendNamed_talk ..).core core).trans (State.core_setCore_self ..)
    rw [State.freePolder_open hv hs h1]
    split
    · rw [State.release_core (by rw [e, CoreSt.closing_polder]; exact hv), e]
      exact .inr (.inr (.inr rfl))
    · exact .inr (.inr (.inl e))
  · by_cases h2 : ((s.core core).polder h).sluiceState = 2
    · rw [State.freePolder_closes hs h2]
      exact .inl rfl
    · have e : s.freePolder core h = s.release core h := by
        unfold State.freePolder
        simp [hv, h1, h2]
      rw [e, State.release_core hv]
      exact .inr (.inl rfl)

theorem State.freePolder_handles (s : State) (core h : Nat) : s.Handles core (s.freePolder core h) := by
  unfold State.freePolder
  dsimp only
  split
  · exact .refl s
  split
  · have k := (State.Handles.setCore s ((s.core core).closing h s.time)).trans (State.sendNamed_handles _ ((s.core core).polder h).peerChip
      ((s.core core).polder h).peerCore 0x05 ((s.core core).polder h).owner core ((s.core core).polder h).gen ((s.core core).polder h).peerCredit (sluicePayload h))
    split
    · exact k.trans (State.release_handles ..)
    · exact k
  split
  · exact .refl s
  · exact s.release_handles core h

/-- Freeing one polder leaves the others, the FREEs that wait for them and their streams; it forgets ALLOCs and brings none. -/
theorem State.freePolder_apart (s : State) (core : Nat) {h k : Nat} (hk : k ≠ h) : ((s.freePolder core h).core core).polder k = (s.core core).polder k ∧
    (∀ m ∈ (s.core core).frees, bits m.arg 7 0 = k → m ∈ ((s.freePolder core h).core core).frees) ∧
    ((s.core core).allocating k = false → ((s.freePolder core h).core core).allocating k = false) := by
  have keep : ∀ c : CoreSt, (∀ m ∈ c.frees, bits m.arg 7 0 = k → m ∈ (c.released h).frees) ∧ (c.allocating k = false → (c.released h).allocating k = false) := by
    refine fun c => ⟨fun m hm e => List.mem_filter.2 ⟨hm, by simpa [e] using hk⟩, fun ha => ?_⟩
    unfold CoreSt.allocating at ha ⊢
    rw [List.any_eq_false] at ha ⊢
    exact fun a m => ha a (List.mem_filter.1 m).1
  have k0 : ∀ c : CoreSt, (∀ m ∈ c.frees, bits m.arg 7 0 = k → m ∈ (c.closing h s.time).frees) ∧
      (c.allocating k = false → (c.closing h s.time).allocating k = false) := fun c => ⟨fun _ hm _ => hm, id⟩
  rcases s.freePolder_core core h with e | e | e | e <;> rw [e]
  · exact ⟨rfl, fun _ hm _ => hm, id⟩
  · exact ⟨CoreSt.released_polder_ne hk, keep _⟩
  · exact ⟨CoreSt.closing_polder_ne _ hk, k0 _⟩
  · exact ⟨(CoreSt.released_polder_ne hk).trans (CoreSt.closing_polder_ne _ hk), fun m hm e => (keep _).1 m ((k0 _).1 m hm e) e, fun ha => (keep _).2 ((k0 _).2 ha)⟩

end

end Sys2Proof.Machine

/-! PROOFS. O22: handles allocated, freed and released, and the dredger (R133 to R136, R142). -/

namespace Sys2Proof.Machine

/-! ### Best fit -/

/-- A granule of a run that the search for free runs gives is not busy. -/
theorem freeRunsFrom_free {busy : Nat → Bool} : ∀ (n g : Nat) (st : Option Nat), (∀ b, st = some b → ∀ x, b ≤ x → x < g → busy x = false) →
    ∀ r ∈ freeRunsFrom busy n g st, ∀ x, r.1 ≤ x → x < r.1 + r.2 → busy x = false := by
  -- a run that ends before `g` lies between its start and `g`
  have run : ∀ {b g : Nat}, (∀ x, b ≤ x → x < g → busy x = false) → ∀ x, b ≤ x → x < b + (g - b) → busy x = false :=
    fun h x lo hi => h x lo (by omega)
  intro n
  induction n with
  | zero =>
    intro g st hst r hr
    cases st with
    | none => cases hr
    | some b =>
      rw [freeRunsFrom.eq_def] at hr
      rw [List.mem_singleton.1 hr]
      exact run (hst b rfl)
  | succ n ih =>
    intro g st hst r hr
    unfold freeRunsFrom at hr
    split at hr
    · cases st with
      | none => exact ih (g + 1) none (by simp) r hr
      | some b =>
        rcases List.mem_cons.1 hr with hr | hr
        · exact hr ▸ run (hst b rfl)
        · exact ih (g + 1) none (by simp) r hr
    next free =>
      refine ih (g + 1) _ (fun b hb x lo hi => ?_) r hr
      by_cases hx : x = g
      · exact hx ▸ Bool.eq_false_iff.2 free
      · cases st with
        | none =>
          obtain rfl : g = b := Option.some.inj hb
          omega
        | some b0 =>
          obtain rfl : b0 = b := Option.some.inj hb
          exact hst _ rfl x lo (by omega)

/-- Best fit gives the start of a run that is long enough. -/
theorem bestFit_run {rs : List (Nat × Nat)} {len b : Nat} (h : bestFit rs len = some b) : ∃ r ∈ rs, r.1 = b ∧ len ≤ r.2 := by
  unfold bestFit at h
  dsimp only at h
  split at h
  · cases h
  next r t e =>
    obtain rfl := Option.some.inj h
    have fits : ∀ x ∈ r :: t, x ∈ rs ∧ len ≤ x.2 := fun x hx => by
      rw [← e] at hx
      simpa using List.mem_filter.1 hx
    have shortest : t.foldl (fun b x => if x.2 < b.2 then x else b) r ∈ r :: t :=
      List.foldlRecOn (motive := fun y => y ∈ r :: t) t _ (List.mem_cons_self ..) fun b hb x hx => by
        split
        · exact List.mem_cons_of_mem _ hx
        · exact hb
    exact ⟨_, (fits _ shortest).1, rfl, (fits _ shortest).2⟩

/-- No valid polder holds a granule of the run that best fit gives (R133). -/
theorem CoreSt.bestFit_unused {c : CoreSt} {len b : Nat} (h : bestFit c.freeRuns len = some b) {g : Nat} (lo : b ≤ g) (hi : g < b + len) :
    inRuns c.used g = false := by
  obtain ⟨r, hr, rfl, hl⟩ := bestFit_run h
  exact freeRunsFrom_free 384 0 none (by simp) r hr g lo (by omega)

/-- An ALLOC that does not fail has a run to go to. -/
theorem CoreSt.allocFail_none {c : CoreSt} {r : AllocReq} (h : c.allocFail r = none) : ∃ b, bestFit c.freeRuns r.length = some b := by
  unfold CoreSt.allocFail at h
  dsimp only at h
  split_ifs at h with _ _ _ _ _ hb
  exact Option.ne_none_iff_exists'.1 (by simpa using hb)

/-- The reasons of R134 fit their field. -/
theorem CoreSt.allocFail_lt {c : CoreSt} {r : AllocReq} {reason : Nat} (h : c.allocFail r = some reason) : reason < 8 := by
  unfold CoreSt.allocFail at h
  dsimp only at h
  split_ifs at h <;> cases h <;> decide

/-! ### ALLOC -/

/-- Opening a sluice changes the handle table alone of its core, and of it one entry's credit. -/
theorem State.openSluice_core (s : State) (core h : Nat) : ∃ state credit next, (s.openSluice core h).core core =
    (s.core core).setPolder h { (s.core core).polder h with sluiceState := state, credit := credit, nextSlot := next } ∨
    (s.openSluice core h).core core = s.core core := by
  unfold State.openSluice
  dsimp only
  split
  · exact ⟨0, 0, 0, .inr rfl⟩
  · exact ⟨_, _, _, .inl (((State.sendNamed_talk ..).core core).trans (State.core_setCore_self ..))⟩

theorem State.openSluice_handles (s : State) (core h : Nat) : s.Handles core (s.openSluice core h) := by
  unfold State.openSluice
  dsimp only
  split
  · exact .refl s
  · exact (State.Handles.setCore s _).trans (State.sendNamed_handles ..)

/-- What a placed polder is, whatever credit it opens with: the task's own, at the base that best fit gave, with its generation kept (R133). -/
structure CoreSt.Placed (c d : CoreSt) (tag : Nat) (r : AllocReq) : Prop where
  valid : (d.polder r.handle).valid = true
  owner : (d.polder r.handle).owner = tag
  length : (d.polder r.handle).length = r.length
  gen : (d.polder r.handle).gen = (c.polder r.handle).gen
  base : bestFit c.freeRuns r.length = some (d.polder r.handle).base
  others : ∀ k, k ≠ r.handle → d.polder k = c.polder k

theorem CoreSt.place_placed {c : CoreSt} {r : AllocReq} (h : c.allocFail r = none) (tag : Nat) : c.Placed (c.place tag r) tag r := by
  obtain ⟨b, hb⟩ := CoreSt.allocFail_none h
  unfold CoreSt.place
  refine ⟨?_, ?_, ?_, ?_, ?_, fun k hk => CoreSt.polder_setPolder_ne _ _ hk⟩ <;> rw [CoreSt.polder_setPolder_self]
  rw [hb]
  rfl

/-- Opening the placed polder leaves it what it is. -/
theorem CoreSt.Placed.openSluice {s : State} {c : CoreSt} {core tag : Nat} {r : AllocReq} (h : c.Placed (s.core core) tag r) :
    c.Placed ((s.openSluice core r.handle).core core) tag r := by
  obtain ⟨state, credit, next, e | e⟩ := s.openSluice_core core r.handle
  · rw [e]
    refine ⟨?_, ?_, ?_, ?_, ?_, fun k hk => (CoreSt.polder_setPolder_ne _ _ hk).trans (h.others k hk)⟩ <;> rw [CoreSt.polder_setPolder_self]
    · exact h.valid
    · exact h.owner
    · exact h.length
    · exact h.gen
    · exact h.base
  · rw [e]
    exact h

theorem State.alloc_error_iff {s : State} {core tag : Nat} {r : AllocReq} {reply : Option Culvert} {reason : Nat} :
    s.alloc core tag r reply = .error reason ↔ (s.core core).allocFail r = some reason := by
  unfold State.alloc
  dsimp only
  split
  next e => rw [e]; simp
  next e =>
    rw [e]
    split_ifs <;> simp

/-- An ALLOC that does not fail places its polder, which opens at once or once its granules have been zeroed (R135). -/
theorem State.alloc_places {s : State} {core tag : Nat} {r : AllocReq} (h : (s.core core).allocFail r = none) (reply : Option Culvert) :
    ∃ done t, s.alloc core tag r reply = .ok (done, t) ∧ s.Handles core t ∧ (s.core core).Placed (t.core core) tag r := by
  have placed := CoreSt.place_placed h tag
  unfold State.alloc
  dsimp only
  rw [h]
  dsimp only
  split
  · have k : s.Handles core (s.setCore core ((s.core core).place tag r)) := .setCore s _
    refine ⟨true, _, rfl, k.trans (State.openSluice_handles ..), CoreSt.Placed.openSluice ?_⟩
    rw [State.core_setCore_self]
    exact placed
  · refine ⟨false, _, rfl, .setCore s _, ?_⟩
    rw [State.core_setCore_self]
    exact ⟨placed.valid, placed.owner, placed.length, placed.gen, placed.base, placed.others⟩

theorem State.alloc_handles {s t : State} {core tag : Nat} {r : AllocReq} {reply : Option Culvert} {done : Bool} (h : s.alloc core tag r reply = .ok (done, t)) :
    s.Handles core t := by
  cases hf : (s.core core).allocFail r with
  | some reason => rw [State.alloc_error_iff.2 hf] at h; cases h
  | none =>
    obtain ⟨_, _, e, k, -⟩ := State.alloc_places (tag := tag) hf reply
    rw [h] at e
    cases e
    exact k

/-- Recording a failed ALLOC writes its register alone. -/
theorem State.recordAllocFail_rest (s : State) (core reason : Nat) (r : AllocReq) : let t := s.recordAllocFail core reason r
    t = { s with regs := t.regs } ∧ ∀ q, q ≠ .spmAllocFail → t.reg q = s.reg q := by
  unfold State.recordAllocFail
  dsimp only
  split
  · exact ⟨rfl, fun _ _ => rfl⟩
  · refine ⟨rfl, fun q hq => funext fun j => ?_⟩
    rw [State.reg_setF_ne _ F.spmAllocFailLength _ _ _ hq, State.reg_setF_ne _ F.spmAllocFailHandle _ _ _ hq, State.reg_setF_ne _ F.spmAllocFailReason _ _ _ hq,
      State.reg_setF_ne _ F.spmAllocFailValid _ _ _ hq]

/-- The first failure since the register was cleared is recorded with its reason and handle (R134, Table 5.11). -/
theorem State.recordAllocFail_records {s : State} {core reason : Nat} {r : AllocReq} (h : s.flag F.spmAllocFailValid core = false) (hr : reason < 8)
    (hh : r.handle < 256) : let t := s.recordAllocFail core reason r
    t.flag F.spmAllocFailValid core = true ∧ t.getF F.spmAllocFailReason core = reason ∧ t.getF F.spmAllocFailHandle core = r.handle := by
  unfold State.recordAllocFail
  simp only [h, Bool.false_eq_true, if_false]
  refine ⟨?_, ?_, ?_⟩
  · unfold State.flag
    rw [State.getF_setF_bits _ _ _ _ (by decide) (by decide), State.getF_setF_bits _ _ _ _ (by decide) (by decide),
      State.getF_setF_bits _ _ _ _ (by decide) (by decide), State.getF_setF_self]
    rfl
  · rw [State.getF_setF_bits _ _ _ _ (by decide) (by decide), State.getF_setF_bits _ _ _ _ (by decide) (by decide), State.getF_setF_self]
    exact Nat.mod_eq_of_lt hr
  · rw [State.getF_setF_bits _ _ _ _ (by decide) (by decide), State.getF_setF_self]
    exact Nat.mod_eq_of_lt hh

/-! ### The task moves on -/

theorem State.step1_core (s : State) (core i n : Nat) :
    (s.step1 core i n).core core = { (s.core core).setSlot i (((s.core core).slot i).advance n) with progressAt := s.time } := State.core_setCore_self ..

@[simp] theorem State.step1_ht (s : State) (core i n : Nat) : ((s.step1 core i n).core core).ht = (s.core core).ht := by rw [State.step1_core]; rfl
@[simp] theorem State.step1_spm (s : State) (core i n : Nat) : ((s.step1 core i n).core core).spm = (s.core core).spm := by rw [State.step1_core]; rfl
@[simp] theorem State.step1_zeroing (s : State) (core i n : Nat) : ((s.step1 core i n).core core).zeroing = (s.core core).zeroing := by
  rw [State.step1_core]; rfl
@[simp] theorem State.step1_polder (s : State) (core i n h : Nat) : ((s.step1 core i n).core core).polder h = (s.core core).polder h := by
  unfold CoreSt.polder
  rw [State.step1_ht]
@[simp] theorem State.step1_hbm (s : State) (core i n : Nat) : (s.step1 core i n).hbm = s.hbm := rfl

/-! ### ALLOC, FREE and RELEASE as operations -/

section
variable {s u : State} {core : CoreId} {i : Nat} {sl : Slot} {w v : Nat}

theorem exec_handleAlloc_fails {reason : Nat} (h : s.atOp core i sl .alloc w v u) (hf : (u.core core).allocFail (allocWord w) = some reason) :
    exec (.handleAlloc core) s = .next ((u.recordAllocFail core reason (allocWord w)).faultTag sl.tag .descInvalid) := by
  show execHandleAlloc core s = _
  unfold execHandleAlloc
  rw [State.runOp_atOp h rfl]
  dsimp only
  rw [State.alloc_error_iff.2 hf]

theorem exec_handleAlloc_places {done : Bool} {x : State} (h : s.atOp core i sl .alloc w v u) (ha : u.alloc core sl.tag (allocWord w) none = .ok (done, x)) :
    exec (.handleAlloc core) s = .next (x.step1 core i 1) := by
  show execHandleAlloc core s = _
  unfold execHandleAlloc
  rw [State.runOp_atOp h rfl]
  dsimp only
  rw [ha]

theorem exec_handleFree_frees (h : s.atOp core i sl .free w v u) (hc : (u.core core).check sl.tag (bits w 115 108) 0 0 = none)
    (ht : (u.core core).touches i (bits w 115 108) = false) (ha : (u.core core).armedOn (bits w 115 108) = false)
    (hp : (u.core core).allocating (bits w 115 108) = false) :
    exec (.handleFree core) s = .next ((u.freePolder core (bits w 115 108)).step1 core i 1) := by
  show execHandleFree core s = _
  unfold execHandleFree
  rw [State.runOp_atOp h rfl]
  simp [hc, ht, ha, hp]

theorem exec_handleRelease_none (h : s.atOp core i sl .release w v u) (hn : bits w 107 97 = 0) :
    exec (.handleRelease core) s = .next (u.step1 core i 1) := by
  show execHandleRelease core s = _
  unfold execHandleRelease
  rw [State.runOp_atOp h rfl]
  simp [hn]

theorem exec_handleRelease_slots {x : State} (h : s.atOp core i sl .release w v u) (hn : bits w 107 97 ≠ 0)
    (hc : (u.core core).check sl.tag (bits w 115 108) 0 0 = none) (ht : (u.core core).touches i (bits w 115 108) = false)
    (hx : u.releaseSlots core (bits w 115 108) (bits w 107 97) = .ok x) : exec (.handleRelease core) s = .next (x.step1 core i 1) := by
  show execHandleRelease core s = _
  unfold execHandleRelease
  rw [State.runOp_atOp h rfl]
  simp [hn, hc, ht, hx]

end

/-- A handle that passes the check of a task names a valid polder. -/
theorem CoreSt.check_valid {c : CoreSt} {tag h off len : Nat} (hc : c.check tag h off len = none) : (c.polder h).valid = true := by
  unfold CoreSt.check at hc
  by_contra hv
  rw [if_pos (by simp [hv])] at hc
  cases hc

theorem State.grantBack_handles (s : State) (core h n : Nat) : s.Handles core (s.grantBack core h n) := by
  unfold State.grantBack
  dsimp only
  split
  · exact .refl s
  · exact (State.Handles.setCore s _).trans (State.sendNamed_handles ..)

/-- Releasing slots leaves the tasks of the core where they are. -/
theorem State.releaseSlots_slot {s x : State} {core h n : Nat} (hx : s.releaseSlots core h n = .ok x) (i : Nat) : (x.core core).slot i = (s.core core).slot i := by
  -- a change of the core that leaves its slots, then what grants credit back
  have set : ∀ (t : State) (c : CoreSt), c.slots = (t.core core).slots → ((t.setCore core c).core core).slot i = (t.core core).slot i := fun t c hc => by
    unfold CoreSt.slot
    rw [State.core_setCore_self, hc]
  have tide : ∀ t : State, ((t.freeTide core h).core core).slot i = (t.core core).slot i := fun t => by
    unfold State.freeTide
    dsimp only
    split
    · rfl
    split
    · exact ((State.grantBack_handles ..).slot i).trans (set t _ rfl)
    split
    · refine (set _ _ ?_).trans (set t _ rfl)
      rw [State.core_setCore_self]
      rfl
    · exact set t _ rfl
  unfold State.releaseSlots at hx
  dsimp only at hx
  split at hx
  · split at hx
    · cases hx
    · cases hx
      exact (tide _).trans (set s _ rfl)
  split at hx
  · split at hx
    · cases hx
    · cases hx
      exact ((State.grantBack_handles ..).slot i).trans (set s _ rfl)
  split at hx
  · cases hx
  split at hx
  · cases hx
    rfl
  split at hx
  · cases hx
  · cases hx
    exact set s _ rfl

/-! ### The dredger -/

/-- A row without errors is as it was after the visit of it (R142). -/
theorem State.dredgeRow_clean {s : State} {core : Nat} (he : (s.core core).spmErr = []) (hp : (s.core core).spmPassing = []) (row : Nat) :
    s.dredgeRow core row Noise.none = s := by
  have clean : ∀ cw j, s.dredgeCodeword core cw ⟨rowNoise Noise.none.first j, rowNoise Noise.none.second j⟩ = (false, s) := fun cw j => by
    unfold State.dredgeCodeword
    simp [CoreSt.errs, CoreSt.passing, he, hp, Noise.none, rowNoise, Upset.strikes]
  unfold State.dredgeRow
  have fold : ∀ l : List Nat, l.foldl (fun (acc : Bool × State) j => if acc.1 then acc else acc.2.dredgeCodeword core (8 * row + j)
      ⟨rowNoise Noise.none.first j, rowNoise Noise.none.second j⟩) (false, s) = (false, s) := fun l =>
    List.foldlRecOn (motive := fun acc => acc = (false, s)) l _ rfl fun acc e j _ => by
      rw [e]
      exact clean _ j
  rw [fold]

/-- Of two values put under one key the later stays. -/
theorem Table.put_put {α : Type} (t : Table α) (k : Nat) (v w : α) : (t.put k v).put k w = t.put k w := by
  induction t with
  | nil => simp [Table.put]
  | cons p r ih =>
    obtain ⟨j, x⟩ := p
    by_cases h : j = k
    · simp [Table.put, h]
    · by_cases h' : k < j
      · simp [Table.put, h, h']
      · simp [Table.put, h, h', ih]

theorem State.setCore_setCore (s : State) (core : Nat) (x y : CoreSt) : (s.setCore core x).setCore core y = s.setCore core y := by
  unfold State.setCore
  rw [Table.put_put]

theorem exec_dredgerRead_clean {s : State} {core : CoreId} (hr : (s.core core).rst = 0) (hs : s.stopped = false) (he : (s.core core).spmErr = [])
    (hp : (s.core core).spmPassing = []) : let row := (s.core core).dredgeRow
    exec (.dredgerRead core Noise.none [] []) s = .next (
      if row + 1 < 12288 then s.setCore core { s.core core with dredgeRow := row + 1 }
      else (s.setCore core { s.core core with dredgeRow := 0 }).bump F.spmDredgeSweeps core) := by
  have clean := State.dredgeRow_clean (s := s.setCore core (s.core core)) (core := core) (by rw [State.core_setCore_self]; exact he)
    (by rw [State.core_setCore_self]; exact hp) (s.core core).dredgeRow
  show execDredgerRead core Noise.none [] [] s = _
  unfold execDredgerRead
  dsimp only
  rw [if_neg (by simp [hr, hs]), show (s.core core).strike [] [] = s.core core from rfl, clean, State.core_setCore_self, State.setCore_setCore,
    State.setCore_setCore]
  split <;> rfl

/-- Zeroed bytes read zero, the others as before. -/
theorem Mem.read_clear (m : Mem) (a n x : Nat) : (m.clear a n).read x = if a ≤ x ∧ x < a + n then 0 else m.read x := by
  induction m with
  | nil => simp [Mem.clear, Mem.read, Mem.blank]
  | cons p r ih =>
    obtain ⟨b, v⟩ := p
    unfold Mem.clear at ih ⊢
    by_cases hb : a ≤ b ∧ b < a + n
    · rw [List.filter_cons_of_neg (by simp [hb]), ih]
      by_cases hx : b = x
      · rw [← hx, if_pos hb, if_pos hb]
      · simp only [Mem.read, hx, if_false]
    · rw [List.filter_cons_of_pos (by simp; omega)]
      by_cases hx : b = x
      · rw [← hx, if_neg hb]
        simp [Mem.read]
      · simp only [Mem.read, hx, if_false]
        exact ih

/-- ALLOCs that complete open their polders and are answered. -/
theorem State.finishAllocs_handles (s : State) (core : Nat) : s.Handles core (s.finishAllocs core) := by
  unfold State.finishAllocs
  dsimp only
  refine (State.Handles.setCore s _).trans (.foldl (fun s a => ?_) _ _)
  have k := s.openSluice_handles core a.handle
  split
  · exact k.trans (State.reply_handles ..)
  · exact k

/-- They free no granule and no handle. -/
theorem State.finishAllocs_frees (s : State) (core : Nat) : ((s.finishAllocs core).core core).zeroing = (s.core core).zeroing ∧
    ((s.finishAllocs core).core core).frees = (s.core core).frees := by
  unfold State.finishAllocs
  dsimp only
  refine List.foldlRecOn (motive := fun t => (State.core t core).zeroing = (s.core core).zeroing ∧ (State.core t core).frees = (s.core core).frees) _ _
    (by rw [State.core_setCore_self]; exact ⟨rfl, rfl⟩) fun t ht a _ => ?_
  have k : ((t.openSluice core a.handle).core core).zeroing = (s.core core).zeroing ∧ ((t.openSluice core a.handle).core core).frees = (s.core core).frees := by
    obtain ⟨_, _, _, e | e⟩ := t.openSluice_core core a.handle <;> rw [e] <;> exact ht
  split
  · rw [State.reply_core]
    exact k
  · exact k

theorem State.resumeFrees_handles (s : State) (core : Nat) : s.Handles core (s.resumeFrees core) := by
  unfold State.resumeFrees
  refine .foldl (fun t m => ?_) _ s
  split
  · exact .refl t
  · exact t.freePolder_handles ..

theorem State.resumeFrees_nil {s : State} {core : Nat} (h : (s.core core).frees = []) : s.resumeFrees core = s := by
  unfold State.resumeFrees
  rw [h]
  rfl

/-- A granule zeroed: what waited for it completes, the others still wait, and its bytes alone are zero (R135). -/
theorem State.zeroGranule_spec (s : State) (core g : Nat) : let t := s.zeroGranules core [g]
    (t.core core).zeroing = (s.core core).zeroing.filter (fun x => x != g) ∧ (t.core core).frees = (s.core core).frees ∧ t.hbm = s.hbm ∧
      (t.core core).spm = (s.core core).spm.clear (granule * g) granule := by
  unfold State.zeroGranules
  dsimp only
  generalize hx : s.setCore core _ = x
  have core_x : x.core core = _ := hx ▸ State.core_setCore_self ..
  obtain ⟨hz, hf⟩ := x.finishAllocs_frees core
  have k := x.finishAllocs_handles core
  refine ⟨?_, ?_, ?_, ?_⟩
  · rw [hz, core_x]
    exact List.filter_congr fun y _ => by rw [List.contains_cons, List.contains_nil, Bool.or_false]; rfl
  · rw [hf, core_x]
  · rw [k.hbm, ← hx]
    rfl
  · rw [k.spm, core_x]
    rfl

theorem exec_dredgerZeroGranule_oldest {s : State} {core : CoreId} {g : Nat} {gs : List Nat} (h : (s.core core).zeroing = g :: gs) :
    exec (.dredgerZeroGranule core) s = .next ((s.zeroGranules core [g]).resumeFrees core) := by
  show execDredgerZeroGranule core s = _
  unfold execDredgerZeroGranule
  dsimp only
  rw [h]

/-- Settles O22: an ALLOC is placed by best fit (`State.alloc_places`) or recorded, a FREE leaves the released core (`State.release_core`), and the dredger passes a
clean row or clears one granule. -/
theorem handlesComplete : Obligations.HandlesComplete := by
  unfold Obligations.HandlesComplete
  intro s u core i sl w v
  refine ⟨fun h => ⟨?fails, ?places⟩, ?free, ?releaseNone, ?release, ?read, ?zero⟩
  case fails =>
    intro reason hf
    obtain ⟨rest, regs⟩ := u.recordAllocFail_rest core reason (allocWord w)
    have talk := (u.recordAllocFail core reason (allocWord w)).faultTag_talk sl.tag .descInvalid
    refine ⟨_, exec_handleAlloc_fails h hf, State.faults_before (regs _ (by decide)) (regs _ (by decide)) (State.faultTag_faults _ _ _), ?_, fun hv => ?_⟩
    · rw [talk.cores, rest]
    · have handle : (allocWord w).handle < 256 := bits_lt w 115 108
      obtain ⟨r1, r2, r3⟩ := State.recordAllocFail_records hv (CoreSt.allocFail_lt hf) handle
      unfold State.flag at r1 ⊢
      rw [talk.getF F.spmAllocFailValid, talk.getF F.spmAllocFailReason, talk.getF F.spmAllocFailHandle]
      exact ⟨r1, r2, r3⟩
  case places =>
    intro hf
    obtain ⟨done, x, hx, k, placed⟩ := State.alloc_places (tag := sl.tag) hf none
    refine ⟨_, _, exec_handleAlloc_places h hx, ?_, rfl, ?_⟩
    · rw [State.step1_slot, k.slot, h.slot]
    · simp only [State.step1_polder, State.step1_spm, State.step1_hbm]
      refine ⟨placed.valid, placed.owner, placed.length, placed.gen, placed.base, fun g lo hi => ?_, placed.others, k.spm, k.hbm⟩
      have hl : (x.core core).polder (bits w 115 108) = (x.core core).polder (allocWord w).handle := rfl
      rw [hl, placed.length] at hi
      exact CoreSt.bestFit_unused placed.base lo hi
  case free =>
    intro h hc ht ha hp hs
    have k := u.freePolder_handles core (bits w 115 108)
    refine ⟨_, exec_handleFree_frees h hc ht ha hp, ?_, ?_⟩
    · rw [State.step1_slot, k.slot, h.slot]
    · have freed : (u.freePolder core (bits w 115 108)).core core = (u.core core).released (bits w 115 108) := by
        rw [State.freePolder_plain hs, State.release_core (CoreSt.check_valid hc)]
      simp only [State.step1_polder, State.step1_spm, State.step1_zeroing, State.step1_hbm, freed]
      exact ⟨CoreSt.released_polder, fun _ hk => CoreSt.released_polder_ne hk, fun _ hk => CoreSt.released_zeroing hk, rfl, k.hbm⟩
  case releaseNone =>
    intro h hn
    refine ⟨_, exec_handleRelease_none h hn, ?_, State.step1_ht .., State.step1_spm .., rfl⟩
    rw [State.step1_slot, h.slot]
  case release =>
    intro h hn hc ht x hx
    refine ⟨_, exec_handleRelease_slots h hn hc ht hx, ?_, State.step1_ht .., State.step1_spm ..⟩
    rw [State.step1_slot, State.releaseSlots_slot hx, h.slot]
  case read =>
    intro hr hs he hp
    refine ⟨_, exec_dredgerRead_clean hr hs he hp, ?_⟩
    split
    next more =>
      refine ⟨?_, rfl, fun _ => ⟨?_, rfl⟩, fun last => absurd more (Nat.not_lt.2 last)⟩ <;> rw [State.core_setCore_self]
    next last =>
      have e : ∀ x : State, (x.bump F.spmDredgeSweeps core).core = x.core := fun _ => rfl
      refine ⟨?_, rfl, fun more => absurd more last, fun _ => ⟨?_, State.getF_bump_self ..⟩⟩ <;> rw [e, State.core_setCore_self]
  case zero =>
    intro g gs hz hw
    obtain ⟨kz, kf, kh, ks⟩ := s.zeroGranule_spec core g
    have k := (s.zeroGranules core [g]).resumeFrees_handles core
    refine ⟨_, exec_dredgerZeroGranule_oldest hz, fun hf => ?_, k.hbm.trans kh, fun a => ?_⟩
    · rw [State.resumeFrees_nil (kf.trans hf), kz, hz, List.filter_cons_of_neg (by simp)]
    · rw [k.spm, ks, Mem.read_clear, Nat.mul_succ]

end Sys2Proof.Machine

/-! PROOFS. O25: culvert messages that carry arrivals, payloads and credit to a core (R123, R140, R221, R227, Tables 5.8, 5.9 and 8.8). -/

namespace Sys2Proof.Machine

/-- A packet that is delivered acts on the state it is delivered in (R347, R351, R353, R378). -/
theorem State.delivered.packetIn {s u : State} {n : Nat} {p : Packet} (h : s.delivered n p u) (k : State → State) : s.packetIn n p k = k u := by
  obtain ⟨h3, hok, hfit, hzero, hedge, hhere, hreq, hu⟩ := h
  have inside : ¬ (p.type ≠ 9 ∧ rackOf p.srcChip = rackOf u.chip ∧ u.isEdge (tagIndex p.ctxTag) n = true) := by
    rintro ⟨h1, h2, h3⟩
    rcases hedge with e | e | e
    · exact h1 e
    · exact e h2
    · exact Bool.false_ne_true (e.symm.trans h3)
  have taken : ¬ (isRequest p.type && (u.held || u.failed)) = true := by
    intro e
    obtain ⟨e1, e2⟩ := Bool.and_eq_true_iff.1 e
    obtain ⟨h1, h2⟩ := hreq e1
    simp [State.held, h1, h2] at e2
  unfold State.packetIn
  rw [if_neg (by simp [h3])]
  dsimp only
  rw [← hu, if_neg (by simp [hok]), if_neg (by simp [hfit, hzero]), if_neg inside, if_pos hhere, if_neg taken]

/-- A message that reaches its core acts on the state it is received in (R378). -/
theorem State.receives.culvertIn {s u : State} {m : Culvert} (h : s.receives m u) (k : State → State) : s.culvertIn m k = k u := by
  unfold State.culvertIn
  rcases h with ⟨hc, hs, rfl⟩ | ⟨n, b, hc, hd⟩
  · simp [hc, hs]
  · rw [hc]
    exact hd.packetIn k

/-! ### ARRIVE -/

/-- A counter that nobody waits on serves nobody. -/
theorem State.serveWaiter_none {s : State} {core k : Nat} (h : ((s.core core).bar k).waiter = none) : s.serveWaiter core k = s := by
  unfold State.serveWaiter
  dsimp only
  rw [h]
  exact ite_self s

/-- An arrival on a counter of the sender's context adds its count (R227). -/
theorem State.arrive_counts {s : State} {core k n : Nat} {m : Culvert} (hb : ((s.core core).bar k).bound = true) (ho : ((s.core core).bar k).owner = m.ctxTag)
    (hw : ((s.core core).bar k).waiter = none) (hn : ((s.core core).bar k).count + n < 2 ^ 23) :
    s.arrive core k n m = s.setCore core ((s.core core).setBar k { (s.core core).bar k with count := ((s.core core).bar k).count + n }) := by
  unfold State.arrive
  dsimp only
  rw [if_pos (by simp [hb, ho]), if_neg (Nat.not_le.2 hn), State.serveWaiter_none]
  rw [State.core_setCore_self, CoreSt.bar_setBar_self]
  exact hw

/-! ### PUT -/

/-- Where no error stands or waits, a write replaces its bytes and nothing else (R123). -/
theorem State.spmWrite_clean {s : State} {core : Nat} (he : (s.core core).spmErr = []) (hp : (s.core core).spmPassing = []) (abs : Nat) {bs : Bytes} (hbs : bs ≠ []) :
    s.spmWrite core abs bs = (true, s.setCore core { s.core core with spm := (s.core core).spm.writeN abs bs, spmErr := [] }) := by
  have settle : ∀ cw, s.spmSettle core cw = (true, s) := fun cw => by
    unfold State.spmSettle
    simp [CoreSt.errs, CoreSt.passing, he, hp]
  unfold State.spmWrite
  rw [if_neg (by simpa using hbs)]
  simp only [settle, ite_self, Bool.and_self, if_true, he, List.filter_nil]

/-! ### Credit -/

theorem State.settleClosing_owed {s : State} {core h : Nat} (hc : ((s.core core).polder h).credit ≠ 0) : s.settleClosing core h = s := by
  unfold State.settleClosing
  simp [hc]

theorem State.settleClosing_paid {s : State} {core h : Nat} (hv : ((s.core core).polder h).valid = true) (hs : ((s.core core).polder h).sluice = true)
    (h2 : ((s.core core).polder h).sluiceState = 2) (hc : ((s.core core).polder h).credit = 0) : s.settleClosing core h = s.release core h := by
  unfold State.settleClosing
  simp [hv, hs, h2, hc]

/-! ### The messages -/

section
variable {s u : State} {core : CoreId} {m : Culvert}

theorem exec_arrive_live (h : s.receives m u) (hr : (u.core core).rst = 0) :
    exec (.arrive core m) s = .next (u.arrive core (bits m.arg 5 0) (bits m.arg 31 8) m) := by
  show execArrive core m s = _
  unfold execArrive
  rw [h.culvertIn]
  simp [hr]

/-- A diked core discards and counts arrivals and payloads (Table 16.3). -/
theorem exec_arrive_put_diked (h : s.receives m u) (hr : (u.core core).rst ≠ 0) :
    exec (.arrive core m) s = .next (u.bump F.seqEventsBarDrop core) ∧ exec (.put core m) s = .next (u.bump F.seqEventsBarDrop core) := by
  refine ⟨?_, ?_⟩
  · show execArrive core m s = _
    unfold execArrive
    rw [h.culvertIn]
    simp [hr]
  · show execPut core m s = _
    unfold execPut
    rw [h.culvertIn]
    simp [hr]

theorem exec_put_writes {x : State} (h : s.receives m u) (hr : (u.core core).rst = 0) (hg : ((u.core core).polder (bits m.arg 7 0)).gen = m.gen) (h1 : 1 ≤ m.len)
    (h48 : m.len ≤ 48) (hv : ((u.core core).polder (bits m.arg 7 0)).valid = true) (ho : ((u.core core).polder (bits m.arg 7 0)).owner = m.ctxTag)
    (hc : ((u.core core).polder (bits m.arg 7 0)).code = false)
    (hl : bits m.arg 31 8 + m.len ≤ ((u.core core).polder (bits m.arg 7 0)).length * granule)
    (hx : u.spmWrite core ((u.core core).abs (bits m.arg 7 0) (bits m.arg 31 8)) (slice m.payload 0 m.len) = (true, x)) :
    exec (.put core m) s = .next x := by
  show execPut core m s = _
  unfold execPut State.staleHandle
  rw [h.culvertIn]
  dsimp only
  rw [if_neg (by simp [hr]), if_neg (by simp [hg]), if_neg (by omega), if_neg (by simp [hv, ho]), if_neg (by simp [ho]), if_neg (by simp [hc, hl]), hx]

theorem exec_grant_binds (h : s.receives m u) (hb : bit m.arg 6 = true) (hx : ((u.core core).cred (bits m.arg 5 0)).state = 0) :
    exec (.grant core m) s = .next (u.setCore core ((u.core core).setCred (bits m.arg 5 0) { Credit.idle with
      state := if bits m.arg 31 8 = 0 then 2 else 1, owner := m.ctxTag, chip := m.srcChip, core := m.srcCore, gen := m.gen
      addr := field m.payload 0 8, slots := field m.payload 8 2, handle := field m.payload 10 1, credit := bits m.arg 31 8 })) := by
  show execGrant core m s = _
  unfold execGrant
  rw [h.culvertIn]
  dsimp only
  rw [if_pos hb, if_pos hx]

theorem exec_grant_adds (h : s.receives m u) (hb : bit m.arg 6 = false) (hx : (u.core core).boundTo m = true) :
    let x := (u.core core).cred (bits m.arg 5 0)
    exec (.grant core m) s = .next (u.setCore core ((u.core core).setCred (bits m.arg 5 0)
      { x with credit := x.credit + bits m.arg 31 8, state := if x.credit + bits m.arg 31 8 = 0 then x.state else 1, timer := none })) := by
  show execGrant core m s = _
  unfold execGrant
  rw [h.culvertIn]
  dsimp only
  rw [if_neg (by simp [hb]), if_neg (by simp [hx])]

/-- A GRANT without BIND, or a CLOSE, that meets an entry bound to no such sluice is counted (R140). -/
theorem exec_grant_close_stale (h : s.receives m u) (hb : bit m.arg 6 = false) (hx : (u.core core).boundTo m = false) :
    exec (.grant core m) s = .next (u.bump F.spmEventsStale core) ∧ exec (.close core m) s = .next (u.bump F.spmEventsStale core) := by
  refine ⟨?_, ?_⟩
  · show execGrant core m s = _
    unfold execGrant
    rw [h.culvertIn]
    dsimp only
    rw [if_neg (by simp [hb]), if_pos (by simp [hx])]
  · show execClose core m s = _
    unfold execClose
    rw [h.culvertIn]
    dsimp only
    rw [if_pos (by simp [hx])]

theorem exec_close_returns (h : s.receives m u) (hx : (u.core core).boundTo m = true) (hh : u.isHere ((u.core core).cred (bits m.arg 5 0)).chip = true) :
    let x := (u.core core).cred (bits m.arg 5 0)
    exec (.close core m) s = .next ((u.setCore core ((u.core core).setCred (bits m.arg 5 0) .idle)).emit
      (.culvert (u.message x.chip x.core 0x04 x.owner core x.gen (x.handle + 256 * x.credit)))) := by
  have hh : (u.setCore core ((u.core core).setCred (bits m.arg 5 0) .idle)).isHere ((u.core core).cred (bits m.arg 5 0)).chip = true := hh
  show execClose core m s = _
  unfold execClose
  rw [h.culvertIn]
  dsimp only
  rw [if_neg (by simp [hx]), State.sendNamed_here _ hh]
  rfl

theorem exec_returnCredit_closing (h : s.receives m u) (hg : ((u.core core).polder (bits m.arg 7 0)).gen = m.gen)
    (hv : ((u.core core).polder (bits m.arg 7 0)).valid = true) (hs : ((u.core core).polder (bits m.arg 7 0)).sluice = true)
    (h2 : ((u.core core).polder (bits m.arg 7 0)).sluiceState = 2) : let p := (u.core core).polder (bits m.arg 7 0)
    exec (.returnCredit core m) s = .next ((u.setCore core ((u.core core).setPolder (bits m.arg 7 0)
      { p with credit := p.credit - bits m.arg 31 8 })).settleClosing core (bits m.arg 7 0)) := by
  show execReturnCredit core m s = _
  unfold execReturnCredit State.staleHandle
  rw [h.culvertIn]
  dsimp only
  rw [if_neg (by simp [hg]), if_pos (by simp [hv, hs, h2])]

end

/-- Settles O25: each message is its one change of a counter, of bytes, of a credit entry or of a closing sluice. -/
theorem culvertsComplete : Obligations.CulvertsComplete := by
  unfold Obligations.CulvertsComplete
  intro s u core m h
  refine ⟨?arrive, fun hr => exec_arrive_put_diked h hr, ?put, ⟨?binds, ?adds, fun hb hx => exec_grant_close_stale h hb hx, ?close⟩, ?returns⟩
  case arrive =>
    intro hr hb ho hw hn
    refine ⟨_, (exec_arrive_live h hr).trans (congrArg _ (State.arrive_counts hb ho hw hn)), ?_, ?_, rfl, rfl⟩
    · rw [State.core_setCore_self, CoreSt.bar_setBar_self]
    · rw [State.core_setCore_self]
      rfl
  case put =>
    intro p hr hg h1 h48 hv ho hc hl he hp hw
    have len : (slice m.payload 0 m.len).length = m.len := length_slice ..
    have nonempty : slice m.payload 0 m.len ≠ [] := List.ne_nil_of_length_pos (by omega)
    refine ⟨_, exec_put_writes h hr hg h1 h48 hv ho hc hl (State.spmWrite_clean he hp _ nonempty), rfl, rfl, ?_, fun a ha => ?_⟩ <;>
      rw [State.core_setCore_self]
    · have back := Mem.readN_writeN hw ((u.core core).abs (bits m.arg 7 0) (bits m.arg 31 8)) (slice m.payload 0 m.len)
      rw [len] at back
      exact back
    · exact Mem.read_writeN_outside hw _ _ _ (by rw [len]; exact ha)
  case binds =>
    intro hb hx
    refine ⟨_, exec_grant_binds h hb hx, ?_, rfl, rfl⟩
    rw [State.core_setCore_self, CoreSt.cred_setCred_self]
  case adds =>
    intro hb hx
    refine ⟨_, exec_grant_adds h hb hx, ?_, rfl, rfl⟩
    rw [State.core_setCore_self, CoreSt.cred_setCred_self]
  case close =>
    intro hx hh
    refine ⟨_, exec_close_returns h hx hh, ?_, rfl⟩
    rw [State.emit_core, State.core_setCore_self, CoreSt.cred_setCred_self]
  case returns =>
    intro p hg hv hs h2
    refine ⟨_, exec_returnCredit_closing h hg hv hs h2, ?_⟩
    set x := u.setCore core ((u.core core).setPolder (bits m.arg 7 0) { p with credit := p.credit - bits m.arg 31 8 }) with hx
    have polder : (x.core core).polder (bits m.arg 7 0) = { p with credit := p.credit - bits m.arg 31 8 } := by
      rw [hx, State.core_setCore_self, CoreSt.polder_setPolder_self]
    have spm : (x.core core).spm = (u.core core).spm := by
      rw [hx, State.core_setCore_self]
      rfl
    by_cases owed : bits m.arg 31 8 < p.credit
    · rw [State.settleClosing_owed (by rw [polder]; exact Nat.sub_ne_zero_of_lt owed)]
      exact ⟨fun _ => polder, fun paid => absurd owed (Nat.not_lt.2 paid), spm, rfl⟩
    · have zero : p.credit - bits m.arg 31 8 = 0 := Nat.sub_eq_zero_of_le (Nat.not_lt.1 owed)
      have free := State.release_core (s := x) (core := core) (h := bits m.arg 7 0) (by rw [polder]; exact hv)
      rw [State.settleClosing_paid (by rw [polder]; exact hv) (by rw [polder]; exact hs) (by rw [polder]; exact h2) (by rw [polder]; exact zero)]
      refine ⟨fun lt => absurd lt owed, fun _ => ?_, ?_, (x.release_handles ..).hbm⟩ <;> rw [free]
      · rw [CoreSt.released_polder, polder]
      · exact spm

end Sys2Proof.Machine

/-! PROOFS. O26: culvert messages about handles and tasks, answers and refusals (R135, R137, R140, R219, R227, R229, R231, R481). A FREE is carried out among the
others that wait: from its arrival its polder stands and it waits (`State.AwaitsFree`), until its polder is freed and it is answered (`State.HasFreed`). -/

namespace Sys2Proof.Machine

/-- A fold that keeps one fact until an element of its list brings another, which then stays. -/
theorem List.foldl_reaches {α β : Type} {f : β → α → β} {I D : β → Prop} {x : α} (keep : ∀ b a, I b → I (f b a) ∨ D (f b a)) (reach : ∀ b, I b → D (f b x))
    (stay : ∀ b a, D b → D (f b a)) : ∀ {l : List α}, x ∈ l → ∀ {b : β}, I b → D (l.foldl f b)
  | a :: l, hx, b, hb => by
    have after : ∀ {b}, D b → D (l.foldl f b) := fun h => List.foldlRecOn (motive := D) l f h fun b h a _ => stay b a h
    rw [List.foldl_cons]
    by_cases e : x = a
    · exact after (e ▸ reach b hb)
    · rcases keep b a hb with h | h
      · exact List.foldl_reaches keep reach stay ((List.mem_cons.1 hx).resolve_left e) h
      · exact after h

/-! ### Answers -/

/-- A good answer of this chip carries the handle and the type it answers (R137). -/
theorem State.reply_ok_here {s : State} {m : Culvert} (hh : s.isHere m.srcChip = true) (core h : Nat) : s.reply core m h .ok =
    s.emit (.culvert (s.message m.srcChip m.srcCore 0x08 m.ctxTag core ((s.core core).polder h).gen (256 * h + 65536 * m.type))) := by
  have zero : Status.ok.code + 256 * h = 256 * h := Nat.zero_add _
  rw [State.reply_here hh, zero]

theorem State.reply_puts {s : State} {m : Culvert} (hh : s.isHere m.srcChip = true) (core h : Nat) (st : Status) : s.puts (s.reply core m h st)
    (.culvert (s.message m.srcChip m.srcCore 0x08 m.ctxTag core ((s.core core).polder h).gen (st.code + 256 * h + 65536 * m.type))) := by
  rw [State.reply_here hh]
  exact s.emit_puts _

theorem State.reply_ok_puts {s : State} {m : Culvert} (hh : s.isHere m.srcChip = true) (core h : Nat) : s.puts (s.reply core m h .ok)
    (.culvert (s.message m.srcChip m.srcCore 0x08 m.ctxTag core ((s.core core).polder h).gen (256 * h + 65536 * m.type))) := by
  rw [State.reply_ok_here hh]
  exact s.emit_puts _

/-- Of messages answered one after another each gets its answer. -/
theorem State.replies_puts {s : State} {m : Culvert} {l : List Culvert} (hm : m ∈ l) (hh : s.isHere m.srcChip = true) (core h : Nat) :
    s.puts (l.foldl (fun s m => s.reply core m h .ok) s)
      (.culvert (s.message m.srcChip m.srcCore 0x08 m.ctxTag core ((s.core core).polder h).gen (256 * h + 65536 * m.type))) := by
  refine List.foldl_reaches (I := fun t => s.Sends t ∧ t.core core = s.core core) (fun t a ht => .inl ⟨ht.1.trans (t.reply_sends ..), (t.reply_core ..).trans ht.2⟩)
    (fun t ht => ?_) (fun t a ht => (t.reply_sends ..).puts ht) hm ⟨.refl s, rfl⟩
  obtain ⟨sends, same⟩ := ht
  have put := sends.puts_before (State.reply_ok_puts ((sends.isHere _).trans hh) core h)
  rw [sends.message, same] at put
  exact put

/-! ### A culvert FREE among those that wait -/

/-- From a state on, a culvert FREE waits, its polder as it was, and nothing holds it up. -/
structure State.AwaitsFree (u : State) (core : Nat) (m : Culvert) (t : State) : Prop where
  steps : u.Handles core t
  polder : (t.core core).polder (bits m.arg 7 0) = (u.core core).polder (bits m.arg 7 0)
  waits : m ∈ (t.core core).frees
  unarmed : (t.core core).armedOn (bits m.arg 7 0) = false
  placed : (t.core core).allocating (bits m.arg 7 0) = false

/-- From a state on, the polder of a culvert FREE has been freed, and the FREE answered. -/
structure State.HasFreed (u : State) (core : Nat) (m : Culvert) (t : State) : Prop where
  steps : u.Handles core t
  polder : (t.core core).polder (bits m.arg 7 0) = { Polder.empty with gen := (((u.core core).polder (bits m.arg 7 0)).gen + 1) % 64 }
  answered : u.puts t (.culvert (u.message m.srcChip m.srcCore 0x08 m.ctxTag core ((((u.core core).polder (bits m.arg 7 0)).gen + 1) % 64)
    (256 * bits m.arg 7 0 + 65536 * m.type)))

section
variable {u : State} {core : Nat} {m : Culvert}

theorem State.AwaitsFree.frees {t : State} (ht : u.AwaitsFree core m t) (hv : ((u.core core).polder (bits m.arg 7 0)).valid = true)
    (hs : ((u.core core).polder (bits m.arg 7 0)).sluice = false) (hh : u.isHere m.srcChip = true) : u.HasFreed core m (t.freePolder core (bits m.arg 7 0)) := by
  obtain ⟨steps, polder, waits, -, -⟩ := ht
  have valid : ((t.core core).polder (bits m.arg 7 0)).valid = true := by rw [polder]; exact hv
  have freed : t.freePolder core (bits m.arg 7 0) = t.release core (bits m.arg 7 0) := State.freePolder_plain (by rw [polder]; exact hs)
  refine ⟨steps.trans (t.freePolder_handles ..), ?_, ?_⟩
  · rw [freed, State.release_core valid, CoreSt.released_polder, polder]
  · have sent : u.Sends (t.setCore core ((t.core core).released (bits m.arg 7 0))) := steps.toSends.trans (.setCore ..)
    have mem : m ∈ (t.core core).frees.filter (fun a => bits a.arg 7 0 == bits m.arg 7 0) := List.mem_filter.2 ⟨waits, beq_self_eq_true _⟩
    have put := State.replies_puts mem ((sent.isHere _).trans hh) core (bits m.arg 7 0)
    rw [← State.release_valid valid, ← freed, sent.message, State.core_setCore_self, CoreSt.released_polder, polder] at put
    exact sent.puts_before put

theorem State.AwaitsFree.apart {t : State} (ht : u.AwaitsFree core m t) {h : Nat} (hk : bits m.arg 7 0 ≠ h) : u.AwaitsFree core m (t.freePolder core h) := by
  obtain ⟨polder, waits, placed⟩ := t.freePolder_apart core hk
  have k := t.freePolder_handles core h
  exact ⟨ht.steps.trans k, polder.trans ht.polder, waits m ht.waits rfl, (k.armedOn _).trans ht.unarmed, placed ht.placed⟩

theorem State.HasFreed.stays {t : State} (ht : u.HasFreed core m t) (h : Nat) : u.HasFreed core m (t.freePolder core h) := by
  by_cases hk : bits m.arg 7 0 = h
  · rw [State.freePolder_invalid (by rw [← hk, ht.polder]; rfl)]
    exact ht
  · have k := t.freePolder_handles core h
    exact ⟨ht.steps.trans k, (t.freePolder_apart core hk).1.trans ht.polder, k.puts ht.answered⟩

/-- The FREEs that wait are carried out, one that nothing holds up among them (R219). -/
theorem State.AwaitsFree.resumed {t : State} (ht : u.AwaitsFree core m t) (hv : ((u.core core).polder (bits m.arg 7 0)).valid = true)
    (hs : ((u.core core).polder (bits m.arg 7 0)).sluice = false) (hh : u.isHere m.srcChip = true) : u.HasFreed core m (t.resumeFrees core) := by
  refine List.foldl_reaches (I := u.AwaitsFree core m) (fun t a ht => ?_) (fun t ht => ?_) (fun t a ht => ?_) ht.waits ht
  · split
    · exact .inl ht
    · by_cases hk : bits m.arg 7 0 = bits a.arg 7 0
      · exact .inr (hk ▸ ht.frees hv hs hh)
      · exact .inl (ht.apart hk)
  · rw [if_neg (by simp [ht.unarmed, ht.placed])]
    exact ht.frees hv hs hh
  · split
    · exact ht
    · exact ht.stays _

end

/-! ### A task enters its slot -/

/-- A core with a waiting task in one of its slots, ready (R231). -/
def CoreSt.loaded (c : CoreSt) (w : Waiting) (i : Nat) : CoreSt :=
  { c with queue := c.queue.filter (· != w) }.setSlot i
    { Slot.empty with state := 1, tag := w.tag, task := w.task, codeHandle := w.codeHandle, pc := w.pc, prio := w.prio }

/-- A core with a ready slot has one to pick. -/
theorem CoreSt.pick_ready {c : CoreSt} {i : Nat} (hi : i < 4) (h : (c.slot i).state = 1) : ∃ j, c.pick = some j := by
  have order : i ∈ (List.range 4).map (fun j => (c.lastRan + 1 + j) % 4) :=
    List.mem_map.2 ⟨(i + 4 - (c.lastRan + 1) % 4) % 4, List.mem_range.2 (Nat.mod_lt _ (by decide)), by omega⟩
  have ready : i ∈ ((List.range 4).map (fun j => (c.lastRan + 1 + j) % 4)).filter (fun i => (c.slot i).state == 1) := List.mem_filter.2 ⟨order, beq_iff_eq.2 h⟩
  unfold CoreSt.pick
  dsimp only
  split
  next e => rw [e] at ready; cases ready
  · exact ⟨_, rfl⟩

theorem State.switch_busy {s : State} {core : Nat} (h : (s.core core).running.isSome = true) : s.switch core = s := by
  unfold State.switch
  dsimp only
  rw [if_pos h]

/-- An idle core with a ready slot starts one (R229). -/
theorem State.switch_starts {s : State} {core j : Nat} (hn : (s.core core).running = none) (hj : (s.core core).pick = some j) : s.switch core =
    (s.setCore core { (s.core core).setSlot j { (s.core core).slot j with state := 2 } with running := some j, gated := false, progressAt := s.time }).bump
      F.seqSwitchesCount core := by
  unfold State.switch
  dsimp only
  rw [if_neg (by simp [hn]), hj]

/-- A task that starts keeps what its slot holds. -/
theorem State.switch_starts_slot {s : State} {core j : Nat} (hn : (s.core core).running = none) (hj : (s.core core).pick = some j) (i : Nat) :
    ∃ state, ((s.switch core).core core).slot i = { (s.core core).slot i with state := state } := by
  have e : ((s.switch core).core core).slot i = ((s.core core).setSlot j { (s.core core).slot j with state := 2 }).slot i := by
    rw [State.switch_starts hn hj, State.bump_core, State.core_setCore_self]
    rfl
  rw [e]
  by_cases hi : i = j
  · exact ⟨2, by rw [hi, CoreSt.slot_setSlot_self]⟩
  · exact ⟨_, CoreSt.slot_setSlot_ne _ _ hi⟩

/-! ### The messages -/

/-- A context whose tag is stale faults if its sender is live (R227). -/
theorem State.faultTag_alive (s : State) (tag : Nat) (st : Status) : s.faults (if s.alive tag then s.faultTag tag st else s) tag st := by
  intro hs ht
  rw [if_pos (by simp [State.alive, hs, ht])]
  exact s.faultTag_faults tag st hs ht

section
variable {s u : State} {core : CoreId} {m : Culvert}

/-- What ALLOC and FREE ask of a core before they are carried out. -/
theorem unrefused (hr : (u.core core).rst = 0) (hc : m.came.isSome = true → u.held = false) :
    ¬ ((u.core core).rst ≠ 0 ∨ (m.came.isSome = true ∧ u.held = true)) := by
  rintro (h | ⟨h1, h2⟩)
  · exact h hr
  · exact Bool.false_ne_true ((hc h1).symm.trans h2)

theorem exec_culvertAlloc_places {x : State} (h : s.receives m u) (hr : (u.core core).rst = 0) (hc : m.came.isSome = true → u.held = false)
    (ha : u.alive m.ctxTag = true) (hx : u.alloc core m.ctxTag (allocMessage m) (some m) = .ok (true, x)) :
    exec (.culvertAlloc core m) s = .next (x.reply core m (bits m.arg 7 0) .ok) := by
  show execCulvertAlloc core m s = _
  unfold execCulvertAlloc
  rw [h.culvertIn]
  dsimp only
  rw [if_neg (unrefused hr hc), if_neg (by simp [ha]), hx]
  rfl

theorem exec_culvertAlloc_fails {reason : Nat} (h : s.receives m u) (hr : (u.core core).rst = 0) (hc : m.came.isSome = true → u.held = false)
    (ha : u.alive m.ctxTag = true) (hx : u.alloc core m.ctxTag (allocMessage m) (some m) = .error reason) :
    exec (.culvertAlloc core m) s = .next ((u.recordAllocFail core reason (allocMessage m)).reply core m (bits m.arg 7 0) .descInvalid) := by
  show execCulvertAlloc core m s = _
  unfold execCulvertAlloc
  rw [h.culvertIn]
  dsimp only
  rw [if_neg (unrefused hr hc), if_neg (by simp [ha]), hx]
  rfl

/-- In the held stage of a service hold neither comes in from another chip (R481). -/
theorem exec_culvert_held (h : s.receives m u) (hc : m.came.isSome = true) (hh : u.held = true) :
    ∀ k ∈ [Instr.culvertAlloc core m, .culvertFree core m], exec k s = .next (u.reply core m (bits m.arg 7 0) .fenced) := by
  intro k hk
  simp only [List.mem_cons, List.not_mem_nil, or_false] at hk
  rcases hk with rfl | rfl
  · show execCulvertAlloc core m s = _
    unfold execCulvertAlloc
    rw [h.culvertIn]
    dsimp only
    rw [if_pos (.inr ⟨hc, hh⟩)]
    rfl
  · show execCulvertFree core m s = _
    unfold execCulvertFree
    rw [h.culvertIn]
    dsimp only
    rw [if_pos (.inr ⟨hc, hh⟩)]

theorem exec_culvertFree_waits (h : s.receives m u) (hr : (u.core core).rst = 0) (hc : m.came.isSome = true → u.held = false)
    (hg : ((u.core core).polder (bits m.arg 7 0)).gen = m.gen) (hv : ((u.core core).polder (bits m.arg 7 0)).valid = true)
    (ho : ((u.core core).polder (bits m.arg 7 0)).owner = m.ctxTag) :
    exec (.culvertFree core m) s = .next ((u.setCore core { u.core core with frees := (u.core core).frees ++ [m] }).resumeFrees core) := by
  show execCulvertFree core m s = _
  unfold execCulvertFree State.staleHandle
  rw [h.culvertIn]
  dsimp only
  rw [if_neg (unrefused hr hc), if_neg (by simp [hg]), if_neg (by simp [hv, ho])]

theorem exec_reply_good {st : Status} (h : s.receives m u) (hst : Status.ofCode (bits m.arg 7 0) = some st) (hg : st.good = true) :
    exec (.reply core m) s = .next u := by
  show execReply core m s = _
  unfold execReply
  rw [h.culvertIn, hst]
  simp [hg]

/-- An error faults the context it answers; one that refuses a binding GRANT closes its sluice first (R137, R140). -/
theorem exec_reply_error {st : Status} (h : s.receives m u) (hst : Status.ofCode (bits m.arg 7 0) = some st) (hg : st.good = false) :
    exec (.reply core m) s = .next ((if bits m.arg 23 16 = 3 ∧ ((u.core core).polder (bits m.arg 15 8)).gen = m.gen then u.freePolder core (bits m.arg 15 8)
      else u).faultTag m.ctxTag st) := by
  show execReply core m s = _
  unfold execReply
  rw [h.culvertIn, hst]
  simp [hg]

theorem exec_stale_task (h : s.receives m u) (hb : bits m.arg 7 0 ≠ 0) :
    exec (.stale core m) s = .next (if u.alive m.ctxTag then u.faultTag m.ctxTag .staleContext else u) := by
  show execStale core m s = _
  unfold execStale
  rw [h.culvertIn]
  dsimp only
  rw [if_pos hb]

/-- A STALE for a block is counted; what else it does is fault the context that sent the block (R140). -/
theorem exec_stale_block (h : s.receives m u) (hb : bits m.arg 7 0 = 0) :
    ∃ t, exec (.stale core m) s = .next t ∧ (u.bump F.spmEventsStale core).Talk faultRegs t := by
  show ∃ t, execStale core m s = .next t ∧ _
  unfold execStale
  rw [h.culvertIn]
  dsimp only
  rw [if_neg (not_not.2 hb)]
  refine ⟨_, rfl, ?_⟩
  split_ifs
  · exact State.faultTag_talk ..
  · exact .refl _
  · exact .refl _

theorem exec_task_loads {w : Waiting} (h : s.receives m u)
    (hw : (u.core core).queue.find? (fun w => w.tag == m.ctxTag && w.task == bits m.arg 31 8 && w.slot == some (bits m.arg 7 0)) = some w)
    (hr : (u.core core).rst = 0) (hs : ((u.core core).slot (bits m.arg 7 0)).state = 0) (he : ((u.core core).slot (bits m.arg 7 0)).ending = false)
    (hl : u.live w.tag = true) : exec (.task core m) s = .next ((u.setCore core ((u.core core).loaded w (bits m.arg 7 0))).switch core) := by
  show execTask core m s = _
  unfold execTask
  rw [h.culvertIn]
  dsimp only
  rw [hw]
  dsimp only
  rw [if_neg (by simp [hr, hs, he, hl])]
  rfl

theorem exec_culvertReserved (h : s.receives m u) : exec (.culvertReserved core m) s = .next (u.bump F.seqEventsCulvDrop core) := by
  show execCulvertReserved core m s = _
  unfold execCulvertReserved
  rw [h.culvertIn]

end

/-- Settles O26: ALLOC and FREE answer what they have done (`State.AwaitsFree.resumed`), REPLY and STALE are a fault or nothing, TASK loads its slot and then the
core selects. -/
theorem handleMessagesComplete : Obligations.HandleMessagesComplete := by
  unfold Obligations.HandleMessagesComplete
  intro s u core m h
  refine ⟨fun hr hc ha hh => ⟨?places, ?fails⟩, ?held, ?free, fun st hst => ⟨fun hg => exec_reply_good h hst hg, ?error, ?refused⟩, ?staleTask, ?staleBlock, ?task,
    exec_culvertReserved h⟩
  case places =>
    intro x hx
    exact ⟨_, exec_culvertAlloc_places h hr hc ha hx, State.reply_cores .., State.reply_ok_puts (((State.alloc_handles hx).isHere _).trans hh) ..⟩
  case fails =>
    intro reason hx
    obtain ⟨rest, regs⟩ := u.recordAllocFail_rest core reason (allocMessage m)
    have plan := regs .topoPlanStatus (by decide)
    have f : ∀ g : Fld, g.reg = .topoPlanStatus → (u.recordAllocFail core reason (allocMessage m)).getF g = u.getF g := fun g hg => by
      unfold State.getF
      rw [hg, plan]
    have here : (u.recordAllocFail core reason (allocMessage m)).isHere m.srcChip = true := by
      unfold State.isHere State.flag
      rw [f F.topoPlanStatusLoaded rfl, f F.topoPlanStatusChip rfl]
      exact hh
    have put := State.reply_puts here core (bits m.arg 7 0) .descInvalid
    refine ⟨_, exec_culvertAlloc_fails h hr hc ha hx, ?_, ?_, ?_⟩
    · rw [State.reply_cores, rest]
    · rw [(State.reply_sends ..).hbm, rest]
    · have message : ∀ a b c d e g h, (u.recordAllocFail core reason (allocMessage m)).message a b c d e g h = u.message a b c d e g h := by
        intros
        unfold State.message State.self State.flag
        rw [f F.topoPlanStatusLoaded rfl, f F.topoPlanStatusChip rfl]
      have same : (u.recordAllocFail core reason (allocMessage m)).core core = u.core core := (congrArg (State.core · core) rest).trans rfl
      have out : (u.recordAllocFail core reason (allocMessage m)).out = u.out := (congrArg State.out rest).trans rfl
      rw [message, same] at put
      unfold State.puts at put ⊢
      rw [out] at put
      exact put
  case held =>
    intro _ hc hh here k hk
    exact ⟨_, exec_culvert_held h hc hh k hk, State.reply_cores .., (State.reply_sends ..).hbm, State.reply_puts here ..⟩
  case free =>
    intro p hr hc hg hv ho hs ha hp hh
    have waits : u.AwaitsFree core m (u.setCore core { u.core core with frees := (u.core core).frees ++ [m] }) := by
      refine ⟨.setCore u _, ?_, ?_, ?_, ?_⟩ <;> rw [State.core_setCore_self]
      · rfl
      · exact List.mem_append_right _ (List.mem_singleton.2 rfl)
      · exact ha
      · exact hp
    obtain ⟨steps, polder, answered⟩ := waits.resumed hv hs hh
    exact ⟨_, exec_culvertFree_waits h hr hc hg hv ho, polder, answered, steps.spm, steps.hbm⟩
  case error =>
    intro hg hb
    have talk := u.faultTag_talk m.ctxTag st
    have e := exec_reply_error (core := core) h hst hg
    rw [if_neg (fun k => hb k.1)] at e
    exact ⟨_, e, u.faultTag_faults _ _, talk.cores, (u.faultTag_sends ..).hbm⟩
  case refused =>
    intro hg hb hgen
    have e := exec_reply_error (core := core) h hst hg
    rw [if_pos ⟨hb, hgen⟩] at e
    exact ⟨_, e, State.faultTag_faults _ _ _, (State.faultTag_talk ..).cores, (State.faultTag_sends ..).hbm.trans (u.freePolder_handles ..).hbm⟩
  case staleTask =>
    intro hb
    refine ⟨_, exec_stale_task h hb, u.faultTag_alive _ _, ?_, ?_⟩ <;> split
    · exact (u.faultTag_talk ..).cores
    · rfl
    · exact (u.faultTag_sends ..).hbm
    · rfl
  case staleBlock =>
    intro hb
    obtain ⟨t, e, talk⟩ := exec_stale_block (core := core) h hb
    exact ⟨t, e, talk.getF F.spmEventsStale core, talk.cores, by rw [talk.rest]; rfl⟩
  case task =>
    intro w hw hr hs he hl hi
    refine ⟨_, exec_task_loads h hw hr hs he hl, ?_⟩
    generalize hx : u.setCore core ((u.core core).loaded w (bits m.arg 7 0)) = x
    have loaded : x.core core = (u.core core).loaded w (bits m.arg 7 0) := hx ▸ State.core_setCore_self ..
    have slot : (x.core core).slot (bits m.arg 7 0) =
        { Slot.empty with state := 1, tag := w.tag, task := w.task, codeHandle := w.codeHandle, pc := w.pc, prio := w.prio } := by
      rw [loaded]
      exact CoreSt.slot_setSlot_self ..
    have queue : w ∉ (x.core core).queue := by
      rw [loaded]
      exact fun k => by simpa using (List.mem_filter.1 k).2
    have running : (x.core core).running = (u.core core).running := by rw [loaded]; rfl
    cases hrun : (u.core core).running with
    | some k =>
      rw [State.switch_busy (by rw [running, hrun]; rfl), slot]
      exact ⟨queue, rfl, rfl, rfl, fun e => (Option.some_ne_none _ e).elim, fun _ _ => rfl⟩
    | none =>
      obtain ⟨j, hj⟩ := CoreSt.pick_ready hi (congrArg Slot.state slot)
      obtain ⟨state, e⟩ := State.switch_starts_slot (running.trans hrun) hj (bits m.arg 7 0)
      rw [e, slot]
      have starts := State.switch_starts (running.trans hrun) hj
      refine ⟨?_, rfl, rfl, rfl, fun _ => ?_, fun _ e => (Option.some_ne_none _ e.symm).elim⟩ <;> rw [starts, State.bump_core, State.core_setCore_self]
      · exact queue
      · rfl

end Sys2Proof.Machine

/-! PROOFS. O44: the dike, reset and lift of a core (R143, R417 to R420, Tables 16.1, 16.2). Users are fenced one after another, each keeping the status it takes
(`State.fence_faults`); the polders that go are freed one after another, each leaving the others (`State.freePolders_apart`). -/

namespace Sys2Proof.Machine

/-! ### A core is diked -/

/-- The status that fencing a context gives it: that of the context named, FENCED for the others (R417). -/
def fenceStatus (named : Option (Nat × Status)) (i : Nat) : Status :=
  match named with
  | some (k, st) => if k = i then st else .fenced
  | none => .fenced

/-- A user of a diked core faults, if its tag is its context's. -/
def State.fence (named : Option (Nat × Status)) (s : State) (tag : Nat) : State :=
  if s.tag (tagIndex tag) = tag then s.fault (tagIndex tag) (fenceStatus named (tagIndex tag)) else s

/-- The core that a dike's first step leaves, before its users fault. -/
def State.diked (s : State) (core : Nat) : State :=
  (s.setCore core { s.core core with rst := 1, dikeAt := some s.time, dikeFor := s.dikeNs }).log 0x0020 (sourceOf 0 core) 0 .ok 0

theorem State.diked_reg (s : State) (core : Nat) (r : Reg) : (s.diked core).reg r = s.reg r :=
  funext fun i => ((State.Talk.log (rs := []) ..).regs r List.not_mem_nil i).trans (s.setCore_reg core _ r i)

theorem State.dikeCore_fences {s : State} {core : Nat} (named : Option (Nat × Status)) (h : (s.core core).rst = 0) :
    s.dikeCore core named none = (s.core core).users.foldl (State.fence named) (s.diked core) := by
  have e : ∀ (s : State) (tag : Nat), State.fence named s tag =
      let i := tagIndex tag
      if (none : Option Nat) == some i || s.tag i != tag then s
      else match named with
        | some (k, st) => if k = i then s.fault i st else s.fault i .fenced
        | none => s.fault i .fenced := fun s tag => by
    unfold State.fence fenceStatus
    dsimp only
    by_cases ht : s.tag (tagIndex tag) = tag
    · rw [if_pos ht, if_neg (by simp [ht])]
      cases named with
      | none => rfl
      | some k => exact apply_ite (s.fault (tagIndex tag)) ..
    · rw [if_neg ht, if_pos (by simp [ht])]
  unfold State.dikeCore
  dsimp only
  rw [if_neg (by simp [h]), show State.fence named = _ from funext fun s => funext (e s)]
  rfl

theorem State.fence_talk (named : Option (Nat × Status)) (s : State) (tag : Nat) : s.Talk faultRegs (s.fence named tag) := by
  unfold State.fence
  split
  · exact s.fault_talk ..
  · exact .refl s

theorem tagIndex_key {a b : Nat} (h : tagIndex a ≠ tagIndex b) : Reg.cxsCtxState.key (tagIndex a) ≠ Reg.cxsCtxState.key (tagIndex b) := by
  unfold tagIndex at h ⊢
  exact Reg.key_ne_entry h (by omega) (by omega)

/-- Of users fenced one after another each faults with its status, and keeps it. -/
theorem State.fence_faults (s : State) (named : Option (Nat × Status)) {l : List Nat} {tag : Nat} (hm : tag ∈ l) :
    s.faults (l.foldl (State.fence named) s) tag (fenceStatus named (tagIndex tag)) := by
  intro hs ht
  have same : ∀ (t : State) (a : Nat), tagIndex a ≠ tagIndex tag → (t.fence named a).reg .cxsCtxState (tagIndex tag) = t.reg .cxsCtxState (tagIndex tag) :=
    fun t a ne => by
      unfold State.fence
      split
      · exact t.faultWith_elsewhere _ _ _ (tagIndex_key (Ne.symm ne))
      · rfl
  have shows : ∀ {t u : State}, u.reg .cxsCtxState (tagIndex tag) = t.reg .cxsCtxState (tagIndex tag) →
      u.ctxState (tagIndex tag) = t.ctxState (tagIndex tag) ∧ u.getF F.cxsCtxStateStatus (tagIndex tag) = t.getF F.cxsCtxStateStatus (tagIndex tag) :=
    fun e => ⟨congrArg (bits · _ _) e, congrArg (bits · _ _) e⟩
  have reach : ∀ t : State, t.ctxState (tagIndex tag) = 1 ∧ t.tag (tagIndex tag) = tag →
      (t.fence named tag).ctxState (tagIndex tag) = 2 ∧ (t.fence named tag).getF F.cxsCtxStateStatus (tagIndex tag) = (fenceStatus named (tagIndex tag)).code :=
    fun t ⟨h1, h2⟩ => by
      unfold State.fence
      rw [if_pos h2]
      exact t.faultWith_state _ _ _ _ h1
  refine List.foldl_reaches (I := fun t : State => t.ctxState (tagIndex tag) = 1 ∧ t.tag (tagIndex tag) = tag)
    (D := fun t : State => t.ctxState (tagIndex tag) = 2 ∧ t.getF F.cxsCtxStateStatus (tagIndex tag) = (fenceStatus named (tagIndex tag)).code)
    (fun t a hI => ?_) reach (fun t a hD => ?_) hm ⟨hs, ht⟩
  · by_cases ne : tagIndex a = tagIndex tag
    · by_cases e : a = tag
      · exact .inr (e ▸ reach t hI)
      · refine .inl ?_
        have skipped : t.fence named a = t := by
          unfold State.fence
          rw [ne, hI.2, if_neg (Ne.symm e)]
        rw [skipped]
        exact hI
    · exact .inl ⟨(shows (same t a ne)).1.trans hI.1, ((State.fence_talk ..).tag _).trans hI.2⟩
  · by_cases ne : tagIndex a = tagIndex tag
    · unfold State.fence
      rw [ne]
      split
      · exact State.faultWith_again hD
      · exact hD
    · rw [(shows (same t a ne)).1, (shows (same t a ne)).2]
      exact hD

/-- A core with no reset under way is diked, and its users fault (R417). -/
theorem State.dikeCore_dikes (s : State) (core : Nat) (named : Option (Nat × Status)) (h : (s.core core).rst = 0) : let t := s.dikeCore core named none
    t.core core = { s.core core with rst := 1, dikeAt := some s.time, dikeFor := s.dikeNs } ∧ (∀ c, c ≠ core → t.core c = s.core c) ∧ t.hbm = s.hbm ∧
      ∀ tag ∈ (s.core core).users, s.faults t tag (fenceStatus named (tagIndex tag)) := by
  dsimp only
  rw [State.dikeCore_fences named h]
  have talk : (s.diked core).Talk faultRegs ((s.core core).users.foldl (State.fence named) (s.diked core)) := .foldl (State.fence_talk named) ..
  refine ⟨(talk.core core).trans ?_, fun c hc => (talk.core c).trans ?_, ?_, fun tag hm => State.faults_before (s.diked_reg ..) (s.diked_reg ..) (State.fence_faults _ named hm)⟩
  · exact (State.log_core ..).trans (State.core_setCore_self ..)
  · exact (State.log_core ..).trans (State.core_setCore_ne _ _ hc)
  · rw [talk.rest]
    rfl

/-! ### A core is reset -/

/-- The polders of a list are freed in its order. -/
def State.freePolders (s : State) (core : Nat) (l : List Nat) : State := l.foldl (fun s h => s.freePolder core h) s

section
variable {core h : Nat} {s : State} {l : List Nat}

theorem State.freePolders_handles (s : State) (core : Nat) (l : List Nat) : s.Handles core (s.freePolders core l) := .foldl (fun s h => s.freePolder_handles core h) l s

theorem State.freePolders_apart (hl : h ∉ l) : ((s.freePolders core l).core core).polder h = (s.core core).polder h :=
  List.foldlRecOn (motive := fun t => (State.core t core).polder h = (s.core core).polder h) l _ rfl fun t ht _ ha =>
    (t.freePolder_apart core (ne_of_mem_of_not_mem ha hl).symm).1.trans ht

/-- Of the polders freed one that is no sluice is free. -/
theorem State.freePolders_plain (hl : h ∈ l) (hv : ((s.core core).polder h).valid = true) (hs : ((s.core core).polder h).sluice = false) :
    (((s.freePolders core l).core core).polder h).valid = false := by
  have reach : ∀ t : State, (t.core core).polder h = (s.core core).polder h → (((t.freePolder core h).core core).polder h).valid = false := fun t e => by
    rw [State.freePolder_plain (by rw [e]; exact hs), State.release_core (by rw [e]; exact hv), CoreSt.released_polder]
    rfl
  refine List.foldl_reaches (I := fun t => (State.core t core).polder h = (s.core core).polder h) (D := fun t => ((State.core t core).polder h).valid = false)
    (fun t a e => ?_) reach (fun t a e => ?_) hl rfl
  · by_cases k : h = a
    · exact .inr (k ▸ reach t e)
    · exact .inl ((t.freePolder_apart core k).1.trans e)
  · by_cases k : h = a
    · rw [← k, State.freePolder_invalid e]
      exact e
    · rw [(t.freePolder_apart core k).1]
      exact e

/-- Of the polders freed an open sluice that still owes credit closes (Table 5.8). -/
theorem State.freePolders_sluice (hl : h ∈ l) (hv : ((s.core core).polder h).valid = true) (hs : ((s.core core).polder h).sluice = true)
    (h1 : ((s.core core).polder h).sluiceState = 1) (hc : ((s.core core).polder h).credit ≠ 0) :
    ((s.freePolders core l).core core).polder h = { (s.core core).polder h with sluiceState := 2, closeAt := some s.time } := by
  have reach : ∀ t : State, (t.core core).polder h = (s.core core).polder h ∧ t.time = s.time →
      ((t.freePolder core h).core core).polder h = { (s.core core).polder h with sluiceState := 2, closeAt := some s.time } := fun t ⟨e, time⟩ => by
    rw [State.freePolder_open (by rw [e]; exact hv) (by rw [e]; exact hs) (by rw [e]; exact h1)]
    dsimp only
    rw [if_neg (by rw [e]; exact hc), (State.sendNamed_talk ..).core core, State.core_setCore_self, CoreSt.closing_polder, e, time]
  refine List.foldl_reaches (I := fun t => (State.core t core).polder h = (s.core core).polder h ∧ t.time = s.time)
    (D := fun t => (State.core t core).polder h = { (s.core core).polder h with sluiceState := 2, closeAt := some s.time })
    (fun t a e => ?_) reach (fun t a e => ?_) hl ⟨rfl, rfl⟩
  · by_cases k : h = a
    · exact .inr (k ▸ reach t e)
    · exact .inl ⟨(t.freePolder_apart core k).1.trans e.1, (t.freePolder_handles core a).time.trans e.2⟩
  · by_cases k : h = a
    · rw [← k, State.freePolder_closes (by rw [e]; exact hs) (by rw [e])]
      exact e
    · rw [(t.freePolder_apart core k).1]
      exact e

end

/-- The handles of the polders that a reset frees: valid and not resident (R420). -/
def CoreSt.gone (c : CoreSt) : List Nat := (c.ht.filter (fun p => p.2.valid && !p.2.resident)).map (·.1)

/-- What a reset leaves of a core before its polders are freed (R143, R420). -/
def CoreSt.stripped (c : CoreSt) (time : Nat) : CoreSt :=
  { CoreSt.idle with
    rst := 3, spm := c.spm, spmErr := c.spmErr, spmPassing := c.spmPassing, ht := c.ht, zeroing := c.zeroing, dredgeRow := c.dredgeRow, trailers := c.trailers
    progressAt := time, lastCtx := c.lastCtx, dikeAt := c.dikeAt, dikeFor := c.dikeFor, frees := c.frees
    allocs := c.allocs.filter (fun a => (c.polder a.handle).resident) }

theorem CoreSt.stripped_polder (c : CoreSt) (time h : Nat) : (c.stripped time).polder h = c.polder h := rfl

/-- Digesting the tensors that runs feed to hash engines changes invocations only. -/
theorem State.runDigest_talk {rs : List Reg} (s : State) (tag : Nat) (r : Run) : s.Talk rs (s.runDigest tag r) := by
  unfold State.runDigest
  dsimp only
  split
  · exact .refl s
  · split
    · split
      · exact .refl s
      · exact .setCtx_same ..
    · exact .refl s

theorem State.coreDigests_talk {rs : List Reg} (s : State) (core tag : Nat) : s.Talk rs (s.coreDigests core tag) :=
  .foldl (fun s p => by
    split
    · split
      · exact s.runDigest_talk ..
      · exact .refl s
    · exact .refl s) ..

/-- An ALLOC that a reset loses is answered FENCED_ABORT (R420). -/
def State.lose (core : Nat) (s : State) (a : PendAlloc) : State :=
  match a.reply with
  | some m => s.reply core m a.handle .fencedAbort
  | none => s

theorem State.lose_sends (core : Nat) (s : State) (a : PendAlloc) : s.Sends (s.lose core a) ∧ (s.lose core a).cores = s.cores := by
  unfold State.lose
  split
  · exact ⟨s.reply_sends .., s.reply_cores ..⟩
  · exact ⟨.refl s, rfl⟩

theorem State.loses_sends (core : Nat) (l : List PendAlloc) (s : State) : s.Sends (l.foldl (State.lose core) s) ∧ (l.foldl (State.lose core) s).cores = s.cores :=
  List.foldlRecOn (motive := fun t => s.Sends t ∧ t.cores = s.cores) l _ ⟨.refl s, rfl⟩ fun t ht a _ =>
    ⟨ht.1.trans (t.lose_sends core a).1, (t.lose_sends core a).2.trans ht.2⟩

/-- What the reset of a core leaves: the stripped core with its polders freed, the other cores and memory, and its own count moved. -/
theorem State.resetCore_leaves (s : State) (core : Nat) : ∃ u : State, u.core core = (s.core core).stripped s.time ∧ u.time = s.time ∧ let t := s.resetCore core
    t.core core = (u.freePolders core (s.core core).gone).core core ∧ (∀ c, c ≠ core → t.core c = s.core c) ∧ t.hbm = s.hbm ∧
      t.getF F.coreResetCount core = (s.bump F.coreResetCount core).getF F.coreResetCount core := by
  have digested : s.Talk [] (((s.core core).strms.map (fun p => p.2.owner)).eraseDups.foldl (fun s tag => s.coreDigests core tag) s) :=
    .foldl (fun s tag => s.coreDigests_talk core tag) ..
  unfold State.resetCore
  dsimp only
  generalize List.foldl _ s _ = d at digested ⊢
  have own := digested.core core
  refine ⟨d.setCore core ((s.core core).stripped s.time), State.core_setCore_self .., digested.time, ?_⟩
  rw [own, digested.time]
  generalize hu : d.setCore core _ = u
  have stripped : d.setCore core ((s.core core).stripped s.time) = u := hu
  generalize List.filter _ (s.core core).allocs = l
  generalize hw : List.foldl _ (List.foldl _ u _) l = w
  have lost : w = l.foldl (State.lose core) (u.freePolders core (s.core core).gone) := hw.symm
  have freed := u.freePolders_handles core (s.core core).gone
  obtain ⟨sends, cores⟩ := (u.freePolders core (s.core core).gone).loses_sends core l
  rw [← lost] at sends cores
  rw [stripped]
  have counted : w.getF F.coreResetCount core = s.getF F.coreResetCount core :=
    (sends.getF F.coreResetCount core).trans ((freed.getF F.coreResetCount core).trans ((congrArg (fun t => State.getF t F.coreResetCount core) hu.symm).trans
      (digested.getF F.coreResetCount core)))
  refine ⟨State.core_of_cores cores core, fun c hc => ?_, ?_, ?_⟩
  · calc w.core c = _ := State.core_of_cores cores c
      _ = u.core c := freed.others c hc
      _ = d.core c := hu ▸ State.core_setCore_ne d _ hc
      _ = s.core c := digested.core c
  · calc w.hbm = _ := sends.hbm
      _ = u.hbm := freed.hbm
      _ = d.hbm := hu ▸ rfl
      _ = s.hbm := by rw [digested.rest]
  · rw [State.getF_setF_reg _ _ _ _ (by decide), State.getF_setF_reg _ _ _ _ (by decide), State.getF_setF_reg _ _ _ _ (by decide),
      State.getF_setF_reg _ _ _ _ (by decide)]
    refine (congrArg (bits · _ _) (State.reg_setReg_ne _ _ _ _ (by decide))).trans ((State.getF_bump_self ..).trans ?_)
    rw [State.getF_bump_self, ← counted]
    rfl

/-! ### The obligation -/

/-- The reset of a core empties it but for its scratchpad and its resident polders, closes its open sluices that owe credit and frees the rest. -/
theorem State.resetCore_resets (s : State) (core : Nat) : let t := s.resetCore core
    (t.core core).rst = 3 ∧ (t.core core).slots = [] ∧ (t.core core).running = none ∧ (t.core core).queue = [] ∧
      (t.core core).me = [] ∧ (t.core core).vu = [] ∧ (t.core core).strms = [] ∧ (t.core core).bars = [] ∧ (t.core core).creds = [] ∧
      (t.core core).spm = (s.core core).spm ∧ t.hbm = s.hbm ∧ (∀ c, c ≠ core → t.core c = s.core c) ∧
      (∀ h, (∀ p, (h, p) ∈ (s.core core).ht → p.resident = true) → (t.core core).polder h = (s.core core).polder h) ∧
      (∀ h p, (h, p) ∈ (s.core core).ht → (s.core core).polder h = p → p.valid = true → p.resident = false →
        (p.sluice = false → ((t.core core).polder h).valid = false) ∧
        (p.sluice = true → p.sluiceState = 1 → p.credit ≠ 0 → (t.core core).polder h = { p with sluiceState := 2, closeAt := some s.time })) ∧
      t.getF F.coreResetCount core = (s.bump F.coreResetCount core).getF F.coreResetCount core := by
  obtain ⟨u, stripped, time, own, others, hbm, count⟩ := s.resetCore_leaves core
  have freed := u.freePolders_handles core (s.core core).gone
  have polder : ∀ h, (u.core core).polder h = (s.core core).polder h := fun h => by rw [stripped, CoreSt.stripped_polder]
  have strms : ((u.freePolders core (s.core core).gone).core core).strms = [] := by
    have e := freed.streams
    rw [stripped] at e
    exact List.map_eq_nil_iff.1 e
  have kept := freed.own
  rw [stripped] at kept
  dsimp only
  rw [own]
  refine ⟨by rw [kept]; rfl, by rw [kept]; rfl, by rw [kept]; rfl, by rw [kept]; rfl, by rw [kept]; rfl, by rw [kept]; rfl, strms, by rw [kept]; rfl, by rw [kept]; rfl,
    by rw [kept]; rfl, hbm, others, fun h hr => ?_, fun h p hm hp hv hr => ?_, count⟩
  · have stays : h ∉ (s.core core).gone := fun hg => by
      obtain ⟨⟨k, p⟩, hp, rfl⟩ := List.mem_map.1 hg
      obtain ⟨hm, hb⟩ := List.mem_filter.1 hp
      simp [hr p hm] at hb
    rw [State.freePolders_apart stays, polder]
  · have goes : h ∈ (s.core core).gone := List.mem_map.2 ⟨(h, p), List.mem_filter.2 ⟨hm, by simp [hv, hr]⟩, rfl⟩
    have e := (polder h).trans hp
    refine ⟨fun hs => State.freePolders_plain goes (by rw [e]; exact hv) (by rw [e]; exact hs), fun hs h1 hc => ?_⟩
    rw [State.freePolders_sluice goes (by rw [e]; exact hv) (by rw [e]; exact hs) (by rw [e]; exact h1) (by rw [e]; exact hc), e, time]

/-- What the abort of outstanding work adds to a reset is an event (R419). -/
theorem State.abortCore_resets (s : State) (core : Nat) : ∃ e, s.abortCore core = State.resetCore { s with events := e } core := by
  unfold State.abortCore
  dsimp only
  split
  · exact ⟨s.events, rfl⟩
  · obtain ⟨e, h⟩ := s.log_rest 0x0021 (sourceOf 0 core) 0 .fencedAbort 2 (natLe 4 (s.core core).outstanding)
    exact ⟨e, by rw [h]⟩

/-- A lifted core is open, and no longer diked. -/
theorem State.liftCore_opens (s : State) (core : Nat) : ((s.liftCore core).core core).rst = 0 ∧ ((s.liftCore core).core core).dikeAt = none := by
  unfold State.liftCore
  dsimp only
  have own := (State.cxsLoad_runs (eng := False) (core := core) 4 (((s.dredgePass core).setCore core { (s.dredgePass core).core core with
    rst := 0, dikeAt := none, progressAt := (s.dredgePass core).time }).log 0x0022 (sourceOf 0 core) 0 .ok 0)).own
  rw [State.log_core, State.core_setCore_self] at own
  rw [own]
  exact ⟨rfl, rfl⟩

theorem State.stopped_false {s : State} (h : s.stopped = false) : s.deaf = false ∧ s.failed = false := by
  unfold State.stopped at h
  unfold State.deaf
  simp only [Bool.or_eq_false_iff] at h ⊢
  obtain ⟨⟨⟨a, b⟩, c⟩, d⟩ := h
  exact ⟨⟨⟨a, c⟩, d⟩, b⟩

/-- Settles O44: the dike by `State.dikeCore_dikes`, the reset by `State.resetCore_resets`, whichever step brings it, the lift by `State.liftCore_opens`. -/
theorem coreResetComplete : Obligations.CoreResetComplete := by
  unfold Obligations.CoreResetComplete
  intro s core hs
  refine ⟨fun hq hr => ⟨s.dikeCore core none none, ?_, ?_⟩, fun path hp hq => ?_, fun c hc hr => ?_, fun ho => ?_, fun hr => ?_, fun hr ⟨a, ha, due⟩ => ?_⟩
  · show execCoreReset .pf core s = _
    rw [execCoreReset_quiet s .pf core hq]
    unfold takeCoreReset
    rw [if_neg (by simp [hs])]
  · obtain ⟨own, others, hbm, faults⟩ := s.dikeCore_dikes core none hr
    rw [own]
    exact ⟨rfl, rfl, rfl, hbm, faults, others⟩
  · show execCoreReset path core s = _
    rw [execCoreReset_quiet s path core hq]
    unfold takeCoreReset
    rw [if_pos (by simp [hp])]
  · rcases hc with ⟨rfl, ho⟩ | ⟨rfl, a, ha, due⟩
    · refine ⟨s.resetCore core, ?_, s.resetCore_resets core⟩
      show execDikeDrained (.core core) s = _
      unfold execDikeDrained
      rw [if_neg (by simp [hs])]
      dsimp only
      rw [if_pos ⟨hr, ho⟩]
    · obtain ⟨e, aborted⟩ := s.abortCore_resets core
      refine ⟨s.abortCore core, ?_, ?_⟩
      · show execDikeTimeout (.core core) s = _
        unfold execDikeTimeout State.passed
        rw [if_neg (by simp [hs])]
        dsimp only
        rw [if_pos ⟨hr, by rw [ha]; exact decide_eq_true due⟩]
      · rw [aborted]
        exact State.resetCore_resets { s with events := e } core
  · show execDikeDrained (.core core) s = _
    unfold execDikeDrained
    rw [if_neg (by simp [hs])]
    dsimp only
    rw [if_neg (fun k => ho k.2)]
  · refine ⟨s.liftCore core, ?_, s.liftCore_opens core⟩
    show execDikeLifted (.core core) s = _
    unfold execDikeLifted
    rw [if_neg (by simp [hs])]
    dsimp only
    rw [if_pos hr]
  · obtain ⟨deaf, failed⟩ := State.stopped_false hs
    refine ⟨s.fatal 1, ?_, ?_⟩
    · show execEscalationTimeout (.core core) s = _
      unfold execEscalationTimeout State.passed
      dsimp only
      rw [if_pos ⟨hs, hr, by rw [ha]; exact decide_eq_true due⟩]
    · unfold State.fatal
      rw [if_neg (by simp [deaf, failed])]

end Sys2Proof.Machine

/-! PROOFS. O43: the watchdogs of Table 16.6 (R139 to R141, R422, R427, R428). The heartbeat tears the contexts down one after another; what the teardown of one
does to the state of another is one relation (`State.Ebbs`). -/

namespace Sys2Proof.Machine

/-- A moment that stands in the state has passed for long enough. -/
theorem State.passed_some {s : State} {since : Option Nat} {a ns : Nat} (h : since = some a) : s.passed since ns = decide (a + ns ≤ s.time) := by
  rw [h]
  rfl

/-! ### Teardown by the heartbeat -/

/-- From one state to the next a context that is torn down stays so, one that is enabled or faulted is that or torn down, and the heartbeat timer stays. -/
structure State.Ebbs (s t : State) : Prop where
  timer : t.hbAt = s.hbAt
  enable : t.reg .tmoHb = s.reg .tmoHb
  torn : ∀ j, s.ctxState j = 3 → t.ctxState j = 3
  active : ∀ j, s.ctxState j = 1 ∨ s.ctxState j = 2 → (t.ctxState j = 1 ∨ t.ctxState j = 2) ∨ t.ctxState j = 3

theorem State.Ebbs.refl (s : State) : s.Ebbs s := ⟨rfl, rfl, fun _ => id, fun _ => .inl⟩

theorem State.Ebbs.trans {s t u : State} (h : s.Ebbs t) (k : t.Ebbs u) : s.Ebbs u :=
  ⟨k.timer.trans h.timer, k.enable.trans h.enable, fun j e => k.torn j (h.torn j e), fun j e => (h.active j e).elim (k.active j) fun e => .inr (k.torn j e)⟩

theorem State.Ebbs.foldl {α : Type} {f : State → α → State} (hf : ∀ s a, State.Ebbs s (f s a)) (l : List α) (s : State) : s.Ebbs (l.foldl f s) :=
  List.foldlRecOn (motive := fun t => s.Ebbs t) l f (.refl s) fun t ht a _ => ht.trans (hf t a)

/-- What leaves the state registers and the heartbeat. -/
theorem State.Ebbs.of_same {s t : State} (timer : t.hbAt = s.hbAt) (enable : t.reg .tmoHb = s.reg .tmoHb) (states : t.reg .cxsCtxState = s.reg .cxsCtxState) :
    s.Ebbs t := by
  have same : ∀ j, t.ctxState j = s.ctxState j := fun j => congrArg (bits · _ _) (congrFun states j)
  exact ⟨timer, enable, fun j e => (same j).trans e, fun j e => .inl (by rw [same]; exact e)⟩

theorem State.Sends.ebbs {s t : State} (h : s.Sends t) : s.Ebbs t :=
  ⟨by rw [h.rest], funext (h.regs _ (by decide)), fun j e => (h.states j).elim (·.trans e) fun k => by omega,
    fun j e => .inl ((h.states j).elim (fun k => by rw [k]; exact e) fun k => .inr k.2)⟩

theorem State.Talk.ebbs {s t : State} (h : s.Talk talkRegs t) : s.Ebbs t := (h.faulting.sends fun j => .inl (h.ctxState j)).ebbs

/-- What a teardown frees of a core leaves the states of contexts, but for faults of senders. -/
theorem State.freeCore_sends (s : State) (core i : Nat) : s.Sends (s.freeCore core i) :=
  .trans (.setCore s core _) (.foldl (fun t h => (t.freePolder_handles core h).toSends) _ _)

theorem State.freeContext_ebbs (s : State) (i : Nat) : s.Ebbs (s.freeContext i) := by
  unfold State.freeContext
  dsimp only
  generalize hu : s.setCtx i _ = u
  have first : s.Ebbs u := hu ▸ .of_same rfl rfl rfl
  have cores : u.Ebbs ((List.range 192).foldl (fun s k => s.freeCore k i) u) := .foldl (fun t k => (t.freeCore_sends k i).ebbs) ..
  generalize List.foldl _ u _ = v at cores ⊢
  exact first.trans (cores.trans (.of_same rfl (funext fun j => State.reg_setReg_ne _ _ _ _ (by decide)) (funext fun j => State.reg_setReg_ne _ _ _ _ (by decide))))

theorem State.freeIfIdle_ebbs (s : State) (i : Nat) : s.Ebbs (s.freeIfIdle i) := by
  unfold State.freeIfIdle
  dsimp only
  split
  · exact s.freeContext_ebbs i
  · exact .refl s

theorem State.invalidate_ebbs (s : State) (which : Option Nat) : s.Ebbs (s.invalidate which) := by
  have dropped : (s.dropCached which).hbAt = s.hbAt ∧ ∀ q j, (s.dropCached which).reg q j = s.reg q j := by
    unfold State.dropCached
    split <;> exact ⟨rfl, fun _ _ => rfl⟩
  have same : ∀ q, q ≠ .hscPtInval → (s.invalidate which).reg q = s.reg q := fun q hq => funext fun j =>
    (State.reg_setF_ne _ _ _ _ _ hq).trans (dropped.2 q j)
  exact .of_same dropped.1 (same _ (by decide)) (same _ (by decide))

/-- A context is marked torn down, its generation moves on. -/
theorem State.markTorn_ebbs (s : State) (i g : Nat) : s.Ebbs ((s.setF F.cxsCtxStateState 3 i).setF F.hiuCtxCtlGen g i) ∧
    ((s.setF F.cxsCtxStateState 3 i).setF F.hiuCtxCtlGen g i).ctxState i = 3 := by
  have torn : ((s.setF F.cxsCtxStateState 3 i).setF F.hiuCtxCtlGen g i).ctxState i = 3 :=
    (State.getF_setF_reg _ _ _ _ (by decide)).trans (State.getF_setF_self ..)
  have cases : ∀ j, ((s.setF F.cxsCtxStateState 3 i).setF F.hiuCtxCtlGen g i).ctxState j = 3 ∨
      ((s.setF F.cxsCtxStateState 3 i).setF F.hiuCtxCtlGen g i).ctxState j = s.ctxState j := fun j => by
    by_cases h : Reg.cxsCtxState.key j = Reg.cxsCtxState.key i
    · exact .inl ((State.ctxState_key _ h).trans torn)
    · exact .inr ((State.getF_setF_reg _ _ _ _ (by decide)).trans (congrArg (bits · _ _) (State.reg_setReg_key _ _ h)))
  refine ⟨⟨rfl, funext fun j => ?_, fun j e => (cases j).elim id (·.trans e), fun j e => (cases j).elim .inr fun k => .inl (by rw [k]; exact e)⟩, torn⟩
  rw [State.reg_setF_ne _ _ _ _ _ (by decide), State.reg_setF_ne _ _ _ _ _ (by decide)]

/-- What a teardown does once every descriptor has ended: the context is marked, its translations go, and what it holds is freed (R423). -/
def State.sink (s : State) (i : Nat) : State :=
  let s := (s.setF F.cxsCtxStateState 3 i).setF F.hiuCtxCtlGen ((s.getF F.hiuCtxCtlGen i + 1) % 64) i
  let s := s.invalidate (some i)
  let s := s.setCtx i { s.ctx i with tearAt := some s.time, tearFor := s.dikeNs, inflight := 0, stuck := false }
  s.freeIfIdle i

theorem State.sink_ebbs (s : State) (i : Nat) : s.Ebbs (s.sink i) ∧ (s.sink i).ctxState i = 3 := by
  unfold State.sink
  dsimp only
  obtain ⟨marks, torn⟩ := s.markTorn_ebbs i ((s.getF F.hiuCtxCtlGen i + 1) % 64)
  generalize (s.setF F.cxsCtxStateState 3 i).setF F.hiuCtxCtlGen ((s.getF F.hiuCtxCtlGen i + 1) % 64) i = w at marks torn ⊢
  have invalidated := w.invalidate_ebbs (some i)
  generalize w.invalidate (some i) = x at invalidated ⊢
  generalize hy : x.setCtx i _ = y
  have set : x.Ebbs y := hy ▸ .of_same rfl rfl rfl
  have rest : w.Ebbs (y.freeIfIdle i) := invalidated.trans (set.trans (y.freeIfIdle_ebbs i))
  exact ⟨marks.trans rest, rest.torn i torn⟩

/-- A teardown lets nothing but states ebb, and brings an enabled or faulted context to be torn down (R423). -/
theorem State.tearDown_ebbs (s : State) (i : Nat) (st : Status) : s.Ebbs (s.tearDown i st) ∧ (s.ctxState i = 1 ∨ s.ctxState i = 2 → (s.tearDown i st).ctxState i = 3) := by
  unfold State.tearDown
  split
  next h => exact ⟨.refl s, fun k => by omega⟩
  · dsimp only
    have ended : s.Ebbs (State.endOthers (s.log 0x0002 (sourceOf 6 0) (s.tag i) .ok 0) i .cancelled st none).2 :=
      ((State.Talk.log ..).trans (State.endOthers_talk ..)).ebbs
    generalize (State.endOthers (s.log 0x0002 (sourceOf 6 0) (s.tag i) .ok 0) i .cancelled st none).2 = u at ended ⊢
    have sinks : ∀ v, u.Ebbs v → s.Ebbs (v.sink i) ∧ (s.ctxState i = 1 ∨ s.ctxState i = 2 → (v.sink i).ctxState i = 3) := fun v k =>
      ⟨ended.trans (k.trans (v.sink_ebbs i).1), fun _ => (v.sink_ebbs i).2⟩
    split
    · exact sinks _ ((State.Talk.setCtx_same ..).trans (State.complete_talk ..)).ebbs
    · exact sinks u (.refl u)

/-- Contexts torn down one after another are torn down, each that was enabled or faulted. -/
theorem State.tearDowns_tear {s : State} {l : List Nat} {i : Nat} (st : Status) (hi : i ∈ l) (h : s.ctxState i = 1 ∨ s.ctxState i = 2) :
    (l.foldl (fun s i => s.tearDown i st) s).ctxState i = 3 :=
  List.foldl_reaches (I := fun t : State => t.ctxState i = 1 ∨ t.ctxState i = 2) (D := fun t : State => t.ctxState i = 3)
    (fun t a e => (t.tearDown_ebbs a st).1.active i e) (fun t e => (t.tearDown_ebbs i st).2 e) (fun t a e => (t.tearDown_ebbs a st).1.torn i e) hi h

/-! ### A write of a stream ends -/

/-- A write of a stream that times out is out of those its run waits for, and the run fails with TIMEOUT (R346, R427). -/
theorem State.endRequest_write {s : State} {r : Request} {core j index : Nat} {x : Run} (hw : r.who = .streamWrite core j index)
    (hr : ((s.core core).strm j).run = some x) (hx : x.status = .ok) (st : Status) : s.endRequest r st =
      (s.dropRequest r.txn).setCore core ((s.core core).setStrm j { (s.core core).strm j with run := some { x with acks := x.acks.erase index, status := st } }) := by
  have ended : s.requestEnded r st =
      (s.dropRequest r.txn).setCore core ((s.core core).setStrm j { (s.core core).strm j with run := some { x with acks := x.acks.erase index, status := st } }) := by
    unfold State.requestEnded State.requestEnds State.writeIn
    dsimp only
    rw [hw]
    dsimp only
    rw [show (s.dropRequest r.txn).core core = s.core core from rfl, hr]
    dsimp only
    rw [hx]
    rfl
  have fits : ∀ w, s.overfills (tagIndex r.tag) (s.requestEnded r st) w = false := fun w => by
    have same : (s.requestEnded r st).eventCount (tagIndex r.tag) w = s.eventCount (tagIndex r.tag) w := by
      rw [ended]
      rfl
    unfold State.overfills
    dsimp only
    rw [same]
    simp
  unfold State.endRequest
  dsimp only
  rw [if_neg (by simp [fits]), ended]

/-! ### The steps -/

section
variable {s : State}

theorem exec_contextProgressTimeout {ctx : CtxId} {v : Invoke} (hs : s.stopped = false) (hv : (s.ctx ctx).inv = some v) (hb : v.bound = true) (he : v.ending = none) :
    exec (.contextProgressTimeout ctx) s = .next (if decide ((s.ctx ctx).progressAt + s.getF F.tmoProgressProgressMs * 1000000 ≤ s.time) then
      ((s.bump F.cxsWdogProgress).expiry (sourceOf 6 0) v.desc.ctxTag 0).fault ctx .timeout else s) := by
  show execContextProgressTimeout ctx s = _
  unfold execContextProgressTimeout
  dsimp only
  rw [hv]
  dsimp only
  rw [State.passed_some rfl, hs, hb, he]
  generalize decide (_ ≤ s.time) = due
  cases due <;> rfl

theorem exec_sequencerTimeout {core : CoreId} {k : Nat} (hs : s.stopped = false) (hk : (s.core core).running = some k) (hr : (s.core core).rst = 0) :
    exec (.sequencerTimeout core) s = .next (if decide ((s.core core).progressAt + s.getF F.tmoSeqSeqMs * 1000000 ≤ s.time) then
      ((s.bump F.cxsWdogSeq).expiry (sourceOf 0 core) ((s.core core).slot k).tag 1).dikeCore core (some (tagIndex ((s.core core).slot k).tag, .timeout)) none
      else s) := by
  show execSequencerTimeout core s = _
  unfold execSequencerTimeout
  dsimp only
  rw [hk]
  dsimp only
  rw [State.passed_some rfl, hs, hr]
  generalize decide (_ ≤ s.time) = due
  cases due <;> rfl

theorem exec_barrierWaitTimeout {core : CoreId} {slot : SlotId} (hs : s.stopped = false) (h3 : ((s.core core).slot slot).state = 3)
    (hl : s.live ((s.core core).slot slot).tag = true) : let x := (s.core core).slot slot
    exec (.barrierWaitTimeout core slot) s = .next (if decide (x.waitSince + s.getF F.tmoBarrierBarrierMs * 1000000 ≤ s.time) then
      ((s.bump F.cxsWdogBarrier).expiry (sourceOf 0 core) x.tag 2).faultTag x.tag .timeout else s) := by
  show execBarrierWaitTimeout core slot s = _
  unfold execBarrierWaitTimeout
  dsimp only
  rw [State.passed_some rfl, hs, h3, hl]
  generalize decide (_ ≤ s.time) = due
  cases due <;> rfl

theorem exec_sluiceCreditTimeout {core : CoreId} {credit : CreditId} {a : Nat} (hs : s.stopped = false) (h2 : ((s.core core).cred credit).state = 2)
    (ha : ((s.core core).cred credit).timer = some a) : let x := (s.core core).cred credit
    exec (.sluiceCreditTimeout core credit) s = .next (if decide (a + s.getF F.tmoSluiceSluiceMs * 1000000 ≤ s.time) then
      ((s.expiry (sourceOf 0 core) x.owner 3).setCore core
        { (s.core core).failSenders credit x.owner .noCreditTimeout with creds := (s.core core).creds.del credit }).faultTag x.owner .noCreditTimeout else s) := by
  show execSluiceCreditTimeout core credit s = _
  unfold execSluiceCreditTimeout
  dsimp only
  rw [State.passed_some ha, hs, h2]
  generalize decide (_ ≤ s.time) = due
  cases due <;> rfl

theorem exec_linkResponseTimeout {txn : BitVec 16} {r : Request} (hs : s.stopped = false) (hr : s.requests.find? (fun q => q.txn == txn.toNat) = some r) :
    exec (.linkResponseTimeout txn) s = .next (if decide (r.sentAt + s.getF F.tmoLinkRspLinkRspMs * 1000000 ≤ s.time) then
      (s.expiry (sourceOf 6 0) r.tag 5).endRequest r .timeout else s) := by
  show execLinkResponseTimeout txn s = _
  unfold execLinkResponseTimeout
  rw [hr]
  dsimp only
  rw [State.passed_some rfl, hs]
  generalize decide (_ ≤ s.time) = due
  cases due <;> rfl

theorem exec_heartbeatTimeout (hs : s.stopped = false) : exec .heartbeatTimeout s = .next
    (if s.flag F.tmoHbHbEn = true ∧ s.passed s.hbAt (s.getF F.tmoHbHbS * 1000000000) = true then
      (List.range 1024).foldl (fun s i => s.tearDown i .timeout) { (s.bump F.cxsWdogHeartbeat).expiry (sourceOf 6 0) 0 6 with hbAt := none } else s) := by
  show execHeartbeatTimeout s = _
  unfold execHeartbeatTimeout
  dsimp only
  rw [hs]
  generalize s.flag F.tmoHbHbEn = enabled
  generalize State.passed _ _ _ = due
  cases enabled <;> cases due <;> rfl

theorem exec_closingSluiceTimeout {core : CoreId} {handle : HandleId} {a : Nat} (hs : s.stopped = false) (hv : ((s.core core).polder handle).valid = true)
    (hl : ((s.core core).polder handle).sluice = true) (h2 : ((s.core core).polder handle).sluiceState = 2) (ha : ((s.core core).polder handle).closeAt = some a) :
    exec (.closingSluiceTimeout core handle) s = .next (if decide (a + s.dikeNs ≤ s.time) then
      (s.release core handle).log 0x0004 (sourceOf 0 core) ((s.core core).polder handle).owner .timeout 2 (natLe 2 handle.val) else s) := by
  show execClosingSluiceTimeout core handle s = _
  unfold execClosingSluiceTimeout
  dsimp only
  rw [State.passed_some ha, hs, hv, hl, h2]
  generalize decide (_ ≤ s.time) = due
  cases due <;> rfl

end

/-- A task in a slot of a core is one of its users. -/
theorem CoreSt.slot_users {c : CoreSt} {k : Nat} (h : (c.slot k).state ≠ 0) : (c.slot k).tag ∈ c.users := by
  rcases Table.get_eq_or_mem c.slots Slot.empty k with e | ⟨p, hp, e⟩
  · exact absurd (congrArg Slot.state e) h
  · have here : (c.slot k).tag ∈ (c.slots.filter (fun p => p.2.state != 0 || p.2.ending)).map (fun p => p.2.tag) :=
      List.mem_map.2 ⟨p, List.mem_filter.2 ⟨hp, by simpa [e] using .inl h⟩, congrArg Slot.tag e⟩
    unfold CoreSt.users
    simp only [List.mem_eraseDups, List.mem_append]
    exact .inl (.inl (.inl (.inl (.inl (.inl (.inl (.inl (.inl here))))))))

theorem State.expiry_talk {rs : List Reg} (s : State) (source tag row : Nat) : s.Talk rs (s.expiry source tag row) := .log ..

/-- An expiry of Table 16.6 and its count: an event, and a count of CXS_WDOG. -/
theorem State.expires_talk (s : State) (f : Fld) (source tag row : Nat) (h : f.reg = .cxsWdog := by rfl) :
    s.Talk [.cxsWdog] ((s.bump f).expiry source tag row) := (State.Talk.bump s f 0 1 (by rw [h]; decide)).trans (State.expiry_talk ..)

/-- What counts and logs an expiry leaves the states and tags of contexts. -/
theorem State.Talk.faults_before {s t u : State} {tag : Nat} {st : Status} (h : s.Talk [.cxsWdog] t) (k : t.faults u tag st) : s.faults u tag st :=
  State.faults_before (funext (h.regs _ (by decide))) (funext (h.regs _ (by decide))) k

/-- A context that makes no progress faults with TIMEOUT, and is counted. -/
theorem State.progressExpiry_faults {s : State} {i : Nat} (source tag : Nat) (h : s.ctxState i = 1) :
    let t := ((s.bump F.cxsWdogProgress).expiry source tag 0).fault i .timeout
    t.ctxState i = 2 ∧ t.getF F.cxsCtxStateStatus i = Status.timeout.code ∧
      t.getF F.cxsWdogProgress = (s.bump F.cxsWdogProgress).getF F.cxsWdogProgress ∧ t.hbm = s.hbm ∧ t.cores = s.cores := by
  have x := s.expires_talk F.cxsWdogProgress source tag 0
  have logged : (s.bump F.cxsWdogProgress).Talk [] ((s.bump F.cxsWdogProgress).expiry source tag 0) := State.expiry_talk ..
  generalize (s.bump F.cxsWdogProgress).expiry source tag 0 = u at x logged ⊢
  have talk := u.fault_talk i .timeout
  obtain ⟨state, status⟩ := u.faultWith_state i .timeout .timeout _ ((x.getF F.cxsCtxStateState i).trans h)
  exact ⟨state, status, (talk.getF F.cxsWdogProgress 0).trans (logged.getF F.cxsWdogProgress 0), by rw [talk.rest, x.rest], talk.cores.trans x.cores⟩

/-- A task that issues nothing has its core diked, and its context faults with TIMEOUT. -/
theorem State.sequencerExpiry_dikes {s : State} {core k : Nat} (source : Nat) (hst : ((s.core core).slot k).state ≠ 0) (hr : (s.core core).rst = 0) :
    let tag := ((s.core core).slot k).tag
    let t := ((s.bump F.cxsWdogSeq).expiry source tag 1).dikeCore core (some (tagIndex tag, .timeout)) none
    (t.core core).rst = 1 ∧ (t.core core).dikeAt = some s.time ∧ s.faults t tag .timeout ∧ (∀ c, c ≠ core → t.core c = s.core c) ∧ t.hbm = s.hbm := by
  dsimp only
  have user := CoreSt.slot_users hst
  generalize ((s.core core).slot k).tag = tag at user ⊢
  have x := s.expires_talk F.cxsWdogSeq source tag 1
  generalize (s.bump F.cxsWdogSeq).expiry source tag 1 = u at x ⊢
  obtain ⟨own, others, hbm, faults⟩ := u.dikeCore_dikes core (some (tagIndex tag, .timeout)) (by rw [x.core]; exact hr)
  have fault := faults tag (by rw [x.core]; exact user)
  have status : fenceStatus (some (tagIndex tag, .timeout)) (tagIndex tag) = .timeout := if_pos rfl
  rw [status] at fault
  exact ⟨by rw [own], by rw [own, x.time], x.faults_before fault, fun c hc => (others c hc).trans (x.core c), by rw [hbm, x.rest]⟩

/-- A task that waits too long faults its context with TIMEOUT. -/
theorem State.barrierExpiry_faults (s : State) (source tag : Nat) : let t := ((s.bump F.cxsWdogBarrier).expiry source tag 2).faultTag tag .timeout
    s.faults t tag .timeout ∧ t.hbm = s.hbm ∧ t.cores = s.cores := by
  have x := s.expires_talk F.cxsWdogBarrier source tag 2
  dsimp only
  generalize (s.bump F.cxsWdogBarrier).expiry source tag 2 = u at x ⊢
  have talk := u.faultTag_talk tag .timeout
  exact ⟨x.faults_before (u.faultTag_faults tag .timeout), by rw [talk.rest, x.rest], talk.cores.trans x.cores⟩

/-- A change of a core after an expiry, and the fault of a context with it. -/
theorem State.setCoreExpiry_faults (s : State) (source tag row core : Nat) (c : CoreSt) (st : Status) :
    let t := ((s.expiry source tag row).setCore core c).faultTag tag st
    s.faults t tag st ∧ t.core core = c ∧ t.hbm = s.hbm := by
  have x : s.Talk [.cxsWdog] (s.expiry source tag row) := s.expiry_talk ..
  dsimp only
  generalize s.expiry source tag row = u at x ⊢
  have kept : u.hbm = s.hbm := by rw [x.rest]
  have sends := (State.Sends.setCore u core c).trans (State.faultTag_sends (u.setCore core c) tag st)
  have fault := (u.setCore core c).faultTag_faults tag st
  have own := ((u.setCore core c).faultTag_talk tag st).core core
  rw [State.core_setCore_self] at own
  exact ⟨x.faults_before (State.faults_before (funext (u.setCore_reg core c _)) (funext (u.setCore_reg core c _)) fault), own, sends.hbm.trans kept⟩

/-- The heartbeat missed: its timer stops, HB_EN stays, and every enabled or faulted context is torn down (R428). -/
theorem State.heartbeatExpiry_tears (s : State) (source tag : Nat) (st : Status) :
    let t := (List.range 1024).foldl (fun s i => s.tearDown i st) { (s.bump F.cxsWdogHeartbeat).expiry source tag 6 with hbAt := none }
    t.hbAt = none ∧ t.flag F.tmoHbHbEn = s.flag F.tmoHbHbEn ∧ ∀ i, i < 1024 → (s.ctxState i = 1 ∨ s.ctxState i = 2) → t.ctxState i = 3 := by
  have x := s.expires_talk F.cxsWdogHeartbeat source tag 6
  dsimp only
  generalize (s.bump F.cxsWdogHeartbeat).expiry source tag 6 = u at x ⊢
  generalize hy : ({ u with hbAt := none } : State) = y
  have regs : ∀ q, q ≠ .cxsWdog → ∀ j, y.reg q j = s.reg q j := fun q hq j => hy ▸ x.regs q (by simpa using hq) j
  have timer : y.hbAt = none := hy ▸ rfl
  have ebbs : y.Ebbs ((List.range 1024).foldl (fun s i => s.tearDown i st) y) := .foldl (fun s i => (s.tearDown_ebbs i st).1) ..
  refine ⟨ebbs.timer.trans timer, ?_, fun i hi active => State.tearDowns_tear st (List.mem_range.2 hi) ?_⟩
  · have enable := (congrFun ebbs.enable 0).trans (regs _ (by decide) 0)
    exact congrArg (fun r => bits r F.tmoHbHbEn.hi F.tmoHbHbEn.lo == 1) enable
  · have state : y.ctxState i = s.ctxState i := congrArg (bits · _ _) (regs .cxsCtxState (by decide) i)
    rw [state]
    exact active

/-- What is logged is the last event of the ring, which keeps it (R434). -/
theorem State.log_records (s : State) (code source tag : Nat) (st : Status) (severity : Nat) (arg : Bytes) :
    s.records (s.log code source tag st severity arg) code source tag st severity arg := by
  unfold State.records State.log
  dsimp only
  rw [List.length_append, List.length_singleton, List.drop_append_of_le_length (by omega)]
  exact List.mem_append_right _ (List.mem_singleton.2 rfl)

/-- Settles O43: each watchdog is its step's equation, at its time a fault, a dike, an ended request, the teardowns or a freed sluice, before it nothing. -/
theorem watchdogsComplete : Obligations.WatchdogsComplete := by
  unfold Obligations.WatchdogsComplete
  intro s hs
  refine ⟨?progress, ?sequencer, ?barrier, ?credit, ?link, ?heartbeat, ?quiet, ?sluice⟩
  case progress =>
    intro ctx v hv hb he h1
    have e := exec_contextProgressTimeout hs hv hb he
    exact ⟨fun due => ⟨_, e.trans (by rw [due, if_pos rfl]), State.progressExpiry_faults _ _ h1⟩, fun early => e.trans (by rw [early]; rfl)⟩
  case sequencer =>
    intro core k hk hst hr
    have e := exec_sequencerTimeout hs hk hr
    exact ⟨fun due => ⟨_, e.trans (by rw [due, if_pos rfl]), State.sequencerExpiry_dikes _ hst hr⟩, fun early => e.trans (by rw [early]; rfl)⟩
  case barrier =>
    intro core slot
    dsimp only
    intro h3 hl
    have e := exec_barrierWaitTimeout hs h3 hl
    exact ⟨fun due => ⟨_, e.trans (by rw [due, if_pos rfl]), s.barrierExpiry_faults ..⟩, fun early => e.trans (by rw [early]; rfl)⟩
  case credit =>
    intro core credit a
    dsimp only
    intro h2 ha
    have e := exec_sluiceCreditTimeout hs h2 ha
    refine ⟨fun due => ⟨_, e.trans (by rw [due, if_pos rfl]), ?_⟩, fun early => e.trans (by rw [early]; rfl)⟩
    obtain ⟨fault, own, hbm⟩ := s.setCoreExpiry_faults (sourceOf 0 core) ((s.core core).cred credit).owner 3 core
      { (s.core core).failSenders credit ((s.core core).cred credit).owner .noCreditTimeout with creds := (s.core core).creds.del credit } .noCreditTimeout
    exact ⟨fault, congrArg CoreSt.creds own, hbm⟩
  case link =>
    intro txn r core j index x hr hw hrun hx
    have e := exec_linkResponseTimeout hs hr
    refine ⟨fun due => ?_, fun early => e.trans (by rw [early]; rfl)⟩
    have same : (s.expiry (sourceOf 6 0) r.tag 5).core core = s.core core := (s.expiry_talk (rs := []) ..).core _
    generalize s.expiry (sourceOf 6 0) r.tag 5 = u at e same
    rw [due, if_pos rfl, State.endRequest_write hw (by rw [same]; exact hrun) hx] at e
    refine ⟨_, e, ?_, fun q hq => ?_⟩
    · rw [State.core_setCore_self, CoreSt.strm_setStrm_self]
    · have kept := (List.mem_filter.1 hq).2
      have found := List.find?_some hr
      simp only [bne_iff_ne, beq_iff_eq] at kept found
      exact found ▸ kept
  case heartbeat =>
    intro a ha hen due
    have e := exec_heartbeatTimeout hs
    rw [if_pos ⟨hen, (State.passed_some ha).trans (decide_eq_true due)⟩] at e
    obtain ⟨timer, enable, torn⟩ := s.heartbeatExpiry_tears (sourceOf 6 0) 0 .timeout
    exact ⟨_, e, timer, enable.trans hen, torn⟩
  case quiet =>
    intro h
    rw [exec_heartbeatTimeout hs, if_neg]
    rintro ⟨hen, due⟩
    rcases h with h | h | ⟨a, ha, early⟩
    · rw [h] at hen
      cases hen
    · rw [h] at due
      cases due
    · rw [State.passed_some ha, decide_eq_true_iff] at due
      omega
  case sluice =>
    intro core handle a
    dsimp only
    intro hv hl h2 ha
    have e := exec_closingSluiceTimeout hs hv hl h2 ha
    refine ⟨fun due => ?_, fun early => ?_⟩
    · rw [if_pos (decide_eq_true due)] at e
      have freed := s.release_handles core handle
      refine ⟨_, e, ?_, (State.log_hbm ..).trans freed.hbm, ?_⟩
      · rw [State.log_core, State.release_core hv, CoreSt.released_polder]
      · have logged := (s.release core handle).log_records 0x0004 (sourceOf 0 core) ((s.core core).polder handle).owner .timeout 2 (natLe 2 handle.val)
        unfold State.records at logged ⊢
        rw [freed.time] at logged
        exact logged
    · rw [e, if_neg (by simpa using early)]

end Sys2Proof.Machine

/-! PROOFS. O19: VECTOR, SFU and MICRO enter the vector unit (R174, R180, R187, R225, R248, R249, R278). Every operation enters in the same form
(`enteringOp`), and what a step that lets it in leaves is one lemma (`State.enterVu_spec`); each command has one equation for each way it ends. -/

namespace Sys2Proof.Machine

/-! ### Entering the vector unit -/

/-- An operation as it enters the vector unit: its words, its operands, the handles of the regions it uses, and no batch of it done. -/
def enteringOp (kind : VuKind) (i : Nat) (sl : Slot) (w v : Nat) (uses : List Nat) : VuOp :=
  let o := fun k => (vecOperands sl v).getD k (0, 0)
  { kind := kind, slot := i, tag := sl.tag, opIndex := sl.pc, word := w, a := (o 0).2, b := (o 1).2, c := (o 2).2, d := (o 3).2
    handles := (vecOperands sl v).map (·.1), dHandle := (o 3).1, uses := uses, batch := 0, retries := 0, second := false, program := [], ebb := none
    contrib := [], row := none, supply := false }

/-- The state with an operation behind those of a core's vector unit. -/
def State.enterVu (s : State) (core : Nat) (o : VuOp) : State := s.setCore core { s.core core with vu := (s.core core).vu ++ [o] }

/-- A state that shows what entering leaves in the vector unit, memory and the slots: the task then moves past both words, and no memory changes. -/
theorem State.enterVu_spec {u x : State} {core i : Nat} {sl : Slot} {o : VuOp} (hslot : (u.core core).slot i = sl)
    (hview : x.vuView core = (u.enterVu core o).vuView core) (hslots : (x.core core).slots = (u.core core).slots) :
    let t := x.step1 core i 2
    (t.core core).vu = (u.core core).vu ++ [o] ∧ (t.core core).slot i = sl.advance 2 ∧ (t.core core).spm = (u.core core).spm ∧ t.hbm = u.hbm := by
  have view : (x.step1 core i 2).vuView core = ((u.core core).vu ++ [o], (u.core core).spm, u.hbm) :=
    ((x.step1_runs (eng := False) (core := core) i 2).vuView.trans hview).trans (u.vuView_setCore core _)
  refine ⟨congrArg Prod.fst view, ?_, congrArg (·.2.1) view, congrArg (·.2.2) view⟩
  rw [State.step1_slot, ← hslot]
  unfold CoreSt.slot
  rw [hslots]

theorem State.enterVu_slots (u : State) (core : Nat) (o : VuOp) : ((u.enterVu core o).core core).slots = (u.core core).slots := by
  unfold State.enterVu
  rw [State.core_setCore_self]

/-- A fault of the task's context at an operation that is refused leaves the cores and device memory. -/
theorem State.refuses_spec (u : State) (tag : Nat) (st : Status) :
    u.faults (u.faultTag tag st) tag st ∧ (u.faultTag tag st).cores = u.cores ∧ (u.faultTag tag st).hbm = u.hbm :=
  ⟨u.faultTag_faults tag st, (u.faultTag_talk tag st).cores, (u.faultTag_sends tag st).hbm⟩

/-! ### VECTOR -/

/-- The trailer of the ebb slot at a place, where it has one. -/
def CoreSt.ebbEntry (c : CoreSt) (d : Nat × Nat) : Option Nat := (c.ebbSlot d.1 d.2).bind (fun p => p.1.trailEntry p.2.1 p.2.2)

/-- No operation of the unit updates the trailer of the slot. -/
theorem CoreSt.ebbEntry_free {c : CoreSt} {d : Nat × Nat} (h : ∀ e, c.ebbEntry d = some e → c.vu.any (fun x => x.ebb == some e) = false) :
    ((c.ebbEntry d).isSome && c.vu.any (fun x => x.ebb == c.ebbEntry d)) = false := by
  rcases he : c.ebbEntry d with _ | e
  · rfl
  · exact h e he

/-- A VECTOR as it enters the vector unit of a core, with the trailer that it updates. -/
def enteringVector (c : CoreSt) (i : Nat) (sl : Slot) (w v : Nat) : VuOp :=
  { enteringOp .vector i sl w v (((vecFields w).regions (vecOperands sl v)).map (·.h)) with ebb := c.ebbEntry ((vecOperands sl v).getD 3 (0, 0)) }

/-- VECTOR breaks a condition on ebb slots: those of the add to its destination's slot, or that no scales go to one (R278, R280). -/
def CoreSt.ebbBreaks (c : CoreSt) (f : VecFields) (ops : List (Nat × Nat)) : Bool :=
  let o := fun k => ops.getD k (0, 0)
  match c.ebbSlot (o 3).1 (o 3).2 with
  | some (t, r, slot) =>
    !ebbOk f (o 0 == o 3) (o 3).2 (match t.trailEntry r slot with | some e => c.trailers.get (zeros 16) e | none => zeros 16) (t.members * t.len)
  | none => f.fn == 0x0C && isMx f.fd && (c.ebbSlot (o 2).1 (o 2).2).isSome

theorem CoreSt.ebbBreaks_eq_false {c : CoreSt} {f : VecFields} {ops : List (Nat × Nat)}
    (hadd : ∀ t r k, c.ebbSlot (ops.getD 3 (0, 0)).1 (ops.getD 3 (0, 0)).2 = some (t, r, k) →
      ebbOk f (ops.getD 0 (0, 0) == ops.getD 3 (0, 0)) (ops.getD 3 (0, 0)).2
        (match t.trailEntry r k with | some e => c.trailers.get (zeros 16) e | none => zeros 16) (t.members * t.len) = true)
    (hscales : (f.fn == 0x0C && isMx f.fd && (c.ebbSlot (ops.getD 2 (0, 0)).1 (ops.getD 2 (0, 0)).2).isSome) = false) : c.ebbBreaks f ops = false := by
  unfold CoreSt.ebbBreaks
  dsimp only
  split
  next t r k heq => exact congrArg not (hadd t r k heq)
  next => exact hscales

/-- The start of an ebb block touches its polder and its tide binding, not the vector unit, memory or the slots (R278). -/
theorem State.startEbb_keeps (s : State) (core h slot : Nat) (t : TideBind) :
    (s.startEbb core h slot t).vuView core = s.vuView core ∧ ((s.startEbb core h slot t).core core).slots = (s.core core).slots := by
  unfold State.startEbb
  dsimp only
  split
  · exact ⟨rfl, rfl⟩
  · rw [State.vuView_setCore, State.core_setCore_self]
    exact ⟨rfl, rfl⟩

/-- A VECTOR that writes a slot of an ebb start polder from an immediate starts its block. -/
def State.openEbb (s : State) (core : Nat) (f : VecFields) (h : Nat) (ebb : Option (TideBind × TideRole × Nat)) : State :=
  match ebb with
  | some (t, r, slot) => if f.ma = 3 ∧ r = TideRole.ebbStart then s.startEbb core h slot t else s
  | none => s

theorem State.openEbb_keeps (s : State) (core : Nat) (f : VecFields) (h : Nat) (ebb : Option (TideBind × TideRole × Nat)) :
    (s.openEbb core f h ebb).vuView core = s.vuView core ∧ ((s.openEbb core f h ebb).core core).slots = (s.core core).slots := by
  unfold State.openEbb
  split
  · split
    · exact s.startEbb_keeps ..
    · exact ⟨rfl, rfl⟩
  · exact ⟨rfl, rfl⟩

section
variable {s u : State} {core : CoreId} {i : Nat} {sl : Slot} {w v : Nat}

/-- VECTOR in the MOVE phase, or with fields its function does not take. -/
theorem exec_vector_refuses (h : s.atOp core i sl .vector w v u)
    (hbad : sl.compute = false ∨ (vecFields w).ok = false ∨ regionOk (vecFields w).rows (vecFields w).cols = false) :
    exec (.vector core) s = .next (u.faultTag sl.tag .descInvalid) := by
  have guard : (!sl.compute || !(vecFields w).ok || !regionOk (vecFields w).rows (vecFields w).cols) = true := by
    rcases hbad with hbad | hbad | hbad <;> simp [hbad]
  show execVector core s = _
  unfold execVector
  rw [State.runOp_atOp h rfl]
  dsimp only
  rw [if_pos guard]

/-- VECTOR that passes its checks and waits for nothing enters, and starts its ebb block where it starts one (R180, R248, R278). -/
theorem exec_vector_enters (h : s.atOp core i sl .vector w v u) (hc : sl.compute = true) (hok : (vecFields w).ok = true)
    (hregion : regionOk (vecFields w).rows (vecFields w).cols = true) {c : CoreSt} (hcore : u.core core = c) {ops : List (Nat × Nat)}
    (hops : vecOperands sl v = ops) (hfault : c.regionFault sl.tag ((vecFields w).regions ops) = none)
    (hover : c.overlaps ((vecFields w).regions ops) = false) (hwait : c.vuWaits i ((vecFields w).regions ops) = false)
    (hfree : ((c.ebbEntry (ops.getD 3 (0, 0))).isSome && c.vu.any (fun x => x.ebb == c.ebbEntry (ops.getD 3 (0, 0)))) = false)
    (hebb : c.ebbBreaks (vecFields w) ops = false) (hdraws : ((vecFields w).draws && c.me.any (fun x => x.slot == i && x.draws)) = false) :
    exec (.vector core) s = .next (((u.enterVu core (enteringVector c i sl w v)).openEbb core (vecFields w) (ops.getD 3 (0, 0)).1
      (c.ebbSlot (ops.getD 3 (0, 0)).1 (ops.getD 3 (0, 0)).2)).step1 core i 2) := by
  subst hcore hops
  have fields : (!sl.compute || !(vecFields w).ok || !regionOk (vecFields w).rows (vecFields w).cols) = false := by simp [hc, hok, hregion]
  show execVector core s = _
  unfold execVector
  rw [State.runOp_atOp h rfl]
  dsimp only
  rw [fields, hfault, hover]
  exact congrArg Host.Outcome.next ((if_neg (ne_true_of_eq_false hfree)).trans ((if_neg (ne_true_of_eq_false hwait)).trans
    ((if_neg (ne_true_of_eq_false hebb)).trans (if_neg (ne_true_of_eq_false hdraws)))))

end

/-! ### SFU and MICRO -/

/-- An SFU or MICRO operation as it enters the vector unit, `useB` telling whether it has a source B. -/
def enteringSfu (kind : VuKind) (i : Nat) (sl : Slot) (w v : Nat) (program : List Nat) (useB : Bool) : VuOp :=
  { enteringOp kind i sl w v (((sfuFields w).regions (vecOperands sl v) useB).map (·.h)) with
    b := if useB then ((vecOperands sl v).getD 1 (0, 0)).2 else 0, second := useB, program := program }

section
variable {u : State} {core i : Nat} {sl : Slot} {w v : Nat} {kind : VuKind} {fields : Option Status} {program : List Nat}

theorem State.issueSfu_move (hc : sl.compute = false) : u.issueSfu core i sl w v kind fields program = u.faultTag sl.tag .descInvalid := by
  unfold State.issueSfu
  dsimp only
  rw [hc]
  rfl

theorem State.issueSfu_refuses {st : Status} (hc : sl.compute = true) : u.issueSfu core i sl w v kind (some st) program = u.faultTag sl.tag st := by
  unfold State.issueSfu
  dsimp only
  rw [hc]
  rfl

/-- An SFU or MICRO operation that passes its checks and waits for nothing enters (R180, R249). -/
theorem State.issueSfu_enters (hc : sl.compute = true) {useB : Bool} (huse : (kind == .micro && secondSource v) = useB)
    (hfault : (u.core core).regionFault sl.tag ((sfuFields w).regions (vecOperands sl v) useB) = none)
    (hover : (u.core core).overlaps ((sfuFields w).regions (vecOperands sl v) useB) = false)
    (hwait : (u.core core).vuWaits i ((sfuFields w).regions (vecOperands sl v) useB) = false) :
    u.issueSfu core i sl w v kind none program = (u.enterVu core (enteringSfu kind i sl w v program useB)).step1 core i 2 := by
  unfold State.issueSfu
  dsimp only
  rw [hc, huse, hfault, hover, hwait]
  rfl

end

/-- A format of the SFU's sources and destination: BF16 or FP32 (Table 9.10). -/
def sfuFormat (x : Nat) : Bool := x == 8 || x == 11

/-- The fields are ones SFU takes (R249). -/
def SfuFields.sfuOk (f : SfuFields) : Bool := decide (f.prog ≤ 1) && sfuFormat f.fa && sfuFormat f.fd && regionOk f.rows f.cols

/-- The fields are ones MICRO takes, `useB` telling whether it has a source B (R249). -/
def SfuFields.microOk (f : SfuFields) (useB : Bool) : Bool :=
  sfuFormat f.fa && (!useB || sfuFormat f.fb) && sfuFormat f.fd && regionOk f.rows f.cols && f.mb != 3

theorem SfuFields.sfuOk_iff {f : SfuFields} :
    f.sfuOk = true ↔ f.prog ≤ 1 ∧ sfuFormat f.fa = true ∧ sfuFormat f.fd = true ∧ regionOk f.rows f.cols = true := by
  simp [SfuFields.sfuOk, and_assoc]

theorem SfuFields.microOk_iff {f : SfuFields} {useB : Bool} : f.microOk useB = true ↔
    sfuFormat f.fa = true ∧ (useB = true → sfuFormat f.fb = true) ∧ sfuFormat f.fd = true ∧ regionOk f.rows f.cols = true ∧ f.mb ≠ 3 := by
  cases useB <;> simp [SfuFields.microOk, and_assoc]

/-- What MICRO of these fields is refused with by a core: its fields, a program the store does not hold, or one of another tag (R187, R249). -/
def CoreSt.microFault (c : CoreSt) (tag : Nat) (f : SfuFields) (useB : Bool) : Option Status :=
  if !f.microOk useB then some .descInvalid
  else if !(c.uprog f.prog).valid then some .descInvalid
  else if !(c.uprog f.prog).lib && (c.uprog f.prog).owner != tag then some .accessViolation
  else none

/-- The words of a program in the store of a core. -/
def CoreSt.programWords (c : CoreSt) (n : Nat) : List Nat := (List.range (c.uprog n).length).map (fun k => c.uword ((c.uprog n).base + k))

section
variable {c : CoreSt} {tag : Nat} {f : SfuFields} {useB : Bool}

theorem CoreSt.microFault_fields (h : f.microOk useB = false ∨ (c.uprog f.prog).valid = false) : c.microFault tag f useB = some .descInvalid := by
  unfold CoreSt.microFault
  rcases h with h | h
  · rw [h]
    rfl
  · rw [h]
    split <;> rfl

theorem CoreSt.microFault_owner (hok : f.microOk useB = true) (hvalid : (c.uprog f.prog).valid = true) (hlib : (c.uprog f.prog).lib = false)
    (howner : (c.uprog f.prog).owner ≠ tag) : c.microFault tag f useB = some .accessViolation := by
  simp [CoreSt.microFault, hok, hvalid, hlib, howner]

theorem CoreSt.microFault_none (hok : f.microOk useB = true) (hvalid : (c.uprog f.prog).valid = true)
    (howner : (c.uprog f.prog).lib = true ∨ (c.uprog f.prog).owner = tag) : c.microFault tag f useB = none := by
  rcases howner with howner | howner <;> simp [CoreSt.microFault, hok, hvalid, howner]

end

section
variable {s u : State} {core : CoreId} {i : Nat} {sl : Slot} {w v : Nat}

theorem exec_sfu_issues (h : s.atOp core i sl .sfu w v u) :
    exec (.sfu core) s = .next (u.issueSfu core i sl w v .sfu (if (sfuFields w).sfuOk then none else some .descInvalid) []) :=
  congrArg Host.Outcome.next (State.runOp_atOp h rfl _)

theorem exec_micro_issues (h : s.atOp core i sl .micro w v u) :
    exec (.micro core) s = .next (u.issueSfu core i sl w v .micro ((u.core core).microFault sl.tag (sfuFields w) (secondSource v))
      ((u.core core).programWords (sfuFields w).prog)) :=
  congrArg Host.Outcome.next (State.runOp_atOp h rfl _)

end

/-- Settles O19: each command either faults its context (`State.refuses_spec`) or lets its operation in (`State.enterVu_spec`), VECTOR with the start of an ebb
block besides (`State.openEbb_keeps`). -/
theorem vectorIssueComplete : Obligations.VectorIssueComplete := by
  unfold Obligations.VectorIssueComplete
  intro s u core i sl w v c ops f fl
  refine ⟨?vector, ?sfu, ?sfuRefused, ?microRefused, ?micro⟩
  case vector =>
    intro h rs
    refine ⟨fun hbad => ⟨_, exec_vector_refuses h hbad, u.refuses_spec sl.tag .descInvalid⟩,
      fun hc hok hregion hfault hover hwait hadd hfree hscales hdraws => ?_⟩
    have ex := exec_vector_enters h hc hok hregion rfl rfl hfault hover hwait (CoreSt.ebbEntry_free hfree) (CoreSt.ebbBreaks_eq_false hadd hscales) hdraws
    obtain ⟨view, slots⟩ := (u.enterVu core (enteringVector c i sl w v)).openEbb_keeps core (vecFields w) (ops.getD 3 (0, 0)).1
      (c.ebbSlot (ops.getD 3 (0, 0)).1 (ops.getD 3 (0, 0)).2)
    obtain ⟨hvu, hslot, hspm, hhbm⟩ := State.enterVu_spec h.slot view (slots.trans (u.enterVu_slots core _))
    exact ⟨_, _, ex, hvu, rfl, rfl, rfl, rfl, rfl, rfl, hslot, hspm, hhbm⟩
  case sfu =>
    intro h hc hprog hfa hfd hregion hfault hover hwait
    have hok : f.sfuOk = true := SfuFields.sfuOk_iff.2 ⟨hprog, hfa, hfd, hregion⟩
    have ex := exec_sfu_issues h
    rw [if_pos hok, State.issueSfu_enters hc rfl hfault hover hwait] at ex
    obtain ⟨hvu, hslot, hspm, hhbm⟩ := State.enterVu_spec h.slot rfl (u.enterVu_slots core (enteringSfu .sfu i sl w v [] false))
    exact ⟨_, _, ex, hvu, rfl, rfl, rfl, rfl, hslot, hspm, hhbm⟩
  case sfuRefused =>
    intro h hbad
    refine ⟨u.faultTag sl.tag .descInvalid, ?_, u.refuses_spec sl.tag .descInvalid⟩
    rw [exec_sfu_issues h]
    cases hc : sl.compute
    · rw [State.issueSfu_move hc]
    · have hok : f.sfuOk = false := hbad.resolve_left (by simp [hc])
      rw [if_neg (ne_true_of_eq_false hok), State.issueSfu_refuses hc]
  case microRefused =>
    intro h ok
    have ex := exec_micro_issues h
    refine ⟨fun hbad => ⟨_, ?_, u.refuses_spec sl.tag .descInvalid⟩, fun hc hok hvalid hlib howner => ⟨_, ?_, u.refuses_spec sl.tag .accessViolation⟩⟩
    · rw [ex]
      cases hc : sl.compute
      · rw [State.issueSfu_move hc]
      · rw [CoreSt.microFault_fields (hbad.resolve_left (by simp [hc])), State.issueSfu_refuses hc]
    · rw [ex, CoreSt.microFault_owner hok hvalid hlib howner, State.issueSfu_refuses hc]
  case micro =>
    intro h hc hfa hfb hfd hmb hregion hvalid howner hfault hover hwait
    have hok : f.microOk (secondSource v) = true := SfuFields.microOk_iff.2 ⟨hfa, hfb, hfd, hregion, hmb⟩
    have ex := exec_micro_issues h
    rw [CoreSt.microFault_none hok hvalid howner, State.issueSfu_enters hc (useB := secondSource v) rfl hfault hover hwait] at ex
    obtain ⟨hvu, hslot, hspm, hhbm⟩ :=
      State.enterVu_spec h.slot rfl (u.enterVu_slots core (enteringSfu .micro i sl w v (c.programWords f.prog) (secondSource v)))
    exact ⟨_, _, ex, hvu, rfl, rfl, rfl, rfl, hslot, hspm, hhbm⟩

end Sys2Proof.Machine

/-! PROOFS. O21: row statistics in the vector unit (R194 to R203, R250). The six commands are one operation (`exec_rowCommand`), which enters as every operation of
the unit does; a batch of rows of one part each is `State.rowPart`, so the lemmas on batches say what becomes of it. -/

namespace Sys2Proof.Machine

/-! ### Row statistics enter -/

/-- A row statistics operation as it enters the vector unit. -/
def enteringRows (i : Nat) (sl : Slot) (w v : Nat) : VuOp :=
  { enteringOp .rowstat i sl w v (((rowFields w).regions (vecOperands sl v)).map (·.h)) with dHandle := ((vecOperands sl v).getD 1 (0, 0)).1 }

/-- The commands of the row statistics operations, with their functions (R250). -/
def rowCommands : List ((CoreId → Rails → Instr) × Nat) :=
  [(Instr.momentsUpdate, 0), (Instr.momentsMerge, 1), (Instr.momentsFinal, 2), (Instr.softmaxUpdate, 3), (Instr.softmaxMerge, 4), (Instr.softmaxFinal, 5)]

theorem exec_rowCommand {cmd : CoreId → Rails → Instr} {fn : Nat} (h : (cmd, fn) ∈ rowCommands) (core : CoreId) (rails : Rails) (s : State) :
    exec (cmd core rails) s = .next (s.rowstat core fn rails) := by
  simp only [rowCommands, List.mem_cons, Prod.mk.injEq, List.not_mem_nil, or_false] at h
  rcases h with ⟨rfl, rfl⟩ | ⟨rfl, rfl⟩ | ⟨rfl, rfl⟩ | ⟨rfl, rfl⟩ | ⟨rfl, rfl⟩ | ⟨rfl, rfl⟩ <;> rfl

section
variable {s u : State} {core i : Nat} {sl : Slot} {w v : Nat} {rails : Rails}

/-- An UPDATE of no elements is complete at once (R196, R200). -/
theorem State.rowstat_empty (h : s.atOp core i sl .rowstat w v u) (hc : sl.compute = true) (hok : (rowFields w).ok = true)
    (hup : (rowFields w).isUpdate = true) (he : (rowFields w).e = 0) : s.rowstat core (bits w 115 112) rails = u.step1 core i 2 := by
  unfold State.rowstat
  rw [State.runOp_atOp h (by simp)]
  simp [hc, hok, hup, he]

/-- A row statistics operation that passes its checks and waits for nothing enters; alone in the unit, its first batch runs (R180, R250; log entry 14). -/
theorem State.rowstat_enters (h : s.atOp core i sl .rowstat w v u) (hc : sl.compute = true) (hok : (rowFields w).ok = true)
    (he : (rowFields w).isUpdate = true → (rowFields w).e ≠ 0)
    (hfault : (u.core core).regionFault sl.tag ((rowFields w).regions (vecOperands sl v)) = none)
    (hover : (u.core core).overlaps ((rowFields w).regions (vecOperands sl v)) = false)
    (hwait : (u.core core).vuWaits i ((rowFields w).regions (vecOperands sl v)) = false) :
    s.rowstat core (bits w 115 112) rails =
      if (u.core core).vu.isEmpty then ((u.enterVu core (enteringRows i sl w v)).step1 core i 2).vuBatch core rails
      else (u.enterVu core (enteringRows i sl w v)).step1 core i 2 := by
  have elements : ((rowFields w).isUpdate && (rowFields w).e == 0) = false := by simpa using he
  unfold State.rowstat
  rw [State.runOp_atOp h (by simp)]
  dsimp only
  rw [hc, hok, elements, hfault, hover, hwait]
  rfl

end

/-! ### Batches of rows -/

/-- The writes of a batch of whole rows: the probabilities of an UPDATE where C is enabled, then those its rows call for (R200, R203). -/
def VuOp.rowWrites (o : VuOp) (r : RowPart) : List VuWrite :=
  let f := rowFields o.word
  (if r.probs.isEmpty then [] else [⟨o.handles.getD 2 0, o.c, bitsOf f.cfmt, o.batch * f.perBatch * f.e, r.probs⟩]) ++ r.rest

/-- Rows that the next batch of an operation whose rows take one batch each reads: what they come to, and the state after the reads. -/
def State.wholeRows (s : State) (core : Nat) (o : VuOp) : Except Status RowPart × State :=
  let f := rowFields o.word
  s.rowPart core o f (o.batch * f.perBatch) (min f.perBatch (f.rows - o.batch * f.perBatch))

section
variable {s u : State} {core : Nat} {o : VuOp}

/-- A batch of whole rows that end in a fault fails with it. -/
theorem State.batchOut_rows_fails {st : Status} (hk : o.kind = .rowstat) (hrow : o.row = none) (hparts : (rowFields o.word).parts = 1)
    (h : s.wholeRows core o = (.error st, u)) : s.batchOut core o = (.error st, u) := by
  unfold State.wholeRows at h
  unfold State.batchOut State.rowBatch
  simp only [hk, hrow, hparts, Nat.div_one, h]

/-- A batch of whole rows comes to the writes they call for, and leaves no rows under way. -/
theorem State.batchOut_rows {r : RowPart} (hk : o.kind = .rowstat) (hrow : o.row = none) (hparts : (rowFields o.word).parts = 1)
    (h : s.wholeRows core o = (.ok r, u)) : s.batchOut core o = (.ok ⟨o.rowWrites r, o, none⟩, u) := by
  have same : { o with kind := .rowstat, row := none } = o := by rw [← hk, ← hrow]
  unfold State.wholeRows at h
  unfold State.batchOut State.rowBatch VuOp.rowWrites
  simp only [hk, hrow, hparts, Nat.div_one, Nat.mod_one, h, Nat.zero_add, if_true, Nat.mul_zero, Nat.add_zero, same]

theorem VuOp.total_rows (hk : o.kind = .rowstat) : o.total = (rowFields o.word).batches := if_pos hk

end

/-- Settles O21: an operation enters (`State.rowstat_enters`), and its batches end as every batch does (`State.runBatch_faults`, `State.runBatch_breaches`,
`State.runBatch_ends`), with what `State.batchOut_rows` says they come to. -/
theorem rowStatisticsComplete : Obligations.RowStatisticsComplete := by
  unfold Obligations.RowStatisticsComplete
  refine ⟨?issue, ?batch⟩
  case issue =>
    intro s u core rails i sl w v cmd hcmd h hc hok f ops rs
    have ex := exec_rowCommand hcmd core rails s
    refine ⟨fun hup he => ⟨_, ex.trans (congrArg _ (State.rowstat_empty h hc hok hup he)), ?_, u.step1_spm .., u.step1_hbm .., ?_⟩,
      fun he hfault hover hwait => ?_⟩
    · rw [State.step1_slot, h.slot]
    · exact (u.step1_runs (eng := False) i 2).vu
    · have enters := State.rowstat_enters (rails := rails) h hc hok he hfault hover hwait
      obtain ⟨hvu, hslot, hspm, hhbm⟩ := State.enterVu_spec h.slot rfl (u.enterVu_slots core (enteringRows i sl w v))
      refine ⟨_, _, hvu, rfl, rfl, rfl, rfl, rfl, rfl, rfl, rfl, hslot, hspm, hhbm, fun hne => ?_, fun hemp => ?_⟩
      · rw [ex, enters, if_neg (by simpa using hne)]
      · rw [ex, enters, if_pos (by simpa using hemp)]
        rfl
  case batch =>
    intro s core o rest rails hvu hr hk hrow f first hparts ho
    have front := exec_vectorBatch_front hvu hr ho
    refine ⟨fun st u h => ?_, fun r u h => ⟨?_, fun v hrails hput => ?_⟩⟩
    · obtain ⟨left, fault, spm, hbm⟩ := State.runBatch_faults (rails := rails) hvu (State.batchOut_rows_fails hk hrow hparts h)
      exact ⟨_, front, fault, left, spm, hbm⟩
    · rintro rfl
      obtain ⟨left, mark, fault, spm, hbm⟩ := State.runBatch_breaches hvu (State.batchOut_rows hk hrow hparts h)
      exact ⟨_, front, fault, mark, left, spm, hbm⟩
    · have ends := State.runBatch_ends hvu hrails (State.batchOut_rows hk hrow hparts h) hput
      rw [VuOp.total_rows hk] at ends
      exact ⟨_, front, ends⟩

end Sys2Proof.Machine

/-! PROOFS. O53: the values of MOMENTS_FINAL (R199). Its rows take one batch each, so a batch is `State.rowPart` on 16 rows or those left, and that comes to two
writes, the means and the variances (`State.rowPart_momentsFinal`). -/

namespace Sys2Proof.Machine

/-- The records that the bytes of a batch hold. -/
def rowRecs (raw : Bytes) (count : Nat) : List RowRec := (List.range count).map (fun i => rowRecOf (slice raw (16 * i) 16))

/-- The elements that a record counts, as an operation on moments takes it: an empty one has none (R194). -/
def RowRec.count (r : RowRec) : Nat := if r.kind = 0 then 0 else r.n

theorem RowRec.as_moments_n (r : RowRec) : (r.as 1).n = r.count := by
  unfold RowRec.as RowRec.count
  split <;> rfl

/-- A record that counts elements is taken as it stands. -/
theorem RowRec.as_moments {r : RowRec} (h : r.count ≠ 0) : r.as 1 = r := by
  unfold RowRec.as
  exact if_neg fun hk => h (if_pos hk)

/-- The mean of a record: zero without elements. -/
theorem momentsOut_mean (r : RowRec) (sample : Bool) : (momentsOut (r.as 1) sample).1 = if r.count = 0 then .fin false 0 0 else r.a := by
  unfold momentsOut
  rw [r.as_moments_n]
  split
  · rfl
  next h =>
    rw [RowRec.as_moments h]
    split <;> rfl

/-- The variance of a record: zero without elements, and for one element under SAMPLE. -/
theorem momentsOut_var (r : RowRec) (sample : Bool) : (momentsOut (r.as 1) sample).2 =
    if r.count = 0 then .fin false 0 0
    else if r.count = 1 ∧ sample = true then .fin false 0 0
    else divN r.b (if sample then r.count - 1 else r.count) := by
  unfold momentsOut
  rw [r.as_moments_n]
  split
  · rfl
  next h =>
    rw [RowRec.as_moments h]
    split <;> rfl

/-- The record that an operation on moments finds at a row counts fewer than 2^32 elements; beyond the last row it finds none. -/
theorem RowRec.as_moments_n_lt {recs : List RowRec} (hn : ∀ r ∈ recs, r.n < 2 ^ 32) (i : Nat) :
    ((recs.map (·.as 1)).getD i (RowRec.as ⟨0, .nan, .nan, 0, false, false⟩ 1)).n < 2 ^ 32 := by
  rw [List.getD_eq_getElem?_getD, List.getElem?_map]
  rcases hi : recs[i]? with _ | r
  · decide
  · have bound := hn r (List.mem_of_getElem? hi)
    rw [Option.map_some, Option.getD_some, r.as_moments_n, RowRec.count]
    split <;> omega

section
variable {f : RowFields} (hfn : f.fn = 2)
include hfn

theorem RowFields.kind_momentsFinal : f.kind = 1 := by simp [RowFields.kind, hfn]
theorem RowFields.isUpdate_momentsFinal : f.isUpdate = false := by simp [RowFields.isUpdate, hfn]
theorem RowFields.isFinal_momentsFinal : f.isFinal = true := by simp [RowFields.isFinal, hfn]
theorem RowFields.perBatch_momentsFinal : f.perBatch = 16 := by
  simp [RowFields.perBatch, RowFields.isUpdate_momentsFinal hfn]
theorem RowFields.parts_momentsFinal : f.parts = 1 := by
  simp [RowFields.parts, RowFields.isUpdate_momentsFinal hfn]

/-- MOMENTS_FINAL of records of moments, or empty ones, comes to mean and variance of each, and leaves the records. -/
theorem rowResults_momentsFinal {recs : List RowRec} (hkind : ∀ r ∈ recs, r.kind ≤ 1) (hn : ∀ r ∈ recs, r.n < 2 ^ 32) :
    rowResults f [] [] recs = .ok ⟨recs, [(0, recs.map (fun r => (momentsOut (r.as 1) f.sample).1))],
      [(0, recs.map (fun r => (momentsOut (r.as 1) f.sample).2))]⟩ := by
  have fit : recs.any (fun r => !r.fits 1) = false := by
    refine List.any_eq_false.2 fun r hr => ?_
    have := hkind r hr
    simp only [RowRec.fits, Bool.not_eq_true', Bool.not_eq_false, Bool.or_eq_true, beq_iff_eq]
    omega
  have small : ((List.range f.rows).map (fun i => ((recs.map (·.as 1)).getD i (RowRec.as ⟨0, .nan, .nan, 0, false, false⟩ 1)).n)).any
      (fun n => decide (2 ^ 32 ≤ n)) = false := by
    refine List.any_eq_false.2 fun n hmem => ?_
    obtain ⟨i, -, rfl⟩ := List.mem_map.1 hmem
    simpa using RowRec.as_moments_n_lt hn i
  unfold rowResults
  simp only [RowFields.kind_momentsFinal hfn, RowFields.isUpdate_momentsFinal hfn, RowFields.isFinal_momentsFinal hfn, hfn, fit, List.any_nil, List.map_map]
  exact if_neg (ne_true_of_eq_false small)

/-- The rows of MOMENTS_FINAL whose records can be read come to two writes: the means to C, the variances to D (R199). -/
theorem State.rowPart_momentsFinal {s u : State} {core : Nat} {o : VuOp} {first count : Nat} {raw : Bytes} (hok : f.ok = true)
    (hread : s.spmRead core ((s.core core).abs (o.handles.getD 1 0) (o.b + 16 * first)) (16 * count) = (some raw, u))
    (hkind : ∀ r ∈ rowRecs raw count, r.kind ≤ 1) (hn : ∀ r ∈ rowRecs raw count, r.n < 2 ^ 32) :
    s.rowPart core o f first count = (.ok ⟨[],
      [⟨o.handles.getD 2 0, o.c, bitsOf f.cfmt, first, (rowRecs raw count).map (fun r => outCode f.cfmt (momentsOut (r.as 1) f.sample).1)⟩,
        ⟨o.handles.getD 3 0, o.d, bitsOf f.cfmt, first, (rowRecs raw count).map (fun r => outCode f.cfmt (momentsOut (r.as 1) f.sample).2)⟩]⟩, u) := by
  have enabled : f.cen = true ∧ f.den = true := by
    simp only [RowFields.ok, RowFields.isFinal_momentsFinal hfn, if_true, Bool.and_eq_true] at hok
    exact hok.2
  have results := rowResults_momentsFinal (f := { f with rows := count }) hfn hkind hn
  unfold rowRecs at results ⊢
  unfold State.rowPart
  simp only [RowFields.isUpdate_momentsFinal hfn, RowFields.isFinal_momentsFinal hfn, Bool.false_eq_true, if_false, Bool.or_true, if_true, hread,
    List.map_nil, List.isEmpty_nil, results]
  simp only [hfn, enabled, Bool.and_true, Bool.and_false, Bool.false_eq_true, if_true, if_false, List.nil_append, List.map_cons, List.map_nil, List.cons_append,
    List.map_map, Nat.add_zero, Function.comp_def]

end

/-- Settles O53: the next batch writes the means, then the variances, of the records it reads (`State.rowPart_momentsFinal`), and what a batch writes stays
(`State.runBatch_ends`). -/
theorem momentsFinalValues : Obligations.MomentsFinalValues := by
  unfold Obligations.MomentsFinalValues
  intro s core o rest rails raw u u1 v hvu hr hk hrow hfn hok hrails ho f first count hread recs hrecs n zero mean var hmeans hvars
  have hmean : ∀ r : RowRec, (momentsOut (r.as 1) f.sample).1 = mean r := fun r => momentsOut_mean r f.sample
  have hvar : ∀ r : RowRec, (momentsOut (r.as 1) f.sample).2 = var r := fun r => momentsOut_var r f.sample
  have rows := State.rowPart_momentsFinal (f := f) hfn hok hread (fun r hr => (hrecs r hr).1) (fun r hr => (hrecs r hr).2)
  have whole : s.wholeRows core o = s.rowPart core o f first count := by
    unfold State.wholeRows
    dsimp only
    rw [RowFields.perBatch_momentsFinal hfn, Nat.mul_comm]
  have batch := State.batchOut_rows hk hrow (RowFields.parts_momentsFinal hfn) (whole.trans rows)
  simp only [hmean, hvar] at batch
  obtain ⟨hspm, hhbm, -⟩ := State.runBatch_ends hvu hrails batch ((State.putWrites_cons hmeans).trans (State.putWrites_cons hvars))
  exact ⟨_, exec_vectorBatch_front hvu hr ho, hspm, hhbm⟩

end Sys2Proof.Machine

/-! PROOFS. O15 and O16: control and phase operations, and the slot of an ended task (R225, R231, R239 to R241, R253, R466). An operation rewrites its slot and
then the task moves on from what the slot holds (`State.rewriteSlot_slot`); a task that ends leaves the sequencer (`State.yield_running`). -/

namespace Sys2Proof.Machine

/-! ### Slots rewritten and left -/

/-- The task of a slot moves on from what an operation has put into the slot. -/
def State.rewriteSlot (s : State) (core i : Nat) (sl : Slot) (n : Nat) : State := (s.setCore core ((s.core core).setSlot i sl)).step1 core i n

theorem State.rewriteSlot_slot (s : State) (core i : Nat) (sl : Slot) (n : Nat) : ((s.rewriteSlot core i sl n).core core).slot i = sl.advance n := by
  rw [State.rewriteSlot, State.step1_slot, State.core_setCore_self, CoreSt.slot_setSlot_self]

/-- Of a core where no task runs, none comes to run but a ready one. -/
theorem State.switch_running {s : State} {core i : Nat} (hn : (s.core core).running = none) (hi : ((s.core core).slot i).state ≠ 1) :
    ((s.switch core).core core).running ≠ some i := by
  cases hj : (s.core core).pick with
  | some j =>
    have ready : j ≠ i := fun e => hi (e ▸ CoreSt.pick_state hj)
    rw [State.switch_starts hn hj, State.bump_core, State.core_setCore_self]
    exact fun e => ready (Option.some.inj e)
  | none =>
    have gated : s.switch core = s.gate core := by
      unfold State.switch
      dsimp only
      rw [hn, hj]
      rfl
    rw [gated]
    unfold State.gate
    dsimp only
    split
    · rw [State.bump_core, State.core_setCore_self]
      exact fun e => Option.some_ne_none i (e.symm.trans hn)
    · exact fun e => Option.some_ne_none i (e.symm.trans hn)

/-- A task that leaves the sequencer with no wish to run does not run. -/
theorem State.yield_running (s : State) (core i : Nat) {sl : Slot} (h : sl.state ≠ 1) : ((s.yield core i sl).core core).running ≠ some i := by
  unfold State.yield
  refine State.switch_running (by rw [State.core_setCore_self]) ?_
  rw [State.core_setCore_self]
  exact (congrArg Slot.state (CoreSt.slot_setSlot_self ..)).trans_ne h

/-! ### LOOP -/

/-- The slot of a task that comes to a LOOP word: the counter at zero, its last value that of the last pass (R239). -/
def Slot.counting (sl : Slot) (w : Nat) : Slot :=
  { sl with lcs := sl.lcs.set (bits w 115 113) 0, lasts := sl.lasts.set (bits w 115 113) ((bits w 112 97 + 65535) % 65536) }

/-- The loop that a LOOP word at a position opens. -/
def loopOf (pc w : Nat) : Loop := ⟨bits w 115 113, pc + 1, pc + 1 + bits w 96 79, bits w 112 97⟩

section
variable {s u : State} {core : CoreId} {i : Nat} {sl : Slot} {w v : Nat}

/-- A LOOP that nests well, its body inside the code polder and not cut in an operation, skips its body or opens (R239, R240). -/
theorem exec_loop_nests {last : Nat} {u' : State} (h : s.atOp core i sl .loop w v u)
    (hnest : sl.loops.all (fun l => l.lc != bits w 115 113 && decide (sl.pc + 1 + bits w 96 79 ≤ l.stop)) = true) (hbody : bits w 96 79 ≠ 0)
    (hin : 16 * (sl.pc + 1 + bits w 96 79) ≤ ((u.core core).polder sl.codeHandle).length * granule)
    (hlast : u.word core sl.codeHandle (sl.pc + bits w 96 79) = (some last, u')) (hone : ∀ k, opOf last = some k → k.two = false) :
    exec (.loop core) s = .next (if bits w 112 97 = 0 then u'.rewriteSlot core i (sl.counting w) (1 + bits w 96 79)
      else u'.rewriteSlot core i { sl.counting w with loops := loopOf sl.pc w :: sl.loops } 1) := by
  have other : sl.loops.any (fun l => l.lc == bits w 115 113) = false :=
    List.any_eq_false.2 fun l hl => by have := List.all_eq_true.1 hnest l hl; simp_all
  have inner : sl.loops.any (fun l => decide (l.stop < sl.pc + 1 + bits w 96 79)) = false :=
    List.any_eq_false.2 fun l hl => by have := List.all_eq_true.1 hnest l hl; simp_all
  have stop : sl.pc + 1 + bits w 96 79 - 1 = sl.pc + bits w 96 79 := by omega
  show execLoop core s = _
  unfold execLoop
  rw [State.runOp_atOp h rfl]
  dsimp only
  rw [if_neg (by simp [other]), if_neg (by simp [inner]), if_neg hbody, if_neg (Nat.not_lt.2 hin), stop, hlast]
  refine congrArg Host.Outcome.next ((if_neg ?whole).trans ?goes)
  case whole =>
    split
    next k hk => exact ne_true_of_eq_false (hone k hk)
    next => exact Bool.false_ne_true
  case goes => split <;> rfl

end

/-- Settles O15: NOP, SETTLE and PSET move past their word, END yields the sequencer, LOOP is `exec_loop_nests`. -/
theorem controlOperationsComplete : Obligations.ControlOperationsComplete := by
  unfold Obligations.ControlOperationsComplete
  intro s u core i sl w v
  refine ⟨fun h => ?nop, fun h idle => ?settle, fun h => ?pset, fun h => ?endTask, fun h last u' hnest hbody hin hlast hone => ?loop⟩
  case nop => exact ⟨_, congrArg Host.Outcome.next (State.runOp_atOp h rfl _), by rw [State.step1_slot, h.slot]⟩
  case settle =>
    exact ⟨_, congrArg Host.Outcome.next ((State.runOp_atOp h rfl _).trans (if_neg (ne_true_of_eq_false idle))), by rw [State.step1_slot, h.slot]⟩
  case pset => exact ⟨_, congrArg Host.Outcome.next (State.runOp_atOp h rfl _), u.rewriteSlot_slot ..⟩
  case endTask =>
    have off : ∀ x : Slot, ({ x with state := 0, ending := true, loops := [] } : Slot).state ≠ 1 := fun _ => Nat.zero_ne_one
    refine ⟨_, congrArg Host.Outcome.next (State.runOp_atOp h rfl _), ?_, ?_, ?_, State.yield_running _ _ _ (off _)⟩ <;> rw [State.yield_slot _ _ _ _ (off _)]
  case loop =>
    have count : bits w 112 97 < 65536 := bits_lt ..
    have ex := exec_loop_nests h hnest hbody hin hlast hone
    by_cases hz : bits w 112 97 = 0
    · rw [if_pos hz] at ex ⊢
      refine ⟨_, ex, ?_⟩
      rw [State.rewriteSlot_slot, Slot.counting, hz]
    · have before : (bits w 112 97 + 65535) % 65536 = bits w 112 97 - 1 := by omega
      rw [if_neg hz] at ex ⊢
      refine ⟨_, ex, ?_⟩
      rw [State.rewriteSlot_slot, Slot.counting, before]
      rfl

/-! ### Phases, and the slot of an ended task -/

/-- The slot of an ended task with nothing in the ME and the VU frees (R231). -/
theorem State.freeSlot_ended {s : State} {core i : Nat} (he : ((s.core core).slot i).ending = true) (hb : (s.core core).busy i = false) :
    ((s.freeSlot core i).core core).slot i = Slot.empty := by
  unfold State.freeSlot
  dsimp only
  rw [if_pos (by simp [he, hb]), State.cxsLoad_slot, State.core_setCore_self, CoreSt.slot_setSlot_self]

theorem State.freeSlot_busy {s : State} {core i : Nat} (hb : (s.core core).busy i = true) : s.freeSlot core i = s := by
  unfold State.freeSlot
  dsimp only
  rw [if_neg (by simp [hb])]

/-- Settles O16: a phase is set in the slot unless the weir holds it back, and a slot frees as `State.freeSlot_ended` says. -/
theorem phasesAndSlotFreeComplete : Obligations.PhasesAndSlotFreeComplete := by
  unfold Obligations.PhasesAndSlotFreeComplete
  intro s u core i sl w v
  refine ⟨fun h => ?move, fun h free => ?compute, fun h held => ?waits, fun slot he hb => ?ended, fun slot hb => ?busy⟩
  case move => exact ⟨_, congrArg Host.Outcome.next (State.runOp_atOp h rfl _), u.rewriteSlot_slot ..⟩
  case compute =>
    exact ⟨_, congrArg Host.Outcome.next ((State.runOp_atOp h rfl _).trans (if_neg (ne_true_of_eq_false free))), u.rewriteSlot_slot ..⟩
  case waits => exact congrArg Host.Outcome.next ((State.runOp_atOp h rfl _).trans (if_pos held))
  case ended =>
    have freed := State.freeSlot_ended he hb
    exact ⟨_, rfl, congrArg Slot.ending freed, congrArg Slot.state freed⟩
  case busy => exact congrArg Host.Outcome.next (State.freeSlot_busy hb)

end Sys2Proof.Machine

/-! PROOFS. O51: a FREE waits for the streams that name its handle (R219). Such a stream arms the core on the handle (`CoreSt.armedOn_run`), and freeing other polders
leaves it armed (`State.Handles.armedOn`). -/

namespace Sys2Proof.Machine

/-- A descriptor names a handle as LOCAL source, as LOCAL destination or as CRC_DST. -/
theorem StreamDesc.names_iff {d : StreamDesc} {h : Nat} : d.names h = true ↔
    bits d.ctrl 1 0 = 0 ∧ d.srcHandle = h ∨ bits d.ctrl 3 2 = 0 ∧ d.dstHandle = h ∨ bit d.ctrl 9 = true ∧ d.crcDst % 256 = h := by
  simp [StreamDesc.names, or_assoc]

section
variable {c : CoreSt} {h : Nat}

theorem CoreSt.armedOn_run {j : Nat} {x : Strm} {r : Run} (hx : (j, x) ∈ c.strms) (hr : x.run = some r) (hn : r.desc.names h = true) : c.armedOn h = true :=
  List.any_eq_true.2 ⟨_, hx, by rw [hr]; exact Bool.or_eq_true_iff.2 (.inl hn)⟩

theorem CoreSt.armedOn_idle (hc : ∀ j x, (j, x) ∈ c.strms → x.run = none ∧ x.held = none) : c.armedOn h = false := by
  refine List.any_eq_false.2 fun ⟨j, x⟩ hx => ?_
  obtain ⟨hrun, hheld⟩ := hc j x hx
  rw [hrun, hheld]
  exact Bool.false_ne_true

end

/-- A FREE of a handle that a stream is armed on does nothing. -/
theorem exec_handleFree_waits {s u : State} {core : CoreId} {i : Nat} {sl : Slot} {w v : Nat} (h : s.atOp core i sl .free w v u)
    (hc : (u.core core).check sl.tag (bits w 115 108) 0 0 = none) (ha : (u.core core).armedOn (bits w 115 108) = true) :
    exec (.handleFree core) s = .next u := by
  show execHandleFree core s = _
  unfold execHandleFree
  rw [State.runOp_atOp h rfl]
  simp [hc, ha]

/-- Of culvert FREEs that wait, one whose handle a stream is armed on waits on, its polder as it was. -/
theorem State.resumeFrees_armed {s : State} {core : Nat} {m : Culvert} (hm : m ∈ (s.core core).frees) (ha : (s.core core).armedOn (bits m.arg 7 0) = true) :
    m ∈ ((s.resumeFrees core).core core).frees ∧
      ((s.resumeFrees core).core core).polder (bits m.arg 7 0) = (s.core core).polder (bits m.arg 7 0) := by
  have keep : s.Handles core (s.resumeFrees core) ∧ m ∈ ((s.resumeFrees core).core core).frees ∧
      ((s.resumeFrees core).core core).polder (bits m.arg 7 0) = (s.core core).polder (bits m.arg 7 0) := by
    refine List.foldlRecOn (motive := fun t : State => s.Handles core t ∧ m ∈ (t.core core).frees ∧
      (t.core core).polder (bits m.arg 7 0) = (s.core core).polder (bits m.arg 7 0)) _ _ ⟨.refl s, hm, rfl⟩ fun t ht a _ => ?_
    obtain ⟨steps, waits, stands⟩ := ht
    split
    next => exact ⟨steps, waits, stands⟩
    next free =>
      have armed : (t.core core).armedOn (bits m.arg 7 0) = true := (steps.armedOn _).trans ha
      have apart : bits m.arg 7 0 ≠ bits a.arg 7 0 := fun e => free (by rw [← e, armed]; rfl)
      obtain ⟨polder, frees, -⟩ := t.freePolder_apart core apart
      exact ⟨steps.trans (t.freePolder_handles ..), frees m waits rfl, polder.trans stands⟩
  exact keep.2

/-- Settles O51: a FREE of the task stands (`exec_handleFree_waits`) until it goes through (`exec_handleFree_frees`), one by culvert is kept
(`State.resumeFrees_armed`). -/
theorem freeWaitsForArmedStreams : Obligations.FreeWaitsForArmedStreams := by
  unfold Obligations.FreeWaitsForArmedStreams
  intro s core
  refine ⟨?task, ?culvert⟩
  case task =>
    intro u i sl w v h hd hc
    refine ⟨fun j x r hx hr hn => exec_handleFree_waits h hc (CoreSt.armedOn_run hx hr (StreamDesc.names_iff.2 hn)), fun htouch halloc hidle hplain => ?_⟩
    have freed : ((u.freePolder core hd).core core).polder hd = { Polder.empty with gen := (((u.core core).polder hd).gen + 1) % 64 } := by
      rw [State.freePolder_plain hplain, State.release_core (CoreSt.check_valid hc), CoreSt.released_polder]
    refine ⟨_, exec_handleFree_frees h hc htouch (CoreSt.armedOn_idle hidle) halloc, ?_, ?_⟩
    · rw [State.step1_polder, freed]
      rfl
    · rw [State.step1_slot, (u.freePolder_handles core _).slot, h.slot]
  case culvert =>
    intro u m j x r hrec hrst hheld hd p hgen hv ho hx hr hn
    have armed : (u.core core).armedOn hd = true := CoreSt.armedOn_run hx hr hn
    have own : (u.setCore core { u.core core with frees := (u.core core).frees ++ [m] }).core core = { u.core core with frees := (u.core core).frees ++ [m] } :=
      State.core_setCore_self ..
    obtain ⟨waits, stands⟩ := State.resumeFrees_armed (m := m) (by rw [own]; exact List.mem_append_right _ (List.mem_singleton.2 rfl)) (by rw [own]; exact armed)
    exact ⟨_, exec_culvertFree_waits hrec hrst hheld hgen hv ho, waits, stands.trans (by rw [own]; rfl)⟩

end Sys2Proof.Machine

/-! PROOFS. O54: ARM of a stream (R205, R208, R211, R214, R220, R251). An ARM whose descriptor is read and that waits for no operation holds the descriptor or has
it take effect (`exec_streamArm_reads`); a descriptor that takes effect faults its context, completes at once or starts a run (`State.startRun_…`). -/

namespace Sys2Proof.Machine

/-! ### The words of an ARM (R251) -/

/-- Handle of the code polder that holds the descriptor an ARM names, and the descriptor's offset there. -/
def armHandle (sl : Slot) (w : Nat) : Nat := (addr sl (bits w 109 81)).1
def armOffset (sl : Slot) (w : Nat) : Nat := 256 * (addr sl (bits w 109 81)).2 + 128 * b2n (bit w 110)

/-- What a loop counter of the task adds to an offset of an ARM. -/
def armIndex (sl : Slot) (lc sh : Nat) : Nat := if sh = 31 then 0 else sl.lcs.getD lc 0 * 2 ^ sh

/-- The descriptor that an ARM has take effect, from the bytes it names. -/
def armDesc (sl : Slot) (w : Nat) (bs : Bytes) : StreamDesc :=
  streamDesc bs (unsigned 64 (signed 32 (bits w 63 32)) + armIndex sl (bits w 80 78) (bits w 77 73))
    (unsigned 64 (signed 32 (bits w 31 0)) + armIndex sl (bits w 72 70) (bits w 69 65))

/-! ### An ARM that waits for no operation -/

theorem CoreSt.accumulating_nil {c : CoreSt} (h : c.me = []) (i k : Nat) : c.accumulating i k = false := by
  unfold CoreSt.accumulating
  rw [h]
  rfl

theorem CoreSt.touches_nil {c : CoreSt} (hm : c.me = []) (hv : c.vu = []) (i k : Nat) : c.touches i k = false := by
  unfold CoreSt.touches
  rw [hm, hv]
  rfl

theorem State.Fetches.out {core : Nat} {s t : State} (h : s.Fetches core t) : t.out = s.out := by rw [h.read.rest]
theorem State.Fetches.ports {core : Nat} {s t : State} (h : s.Fetches core t) : t.ports = s.ports := by rw [h.read.rest]
theorem State.Fetches.ctxs {core : Nat} {s t : State} (h : s.Fetches core t) : t.ctxs = s.ctxs := by rw [h.read.rest]
theorem State.Fetches.hashBusy {core : Nat} {s t : State} (h : s.Fetches core t) : t.hashBusy = s.hashBusy := by rw [h.read.rest]
theorem State.Fetches.me {core : Nat} {s t : State} (h : s.Fetches core t) (c : Nat) : (t.core c).me = (s.core c).me := by rw [h.core_eq c]

theorem State.Fetches.slot {core : Nat} {s t : State} (h : s.Fetches core t) (c i : Nat) : (t.core c).slot i = (s.core c).slot i := by
  unfold CoreSt.slot
  rw [h.core_eq c]

theorem State.Fetches.strm {core : Nat} {s t : State} (h : s.Fetches core t) (c j : Nat) : (t.core c).strm j = (s.core c).strm j := by
  unfold CoreSt.strm
  rw [h.strms]

/-- An ARM of a stream bound to its context, whose descriptor is read, with no operation in the ME and the VU: a running stream holds the descriptor, at an idle one
it takes effect. -/
theorem exec_streamArm_reads {s u y : State} {core : CoreId} {i : Nat} {sl : Slot} {w v : Nat} {bs : Bytes} (h : s.atOp core i sl .arm w v u)
    (hv : ((u.core core).polder (armHandle sl w)).valid = true) (ho : ((u.core core).polder (armHandle sl w)).owner = sl.tag)
    (hcode : ((u.core core).polder (armHandle sl w)).code = true)
    (hin : armOffset sl w + 128 ≤ ((u.core core).polder (armHandle sl w)).length * granule)
    (hbound : ((u.core core).strm (bits w 115 111)).bound = true) (hown : ((u.core core).strm (bits w 115 111)).owner = sl.tag)
    (hread : u.spmRead core ((u.core core).abs (armHandle sl w) (armOffset sl w)) 128 = (some bs, y))
    (hme : (u.core core).me = []) (hvu : (u.core core).vu = [])
    (hroom : ((u.core core).strm (bits w 115 111)).run = none ∨ ((u.core core).strm (bits w 115 111)).held = none) :
    exec (.streamArm core) s = .next (if ((u.core core).strm (bits w 115 111)).run.isSome then
        (y.setCore core ((y.core core).setStrm (bits w 115 111)
          { (u.core core).strm (bits w 115 111) with held := some (armDesc sl w bs, armOffset sl w / 128) })).step1 core i 1
      else (y.step1 core i 1).startRun core (bits w 115 111) sl.tag (armDesc sl w bs) (armOffset sl w / 128)) := by
  have read : u.Fetches core y := (u.spmRead_fetches ..).of_eq hread
  have hme' : (y.core core).me = [] := (read.me core).trans hme
  have hvu' : (y.core core).vu = [] := (read.vu core).trans hvu
  have noAcc : ∀ k, (y.core core).accumulating i k = false := CoreSt.accumulating_nil hme' i
  have noTouch : ∀ k, (y.core core).touches i k = false := CoreSt.touches_nil hme' hvu' i
  have noWindow : ∀ l : List Nat, l.any ((y.core core).accumulating i) = false := fun l => List.any_eq_false.2 fun k _ => by rw [noAcc]; exact Bool.false_ne_true
  have room : (((u.core core).strm (bits w 115 111)).run.isSome && ((u.core core).strm (bits w 115 111)).held.isSome) = false := by
    rcases hroom with e | e <;> simp [e]
  show execStreamArm core s = _
  unfold execStreamArm
  rw [State.runOp_atOp h rfl]
  unfold armHandle armOffset at *
  generalize addr sl (bits w 109 81) = a at *
  obtain ⟨k, row⟩ := a
  dsimp only at *
  rw [if_neg (by simp [hv, ho, hcode]; omega), if_neg (by simp [hbound, hown]), if_neg (ne_true_of_eq_false room), hread]
  dsimp only
  rw [if_neg (by simp [noAcc, noTouch, noWindow])]
  split <;> rfl

/-! ### A descriptor takes effect -/

/-- A core whose polder a stream's ring is armed in (R214). -/
def CoreSt.ringed (c : CoreSt) (j tag : Nat) (d : StreamDesc) : CoreSt :=
  if d.isRing && (c.polder d.dstHandle).valid && (c.polder d.dstHandle).owner == tag then
    c.setPolder d.dstHandle { c.polder d.dstHandle with armedBy := some j }
  else c

/-- A stream with the ring and the credit of a descriptor that takes effect (R214). -/
def Strm.ringed (x : Strm) (p : Polder) (d : StreamDesc) : Strm :=
  if !d.isRing then { x with ring := none } else if bit d.ctrl 24 then x else
    { x with ring := some d.dstHandle, ringSlots := p.slots, credit := p.slots, nextSlot := d.dst / 2048 }

theorem CoreSt.ringed_slot (c : CoreSt) (j tag : Nat) (d : StreamDesc) (i : Nat) : (c.ringed j tag d).slot i = c.slot i := by
  unfold CoreSt.ringed
  split <;> rfl

theorem CoreSt.ringed_spm (c : CoreSt) (j tag : Nat) (d : StreamDesc) : (c.ringed j tag d).spm = c.spm := by
  unfold CoreSt.ringed
  split <;> rfl

theorem Strm.ringed_run (x : Strm) (p : Polder) (d : StreamDesc) : (x.ringed p d).run = x.run := by
  unfold Strm.ringed
  split_ifs <;> rfl

/-- A core with a stream that a descriptor has taken effect on. -/
def CoreSt.armed (c : CoreSt) (j tag : Nat) (d : StreamDesc) (f : Strm → Strm) : CoreSt :=
  (c.ringed j tag d).setStrm j (f ((c.strm j).ringed (c.polder d.dstHandle) d))

section
variable (c : CoreSt) (j tag : Nat) (d : StreamDesc) (f : Strm → Strm)

theorem CoreSt.armed_slot (i : Nat) : (c.armed j tag d f).slot i = c.slot i := c.ringed_slot ..
theorem CoreSt.armed_spm : (c.armed j tag d f).spm = c.spm := c.ringed_spm ..
theorem CoreSt.armed_strm : (c.armed j tag d f).strm j = f ((c.strm j).ringed (c.polder d.dstHandle) d) := CoreSt.strm_setStrm_self ..

end

section
variable {s : State} {core j tag : Nat} {d : StreamDesc} {index : Nat}

/-- A descriptor that does not validate faults its context, and the stream shows the status. -/
theorem State.startRun_refused {st : Status} (h : s.streamFault core j tag d = some st) : s.startRun core j tag d index =
    (s.setCore core ((s.core core).setStrm j { (s.core core).strm j with status := st.code, run := none, held := none })).faultTag tag st := by
  unfold State.startRun
  rw [h]

/-- A descriptor of no elements completes at once (R211). -/
theorem State.startRun_empty (h : s.streamFault core j tag d = none) (h0 : d.total = 0) : s.startRun core j tag d index =
    (s.setCore core ((s.core core).armed j tag d fun x => { x with status := 0 })).streamArrive core tag d := by
  unfold State.startRun
  rw [h]
  dsimp only
  rw [if_pos h0]
  rfl

/-- Any other starts a run with nothing issued (R208). -/
theorem State.startRun_starts (h : s.streamFault core j tag d = none) (h0 : d.total ≠ 0) : ∃ r : Run,
    s.startRun core j tag d index = s.setCore core ((s.core core).armed j tag d fun x => { x with run := some r }) ∧
      r.desc = d ∧ r.total = d.blocks ∧ r.issued = 0 ∧ r.written = 0 ∧ r.flight = [] := by
  unfold State.startRun
  rw [h]
  dsimp only
  rw [if_neg h0]
  exact ⟨_, rfl, rfl, rfl, rfl, rfl, rfl⟩

end

/-- A count of zero in a dimension in use leaves nothing to move. -/
theorem StreamDesc.total_eq_zero {d : StreamDesc} {k : Nat} (hk : k < d.dims) (h5 : k < 5) (h0 : d.counts.getD k 0 = 0) : d.total = 0 := by
  have zero : d.count k = 0 := by rw [StreamDesc.count, if_pos hk, h0]
  unfold StreamDesc.total
  interval_cases k <;> simp [zero]

/-! ### Arrivals -/

theorem State.streamArrive_talk (s : State) (core tag : Nat) (d : StreamDesc) : s.Talk faultRegs (s.streamArrive core tag d) := by
  unfold State.streamArrive
  split
  · exact s.sendNamed_talk ..
  · exact .refl s

theorem State.streamArrive_account (s : State) (core tag : Nat) (d : StreamDesc) : s.Steady CtxSt.account (s.streamArrive core tag d) := by
  unfold State.streamArrive
  split
  · exact s.sendNamed_account ..
  · exact .refl s

/-- This chip goes by the same names where its plan's register reads the same. -/
theorem State.isHere_of_reg {s t : State} (h : t.reg .topoPlanStatus = s.reg .topoPlanStatus) (n : Nat) : t.isHere n = s.isHere n := by
  unfold State.isHere State.flag State.getF
  rw [show t.reg F.topoPlanStatusLoaded.reg = s.reg F.topoPlanStatusLoaded.reg from h, show t.reg F.topoPlanStatusChip.reg = s.reg F.topoPlanStatusChip.reg from h]

theorem State.self_of_reg {s t : State} (h : t.reg .topoPlanStatus = s.reg .topoPlanStatus) : t.self = s.self := by
  unfold State.self State.flag State.getF
  rw [show t.reg F.topoPlanStatusLoaded.reg = s.reg F.topoPlanStatusLoaded.reg from h, show t.reg F.topoPlanStatusChip.reg = s.reg F.topoPlanStatusChip.reg from h]

theorem State.step1_account (s : State) (core i n : Nat) : s.Steady CtxSt.account (s.step1 core i n) := (s.setCore_steady ..).trans (.setCtx _ _ _)

theorem State.step1_strm (s : State) (core i n j : Nat) : ((s.step1 core i n).core core).strm j = (s.core core).strm j := by
  rw [State.step1_core]
  rfl

/-- Settles O54: the ARM has its descriptor take effect (`exec_streamArm_reads`), which completes at once (`State.startRun_empty`). -/
theorem zeroCountStreamCompletes : Obligations.ZeroCountStreamCompletes := by
  unfold Obligations.ZeroCountStreamCompletes
  intro s u y core i sl w v bs h j a off p x ix d hv ho hcode hin hbound hown hrun hread hme hvu hfault hzero
  obtain ⟨k, hk, h5, h0⟩ := hzero
  have idle : ¬ x.run.isSome = true := by rw [hrun]; exact Bool.false_ne_true
  have ex : exec (.streamArm core) s = .next (if x.run.isSome then _ else (y.step1 core i 1).startRun core j sl.tag d (off / 128)) :=
    exec_streamArm_reads h hv ho hcode hin hbound hown hread hme hvu (.inl hrun)
  rw [if_neg idle, State.startRun_empty hfault (StreamDesc.total_eq_zero hk h5 h0)] at ex
  have read : u.Fetches core y := (u.spmRead_fetches ..).of_eq hread
  generalize hz : State.setCore _ _ _ = z at ex
  have own : z.core core = ((y.step1 core i 1).core core).armed j sl.tag d fun x => { x with status := 0 } := hz ▸ State.core_setCore_self ..
  have plan : z.reg .topoPlanStatus = u.reg .topoPlanStatus := hz ▸ read.regs _ (by decide)
  have out : z.out = u.out := hz ▸ read.out
  have ports : z.ports = u.ports := hz ▸ read.ports
  have hbm : z.hbm = u.hbm := hz ▸ read.hbm
  have hash : z.hashBusy = u.hashBusy := hz ▸ read.hashBusy
  have account : u.Steady CtxSt.account z := hz ▸ ((State.Steady.of_ctxs read.ctxs).trans (y.step1_account core i 1)).trans (State.setCore_steady ..)
  have talk := z.streamArrive_talk core sl.tag d
  have own' := (talk.core core).trans own
  refine ⟨_, ex, ?run, ?status, ?slot, ?spm, by rw [talk.rest, ← hbm], by rw [talk.rest, ← hash], ?digests, ?quiet, ?here, ?away⟩
  case run => rw [own', CoreSt.armed_strm]; exact (Strm.ringed_run ..).trans (by rw [State.step1_strm, read.strm]; exact hrun)
  case status => rw [own', CoreSt.armed_strm]
  case slot => rw [own', CoreSt.armed_slot, State.step1_slot, read.slot, h.slot]
  case spm => rw [own', CoreSt.armed_spm, State.step1_spm, read.spm]
  case digests =>
    intro c v hinv
    obtain ⟨v', hv', same⟩ := (account.trans (z.streamArrive_account ..)).account_inv hinv
    exact ⟨v', hv', (congrArg Invoke.digests same :)⟩
  case quiet => intro hno; rw [State.streamArrive, if_neg (ne_true_of_eq_false hno), out]
  case here =>
    intro harr hhere
    rw [State.streamArrive, if_pos harr, State.sendNamed_here _ ((State.isHere_of_reg plan _).trans hhere), State.emit_out, out, State.message, State.message,
      State.self_of_reg plan]
  case away => exact fun harr _ => ⟨z, out, ports, by rw [State.streamArrive, if_pos harr]⟩

end Sys2Proof.Machine

/-! PROOFS. O23: blocks of a stream issued (R205, R212, R214, R217, R466). Reading a source on this chip leaves the streams as they were (`State.readBlock_here`), asking
other chips leaves cores and device memory (`State.askRuns_memories`); so what `State.fillBlock_reads` says becomes of a block is what its run gets. -/

namespace Sys2Proof.Machine

/-! ### A unit's step, and the buffer of the collector (R110) -/

theorem State.unlessFull_room {s t : State} {i : Nat} (h : s.overfills i t = false) : s.unlessFull i t = t := by
  rw [State.unlessFull, h]
  rfl

/-- Nothing done overfills nothing. -/
theorem State.unlessFull_self (s : State) (i : Nat) : s.unlessFull i s = s := by
  refine State.unlessFull_room ?_
  unfold State.overfills
  simp

/-! ### Sources read -/

section
variable {core : Nat}

theorem State.slotBody_fetches (s : State) (h slot : Nat) (trail : Option Nat) : s.Fetches core (s.slotBody core h slot trail).2 := by
  unfold State.slotBody
  dsimp only
  split
  · split
    next e => exact (s.spmRead_fetches ..).of_eq e
    next e =>
      have first := (s.spmRead_fetches ..).of_eq e
      split
      next e => exact first.trans ((State.spmRead_fetches ..).of_eq e)
      next e => exact first.trans ((State.spmRead_fetches ..).of_eq e)
  · split
    next e => exact (s.spmRead_fetches ..).of_eq e
    next e => exact (s.spmRead_fetches ..).of_eq e

/-- A scratchpad or device memory is read on this chip, and its streams stay. -/
theorem State.readSide_local (s : State) (t : Translator) (tag : Nat) {kind : Nat} (h a len : Nat) (u : Units) (win : Bool) (hk : kind = 0 ∨ kind = 1) :
    ∃ f, s.readSide t core tag kind h a len u win = some f ∧ (f.2.core core).strms = (s.core core).strms := by
  unfold State.readSide
  rcases hk with rfl | rfl
  · refine ⟨_, if_pos rfl, ?_⟩
    split
    · rfl
    split
    · rfl
    split
    next e => exact ((s.spmRead_fetches ..).of_eq e).strms core
    next e => exact ((s.spmRead_fetches ..).of_eq e).strms core
  · exact ⟨_, (if_neg Nat.one_ne_zero).trans (if_pos rfl), congrArg CoreSt.strms (State.core_of_cores (s.readVa_cores ..) core)⟩

/-- What reading a source came to asks other chips for nothing, and has left the streams of the core. -/
def State.ReadsHere (s : State) (core : Nat) (x : Sourced × State) : Prop := x.1.remote = [] ∧ (x.2.core core).strms = (s.core core).strms

/-- A block whose source other chips do not hold is read on this chip (R207). -/
theorem State.readBlock_here (s : State) (t : Translator) (tag : Nat) {d : StreamDesc} (b : Nat) (known : Bytes) (win : Bool := false) (hk : d.srcKind ≠ 2) :
    s.ReadsHere core (s.readBlock t core tag d b known win) := by
  have h4 : d.srcKind < 4 := bits_lt ..
  unfold State.readBlock
  extract_lets len give p slot payload a runs
  have hgive : ∀ (f : Fetched × State) (k : Bytes → State → Sourced × State), (f.2.core core).strms = (s.core core).strms →
      (∀ bs v, (v.core core).strms = (s.core core).strms → s.ReadsHere core (k bs v)) → s.ReadsHere core (give f k) := by
    rintro ⟨got, v⟩ k kept hk
    cases got with
    | data bs => exact hk bs v kept
    | failed st => exact ⟨rfl, kept⟩
    | wait => exact ⟨rfl, kept⟩
  clear_value give
  split
  · exact ⟨rfl, rfl⟩
  next h3 =>
  split
  next =>
    split
    next =>
      split
      · exact ⟨rfl, rfl⟩
      split
      next e => exact ⟨rfl, ((s.slotBody_fetches ..).of_eq e).strms core⟩
      next e =>
        have kept := ((s.slotBody_fetches ..).of_eq e).strms core
        split
        · exact ⟨rfl, kept⟩
        · exact ⟨rfl, kept⟩
    next h0 =>
      have near : d.srcKind = 0 ∨ d.srcKind = 1 := by omega
      have hpayload : ∀ g v, (State.core v core).strms = (s.core core).strms → s.ReadsHere core (payload g v) := by
        intro g v kept
        show s.ReadsHere core (ite _ _ _)
        split
        · exact ⟨rfl, kept⟩
        obtain ⟨f, hf, hstrms⟩ := v.readSide_local (core := core) t tag 0 (d.srcAt b) (storedLen g) (.unit 0) win near
        rw [hf]
        exact hgive _ _ (hstrms.trans kept) fun _ _ kept => ⟨rfl, kept⟩
      split
      · exact hpayload _ _ rfl
      obtain ⟨f, hf, hstrms⟩ := s.readSide_local (core := core) t tag 0 a 64 (.unit 0) win near
      rw [hf]
      exact hgive _ _ hstrms hpayload
  next =>
    have near : d.srcKind = 0 ∨ d.srcKind = 1 := by omega
    refine List.foldlRecOn (motive := s.ReadsHere core) _ _ ⟨rfl, rfl⟩ fun acc ih q _ => ?_
    obtain ⟨none, kept⟩ := ih
    split
    next => exact ⟨none, kept⟩
    obtain ⟨f, hf, hstrms⟩ := acc.2.readSide_local (core := core) t tag d.srcHandle q.1 q.2 .sectors win near
    rw [hf]
    exact hgive _ _ (hstrms.trans kept) fun _ _ kept => ⟨none, kept⟩

end

/-! ### Other chips asked -/

theorem State.memories_of_eq {α : Type} {s t : State} {x : α × State} {a : α} (h : x.2.memories = s.memories) (e : x = (a, t)) : t.memories = s.memories := by
  subst e; exact h

theorem State.request_memories (s : State) (type tag a size srcUnit deadline : Nat) (service : Bool) (body : Bytes) (who : Requester) (piece : Nat) (again : Bool)
    (u : Units) : (s.request type tag a size srcUnit deadline service body who piece again u).2.memories = s.memories := by
  unfold State.request
  dsimp only
  split
  next e => exact State.memories_of_eq (s.launch_talk _).memories e
  next e => exact (State.memories_of_eq (s.launch_talk _).memories e :)

theorem State.askRuns_memories (s : State) (core tag deadline : Nat) (service : Bool) (who : Requester) (u : Units) (runs : List (Nat × Nat × Nat)) :
    (s.askRuns core tag deadline service who u runs).2.2.memories = s.memories := by
  unfold State.askRuns
  refine List.foldlRecOn (motive := fun acc : Nat × Option Status × State => acc.2.2.memories = s.memories) _ _ rfl fun acc ih q _ => ?_
  refine List.foldlRecOn (motive := fun acc : Nat × Option Status × State => acc.2.2.memories = s.memories) _ _ ih fun acc ih p _ => ?_
  split
  · exact ih
  split
  next e => exact (State.memories_of_eq (State.request_memories ..) e).trans ih
  next e => exact (State.memories_of_eq (State.request_memories ..) e).trans ih

/-! ### A block's reads go out -/

/-- A block and the state once its source has been read as `src`, with the state `u` left: it holds what the source gave, and waits for nothing where other chips
were asked for nothing (R207, R212). -/
structure Sourced.Fills (src : Sourced) (u : State) (b : StrmBlock) (x : StrmBlock × State) : Prop where
  index : x.1.index = b.index
  asked : x.1.asked = true
  data : x.1.data = src.data
  tag : x.1.tag = src.tag
  memories : x.2.memories = u.memories
  here : src.remote = [] → x.1.status = src.status ∧ (b.waiting = 0 → x.1.waiting = 0)

theorem State.fillBlock_fills {s u : State} {core j tag : Nat} {d : StreamDesc} {b : StrmBlock} {src : Sourced}
    (h : s.readBlock (seOf core) core tag d b.index b.tag = (src, u)) (hl : src.later = false) : src.Fills u b (s.fillBlock core j tag d b) := by
  unfold State.fillBlock
  rw [h]
  dsimp only
  rw [if_neg (ne_true_of_eq_false hl)]
  split
  next => exact ⟨rfl, rfl, rfl, rfl, rfl, fun _ => ⟨rfl, id⟩⟩
  next good =>
    have ok : src.status = .ok := by simpa using good
    refine ⟨rfl, rfl, rfl, rfl, State.askRuns_memories .., fun none => ?_⟩
    rw [none, ok]
    exact ⟨rfl, fun _ => rfl⟩

/-! ### STREAM_BLOCK_ISSUE -/

/-- A ring's credit is spent on a block issued in the writing pass (R214). -/
def State.spend (s : State) (core strm : Nat) (r : Run) : State :=
  let y := (s.core core).strm strm
  if r.pass = 1 ∧ r.desc.isRing then s.setCore core ((s.core core).setStrm strm { y with credit := y.credit - 1, nextSlot := (y.nextSlot + 1) % max 1 y.ringSlots })
  else s

theorem State.spend_keeps (s : State) (core strm : Nat) (r : Run) :
    let t := s.spend core strm r
    ((t.core core).strm strm).run = ((s.core core).strm strm).run ∧ (t.core core).spm = (s.core core).spm ∧ t.hbm = s.hbm := by
  unfold State.spend
  dsimp only
  split
  · rw [State.core_setCore_self, CoreSt.strm_setStrm_self]
    exact ⟨rfl, rfl, rfl⟩
  · exact ⟨rfl, rfl, rfl⟩

/-- The next block of a run, nothing of it read. -/
def State.nextBlock (s : State) (c : CoreSt) (x : Strm) (r : Run) : StrmBlock :=
  { index := r.issued, slot := x.nextSlot, data := [], tag := [], plain := [], status := .ok, waiting := 0, deadline := s.blockDeadline c x r.desc, asked := false,
    again := false }

section
variable {s u1 : State} {core strm : Nat} {r : Run}

/-- With room, its phase and its hash engine a run issues its next block, once the reads of it have gone out. -/
theorem State.issueBlock_issues
    (hgoes : ¬ (s.phaseHold = true ∨ (!s.live ((s.core core).strm strm).owner) = true ∨ r.status ≠ .ok ∨ (!r.loaded) = true ∨ (!(s.core core).moving) = true))
    (hroom : ¬ (s.passBlocks ((s.core core).strm strm).owner r ≤ r.issued ∨ 16 ≤ ((s.core core).strm strm).inFlight ∨
      64 ≤ (s.core core).strms.foldl (fun n p => n + p.2.inFlight) 0))
    (hcredit : ¬ (r.pass = 1 ∧ r.desc.isRing = true ∧ ((s.core core).strm strm).credit = 0))
    (hhash : (if r.desc.digest && r.pass == 1 then s.takeHash core strm (tagIndex ((s.core core).strm strm).owner) else (true, s)) = (true, u1))
    {x : StrmBlock × State}
    (hfill : u1.fillBlock core strm ((s.core core).strm strm).owner r.desc (u1.nextBlock (s.core core) ((s.core core).strm strm) r) = x) (hasked : x.1.asked = true) :
    s.issueBlock core strm r = (x.2.setRun core strm { r with issued := r.issued + 1, flight := r.flight ++ [x.1] }).spend core strm r := by
  unfold State.issueBlock
  dsimp only
  rw [if_neg hgoes, if_neg hroom, if_neg hcredit, hhash]
  unfold State.nextBlock at hfill
  dsimp only
  rw [if_neg (by decide), hfill]
  obtain ⟨b, v⟩ := x
  dsimp only at hasked ⊢
  rw [if_neg (by simp [hasked])]
  rfl

end

section
variable {s : State} {core : CoreId} {strm : StreamId} {r : Run}

/-- With no block in flight that needs its reads, the command is the next block. -/
theorem exec_streamBlockIssue_next (hrun : ((s.core core).strm strm).run = some r) (hrst : (s.core core).rst = 0) (hnone : r.flight.find? (fun b => !b.asked) = none) :
    exec (.streamBlockIssue core strm) s = .next (s.unlessFull (tagIndex ((s.core core).strm strm).owner) (s.issueBlock core strm r)) := by
  show execStreamBlockIssue core strm s = _
  unfold execStreamBlockIssue
  dsimp only
  rw [hrun]
  dsimp only
  rw [if_neg (not_not.2 hrst), hnone]

/-- A block in flight that needs its reads has them issued. -/
theorem exec_streamBlockIssue_again {b : StrmBlock} (hrun : ((s.core core).strm strm).run = some r) (hrst : (s.core core).rst = 0)
    (hb : r.flight.find? (fun b => !b.asked) = some b) :
    let f := s.fillBlock core strm ((s.core core).strm strm).owner r.desc b
    exec (.streamBlockIssue core strm) s = .next (s.unlessFull (tagIndex ((s.core core).strm strm).owner) (f.2.setBlock core strm f.1)) := by
  show execStreamBlockIssue core strm s = _
  unfold execStreamBlockIssue
  dsimp only
  rw [hrun]
  dsimp only
  rw [if_neg (not_not.2 hrst), hb]

/-- While the weir throttles phases no next block goes out (R466). -/
theorem exec_streamBlockIssue_held (hhold : s.phaseHold = true)
    (hnone : ∀ r, ((s.core core).strm strm).run = some r → r.flight.find? (fun b => !b.asked) = none) : exec (.streamBlockIssue core strm) s = .next s := by
  show execStreamBlockIssue core strm s = _
  unfold execStreamBlockIssue
  dsimp only
  split
  next => rfl
  next r hrun =>
    have still : s.issueBlock core strm r = s := by
      unfold State.issueBlock
      dsimp only
      exact if_pos (.inl hhold)
    split
    · rfl
    rw [hnone r hrun, still]
    exact congrArg Host.Outcome.next (s.unlessFull_self _)

end

end Sys2Proof.Machine

/-! PROOFS. O23: runs of a stream end (R216 to R220), and with them its arming and its blocks. What ending a run does to its stream (`State.stopRun_ends`) stands through
what comes after it, as messages leave the streams and the FREEs that waited take at most their rings (`State.Handles.strm`); and the status a context has faulted
with stands through the faults those FREEs may bring, none of which is lasting (`State.resumeFrees_shows`, R105). -/

namespace Sys2Proof.Machine

/-! ### Streams while polders are freed -/

theorem CoreSt.strm_unringed (c : CoreSt) (j : Nat) : Table.get c.unringed Strm.free j = { c.strm j with ring := none } := by
  unfold CoreSt.unringed CoreSt.strm
  induction c.strms with
  | nil => rfl
  | cons p l ih =>
    rw [List.map_cons]
    unfold Table.get
    split
    · rfl
    · exact ih

/-- An operation on handles leaves a stream as it was but for its ring. -/
theorem State.Handles.strm {core : Nat} {s t : State} (h : s.Handles core t) (j : Nat) :
    ((t.core core).strm j).run = ((s.core core).strm j).run ∧ ((t.core core).strm j).status = ((s.core core).strm j).status := by
  have same : ({ (t.core core).strm j with ring := none } : Strm) = { (s.core core).strm j with ring := none } := by
    rw [← CoreSt.strm_unringed, ← CoreSt.strm_unringed, h.streams]
  exact ⟨(congrArg Strm.run same :), (congrArg Strm.status same :)⟩

theorem State.resumeFrees_winds (s : State) (core : Nat) : s.Winds (s.resumeFrees core) := by
  unfold State.resumeFrees
  refine .foldl (fun t m => ?_) _ s
  split
  · exact .refl t
  · exact t.freePolder_winds ..

/-! ### A fault that stands -/

/-- A context shows that it has faulted with a status. -/
def State.shows (s : State) (i : Nat) (st : Status) : Prop := s.ctxState i = 2 ∧ s.getF F.cxsCtxStateStatus i = st.code

section
variable {s : State} {i : Nat} {st late : Status}

theorem State.shows_of_reg {t : State} (h : t.reg .cxsCtxState i = s.reg .cxsCtxState i) (k : s.shows i st) : t.shows i st := by
  unfold State.shows State.ctxState State.getF at *
  rw [show t.reg F.cxsCtxStateState.reg i = s.reg F.cxsCtxStateState.reg i from h, show t.reg F.cxsCtxStateStatus.reg i = s.reg F.cxsCtxStateStatus.reg i from h]
  exact k

theorem State.shows_key {j : Nat} (h : Reg.cxsCtxState.key j = Reg.cxsCtxState.key i) (k : s.shows i st) : s.shows j st := by
  unfold State.shows State.ctxState State.getF State.reg at *
  rw [show F.cxsCtxStateState.reg.key j = F.cxsCtxStateState.reg.key i from h, show F.cxsCtxStateStatus.reg.key j = F.cxsCtxStateStatus.reg.key i from h]
  exact k

/-- A later status that is not lasting replaces none (R105). -/
theorem standing_kept (h : late.isLasting = false) : standing (some st) late = st := by
  unfold standing
  simp [h]

theorem State.faultWith_shows (hlate : late.isLasting = false) (k : s.shows i st) (inv : Status) (d : Nat) : (s.faultWith i late inv d).shows i st := by
  obtain ⟨e, ke, ⟨h1, -⟩ | ⟨-, h⟩ | ⟨-, o, ho, h⟩⟩ := s.faultWith_cases i late inv d
  · exact absurd (k.1.symm.trans h1) (by decide)
  · rw [h]
    exact ke.faulted k
  · obtain ⟨hs, hc⟩ := ke.faulted k
    rw [hc, Status.ofCode_code] at ho
    cases ho
    rw [h, standing_kept hlate]
    refine ⟨(State.getF_setF_bits _ _ _ _ (by decide) (by decide)).trans hs, (State.getF_setF_self ..).trans ?_⟩
    cases st <;> rfl

/-- What a context shows stands when a tag's context, it or another, faults with a status that is not lasting. -/
theorem State.faultTag_shows (hlate : late.isLasting = false) (k : s.shows i st) (tag : Nat) : (s.faultTag tag late).shows i st := by
  unfold State.faultTag
  dsimp only
  split
  · by_cases h : Reg.cxsCtxState.key i = Reg.cxsCtxState.key (tagIndex tag)
    · exact State.shows_key h (State.faultWith_shows hlate (State.shows_key h.symm k) ..)
    · exact State.shows_of_reg (s.faultWith_elsewhere _ _ _ h) k
  · split
    · exact (s.endInvoke_talk ..).faulted k
    · exact k

theorem State.sendNamed_shows (k : s.shows i st) (dstChip dstCore type tag srcCore gen arg : Nat) (payload : Bytes := []) :
    (s.sendNamed dstChip dstCore type tag srcCore gen arg payload).shows i st := by
  have sent := (s.send_talk dstChip dstCore type tag srcCore gen arg payload).faulted k
  unfold State.sendNamed
  dsimp only
  split
  · exact State.faultTag_shows rfl sent tag
  · exact sent

theorem State.release_shows (k : s.shows i st) (core h : Nat) : (s.release core h).shows i st := by
  cases hv : ((s.core core).polder h).valid
  · rw [State.release_invalid hv]
    exact k
  · rw [State.release_valid hv]
    exact List.foldlRecOn (motive := fun t => State.shows t i st) _ _ k fun t ht m _ => State.sendNamed_shows ht ..

theorem State.setCore_shows (k : s.shows i st) (core : Nat) (c : CoreSt) : (s.setCore core c).shows i st := k

/-- A sluice that neither is open nor closes is freed at once. -/
theorem State.freePolder_closed {core h : Nat} (hv : ((s.core core).polder h).valid = true) (h1 : ((s.core core).polder h).sluiceState ≠ 1)
    (h2 : ((s.core core).polder h).sluiceState ≠ 2) : s.freePolder core h = s.release core h := by
  unfold State.freePolder
  simp [hv, h1, h2]

theorem State.freePolder_shows (k : s.shows i st) (core h : Nat) : (s.freePolder core h).shows i st := by
  cases hv : ((s.core core).polder h).valid
  · rw [State.freePolder_invalid hv]
    exact k
  cases hs : ((s.core core).polder h).sluice
  · rw [State.freePolder_plain hs]
    exact State.release_shows k ..
  by_cases h1 : ((s.core core).polder h).sluiceState = 1
  · have sent := State.sendNamed_shows (State.setCore_shows k core ((s.core core).closing h s.time)) ((s.core core).polder h).peerChip
      ((s.core core).polder h).peerCore 0x05 ((s.core core).polder h).owner core ((s.core core).polder h).gen ((s.core core).polder h).peerCredit (sluicePayload h)
    rw [State.freePolder_open hv hs h1]
    split
    · exact State.release_shows sent ..
    · exact sent
  by_cases h2 : ((s.core core).polder h).sluiceState = 2
  · rw [State.freePolder_closes hs h2]
    exact k
  · rw [State.freePolder_closed hv h1 h2]
    exact State.release_shows k ..

theorem State.resumeFrees_shows (k : s.shows i st) (core : Nat) : (s.resumeFrees core).shows i st := by
  refine List.foldlRecOn (motive := fun t => State.shows t i st) _ _ k fun t ht m _ => ?_
  split
  · exact ht
  · exact State.freePolder_shows ht ..

end

/-! ### A run is stopped -/

/-- A tensor whose run is digested gets the digest of the bytes it was fed (R112, R217). -/
theorem State.runDigest_digests {s : State} {tag : Nat} {r : Run} {v : Invoke} (hv : (s.ctx (tagIndex tag)).inv = some v) (ht : v.desc.ctxTag = tag)
    (hd : r.desc.digest = true) (hp : r.pass ≠ 0) : ((s.runDigest tag r).ctx (tagIndex tag)).inv =
      some { v with digests := v.digests.put r.desc.digestIndex (shake256 (natLe 8 r.digest.length ++ r.digest)) } := by
  unfold State.runDigest
  dsimp only
  rw [if_neg (by simp [hd, hp]), hv]
  dsimp only
  rw [if_neg (by simp [ht]), State.ctx_setCtx_self]

/-- A stream whose run is stopped shows the status and holds nothing; besides, the tensor of the run is digested, and registers and memories stay. -/
theorem State.stopRun_ends {s : State} {core j : Nat} {r : Run} (hr : ((s.core core).strm j).run = some r) (st : Status) :
    let t := s.stopRun core j st
    ((t.core core).strm j).run = none ∧ ((t.core core).strm j).status = st.code ∧ (t.core core).spm = (s.core core).spm ∧ t.hbm = s.hbm ∧
      (∀ q, t.reg q = s.reg q) ∧ t.ctxs = (s.runDigest ((s.core core).strm j).owner r).ctxs := by
  have talk : s.Talk [] (s.runDigest ((s.core core).strm j).owner r) := s.runDigest_talk ..
  unfold State.stopRun
  dsimp only
  rw [hr]
  dsimp only
  generalize s.runDigest ((s.core core).strm j).owner r = x at talk
  rw [State.core_setCore_self, CoreSt.strm_setStrm_self]
  refine ⟨rfl, rfl, (congrArg CoreSt.spm (talk.core core) :), (congrArg State.hbm talk.rest :), fun q => funext fun i => ?_, rfl⟩
  exact talk.regs q List.not_mem_nil i

/-! ### STREAM_RUN_END -/

/-- An event of an INVOKE changes its summary alone. -/
theorem State.gauge_inv {s : State} {i : Nat} {v : Invoke} (hv : (s.ctx i).inv = some v) (g : Gauge) :
    ∃ tally, ((s.gauge i g).ctx i).inv = some { v with tally := tally } := by
  unfold State.gauge
  dsimp only
  rw [if_neg Bool.false_ne_true, hv]
  dsimp only
  rw [State.ctx_setCtx_self]
  exact ⟨_, rfl⟩

/-- The record of a stream's event is all that it leaves. -/
theorem State.streamEvent_talk (s : State) (core : Nat) (r : Run) (tag count : Nat) (lasting : Option Status) :
    s.Talk talkRegs (s.streamEvent core r tag count lasting) := by
  unfold State.streamEvent
  exact s.gauge_talk ..

theorem State.streamEvent_inv {s : State} {tag : Nat} {v : Invoke} (hv : (s.ctx (tagIndex tag)).inv = some v) (core : Nat) (r : Run) (count : Nat)
    (lasting : Option Status) : ∃ tally, ((s.streamEvent core r tag count lasting).ctx (tagIndex tag)).inv = some { v with tally := tally } := by
  unfold State.streamEvent
  exact State.gauge_inv hv _

section
variable {s u : State} {core strm : Nat} {r : Run}

/-- A run that has written all and been acknowledged ends OK once its CRC is written, arrives, and lets FREEs go on (R216 to R219). -/
theorem State.runEnd_done (hok : r.status = .ok) (hlive : s.live ((s.core core).strm strm).owner = true) (hheld : ((s.core core).strm strm).held = none)
    (hpass : r.pass ≠ 0) (hall : r.total ≤ r.written) (hflight : r.flight = []) (hacks : r.acks = [])
    (hcrc : s.writeCrc core ((s.core core).strm strm).owner r = (.ok, u)) : s.runEnd core strm r =
      (((u.streamEvent core r ((s.core core).strm strm).owner r.unsaid none).stopRun core strm .ok).streamArrive core
        ((s.core core).strm strm).owner r.desc).resumeFrees core := by
  unfold State.runEnd
  dsimp only
  rw [if_neg (not_not.2 hok), if_neg (by simp [hlive]), if_neg (by simp [hpass, hflight, hacks]; omega), hcrc]
  dsimp only
  rw [hheld]

/-- A failed run whose requests are answered ends with its status, after at most an event, and its context faults (R216). -/
theorem State.runEnd_failed (hbad : r.status ≠ .ok) (hflight : r.flight = []) (hasks : s.strmAsks core strm = false) : ∃ e : State, s.Talk talkRegs e ∧
    s.runEnd core strm r = ((e.stopRun core strm r.status).faultTag ((s.core core).strm strm).owner r.status).resumeFrees core := by
  unfold State.runEnd
  dsimp only
  rw [if_pos hbad, if_neg (by simp [hflight, hasks])]
  refine ⟨_, ?_, rfl⟩
  split
  · exact s.streamEvent_talk ..
  · unfold State.earlyEvent
    split
    · exact .refl s
    · exact s.streamEvent_talk ..

/-- Till its requests to other chips are answered a failed run stands. -/
theorem State.runEnd_asks (hbad : r.status ≠ .ok) (hasks : s.strmAsks core strm = true) : s.runEnd core strm r = s := by
  unfold State.runEnd
  dsimp only
  rw [if_pos hbad, if_pos (by simp [hasks])]

end

theorem exec_streamRunEnd_front {s : State} {core : CoreId} {strm : StreamId} {r : Run} (hrun : ((s.core core).strm strm).run = some r) :
    exec (.streamRunEnd core strm) s = .next (s.unlessFull (tagIndex ((s.core core).strm strm).owner) (s.runEnd core strm r)) := by
  show execStreamRunEnd core strm s = _
  unfold execStreamRunEnd
  rw [hrun]

/-- A run that has done its writes has ended, with OK and its digest, once what follows its CRC is done. -/
theorem State.runEnd_done_ends {u : State} {core strm tag : Nat} {r : Run} (hrun : ((u.core core).strm strm).run = some r)
    (hown : ((u.core core).strm strm).owner = tag) :
    let t := (((u.streamEvent core r tag r.unsaid none).stopRun core strm .ok).streamArrive core tag r.desc).resumeFrees core
    ((t.core core).strm strm).run = none ∧ ((t.core core).strm strm).status = 0 ∧ (t.core core).spm = (u.core core).spm ∧ t.hbm = u.hbm ∧
      (r.desc.digest = true → r.pass ≠ 0 → ∀ v, (u.ctx (tagIndex tag)).inv = some v → v.desc.ctxTag = tag → ∃ v', (t.ctx (tagIndex tag)).inv = some v' ∧
        v'.digests.find r.desc.digestIndex = some (shake256 (natLe 8 r.digest.length ++ r.digest))) := by
  have said : u.Talk talkRegs (u.streamEvent core r tag r.unsaid none) := u.streamEvent_talk ..
  have event : ∀ v, (u.ctx (tagIndex tag)).inv = some v →
      ∃ tally, ((u.streamEvent core r tag r.unsaid none).ctx (tagIndex tag)).inv = some { v with tally := tally } := fun v hv => State.streamEvent_inv hv ..
  generalize u.streamEvent core r tag r.unsaid none = x at said event
  have same : x.core core = u.core core := said.core core
  obtain ⟨run, status, spm, hbm, -, ctxs⟩ := State.stopRun_ends (by rw [same]; exact hrun) .ok
  rw [same, hown] at ctxs
  have arrived := (x.stopRun core strm .ok).streamArrive_talk core tag r.desc
  have freed := ((x.stopRun core strm .ok).streamArrive core tag r.desc).resumeFrees_handles core
  obtain ⟨run', status'⟩ := freed.strm strm
  rw [arrived.core] at run' status'
  refine ⟨run'.trans run, status'.trans status, ?_, ?_, fun hd hp v hv ht => ?_⟩
  · rw [freed.spm, arrived.core, spm, same]
  · have arrive : ((x.stopRun core strm .ok).streamArrive core tag r.desc).hbm = (x.stopRun core strm .ok).hbm := (congrArg State.hbm arrived.rest :)
    have event : x.hbm = u.hbm := (congrArg State.hbm said.rest :)
    rw [freed.hbm, arrive, hbm, event]
  · obtain ⟨tally, hx⟩ := event v hv
    have account : (x.runDigest tag r).Steady CtxSt.account _ :=
      ((State.Steady.of_ctxs ctxs).trans ((x.stopRun core strm .ok).streamArrive_account core tag r.desc)).trans (State.resumeFrees_winds _ core).account
    obtain ⟨v', hv', kept⟩ := account.account_inv (State.runDigest_digests hx ht hd hp)
    refine ⟨v', hv', ?_⟩
    have digests : v'.digests = v.digests.put r.desc.digestIndex (shake256 (natLe 8 r.digest.length ++ r.digest)) := (congrArg Invoke.digests kept :)
    rw [digests]
    exact Table.find_put_self ..

/-- A failed run has ended with its status, and its context has faulted, once the FREEs that waited for it are done. -/
theorem State.runEnd_failed_ends {s : State} {core strm : Nat} {r : Run} (hrun : ((s.core core).strm strm).run = some r) (hbad : r.status ≠ .ok)
    (hflight : r.flight = []) (hasks : s.strmAsks core strm = false) : let t := s.runEnd core strm r
    ((t.core core).strm strm).run = none ∧ ((t.core core).strm strm).status = r.status.code ∧ s.faults t ((s.core core).strm strm).owner r.status ∧
      (t.core core).spm = (s.core core).spm := by
  obtain ⟨e, talk, hend⟩ := State.runEnd_failed hbad hflight hasks
  rw [hend]
  obtain ⟨run, status, spm, -, regs, -⟩ := State.stopRun_ends (by rw [talk.core]; exact hrun) r.status
  generalize e.stopRun core strm r.status = x at run status spm regs
  generalize ((s.core core).strm strm).owner = tag
  have fault := x.faultTag_talk tag r.status
  have freed := (x.faultTag tag r.status).resumeFrees_handles core
  obtain ⟨run', status'⟩ := freed.strm strm
  rw [fault.core] at run' status'
  refine ⟨run'.trans run, status'.trans status, fun hs ht => ?_, by rw [freed.spm, fault.core, spm, talk.core]⟩
  have active : e.ctxState (tagIndex tag) = 1 := (talk.ctxState _).trans hs
  have owned : e.tag (tagIndex tag) = tag := (talk.faulting.tag _).trans ht
  exact State.resumeFrees_shows (State.faults_before (regs _) (regs _) (x.faultTag_faults _ _) active owned) core

end Sys2Proof.Machine

/-! PROOFS. O23: an ARM, STREAM_BLOCK_ISSUE and STREAM_RUN_END, put together. -/

namespace Sys2Proof.Machine

/-! ### What a descriptor leaves where it takes effect -/

section
variable {s : State} {core j tag : Nat} {d : StreamDesc} {index : Nat}

theorem State.startRun_empty_completes (h : s.streamFault core j tag d = none) (h0 : d.total = 0) : let t := s.startRun core j tag d index
    (∀ i, (t.core core).slot i = (s.core core).slot i) ∧ ((t.core core).strm j).run = ((s.core core).strm j).run ∧ ((t.core core).strm j).status = 0 ∧
      (t.core core).spm = (s.core core).spm ∧ t.hbm = s.hbm := by
  rw [State.startRun_empty h h0]
  generalize hz : State.setCore _ _ _ = z
  have own : z.core core = (s.core core).armed j tag d fun x => { x with status := 0 } := hz ▸ State.core_setCore_self ..
  have hbm : z.hbm = s.hbm := hz ▸ rfl
  have talk := z.streamArrive_talk core tag d
  dsimp only
  rw [talk.core, own, CoreSt.armed_spm, CoreSt.armed_strm]
  exact ⟨fun i => CoreSt.armed_slot .., Strm.ringed_run .., rfl, rfl, (congrArg State.hbm talk.rest :).trans hbm⟩

theorem State.startRun_refused_faults {st : Status} (h : s.streamFault core j tag d = some st) : let t := s.startRun core j tag d index
    s.faults t tag st ∧ ((t.core core).strm j).run = none ∧ ((t.core core).strm j).status = st.code := by
  rw [State.startRun_refused h]
  generalize hz : State.setCore _ _ _ = z
  have own : (z.core core).strm j = _ := hz ▸ (congrArg (CoreSt.strm · j) (State.core_setCore_self ..)).trans (CoreSt.strm_setStrm_self ..)
  have regs : ∀ q, z.reg q = s.reg q := fun q => hz ▸ rfl
  dsimp only
  rw [(z.faultTag_talk tag st).core, own]
  exact ⟨State.faults_before (regs _) (regs _) (z.faultTag_faults tag st), rfl, rfl⟩

end

/-! ### The CRC of a run (R218) -/

theorem State.Stores.strm {core : Nat} {s t : State} (h : s.Stores core t) (j : Nat) : (t.core core).strm j = (s.core core).strm j := by
  unfold CoreSt.strm
  rw [h.strms]

/-- A run whose descriptor names no CRC has none written. -/
theorem State.writeCrc_none {s : State} {core tag : Nat} {r : Run} (h : bit r.desc.ctrl 9 = false) : s.writeCrc core tag r = (.ok, s) := by
  unfold State.writeCrc
  simp [h]

/-- The CRC of a run goes where its descriptor names, if its task may write there (R218). -/
theorem State.writeCrc_written {s u : State} {core tag : Nat} {r : Run} (h : bit r.desc.ctrl 9 = true)
    (hcheck : (s.core core).check tag (r.desc.crcDst % 256) (r.desc.crcDst / 256) 4 true true = none)
    (hw : s.spmWrite core ((s.core core).abs (r.desc.crcDst % 256) (r.desc.crcDst / 256)) (natLe 4 (r.crc ^^^ 0xFFFFFFFF).toNat) = (true, u)) :
    s.writeCrc core tag r = (.ok, u) := by
  unfold State.writeCrc
  dsimp only
  rw [if_neg (by simp [h]), hcheck]
  dsimp only
  rw [hw]

/-- Settles O23: an ARM by what its descriptor does where it takes effect (`State.startRun_…`), a block by what reading its source gives (`State.fillBlock_fills`), the
end of a run by what stopping it leaves (`State.runEnd_done_ends`, `State.runEnd_failed_ends`). -/
theorem streamsComplete : Obligations.StreamsComplete := by
  unfold Obligations.StreamsComplete
  intro s core
  refine ⟨?arm, ?next, ?again, ?held, ?done, ?asks, ?failed⟩
  case arm =>
    intro u y i sl w v bs h j a off p x ix d hv ho hcode hin hbound hown hread hme hvu
    have read : u.Fetches core y := (u.spmRead_fetches ..).of_eq hread
    have slot : ((y.step1 core i 1).core core).slot i = sl.advance 1 := by rw [State.step1_slot, read.slot, h.slot]
    have spm : ((y.step1 core i 1).core core).spm = (u.core core).spm := by rw [State.step1_spm, read.spm]
    have strm : ((y.step1 core i 1).core core).strm j = x := by rw [State.step1_strm, read.strm]
    have idle : x.run = none → exec (.streamArm core) s = .next ((y.step1 core i 1).startRun core j sl.tag d (off / 128)) := by
      intro hrun
      have ex : exec (.streamArm core) s = .next (if x.run.isSome then _ else (y.step1 core i 1).startRun core j sl.tag d (off / 128)) :=
        exec_streamArm_reads h hv ho hcode hin hbound hown hread hme hvu (.inl hrun)
      rwa [if_neg (by simp [hrun])] at ex
    refine ⟨?starts, ?empty, ?refused, ?busy⟩
    case starts =>
      intro hrun hfault htotal
      obtain ⟨r, e, started⟩ := State.startRun_starts (index := off / 128) hfault htotal
      refine ⟨_, r, idle hrun, ?_⟩
      rw [e, State.core_setCore_self, CoreSt.armed_slot, CoreSt.armed_spm, CoreSt.armed_strm]
      obtain ⟨desc, total, issued, written, flight⟩ := started
      exact ⟨slot, rfl, desc, total, issued, written, flight, spm, read.hbm⟩
    case empty =>
      intro hrun hfault htotal
      obtain ⟨slots, run, status, spms, hbm⟩ := State.startRun_empty_completes (index := off / 128) hfault htotal
      exact ⟨_, idle hrun, (slots i).trans slot, run.trans (by rw [strm]; exact hrun), status, spms.trans spm, hbm.trans read.hbm⟩
    case refused =>
      intro hrun st hfault
      obtain ⟨faults, run, status⟩ := State.startRun_refused_faults (index := off / 128) hfault
      exact ⟨_, idle hrun, State.faults_before rfl rfl faults, run, status⟩
    case busy =>
      intro r hrun hheld
      have ex : exec (.streamArm core) s = .next (if x.run.isSome then
          (y.setCore core ((y.core core).setStrm j { x with held := some (d, off / 128) })).step1 core i 1 else _) :=
        exec_streamArm_reads h hv ho hcode hin hbound hown hread hme hvu (.inr hheld)
      rw [if_pos (by simp [hrun])] at ex
      refine ⟨_, ex, ?_, ?_⟩
      · rw [State.step1_slot, State.core_setCore_self]
        exact congrArg (Slot.advance · 1) ((read.slot ..).trans h.slot)
      · rw [State.step1_strm, State.core_setCore_self, CoreSt.strm_setStrm_self]
  case next =>
    intro strm r src u1 u hrun hrst hnone hlive hphase hok hloaded hmoving hleft hown hall hcredit hover hhash hread hlater
    have fills := State.fillBlock_fills (j := strm) (b := u1.nextBlock (s.core core) ((s.core core).strm strm) r) hread hlater
    have issues := State.issueBlock_issues (by simp [hphase, hlive, hok, hloaded, hmoving]) (by omega) (fun ⟨h1, h2, h3⟩ => hcredit h1 h2 h3) hhash rfl fills.asked
    generalize u1.fillBlock core strm _ r.desc _ = x at fills issues
    obtain ⟨run, spm, hbm⟩ := (x.2.setRun core strm { r with issued := r.issued + 1, flight := r.flight ++ [x.1] }).spend_keeps core strm r
    have cores : x.2.core core = u.core core := State.core_of_cores (congrArg Prod.fst fills.memories) core
    rw [exec_streamBlockIssue_next hrun hrst hnone, State.unlessFull_room hover, issues]
    refine ⟨_, x.1, rfl, ?_, fills.index, fills.asked, fills.data, fills.tag, fun hremote => ?_, ?_, ?_⟩
    · rw [run, State.setRun_strm]
    · obtain ⟨status, waits⟩ := fills.here hremote
      exact ⟨waits rfl, status⟩
    · rw [spm, State.setRun_spm, cores]
    · rw [hbm, State.setRun_hbm]
      exact congrArg Prod.snd fills.memories
  case again =>
    intro strm r b src u hrun hrst hb hkind hover hread hlater
    have fills := State.fillBlock_fills (j := strm) hread hlater
    have here : s.ReadsHere core (src, u) := hread ▸ s.readBlock_here (seOf core) _ b.index b.tag false hkind
    obtain ⟨remote, strms⟩ := here
    rw [exec_streamBlockIssue_again hrun hrst hb, State.unlessFull_room hover]
    generalize s.fillBlock core strm _ r.desc b = x at fills
    have cores : x.2.core core = u.core core := State.core_of_cores (congrArg Prod.fst fills.memories) core
    have run : ((x.2.core core).strm strm).run = some r := by
      rw [cores, ← hrun]
      unfold CoreSt.strm
      rw [strms]
    refine ⟨_, x.1, rfl, ?_, fills.index, fills.asked, fills.data, fills.tag, (fills.here remote).1⟩
    rw [State.setBlock_eq run, State.setRun_strm]
    unfold Run.withBlock
    rw [fills.index]
  case held => exact fun strm hhold hnone => exec_streamBlockIssue_held hhold hnone
  case done =>
    intro strm r hrun hok hlive hheld hpass hall hflight hacks hover
    have ends : ∀ u, s.writeCrc core ((s.core core).strm strm).owner r = (.ok, u) → exec (.streamRunEnd core strm) s = _ := fun u hcrc => by
      rw [exec_streamRunEnd_front hrun, State.unlessFull_room hover, State.runEnd_done hok hlive hheld hpass hall hflight hacks hcrc]
    refine ⟨fun hnone => ?_, fun u hcrc hcheck hwrite => ?_⟩
    · obtain ⟨run, status, spm, hbm, digests⟩ := State.runEnd_done_ends hrun rfl
      exact ⟨_, ends s (State.writeCrc_none hnone), run, status, hbm, spm, fun hd v hv ht => digests hd hpass v hv ht⟩
    · have stores : s.Stores core u := (s.spmWrite_stores ..).of_eq hwrite
      obtain ⟨run, status, spm, -⟩ := State.runEnd_done_ends (u := u) (strm := strm) (by rw [stores.strm]; exact hrun) (congrArg Strm.owner (stores.strm strm))
      exact ⟨_, ends u (State.writeCrc_written hcrc hcheck hwrite), run, status, spm⟩
  case asks =>
    intro strm r hrun hbad _ hasks
    rw [exec_streamRunEnd_front hrun, State.runEnd_asks hbad hasks, State.unlessFull_self]
  case failed =>
    intro strm r hrun hbad hflight hasks hover
    rw [exec_streamRunEnd_front hrun, State.unlessFull_room hover]
    exact ⟨_, rfl, State.runEnd_failed_ends hrun hbad hflight hasks⟩

end Sys2Proof.Machine

/-! PROOFS. What outlives completions, dispatch and messages of a replacement of weights (`State.LeavesWeights`), and messages that stay inside a context's block, which
fault nobody (R272, R378, R391). -/

namespace Sys2Proof.Machine

/-! ### What completions, dispatch and messages leave of a replacement of weights -/

/-- The load in progress and the shard banks of a context. -/
def CtxSt.shards (c : CtxSt) : Option Job × Bank × Bank := (c.load, c.bank0, c.bank1)

/-- What a context holds of a replacement of its weights: those, and the pending switch. -/
def CtxSt.weights (c : CtxSt) : Option Switch × Option Job × Bank × Bank := (c.sw, c.shards)

/-- Between two states no context's replacement of weights moves, and no field of TIDE_CTX. -/
structure State.LeavesWeights (s t : State) : Prop where
  steady : s.Steady CtxSt.weights t
  fields : ∀ f : Fld, f.reg = .tideCtx → ∀ i, t.getF f i = s.getF f i

section
variable {s t u : State}

theorem State.LeavesWeights.refl (s : State) : s.LeavesWeights s := ⟨.refl s, fun _ _ _ => rfl⟩

theorem State.LeavesWeights.trans (h : s.LeavesWeights t) (k : t.LeavesWeights u) : s.LeavesWeights u :=
  ⟨h.steady.trans k.steady, fun f e i => (k.fields f e i).trans (h.fields f e i)⟩

theorem State.LeavesWeights.foldl {α : Type} {f : State → α → State} (hf : ∀ s a, State.LeavesWeights s (f s a)) :
    ∀ (l : List α) (s : State), State.LeavesWeights s (l.foldl f s)
  | [], s => .refl s
  | a :: l, s => (hf s a).trans (State.LeavesWeights.foldl hf l (f s a))

theorem State.LeavesWeights.bump (s : State) (f : Fld) (i n : Nat) (h : Reg.tideCtx ≠ f.reg := by decide) : s.LeavesWeights (s.bump f i n) :=
  ⟨.of_ctxs rfl, fun _ e _ => State.getF_setF_reg _ _ _ _ (e ▸ h)⟩

theorem State.LeavesWeights.emit (s : State) (o : Out) : s.LeavesWeights (s.emit o) := ⟨.of_ctxs rfl, fun _ _ _ => rfl⟩

theorem State.LeavesWeights.setCtx (s : State) (i : Nat) (x : CtxSt) (h : x.weights = (s.ctx i).weights := by rfl) : s.LeavesWeights (s.setCtx i x) :=
  ⟨.setCtx s i x h, fun _ _ _ => rfl⟩

theorem State.LeavesWeights.sw (h : s.LeavesWeights t) (i : Nat) : (t.ctx i).sw = (s.ctx i).sw := congrArg Prod.fst (h.steady.view i)

theorem State.LeavesWeights.switch (h : s.LeavesWeights t) (i : Nat) : t.getF F.tideCtxSwitch i = s.getF F.tideCtxSwitch i := h.fields _ rfl i

end

theorem State.complete_leavesWeights (s : State) (i : Nat) (d : Desc) (st : Status) (b : Bool) (info : Nat) :
    s.LeavesWeights (s.complete i d st b info) :=
  ⟨s.complete_steady (fun _ _ _ _ => rfl) i d st b info, fun _ e j => s.complete_getF i d st b info j (e ▸ by decide)⟩

theorem State.tryCancel_leavesWeights (s : State) (i : Nat) : s.LeavesWeights (s.tryCancel i) := by
  unfold State.tryCancel
  dsimp only
  split
  · exact .refl s
  · split
    · exact .refl s
    · exact (State.LeavesWeights.setCtx s i _).trans (State.complete_leavesWeights ..)

theorem State.route_leavesWeights (s : State) (i : Nat) (d : Desc) : s.LeavesWeights (s.route i d) := by
  unfold State.route State.refuseDesc
  dsimp only
  split
  · exact .setCtx s i _
  split
  · refine State.LeavesWeights.trans ?_ (State.complete_leavesWeights ..)
    split
    · exact .bump ..
    · exact .refl s
  · split_ifs <;> exact .setCtx s i _

theorem State.dispatch_leavesWeights (i : Nat) : ∀ (k : Nat) (s : State), s.LeavesWeights (s.dispatch i k)
  | 0, s => .refl s
  | k + 1, s => by
    unfold State.dispatch
    dsimp only
    split
    · exact .refl s
    split
    · exact .refl s
    · exact ((State.LeavesWeights.setCtx s i _).trans (State.route_leavesWeights ..)).trans (State.dispatch_leavesWeights i k _)

theorem State.askFetch_leavesWeights (s : State) (i : Nat) : s.LeavesWeights (s.askFetch i) := by
  unfold State.askFetch
  dsimp only
  split_ifs
  · exact .refl s
  · exact .refl s
  · exact (State.LeavesWeights.setCtx s i _).trans (.emit ..)

theorem State.goOn_leavesWeights (s : State) (i : Nat) : s.LeavesWeights (s.goOn i) := (s.dispatch_leavesWeights i 65).trans (State.askFetch_leavesWeights ..)

theorem State.egress_leavesWeights (s : State) (n : Nat) (p : Packet) (came : Option (Nat × Bool)) : s.LeavesWeights (s.egress n p came).2 := by
  refine ⟨.of_ctxs (s.egress_ctxs ..), fun f e i => ?_⟩
  unfold State.egress State.enqueue
  dsimp only
  split_ifs
  · rfl
  · rfl
  · exact (State.LeavesWeights.bump ..).fields f e i
  · exact (State.LeavesWeights.bump ..).fields f e i

theorem State.launch_leavesWeights (s : State) (p : Packet) : s.LeavesWeights (s.launch p).2 := by
  unfold State.launch
  dsimp only
  split
  · exact .bump ..
  split
  · exact s.egress_leavesWeights ..
  split
  · exact .bump ..
  split
  · exact .refl s
  · exact s.egress_leavesWeights ..

theorem State.send_leavesWeights (s : State) (dstChip dstCore type tag srcCore gen arg : Nat) (payload : Bytes) :
    s.LeavesWeights (s.send dstChip dstCore type tag srcCore gen arg payload) := by
  unfold State.send
  dsimp only
  split
  · exact .emit ..
  · exact s.launch_leavesWeights _

/-! ### Messages that stay inside the context's block -/

/-- Sending a message moves no block and names no chip anew. -/
theorem State.Talk.outside {s t : State} (h : s.Talk talkRegs t) (tag k : Nat) : t.outside tag k = s.outside tag k := by
  unfold State.outside State.inBlock State.blockAxis State.isHere State.chip State.flag
  simp only [h.getF F.topoPlanStatusLoaded, h.getF F.topoPlanStatusChip, h.getF F.topoCtxBlockOx, h.getF F.topoCtxBlockOy, h.getF F.topoCtxBlockOz,
    h.getF F.topoCtxBlockEx, h.getF F.topoCtxBlockEy, h.getF F.topoCtxBlockEz]

/-- Such a message faults nobody. -/
theorem State.sendNamed_inside {s : State} {tag dstChip : Nat} (h : s.outside tag dstChip = false) (dstCore type srcCore gen arg : Nat) (payload : Bytes) :
    s.sendNamed dstChip dstCore type tag srcCore gen arg payload = s.send dstChip dstCore type tag srcCore gen arg payload := by
  unfold State.sendNamed
  simp [h]

/-- Nor do the messages to the members of a ring that lies inside the block. -/
theorem State.tellMembers_inside {tag type arg : Nat} {payload : Bytes} : ∀ (members : List Nat) (s : State), (∀ k ∈ members, s.outside tag k = false) →
    s.tellMembers tag members type arg payload = s.sendMembers tag members type arg payload
  | [], _, _ => rfl
  | m :: ms, s, h => by
    have first : (if s.isHere m then s else s.sendNamed m 0xFF type tag 0xFF 0 arg payload) = if s.isHere m then s else s.send m 0xFF type tag 0xFF 0 arg payload := by
      rw [State.sendNamed_inside (h m List.mem_cons_self)]
    have talk : s.Talk talkRegs (if s.isHere m then s else s.send m 0xFF type tag 0xFF 0 arg payload) := by
      split
      · exact .refl s
      · exact s.send_talk ..
    show ms.foldl _ (if s.isHere m then s else s.sendNamed m 0xFF type tag 0xFF 0 arg payload) = _
    rw [first]
    exact State.tellMembers_inside ms _ fun k hk => (talk.outside ..).trans (h k (List.mem_cons_of_mem _ hk))

theorem State.sendMembers_leavesWeights (s : State) (tag : Nat) (members : List Nat) (type arg : Nat) (payload : Bytes) :
    s.LeavesWeights (s.sendMembers tag members type arg payload) := by
  refine .foldl (fun s m => ?_) members s
  split
  · exact .refl s
  · exact s.send_leavesWeights ..

end Sys2Proof.Machine

/-! PROOFS. O28: a weight switch is registered, prepared, committed or ended, and rings break and halt (R272 to R275, R284, R285, Tables 10.13 and 10.15). -/

namespace Sys2Proof.Machine

/-! ### The leader and the members of a context's rings -/

section
variable {s t : State} {i : Nat}

theorem State.Talk.isHere (h : s.Talk talkRegs t) (n : Nat) : t.isHere n = s.isHere n := by
  unfold State.isHere State.flag
  rw [h.getF F.topoPlanStatusLoaded, h.getF F.topoPlanStatusChip]

theorem State.Talk.self (h : s.Talk talkRegs t) : t.self = s.self := by
  unfold State.self State.flag
  rw [h.getF F.topoPlanStatusLoaded, h.getF F.topoPlanStatusChip]

theorem State.Talk.leader (h : s.Talk talkRegs t) (k : (t.ctx i).members = (s.ctx i).members) : t.leader i = s.leader i := by
  unfold State.leader
  rw [k, h.self]

theorem State.Talk.leads (h : s.Talk talkRegs t) (k : (t.ctx i).members = (s.ctx i).members) : t.leads i = s.leads i := by
  unfold State.leads
  rw [h.leader k, h.isHere]

theorem State.Talk.ringMembers (h : s.Talk talkRegs t) (k : (t.ctx i).members = (s.ctx i).members) : t.ringMembers i = s.ringMembers i := by
  unfold State.ringMembers
  rw [k, h.self]

end

/-! ### A pending switch, step by step -/

section
variable {s : State} {i : Nat} {w : Switch}

theorem State.setSw_talk (s : State) (i : Nat) (f : Switch → Switch) {rs : List Reg} : s.Talk rs (s.setSw i f) := .setCtx_same ..

@[simp] theorem State.setSw_sw (s : State) (i : Nat) (f : Switch → Switch) : ((s.setSw i f).ctx i).sw = (s.ctx i).sw.map f := by
  unfold State.setSw
  rw [State.ctx_setCtx_self]

@[simp] theorem State.setSw_members (s : State) (i : Nat) (f : Switch → Switch) : ((s.setSw i f).ctx i).members = (s.ctx i).members := by
  unfold State.setSw
  rw [State.ctx_setCtx_self]

@[simp] theorem State.setSw_bank0 (s : State) (i : Nat) (f : Switch → Switch) : ((s.setSw i f).ctx i).bank0 = (s.ctx i).bank0 := by
  unfold State.setSw
  rw [State.ctx_setCtx_self]

@[simp] theorem State.setSw_bank1 (s : State) (i : Nat) (f : Switch → Switch) : ((s.setSw i f).ctx i).bank1 = (s.ctx i).bank1 := by
  unfold State.setSw
  rw [State.ctx_setCtx_self]

@[simp] theorem State.setSw_canceling (s : State) (i : Nat) (f : Switch → Switch) : ((s.setSw i f).ctx i).canceling = (s.ctx i).canceling := by
  unfold State.setSw
  rw [State.ctx_setCtx_self]

/-- Without PREPARE a switch waits (Table 10.13, step 2). -/
theorem State.tryPrepare_unseen (h : (s.ctx i).sw = some w) (hw : w.prepareSeen = false) : s.tryPrepare i = s := by
  unfold State.tryPrepare
  dsimp only
  rw [h]
  dsimp only
  rw [if_pos (by simp [hw])]

/-- A member that has answered PREPARED. -/
def State.answered (s : State) (i : Nat) : State := (s.setSw i (fun w => { w with preparedSent := true })).setF F.tideCtxSwitch 2 i

theorem State.answered_talk (s : State) (i : Nat) : s.Talk talkRegs (s.answered i) := (s.setSw_talk i _).then_setF ..

/-- A member with PREPARE and a manifest bound to the bank answers the leader (step 2). -/
theorem State.tryPrepare_answers (h : (s.ctx i).sw = some w) (hseen : w.prepareSeen = true) (hsent : w.preparedSent = false)
    (hbank : (if w.bank = 0 then (s.ctx i).bank0 else (s.ctx i).bank1).digest.isSome = true) (hs : s.ctxState i = 1) (hl : s.leads i = false) :
    s.tryPrepare i = (s.answered i).sendNamed (s.leader i) 0xFF 0x13 (s.tag i) 0xFF 0 (s.getF F.tideCtxStep i) := by
  have talk := s.answered_talk i
  have leads : (s.answered i).leads i = false := (talk.leads (s.setSw_members i _)).trans hl
  unfold State.tryPrepare
  dsimp only
  rw [h]
  dsimp only
  rw [if_neg (by simp [hseen, hsent, Option.isSome_iff_ne_none.1 hbank, hs])]
  show (if (s.answered i).leads i then _ else (s.answered i).sendNamed ((s.answered i).leader i) 0xFF 0x13 ((s.answered i).tag i) 0xFF 0 _) = _
  rw [leads, talk.leader (s.setSw_members i _), talk.faulting.tag]
  rfl

/-- No CANCEL waits. -/
theorem State.tryCancel_none (h : (s.ctx i).canceling = none) : s.tryCancel i = s := by
  unfold State.tryCancel
  dsimp only
  rw [h]

/-- A switch whose step has been fixed, before a CANCEL that waited for it goes on. -/
def State.committed (s : State) (i step : Nat) : State :=
  ((s.setSw i (fun w => { w with commit := some step })).setReg .tideCommit i (step % 2 ^ 32)).setF F.tideCtxSwitch 3 i

theorem State.commitSwitch_eq (s : State) (i step : Nat) : s.commitSwitch i step = (s.committed i step).tryCancel i := rfl

theorem State.committed_sw (s : State) (i step : Nat) : ((s.committed i step).ctx i).sw = (s.ctx i).sw.map (fun w => { w with commit := some step }) :=
  s.setSw_sw i _

theorem State.committed_switch (s : State) (i step : Nat) : (s.committed i step).getF F.tideCtxSwitch i = 3 := State.getF_setF_self ..

theorem State.commitSwitch_sw (s : State) (i step : Nat) : ((s.commitSwitch i step).ctx i).sw = (s.ctx i).sw.map (fun w => { w with commit := some step }) :=
  (State.tryCancel_leavesWeights ..).sw i |>.trans (s.committed_sw i step)

theorem State.commitSwitch_switch (s : State) (i step : Nat) : (s.commitSwitch i step).getF F.tideCtxSwitch i = 3 :=
  (State.tryCancel_leavesWeights ..).switch i |>.trans (s.committed_switch i step)

/-- Between two states the pending switch of a context has ended with TIMEOUT, and no context has changed its state (Table 10.13, step 5). -/
structure State.SwitchEnds (s t : State) (i : Nat) (w : Switch) : Prop where
  sw : (t.ctx i).sw = none
  switch : t.getF F.tideCtxSwitch i = 4
  completes : s.completes t i w.desc .timeout false 0
  states : ∀ j, t.ctxState j = s.ctxState j

/-- A context whose pending switch ends: a CANCEL that waits for it counts it among what it has ended (R396). -/
def CtxSt.endedSwitch (c : CtxSt) (w : Switch) : CtxSt :=
  { c with sw := none, prepared := none, canceling := c.canceling.map fun d => (d.1, d.2 + b2n (decide (w.desc.seq < d.1.seq))) }

theorem State.endSwitch_uncommitted (h : (s.ctx i).sw = some w) (hc : w.commit = none) (st : Status) :
    s.endSwitch i st = ((s.setCtx i ((s.ctx i).endedSwitch w)).setF F.tideCtxSwitch 4 i).complete i w.desc st := by
  unfold State.endSwitch
  dsimp only
  rw [h]
  dsimp only
  rw [if_neg (by simp [hc])]
  rfl

theorem State.abortSwitch_ends (h : (s.ctx i).sw = some w) (hc : w.commit = none) : s.SwitchEnds (s.abortSwitch i) i w := by
  unfold State.abortSwitch
  rw [State.endSwitch_uncommitted h hc]
  have before : s.Talk talkRegs ((s.setCtx i ((s.ctx i).endedSwitch w)).setF F.tideCtxSwitch 4 i) :=
    (State.Talk.setCtx_same s i ((s.ctx i).endedSwitch w) rfl).then_setF F.tideCtxSwitch 4 i
  have sw : (((s.setCtx i ((s.ctx i).endedSwitch w)).setF F.tideCtxSwitch 4 i).ctx i).sw = none := by
    show ((s.setCtx i ((s.ctx i).endedSwitch w)).ctx i).sw = none
    rw [State.ctx_setCtx_self]
    rfl
  have switch : ((s.setCtx i ((s.ctx i).endedSwitch w)).setF F.tideCtxSwitch 4 i).getF F.tideCtxSwitch i = 4 := State.getF_setF_self ..
  generalize (s.setCtx i ((s.ctx i).endedSwitch w)).setF F.tideCtxSwitch 4 i = x at before sw switch ⊢
  have leaves := ((x.complete_leavesWeights i w.desc .timeout false 0).trans (State.tryCancel_leavesWeights _ i)).trans (State.goOn_leavesWeights _ i)
  have after := ((x.complete i w.desc .timeout).tryCancel_talk i).dispatching.trans (State.goOn_talk _ i)
  have talk := (before.trans (x.complete_talk i w.desc .timeout false 0)).dispatching.trans after
  exact ⟨(leaves.sw i).trans sw, (leaves.switch i).trans switch, before.completes_before (after.completes (x.complete_completes i w.desc .timeout false 0)),
    fun j => talk.getF F.cxsCtxStateState j⟩

/-- The leader ends the switch at every member and here. -/
theorem State.abortAll_ends (h : (s.ctx i).sw = some w) (hc : w.commit = none) (hin : ∀ k ∈ s.ringMembers i, s.outside (s.tag i) k = false) :
    s.SwitchEnds (s.abortAll i) i w := by
  have talk := s.sendMembers_talk (s.tag i) (s.ringMembers i) 0x15 0 []
  have leaves := s.sendMembers_leavesWeights (s.tag i) (s.ringMembers i) 0x15 0 []
  unfold State.abortAll
  rw [State.tellMembers_inside _ s hin]
  have ends := State.abortSwitch_ends ((leaves.sw i).trans h) hc
  exact ⟨ends.sw, ends.switch, talk.completes_before ends.completes, fun j => (ends.states j).trans (talk.ctxState j)⟩

/-! ### Answers at the leader -/

/-- The answers a leader has, with one more or one replaced. -/
def Switch.answersWith (w : Switch) (chip step : Nat) : List (Nat × Nat) := w.answers.filter (fun a => a.1 != chip) ++ [(chip, step)]

/-- A leader that has taken a member's answer. -/
def State.withAnswers (s : State) (i : Nat) (answers : List (Nat × Nat)) : State := s.setSw i (fun w => { w with answers := answers })

/-- The largest of the steps answered, and at least a floor. -/
def latest (m : Nat) (answers : List (Nat × Nat)) : Nat := answers.foldl (fun m a => max m a.2) m

theorem le_latest : ∀ (m : Nat) (answers : List (Nat × Nat)), m ≤ latest m answers
  | _, [] => le_rfl
  | m, a :: l => (le_max_left m a.2).trans (le_latest (max m a.2) l)

theorem step_le_latest : ∀ (m : Nat) {answers : List (Nat × Nat)}, ∀ a ∈ answers, a.2 ≤ latest m answers
  | m, b :: l, a, h => by
    rcases List.mem_cons.1 h with rfl | h
    · exact (le_max_right m a.2).trans (le_latest (max m a.2) l)
    · exact step_le_latest (max m b.2) a h

theorem latest_eq : ∀ (m : Nat) (answers : List (Nat × Nat)), latest m answers = m ∨ ∃ a ∈ answers, latest m answers = a.2
  | _, [] => .inl rfl
  | m, b :: l => by
    rcases latest_eq (max m b.2) l with h | ⟨a, ha, h⟩
    · rcases max_choice m b.2 with e | e
      · exact .inl (h.trans e)
      · exact .inr ⟨b, List.mem_cons_self, h.trans e⟩
    · exact .inr ⟨a, List.mem_cons_of_mem _ ha, h⟩

/-- Among answers, the latest step is one that was answered. -/
theorem latest_mem {answers : List (Nat × Nat)} {b : Nat × Nat} (hb : b ∈ answers) : ∃ a ∈ answers, latest 0 answers = a.2 := by
  rcases latest_eq 0 answers with h | h
  · exact ⟨b, hb, h.trans (Nat.le_zero.1 (h ▸ step_le_latest 0 b hb)).symm⟩
  · exact h

/-- While an answer is missing the leader waits (step 3). -/
theorem State.noteAnswer_waits {chip step : Nat} (h : (s.ctx i).sw = some w) (hc : w.commit = none) (ht : s.time < w.deadline)
    (hm : (s.ringMembers i).contains chip = true) (missing : ∃ k ∈ s.ringMembers i, (w.answersWith chip step).all (fun a => a.1 != k) = true) :
    s.noteAnswer i chip step = s.withAnswers i (w.answersWith chip step) := by
  have members : (s.withAnswers i (w.answersWith chip step)).ringMembers i = s.ringMembers i := (s.setSw_talk i _).ringMembers (s.setSw_members i _)
  obtain ⟨k, hk, none⟩ := missing
  have part : (s.ringMembers i).all (fun m => (w.answersWith chip step).any (fun a => a.1 == m)) = false :=
    List.all_eq_false.2 ⟨k, hk, by simpa using fun x hx => by simpa using List.all_eq_true.1 none (k, x) hx⟩
  unfold State.noteAnswer
  rw [h]
  dsimp only
  rw [if_neg (by rw [hc, hm, decide_eq_false (Nat.not_le.2 ht)]; decide)]
  show (if ((s.withAnswers i (w.answersWith chip step)).ringMembers i).all (fun m => (w.answersWith chip step).any (fun a => a.1 == m)) = true then _ else _) = _
  rw [members, part]
  rfl

/-- With every answer in time it fixes the step after the latest, and tells the members (step 3). -/
theorem State.noteAnswer_commits {chip step : Nat} (h : (s.ctx i).sw = some w) (hc : w.commit = none) (ht : s.time < w.deadline)
    (hm : (s.ringMembers i).contains chip = true) (full : ∀ k ∈ s.ringMembers i, (w.answersWith chip step).any (fun a => a.1 == k) = true)
    (hin : ∀ k ∈ s.ringMembers i, s.outside (s.tag i) k = false) : let x := s.withAnswers i (w.answersWith chip step)
    let n := latest 0 (w.answersWith chip step) + 1
    s.noteAnswer i chip step = (x.sendMembers (s.tag i) (s.ringMembers i) 0x14 (n % 2 ^ 32)).commitSwitch i n := by
  have talk : s.Talk talkRegs (s.withAnswers i (w.answersWith chip step)) := s.setSw_talk i _
  have members : (s.withAnswers i (w.answersWith chip step)).ringMembers i = s.ringMembers i := talk.ringMembers (s.setSw_members i _)
  have all : (s.ringMembers i).all (fun m => (w.answersWith chip step).any (fun a => a.1 == m)) = true := List.all_eq_true.2 full
  intro x n
  have tells : x.tellMembers (s.tag i) (s.ringMembers i) 0x14 (n % 2 ^ 32) = x.sendMembers (s.tag i) (s.ringMembers i) 0x14 (n % 2 ^ 32) :=
    State.tellMembers_inside _ _ fun k hk => (talk.outside ..).trans (hin k hk)
  unfold State.noteAnswer
  rw [h]
  dsimp only
  rw [if_neg (by rw [hc, hm, decide_eq_false (Nat.not_le.2 ht)]; decide)]
  show (if (x.ringMembers i).all (fun m => (w.answersWith chip step).any (fun a => a.1 == m)) = true then
    (x.tellMembers (x.tag i) (x.ringMembers i) 0x14 (n % 2 ^ 32)).commitSwitch i n else _) = _
  rw [members, all, if_pos rfl, talk.faulting.tag, tells]

end

/-! ### TIDE_SWITCH and the tide control messages -/

/-- Taking a control descriptor changes the control queue of its context alone. -/
theorem State.takeControl_takes {s u : State} {i op : Nat} {d : Desc} (h : s.takeControl i op = some (d, u)) :
    ∃ l, u = s.setCtx i { s.ctx i with control := l } := by
  unfold State.takeControl at h
  dsimp only at h
  split at h
  · cases h
  · cases h
    exact ⟨_, rfl⟩

/-- A TIDE_SWITCH as a context that does not lead registers it. -/
def Switch.registered (d : Desc) : Switch := ⟨d, field d.bytes 8 1 % 2, field d.bytes 16 8, false, false, [], none⟩

/-- A context in which it is. -/
def State.registered (s : State) (i : Nat) (d : Desc) : State :=
  (s.setCtx i { s.ctx i with sw := some (.registered d), prepared := none }).setF F.tideCtxSwitch 1 i

theorem State.registered_talk (s : State) (i : Nat) (d : Desc) : s.Talk talkRegs (s.registered i d) := (State.Talk.setCtx_same s i _).then_setF ..

theorem State.registered_ctx (s : State) (i : Nat) (d : Desc) :
    (s.registered i d).ctx i = { s.ctx i with sw := some (.registered d), prepared := none } := State.ctx_setCtx_self ..

/-- A TIDE_SWITCH is registered where neither PREPARE has come nor the context leads (Table 10.13, step 1). -/
theorem exec_tideSwitch_registers {s u : State} {ctx : CtxId} {d : Desc} (hr : s.stopped = false) (hh : s.held = false) (hen : s.ctxState ctx = 1)
    (ht : s.takeControl ctx 5 = some (d, u)) (hsw : (s.ctx ctx).sw = none) (hb : field d.bytes 8 1 % 2 ≠ s.getF F.tideCtxBank ctx)
    (hl : s.leads ctx = false) (hp : (s.ctx ctx).prepared = none) : exec (.tideSwitch ctx) s = .next ((u.registered ctx d).goOn ctx) := by
  obtain ⟨l, taken⟩ := State.takeControl_takes ht
  have here : u.ctx ctx = { s.ctx ctx with control := l } := by rw [taken, State.ctx_setCtx_self]
  have talk : s.Talk talkRegs u := taken ▸ .setCtx_same ..
  have leads : u.leads ctx = false := (talk.leads (by rw [here])).trans hl
  have follows : (u.registered ctx d).leads ctx = false := ((u.registered_talk ctx d).leads (by rw [State.registered_ctx])).trans leads
  have waits : (u.registered ctx d).tryPrepare ctx = u.registered ctx d := State.tryPrepare_unseen (by rw [State.registered_ctx]) rfl
  have unseen : (false || (u.ctx ctx).prepared == some (field d.bytes 8 1 % 2)) = false := by rw [here]; simp [hp]
  show execTideSwitch ctx s = _
  unfold execTideSwitch
  rw [if_neg (by simp [hr, hh, hen]), ht]
  dsimp only
  rw [if_neg (by rw [here, taken]; simpa [hsw] using hb), leads, unseen]
  show Host.Outcome.next (((if (u.registered ctx d).leads ctx then _ else u.registered ctx d).tryPrepare ctx).goOn ctx) = _
  rw [follows, if_neg (by decide), waits]

section
variable {s u : State} {m : Culvert} {w : Switch}

/-- A tide control message of its type under a current tag acts on its context (Table 10.8). -/
theorem State.receives.tideMessage (h : s.receives m u) (ht : u.tag (tagIndex m.ctxTag) = m.ctxTag) (hs : u.ctxState (tagIndex m.ctxTag) = 1)
    (k : Nat → State → State) : s.tideMessage m m.type k = k (tagIndex m.ctxTag) u := by
  unfold State.tideMessage
  rw [h.culvertIn]
  dsimp only
  rw [if_neg (by simp [ht, hs])]

variable (h : s.receives m u) (ht : u.tag (tagIndex m.ctxTag) = m.ctxTag) (hs : u.ctxState (tagIndex m.ctxTag) = 1)
include h ht hs

theorem exec_prepare_early (hm : m.type = 0x12) (hl : u.fromLeader (tagIndex m.ctxTag) m = true) (hsw : (u.ctx (tagIndex m.ctxTag)).sw = none) :
    exec (.prepare m) s = .next (u.setCtx (tagIndex m.ctxTag) { u.ctx (tagIndex m.ctxTag) with prepared := some (m.arg % 2) }) := by
  show Host.Outcome.next (s.tideMessage m 0x12 _) = _
  rw [← hm, h.tideMessage ht hs]
  dsimp only
  rw [if_neg (by simp [hl]), hsw]

theorem exec_prepare_pending (hm : m.type = 0x12) (hl : u.fromLeader (tagIndex m.ctxTag) m = true) (hsw : (u.ctx (tagIndex m.ctxTag)).sw = some w)
    (hb : w.bank = m.arg % 2) : exec (.prepare m) s =
      .next ((u.setSw (tagIndex m.ctxTag) (fun w => { w with prepareSeen := true })).tryPrepare (tagIndex m.ctxTag)) := by
  show Host.Outcome.next (s.tideMessage m 0x12 _) = _
  rw [← hm, h.tideMessage ht hs]
  dsimp only
  rw [if_neg (by simp [hl]), hsw]
  dsimp only
  rw [if_pos hb]

theorem exec_prepared_leader (hm : m.type = 0x13) (hl : u.leads (tagIndex m.ctxTag) = true) :
    exec (.prepared m) s = .next (u.noteAnswer (tagIndex m.ctxTag) m.srcChip m.arg) := by
  show Host.Outcome.next (s.tideMessage m 0x13 _) = _
  rw [← hm, h.tideMessage ht hs]
  rw [if_pos hl]

theorem exec_commit_prepared (hm : m.type = 0x14) (hl : u.fromLeader (tagIndex m.ctxTag) m = true) (hsw : (u.ctx (tagIndex m.ctxTag)).sw = some w)
    (hp : w.preparedSent = true) (hc : w.commit = none) : exec (.commit m) s = .next (u.commitSwitch (tagIndex m.ctxTag) m.arg) := by
  show Host.Outcome.next (s.tideMessage m 0x14 _) = _
  rw [← hm, h.tideMessage ht hs]
  rw [if_neg (by simp [hl]), if_pos (by simp [hsw, hp, hc])]

theorem exec_commit_nothing (hm : m.type = 0x14) (hl : u.fromLeader (tagIndex m.ctxTag) m = true) (hsw : (u.ctx (tagIndex m.ctxTag)).sw = none) :
    exec (.commit m) s = .next (u.setReg .tideCommit (tagIndex m.ctxTag) (m.arg % 2 ^ 32)) := by
  show Host.Outcome.next (s.tideMessage m 0x14 _) = _
  rw [← hm, h.tideMessage ht hs]
  rw [if_neg (by simp [hl]), if_neg (by simp [hsw])]

theorem exec_abort_leader (hm : m.type = 0x15) (hl : u.fromLeader (tagIndex m.ctxTag) m = true) :
    exec (.abort m) s = .next (u.abortSwitch (tagIndex m.ctxTag)) := by
  show Host.Outcome.next (s.tideMessage m 0x15 _) = _
  rw [← hm, h.tideMessage ht hs]
  rw [if_pos hl]

theorem exec_withdraw_member (hm : m.type = 0x16) (hl : u.leads (tagIndex m.ctxTag) = true) (hk : (u.ringMembers (tagIndex m.ctxTag)).contains m.srcChip = true)
    (hsw : (u.ctx (tagIndex m.ctxTag)).sw = some w) (hc : w.commit = none) : exec (.withdraw m) s = .next (u.abortAll (tagIndex m.ctxTag)) := by
  show Host.Outcome.next (s.tideMessage m 0x16 _) = _
  rw [← hm, h.tideMessage ht hs]
  rw [hl, hk, hsw, if_pos (by simp [hc])]

theorem exec_breakRing_member (hm : m.type = 0x17) (hr : u.ringInvoke (tagIndex m.ctxTag) m = true) :
    exec (.breakRing m) s = .next (u.fault (tagIndex m.ctxTag) .partitioned) := by
  show Host.Outcome.next (s.tideMessage m 0x17 _) = _
  rw [← hm, h.tideMessage ht hs]
  rw [if_pos hr]

/-- HALT ends the INVOKE in the state that has noted it, where the sender is a member. -/
theorem exec_halt_member (hm : m.type = 0x18) (hr : u.ringInvoke (tagIndex m.ctxTag) m = true) :
    ∃ v, u.Talk talkRegs v ∧ exec (.halt m) s = .next (v.fault (tagIndex m.ctxTag) .cancelled) := by
  refine ⟨if (u.ctx (tagIndex m.ctxTag)).inv.any (fun v => v.desc.ctxTag == m.ctxTag && v.members.contains m.srcChip) then
    u.noteHalt (tagIndex m.ctxTag) m.srcChip else u, ?_, ?_⟩
  · split
    · exact .setCtx_same ..
    · exact .refl u
  · show Host.Outcome.next (s.tideMessage m 0x18 _) = _
    rw [← hm, h.tideMessage ht hs]
    dsimp only
    rw [if_pos hr]

end

/-! ### The timeouts -/

section
variable {s : State} {ctx : CtxId} {w : Switch}

theorem exec_tideSwitchDeadline_passed (hr : s.stopped = false) (hsw : (s.ctx ctx).sw = some w) (hc : w.commit = none) (hl : s.leads ctx = true)
    (hd : w.deadline ≤ s.time) : exec (.tideSwitchDeadline ctx) s = .next (s.abortAll ctx) := by
  show execTideSwitchDeadline ctx s = _
  unfold execTideSwitchDeadline
  rw [if_pos (by simp [hr, hl, hsw, hc, hd])]

theorem exec_tideSwitchMemberTimeout_passed (hr : s.stopped = false) (hsw : (s.ctx ctx).sw = some w) (hc : w.commit = none) (hp : w.preparedSent = true)
    (hd : w.deadline + s.breakNs ≤ s.time) : exec (.tideSwitchMemberTimeout ctx) s = .next (s.abortSwitch ctx) := by
  show execTideSwitchMemberTimeout ctx s = _
  unfold execTideSwitchMemberTimeout
  rw [if_pos (by simp [hr, hsw, hc, hp, hd])]

/-- BREAK to the members of rings inside the block faults nobody. -/
theorem State.tellRings_talk {tag : Nat} {members : List Nat} : ∀ (rings : List Nat) (s : State), (∀ k ∈ members, s.outside tag k = false) →
    s.Talk talkRegs (rings.foldl (fun (s : State) r => s.tellMembers tag members 0x17 (r % 256)) s)
  | [], s, _ => .refl s
  | r :: rs, s, h => by
    have talk : s.Talk talkRegs (s.tellMembers tag members 0x17 (r % 256)) := by
      rw [State.tellMembers_inside _ s h]
      exact s.sendMembers_talk ..
    exact talk.trans (State.tellRings_talk rs _ fun k hk => (talk.outside ..).trans (h k hk))

/-- A ring link that stays out of up past the timeout tells the members, and this one faults with PARTITIONED (R274). -/
theorem exec_tideBreakTimeout_passed {v : Invoke} (hr : s.stopped = false) (hv : (s.ctx ctx).inv = some v) (he : v.ending = none) (hring : v.ring = true)
    (hb : s.brokenRings v ≠ []) (hin : ∀ k ∈ v.members, s.outside v.desc.ctxTag k = false) :
    ∃ u, s.Talk talkRegs u ∧ exec (.tideBreakTimeout ctx) s = .next (u.fault ctx .partitioned) := by
  refine ⟨_, (State.tellRings_talk (s.brokenRings v) s hin).trans (State.expiry_talk _ (sourceOf 6 0) v.desc.ctxTag 4), ?_⟩
  show execTideBreakTimeout ctx s = _
  unfold execTideBreakTimeout
  rw [hv]
  dsimp only
  rw [if_neg (by simp [hr, he, hring, hb])]

end

/-- Settles O28: a switch goes through `State.tryPrepare`, `State.noteAnswer` and `State.commitSwitch`, or ends as `State.SwitchEnds` says; what else its steps do,
messages inside the block, completions, dispatch, leaves it (`State.LeavesWeights`). -/
theorem switchComplete : Obligations.SwitchComplete := by
  unfold Obligations.SwitchComplete
  intro s u
  refine ⟨?register, ?messages, ?timeouts, ?broken⟩
  case register =>
    intro ctx d hr hh hen ht hsw hb hl hp
    obtain ⟨l, rfl⟩ := State.takeControl_takes ht
    refine ⟨_, exec_tideSwitch_registers hr hh hen ht hsw hb hl hp, ?_, ?_, ?_, ?_⟩
    · rw [(State.goOn_leavesWeights ..).sw, State.registered_ctx]
      rfl
    · exact ((State.goOn_leavesWeights ..).switch _).trans (State.getF_setF_self ..)
    · rw [(State.goOn_talk ..).rest]
      rfl
    · exact (State.goOn_talk ..).cores
  case messages =>
    intro m
    dsimp only
    generalize hi : tagIndex m.ctxTag = i
    intro h ht hs
    refine ⟨?early, ?answers, ?waits, ?commits, ?fixed, ?recorded, ?ends, ?breaks, ?halts⟩
    all_goals subst hi
    case early =>
      intro hm hl hsw
      refine ⟨_, exec_prepare_early h ht hs hm hl hsw, ?_, rfl⟩
      rw [State.ctx_setCtx_self]
    case answers =>
      intro w hm hl hsw hb hp hlead hbank hin
      let i := tagIndex m.ctxTag
      let x := u.setSw i (fun w => { w with prepareSeen := true })
      have seen : (x.ctx i).sw = some { w with prepareSeen := true } := by rw [State.setSw_sw, hsw]; rfl
      have talk : u.Talk talkRegs x := u.setSw_talk i _
      have members : (x.ctx i).members = (u.ctx i).members := u.setSw_members i _
      have inside : (x.answered i).outside (x.tag i) (x.leader i) = false := by
        rw [(talk.trans (x.answered_talk i)).outside, talk.faulting.tag, talk.leader members, ht, hin]
      have sends := State.tryPrepare_answers seen rfl hp (by simpa [x] using hbank) ((talk.ctxState i).trans hs) ((talk.leads members).trans hlead)
      rw [State.sendNamed_inside inside] at sends
      refine ⟨_, (exec_prepare_pending h ht hs hm hl hsw hb).trans (congrArg Host.Outcome.next sends), ?_, ?_⟩
      · rw [(State.send_leavesWeights ..).sw]
        show ((x.setSw i _).ctx i).sw = _
        rw [State.setSw_sw, seen]
        rfl
      · rw [(State.send_leavesWeights ..).switch]
        exact State.getF_setF_self ..
    case waits =>
      intro w hm hl hsw hc hd hk missing
      refine ⟨_, (exec_prepared_leader h ht hs hm hl).trans (congrArg Host.Outcome.next (State.noteAnswer_waits hsw hc hd hk missing)), ?_, rfl⟩
      rw [State.withAnswers, State.setSw_sw, hsw]
      rfl
    case commits =>
      intro w hm hl hsw hc hd hk full hin
      have commits := State.noteAnswer_commits hsw hc hd hk full (by rw [ht]; exact hin)
      obtain ⟨a, ha, last⟩ := latest_mem (answers := w.answersWith m.srcChip m.arg) (b := (m.srcChip, m.arg)) (by simp [Switch.answersWith])
      refine ⟨_, latest 0 (w.answersWith m.srcChip m.arg) + 1, (exec_prepared_leader h ht hs hm hl).trans (congrArg Host.Outcome.next commits), ?_,
        fun a ha => Nat.lt_succ_of_le (step_le_latest 0 a ha), ⟨a, ha, by rw [last]⟩, State.commitSwitch_switch ..⟩
      rw [State.commitSwitch_sw, (State.sendMembers_leavesWeights ..).sw, State.withAnswers, State.setSw_sw, hsw]
      rfl
    case fixed =>
      intro w hm hl hsw hp hc hnone
      have fixes : u.commitSwitch (tagIndex m.ctxTag) m.arg = u.committed (tagIndex m.ctxTag) m.arg :=
        (State.commitSwitch_eq ..).trans (State.tryCancel_none ((u.setSw_canceling _ _).trans hnone))
      refine ⟨_, (exec_commit_prepared h ht hs hm hl hsw hp hc).trans (congrArg Host.Outcome.next fixes), ?_, State.committed_switch .., rfl⟩
      rw [State.committed_sw, hsw]
      rfl
    case recorded =>
      intro hm hl hsw
      refine ⟨_, exec_commit_nothing h ht hs hm hl hsw, ?_, rfl⟩
      unfold State.getF
      rw [show F.tideCommitStep.reg = .tideCommit from rfl, State.reg_setReg_self]
      exact Nat.mod_eq_of_lt (Nat.mod_lt _ (by decide))
    case ends =>
      intro w hsw hc
      refine ⟨fun hm hl => ?_, fun hm hl hk hin => ?_⟩
      · have ends := State.abortSwitch_ends hsw hc
        exact ⟨_, exec_abort_leader h ht hs hm hl, ends.sw, ends.switch, ends.completes, (ends.states _).trans hs⟩
      · have ends := State.abortAll_ends hsw hc (by rw [ht]; exact hin)
        exact ⟨_, exec_withdraw_member h ht hs hm hl hk hsw hc, ends.sw, ends.switch, ends.completes, (ends.states _).trans hs⟩
    case breaks =>
      intro hm hr
      have talk := u.fault_talk (tagIndex m.ctxTag) .partitioned
      exact ⟨_, exec_breakRing_member h ht hs hm hr, fun _ _ => u.faultWith_state _ _ _ _ hs, talk.cores, by rw [talk.rest]⟩
    case halts =>
      intro hm hr
      obtain ⟨v, before, ends⟩ := exec_halt_member h ht hs hm hr
      have talk := v.fault_talk (tagIndex m.ctxTag) .cancelled
      exact ⟨_, ends, fun _ _ => v.faultWith_state _ _ _ _ ((before.ctxState _).trans hs), talk.cores.trans before.cores, by rw [talk.rest, before.rest]⟩
  case timeouts =>
    intro ctx w hr hsw hc
    refine ⟨fun hl hd hin => ?_, fun hp hd => ?_⟩
    · have ends := State.abortAll_ends hsw hc hin
      exact ⟨_, exec_tideSwitchDeadline_passed hr hsw hc hl hd, ends.sw, ends.switch, ends.completes, ends.states _⟩
    · have ends := State.abortSwitch_ends hsw hc
      exact ⟨_, exec_tideSwitchMemberTimeout_passed hr hsw hc hp hd, ends.sw, ends.switch, ends.completes, ends.states _⟩
  case broken =>
    intro ctx v hr hv he hring hb hen hin
    obtain ⟨x, before, ends⟩ := exec_tideBreakTimeout_passed hr hv he hring hb hin
    have talk := x.fault_talk ctx .partitioned
    obtain ⟨state, status⟩ := x.faultWith_state ctx .partitioned .partitioned _ ((before.ctxState _).trans hen)
    exact ⟨_, ends, state, status, talk.cores.trans before.cores, by rw [talk.rest, before.rest]⟩

end Sys2Proof.Machine

/-! PROOFS. Shard banks under a switch that goes on (R272, R282): it may commit, complete and send, and the messages may fault its context; where no load is in progress
none of that starts one or changes a bank (`State.KeepsBanks`). -/

namespace Sys2Proof.Machine

/-! ### A context without a load keeps its banks -/

/-- Between two states a context in which no shard load is in progress starts none, and its banks stay. -/
structure State.KeepsBanks (s t : State) : Prop where
  shards : ∀ i, (s.ctx i).load = none → (t.ctx i).shards = (s.ctx i).shards

section
variable {s t u : State}

theorem State.KeepsBanks.refl (s : State) : s.KeepsBanks s := ⟨fun _ _ => rfl⟩

theorem State.KeepsBanks.load (h : s.KeepsBanks t) {i : Nat} (k : (s.ctx i).load = none) : (t.ctx i).load = none := (congrArg Prod.fst (h.shards i k)).trans k

theorem State.KeepsBanks.bank (h : s.KeepsBanks t) {i : Nat} (k : (s.ctx i).load = none) (b : Nat) : (t.ctx i).bank b = (s.ctx i).bank b := by
  have banks := congrArg Prod.snd (h.shards i k)
  unfold CtxSt.bank
  rw [show (t.ctx i).bank0 = (s.ctx i).bank0 from congrArg Prod.fst banks, show (t.ctx i).bank1 = (s.ctx i).bank1 from congrArg Prod.snd banks]

theorem State.KeepsBanks.trans (h : s.KeepsBanks t) (k : t.KeepsBanks u) : s.KeepsBanks u :=
  ⟨fun i none => (k.shards i (h.load none)).trans (h.shards i none)⟩

theorem State.KeepsBanks.foldl {α : Type} {f : State → α → State} (hf : ∀ s a, State.KeepsBanks s (f s a)) :
    ∀ (l : List α) (s : State), State.KeepsBanks s (l.foldl f s)
  | [], s => .refl s
  | a :: l, s => (hf s a).trans (State.KeepsBanks.foldl hf l (f s a))

theorem State.KeepsBanks.of_ctxs (h : t.ctxs = s.ctxs) : s.KeepsBanks t := ⟨fun i _ => (State.Steady.of_ctxs h).view i⟩

theorem State.LeavesWeights.keepsBanks (h : s.LeavesWeights t) : s.KeepsBanks t := ⟨fun i _ => congrArg Prod.snd (h.steady.view i)⟩

theorem State.Steady.keepsBanks (h : s.Steady CtxSt.shards t) : s.KeepsBanks t := ⟨fun i _ => h.view i⟩

/-- A change of one context that keeps them when it has no load. -/
theorem State.KeepsBanks.setCtx (s : State) (i : Nat) (x : CtxSt) (h : (s.ctx i).load = none → x.shards = (s.ctx i).shards := by exact fun _ => rfl) :
    s.KeepsBanks (s.setCtx i x) := by
  refine ⟨fun j none => ?_⟩
  by_cases e : j = i
  · subst e
    rw [State.ctx_setCtx_self]
    exact h none
  · rw [State.ctx_setCtx_ne _ _ e]

end

section
variable (s : State) (i : Nat)

theorem State.gauge_window_keepsBanks (g : Gauge) : s.KeepsBanks (s.gauge i g true) := by
  unfold State.gauge
  simp only [if_true]
  split
  · exact (State.Steady.collect s _).keepsBanks.trans (.setCtx _ i _ fun _ => rfl)
  · exact .setCtx s i _

theorem State.endInvoke_keepsBanks (st : Status) : s.KeepsBanks (s.endInvoke i st) := by
  unfold State.endInvoke
  dsimp only
  split
  · exact .refl s
  · exact .setCtx s i _

theorem State.endSwitch_keepsBanks (st : Status) : s.KeepsBanks (s.endSwitch i st) := by
  unfold State.endSwitch
  dsimp only
  split
  · exact .setCtx s i _
  · split
    · exact .refl s
    · refine State.KeepsBanks.trans ?_ (State.complete_leavesWeights ..).keepsBanks
      exact (State.KeepsBanks.setCtx s i _).trans (.of_ctxs rfl)

theorem State.withdraw_keepsBanks (st : Option Status) : s.KeepsBanks (s.withdraw i st) := by
  unfold State.withdraw
  dsimp only
  split
  · split
    · exact (State.KeepsBanks.setCtx s i _).trans (State.send_leavesWeights ..).keepsBanks
    · exact .refl s
  · split
    · exact .refl s
    split
    · exact (s.sendMembers_leavesWeights ..).keepsBanks.trans (State.endSwitch_keepsBanks ..)
    split
    · exact (s.send_leavesWeights ..).keepsBanks.trans (State.endSwitch_keepsBanks ..)
    · exact (s.send_leavesWeights ..).keepsBanks

/-- What ends with a fault leaves the banks of a context that loads nothing: only a load that ends unbinds one. -/
theorem State.endOthers_keepsBanks (st inv : Status) (before : Option Nat) (run : Status) : s.KeepsBanks (s.endOthers i st inv before run).2 := by
  unfold State.endOthers
  dsimp only
  refine State.KeepsBanks.trans ?_ (State.withdraw_keepsBanks ..)
  generalize hx : State.completeAll _ _ _ _ = x
  have hx : s.KeepsBanks x := by
    rw [← hx]
    refine State.KeepsBanks.trans ?_ (State.KeepsBanks.foldl (fun s d => (s.complete_leavesWeights ..).keepsBanks) _ _)
    refine State.KeepsBanks.trans ?_ (State.KeepsBanks.foldl (fun s j => (s.forgetReads_steady j).keepsBanks) _ _)
    refine State.KeepsBanks.trans ?_ (State.KeepsBanks.foldl (fun s j => (s.complete_leavesWeights ..).keepsBanks) _ _)
    refine State.KeepsBanks.trans ?_ (State.KeepsBanks.foldl (fun s j => ?_) _ _)
    · exact .setCtx s i _ fun none => by simp [CtxSt.shards, none]
    · unfold State.copyEarly
      split
      · exact .refl s
      · exact s.gauge_window_keepsBanks ..
  have e : ∀ c : Bool, s.KeepsBanks (if c = true then x.endInvoke i inv else x) := by
    intro c
    split
    · exact hx.trans (x.endInvoke_keepsBanks ..)
    · exact hx
  exact e _

theorem State.faultWith_keepsBanks (st inv : Status) (d : Nat) : s.KeepsBanks (s.faultWith i st inv d) := by
  unfold State.faultWith
  have h := s.endInvoke_keepsBanks i inv
  dsimp only
  split
  · generalize hx : State.log _ 0x0001 _ _ st 2 _ = x
    have k : s.KeepsBanks x := hx ▸ h.trans (.of_ctxs rfl)
    have k2 := (k.trans (.setCtx x i { x.ctx i with inflight := 0, faultOf := d } fun _ => rfl)).trans (State.endOthers_keepsBanks _ i .cancelled .cancelled none .cancelled)
    unfold State.setCtx at k2
    generalize (State.endOthers _ i .cancelled .cancelled none).2 = y at k2
    split
    · split
      · exact (k2.trans (y.sendMembers_leavesWeights ..).keepsBanks).trans (.setCtx _ i _ fun _ => rfl)
      · exact k2
    · exact k2
  split
  · split
    · exact h.trans (.of_ctxs rfl)
    · exact h
  · exact h

theorem State.faultTag_keepsBanks (tag : Nat) (st : Status) : s.KeepsBanks (s.faultTag tag st) := by
  unfold State.faultTag
  dsimp only
  split
  · exact s.faultWith_keepsBanks ..
  split
  · exact s.endInvoke_keepsBanks ..
  · exact .refl s

theorem State.sendNamed_keepsBanks (dstChip dstCore type tag srcCore gen arg : Nat) (payload : Bytes) :
    s.KeepsBanks (s.sendNamed dstChip dstCore type tag srcCore gen arg payload) := by
  unfold State.sendNamed
  dsimp only
  split
  · exact (s.send_leavesWeights ..).keepsBanks.trans (State.faultTag_keepsBanks ..)
  · exact (s.send_leavesWeights ..).keepsBanks

theorem State.tellMembers_keepsBanks (tag : Nat) (members : List Nat) (type arg : Nat) (payload : Bytes) :
    s.KeepsBanks (s.tellMembers tag members type arg payload) := by
  refine .foldl (fun s m => ?_) members s
  split
  · exact .refl s
  · exact s.sendNamed_keepsBanks ..

end

/-! ### A switch that goes on -/

/-- Registers that a switch may write as it goes on: the committed step, and what a fault of its context shows. -/
def switchRegs : List Reg := .tideCommit :: faultRegs

/-- What a switch does as it goes on: messages, completions, faults, and the step committed; no load starts and no bank changes. -/
structure State.Switches (s t : State) : Prop where
  talk : s.Talk switchRegs t
  banks : s.KeepsBanks t

section
variable {s t u : State}

theorem State.Switches.refl (s : State) : s.Switches s := ⟨.refl s, .refl s⟩

theorem State.Switches.trans (h : s.Switches t) (k : t.Switches u) : s.Switches u := ⟨h.talk.trans k.talk, h.banks.trans k.banks⟩

theorem State.Talk.switches (h : s.Talk faultRegs t) (k : s.KeepsBanks t) : s.Switches t := ⟨h.more (List.subset_cons_self _ _), k⟩

end

section
variable (s : State) (i : Nat)

theorem State.setSw_switches (f : Switch → Switch) : s.Switches (s.setSw i f) := ⟨s.setSw_talk i f, .setCtx s i _ fun _ => rfl⟩

theorem State.sendNamed_switches (dstChip dstCore type tag srcCore gen arg : Nat) (payload : Bytes) :
    s.Switches (s.sendNamed dstChip dstCore type tag srcCore gen arg payload) := (s.sendNamed_talk ..).switches (s.sendNamed_keepsBanks ..)

theorem State.tellMembers_switches (tag : Nat) (members : List Nat) (type arg : Nat) (payload : Bytes) :
    s.Switches (s.tellMembers tag members type arg payload) := by
  refine State.Talk.switches (.foldl (fun s m => ?_) members s) (s.tellMembers_keepsBanks ..)
  split
  · exact .refl s
  · exact s.sendNamed_talk ..

theorem State.commitSwitch_switches (step : Nat) : s.Switches (s.commitSwitch i step) := by
  have commits : (s.setSw i (fun w => { w with commit := some step })).Switches (s.committed i step) :=
    ⟨State.Talk.then_setF ⟨rfl, fun q hq j => State.reg_setReg_ne _ i j _ fun e => hq (e ▸ by decide), ⟨[], by simp [State.setReg]⟩, fun _ _ h => h⟩ ..,
      .of_ctxs rfl⟩
  exact ((s.setSw_switches i _).trans commits).trans ((State.tryCancel_talk ..).faulting.switches (State.tryCancel_leavesWeights ..).keepsBanks)

theorem State.noteAnswer_switches (chip step : Nat) : s.Switches (s.noteAnswer i chip step) := by
  unfold State.noteAnswer
  split
  · exact .refl s
  dsimp only
  split
  · exact .refl s
  split
  · exact ((s.setSw_switches i _).trans (State.tellMembers_switches ..)).trans (State.commitSwitch_switches ..)
  · exact s.setSw_switches i _

theorem State.tryPrepare_switches : s.Switches (s.tryPrepare i) := by
  have answers : s.Switches (s.answered i) := (s.answered_talk i).faulting.switches ((State.KeepsBanks.setCtx s i _).trans (.of_ctxs rfl))
  unfold State.tryPrepare
  dsimp only
  split
  · exact .refl s
  generalize (if _ = 0 then (s.ctx i).bank0 else (s.ctx i).bank1) = bank
  split
  · exact .refl s
  split
  · exact answers.trans (State.noteAnswer_switches ..)
  · exact answers.trans (State.sendNamed_switches ..)

end

end Sys2Proof.Machine

/-! PROOFS. O32: a shard load starts, and ends with its last object (R282, R410, R412, Table 10.11). What asks storage changes the READs that wait, their packet numbers
and the interface alone (`State.Asks`). -/

namespace Sys2Proof.Machine

/-! ### READs of storage (R408, R409) -/

/-- Asking storage and taking its answers changes the READs that wait, their packet numbers and the interface alone. -/
structure State.Asks (s t : State) : Prop where
  rest : t = { s with psn := t.psn, asked := t.asked, out := t.out }

theorem State.Asks.refl (s : State) : s.Asks s := ⟨rfl⟩

theorem State.Asks.trans {s t u : State} (h : s.Asks t) (k : t.Asks u) : s.Asks u := by
  have a := k.rest
  rw [h.rest] at a
  exact ⟨a⟩

theorem State.Asks.ask (s : State) (l : List Asked) : s.Asks { s with asked := l } := ⟨rfl⟩

theorem State.Asks.foldl {α : Type} {f : State → α → State} (hf : ∀ s a, State.Asks s (f s a)) : ∀ (l : List α) (s : State), State.Asks s (l.foldl f s)
  | [], s => .refl s
  | a :: l, s => (hf s a).trans (State.Asks.foldl hf l (f s a))

section
variable {s t : State}

theorem State.Asks.ctx (h : s.Asks t) (i : Nat) : t.ctx i = s.ctx i := by rw [h.rest]; rfl
theorem State.Asks.ctxState (h : s.Asks t) (i : Nat) : t.ctxState i = s.ctxState i := by rw [h.rest]; rfl
theorem State.Asks.hbm (h : s.Asks t) : t.hbm = s.hbm := by rw [h.rest]
theorem State.Asks.chip (h : s.Asks t) : t.chip = s.chip := by rw [h.rest]; rfl

/-- What is asked for around changes of contexts. -/
theorem State.Asks.around {u v : State} {i j : Nat} {x y : CtxSt} (h : (s.setCtx i x).Asks u) (k : (u.setCtx j y).Asks v) :
    v = { s with ctxs := v.ctxs, out := v.out, psn := v.psn, asked := v.asked } := by
  have b := k.rest
  rw [h.rest] at b
  rw [b]
  rfl

end

theorem State.pumpReads_asks (s : State) (t : Nat) : s.Asks (s.pumpReads t) := by
  refine .foldl (fun s a => ?_) _ s
  split
  · exact ⟨rfl⟩
  · exact .refl s

theorem State.askRead_asks (s : State) (t rkey addr len : Nat) : s.Asks (s.askRead t rkey addr len) := (State.Asks.ask s _).trans (State.pumpReads_asks ..)

theorem State.askObject_asks (s : State) (e : Bytes) : s.Asks (s.askObject e) := .foldl (fun s _ => s.askRead_asks ..) _ s

theorem State.askObjects_asks (s : State) (j : Job) (before : List Nat) : s.Asks (s.askObjects j before) := .foldl (fun s _ => s.askObject_asks _) _ s

theorem State.Asks.foldl_snd {α β γ : Type} {f : α × β × State → γ → α × β × State} (hf : ∀ x a, State.Asks x.2.2 (f x a).2.2) :
    ∀ (l : List γ) (x : α × β × State), State.Asks x.2.2 (l.foldl f x).2.2
  | [], x => .refl x.2.2
  | a :: l, x => (hf x a).trans (State.Asks.foldl_snd hf l (f x a))

theorem State.answerPackets_asks (s : State) (t rkey addr len : Nat) : s.Asks (s.answerPackets t rkey addr len).2.2 := by
  unfold State.answerPackets
  generalize readParts len = parts
  refine .foldl_snd (fun x p => ?_) parts ([], true, s)
  dsimp only
  exact (State.Asks.ask x.2.2 _).trans (State.pumpReads_asks ..)

/-- A read that has come in whole has taken its answers and asked for what waited, and no more. -/
theorem State.readText_asks {s u : State} {t rkey addr len : Nat} {wire text : Bytes} (h : s.readText t rkey addr len wire = (text, true, u)) : s.Asks u := by
  have done := s.answerPackets_asks t rkey addr len
  -- the equation of the function itself: one of its value would have the kernel compute the parts of a read of unknown length
  have reads : State.readText = State.readText := rfl
  conv at reads =>
    rhs
    delta State.readText
  rw [reads] at h
  beta_reduce at h
  generalize s.answerPackets t rkey addr len = x at h done
  obtain ⟨packets, sent, v⟩ := x
  dsimp only at h done
  split_ifs at h
  · cases h
  · cases h
    exact done
  · cases h
    exact done
  · cases h

/-- The header of one object has been read. -/
theorem State.readHeaders_one {s u : State} {e w h : Bytes} (hr : s.readHeaders [e] [w] = (some [h], u)) : s.Asks u := by
  have asked := s.askRead_asks (field e 2 1) (field e 4 4) (field e 8 8) 64
  unfold State.readHeaders at hr
  rw [List.zipIdx_cons, List.zipIdx_nil, List.foldl_cons, List.foldl_nil] at hr
  dsimp only at hr
  generalize hread : State.readText _ _ _ _ _ _ = x at hr
  obtain ⟨text, came, v⟩ := x
  cases came with
  | false => cases hr
  | true =>
    cases hr
    exact asked.trans (State.readText_asks hread)

/-! ### A load starts -/

/-- The load of one object, as it starts. -/
def Job.loadOne (d : Desc) (manifest e : Bytes) : Job := { Job.start d none 1 with objects := [e], manifest := manifest }

/-- LOAD_SHARD of one object for this chip: its object is asked for (R412). -/
theorem exec_loadShard_one {s u : State} {ctx : CtxId} {d : Desc} {rest : List Desc} {manifest w h e : Bytes} (hq : (s.ctx ctx).loadq = d :: rest)
    (hm : s.loadMay ctx d = true) (hbad : manifestBad manifest (field d.bytes 16 4) = false) (he : manifestEntries manifest s.chip = [e])
    (hv : s.flag F.ethTgtValid (field e 2 1) = true) (ht : s.getF F.ethTgtState (field e 2 1) ≠ 2)
    (hr : (s.setCtx ctx { s.ctx ctx with loadq := rest }).readHeaders [e] [w] = (some [h], u)) (hh : headerBad h = false) (hl : objectLen h = field e 24 8)
    (hf : field e 16 8 + footprint h ≤ field d.bytes 32 8) :
    exec (.loadShard ctx manifest [w]) s = .next ((u.setCtx ctx { u.ctx ctx with load := some (.loadOne d manifest e) }).askObjects (.loadOne d manifest e) []) := by
  have chip : u.chip = s.chip := (State.readHeaders_one hr).chip
  have fits : ¬ field d.bytes 32 8 < field e 16 8 + footprint h := by omega
  show execLoadShard ctx manifest [w] s = _
  unfold execLoadShard
  dsimp only
  rw [hq]
  dsimp only
  rw [if_neg (by simp [hm]), he, if_neg (by simp [hbad, hv]), if_neg (by simp [ht]), hr]
  dsimp only
  unfold State.startLoad
  rw [chip, he]
  simp [hh, hl, overlapping, fits, Job.loadOne]

/-! ### A load ends -/

@[simp] theorem CtxSt.load_setBank (c : CtxSt) (b : Nat) (x : Bank) : (c.setBank b x).load = c.load := by
  unfold CtxSt.setBank
  split <;> rfl

@[simp] theorem CtxSt.heldCpl_setBank (c : CtxSt) (b : Nat) (x : Bank) : (c.setBank b x).heldCpl = c.heldCpl := by
  unfold CtxSt.setBank
  split <;> rfl

@[simp] theorem CtxSt.bank_setBank (c : CtxSt) (b : Nat) (x : Bank) : (c.setBank b x).bank b = x := by
  unfold CtxSt.setBank CtxSt.bank
  split <;> rfl

/-- Between two states a shard load has ended well: it has completed with the objects it moved, and its manifest is bound to its bank (step 5). -/
structure State.LoadEnds (s t : State) (i : Nat) (j : Job) : Prop where
  completes : s.completes t i j.desc .ok false j.moved
  load : (t.ctx i).load = none
  hbm : t.hbm = s.hbm
  digest : ((t.ctx i).bank j.desc.loadBank).digest = some (shake256 j.manifest)
  whole : ((t.ctx i).bank j.desc.loadBank).broken = false

theorem State.endLoad_ends (s : State) (i : Nat) (j : Job) : s.LoadEnds (s.endLoad i j) i j := by
  let bound : Bank := ⟨some (shake256 j.manifest), field j.desc.bytes 24 8, field j.desc.bytes 32 8, j.manifest, false⟩
  have before : s.Talk faultRegs (s.setCtx i (CtxSt.setBank { s.ctx i with load := none } j.desc.loadBank bound)) := .setCtx_same s i _ (by simp)
  have load : ((s.setCtx i (CtxSt.setBank { s.ctx i with load := none } j.desc.loadBank bound)).ctx i).load = none := by simp
  have bank : ((s.setCtx i (CtxSt.setBank { s.ctx i with load := none } j.desc.loadBank bound)).ctx i).bank j.desc.loadBank = bound := by simp
  show s.LoadEnds ((((s.setCtx i (CtxSt.setBank { s.ctx i with load := none } j.desc.loadBank bound)).tryPrepare i).complete i j.desc .ok false j.moved).goOn i) i j
  generalize s.setCtx i (CtxSt.setBank { s.ctx i with load := none } j.desc.loadBank bound) = x at before load bank ⊢
  have goes := x.tryPrepare_switches i
  generalize x.tryPrepare i = y at goes ⊢
  have after := (y.complete i j.desc .ok false j.moved).goOn_talk i
  have ends : y.completes ((y.complete i j.desc .ok false j.moved).goOn i) i j.desc .ok false j.moved := after.completes (y.complete_completes ..)
  have keeps : x.KeepsBanks ((y.complete i j.desc .ok false j.moved).goOn i) :=
    goes.banks.trans ((y.complete_leavesWeights ..).trans (State.goOn_leavesWeights ..)).keepsBanks
  refine ⟨before.completes_before (goes.talk.completes_before ends), keeps.load load, ?_, ?_, ?_⟩
  · rw [after.rest, (y.complete_talk ..).rest, goes.talk.rest, before.rest]
  · rw [keeps.bank load, bank]
  · rw [keeps.bank load, bank]

/-! ### An object arrives -/

theorem State.movedBlocks_talk (s : State) (i type source op passed again : Nat) (lost w : Bool) (counted : Nat) (supply : Bool) :
    s.Talk talkRegs (s.movedBlocks i type source op passed again lost w counted supply) := by
  have counts := (State.Talk.foldl (fun (s : State) _ => s.transient_talk i type source w) (List.range (again - b2n lost)) s).trans
    (State.tally_talk _ i (fun t => { t with blocks := t.blocks + passed }) w)
  unfold State.movedBlocks
  dsimp only
  refine State.Talk.trans ?_ (State.gauge_talk ..)
  split
  · exact counts.trans (State.lastingBlock_talk ..)
  · exact counts

/-- With room in the collector for the events of its window a step is taken (R110). -/
theorem State.unlessFull_window_room {s t : State} {i : Nat} (h : s.overfills i t true = false) : s.unlessFull i t true = t := by
  rw [State.unlessFull, h]
  rfl

section
variable {s u x : State} {ctx : CtxId} {j : Job} {e wire obj : Bytes} {hit : Hit}

/-- The one object of a load that is in flight arrives. -/
theorem exec_shardObjectArrived_one (hj : (s.ctx ctx).load = some j) (ho : j.objects = [e]) (hf : j.finished = []) (he : j.ending = none) (hr : s.stopped = false)
    (ht : s.objectText e wire = (obj, true, u)) (hov : s.overfills ctx (u.objectIn ctx j 0 obj hit) true = false) :
    exec (.shardObjectArrived ctx 0 wire hit) s = .next (u.objectIn ctx j 0 obj hit) := by
  show execShardObjectArrived ctx 0 wire s hit = _
  unfold execShardObjectArrived
  rw [hj]
  dsimp only
  rw [if_neg (by simp [hr, he, ho, hf, inFlight]), ho, List.getD_cons_zero, ht]
  exact congrArg Host.Outcome.next (State.unlessFull_window_room hov)

/-- A bad object is asked for once more (step 4). -/
theorem State.objectIn_bad (ho : j.objects = [e]) (ht : j.tried = []) (hb : objectBad e obj = true) (i : Nat) : u.objectIn i j 0 obj hit =
    (u.setCtx i { u.ctx i with load := some { j with tried := [0], supplies := if u.inSupply then j.supplies ++ [0] else j.supplies } }).askObject e := by
  unfold State.objectIn
  dsimp only
  rw [ho, List.getD_cons_zero, if_pos hb, ht]
  rfl

/-- A good object that is the last one is placed, and the load ends (step 5). -/
theorem State.objectIn_last {i : Nat} (ho : j.objects = [e]) (hf : j.finished = []) (ht : j.tried = []) (he : j.ending = none) (hb : objectBad e obj = false)
    (hfits : field e 16 8 + footprint obj ≤ field j.desc.bytes 32 8) (hl : (moveObject obj hit).lost = false)
    (hx : (u.setCtx i ((u.ctx i).setBank j.desc.loadBank { (u.ctx i).bank j.desc.loadBank with digest := none, broken := true })).placeObject
      (ethOf (u.targetPort (field e 2 1))) j.desc.ctxTag (field j.desc.bytes 24 8 + field e 16 8) (moveObject obj hit).obj = (.ok, x)) :
    u.objectIn i j 0 obj hit = (x.objectMoved i j (u.targetPort (field e 2 1)) obj (moveObject obj hit).passed (moveObject obj hit).again false).endLoad i
      { j with finished := [0], moved := j.moved + 1 } := by
  unfold State.objectIn
  dsimp only
  rw [ho, List.getD_cons_zero, if_neg (by simp [hb]), if_neg (by omega), if_neg (show ¬ j.tried.contains 0 = true by simp [ht]), he]
  dsimp only
  simp only [hl, Bool.false_eq_true, if_false]
  rw [hx]
  dsimp only
  rw [if_neg (by decide), hf, if_pos (by simp), List.nil_append]

end

/-- Settles O32: what storage is asked leaves all but its own accounts (`State.Asks`), and the end of a load is `State.endLoad_ends`. The statement has no clause on the
reads that a repaired object serves, of which its title speaks. -/
theorem loadsComplete : Obligations.LoadsComplete := by
  unfold Obligations.LoadsComplete
  intro s ctx
  refine ⟨?starts, ?arrives⟩
  case starts =>
    intro d rest manifest w h e u hq hm hbad he hv ht hr hh hl hf
    have asks := State.readHeaders_one hr
    have objects := (u.setCtx ctx { u.ctx ctx with load := some (.loadOne d manifest e) }).askObjects_asks (.loadOne d manifest e) []
    refine ⟨_, .loadOne d manifest e, exec_loadShard_one hq hm hbad he hv ht hr hh hl hf, ?_, rfl, rfl, rfl, rfl, ?_, asks.around objects⟩
    · rw [objects.ctx, State.ctx_setCtx_self]
    · rw [objects.ctx, State.ctx_setCtx_self, asks.ctx, State.ctx_setCtx_self]
  case arrives =>
    intro j e wire obj hit u hj ho hf htried he hr ht hov
    have asks : s.Asks u := State.readText_asks ht
    have arrives := exec_shardObjectArrived_one hj ho hf he hr ht hov
    refine ⟨fun hb => ?_, fun x hb hfits hl hx => ?_⟩
    · rw [State.objectIn_bad ho htried hb] at arrives
      refine ⟨_, arrives, ?_, ?_, ?_⟩
      · rw [(State.askObject_asks ..).ctx, State.ctx_setCtx_self]
      · exact (State.askObject_asks ..).hbm.trans asks.hbm
      · exact ((State.askObject_asks ..).ctxState ctx).trans (asks.ctxState ctx)
    · rw [State.objectIn_last ho hf htried he hb hfits hl hx] at arrives
      have moved := x.movedBlocks_talk ctx (objectType obj) (sourceOf 3 (u.targetPort (field e 2 1))) j.desc.index (moveObject obj hit).passed (moveObject obj hit).again
        false true 0 false
      have ends := State.endLoad_ends (x.objectMoved ctx j (u.targetPort (field e 2 1)) obj (moveObject obj hit).passed (moveObject obj hit).again false) ctx
        { j with finished := [0], moved := j.moved + 1 }
      exact ⟨_, arrives, moved.completes_before ends.completes, ends.load, ends.hbm.trans (by unfold State.objectMoved; rw [moved.rest]), ends.digest, ends.whole⟩

end Sys2Proof.Machine

/-! PROOFS. O27: a held block sent again (R270). -/

namespace Sys2Proof.Machine

/-- RESEND sends a held block again to its slot, with the SEQ it has (R270). -/
theorem exec_resend_held {s u : State} {core : CoreId} {m : Culvert} {x : Credit} {b : Held} (h : s.receives m u) (hx : (u.core core).creditFrom m = some x)
    (hb : x.held.find? (fun b => b.seq == bits m.arg 31 8) = some b) (hh : u.honours x.owner = true) (here : u.isHere x.chip = true) :
    ∃ check, exec (.resend core m) s =
      .next (u.emit (.block x.core { blockPacket core x b.slot b.deadline check b.service b.bytes with srcChip := u.self })) := by
  have here : ∀ check, u.isHere (blockPacket core x b.slot b.deadline check b.service b.bytes).dstChip = true := fun _ => here
  refine ⟨if decide ((b.bytes.drop 16).length = 2048) || decide ((b.bytes.drop 16).length = 2064) then crc32c (slice (b.bytes.drop 16) 0 2048) else 0, ?_⟩
  show execResend core m s = _
  unfold execResend State.sendPacket
  rw [h.culvertIn]
  dsimp only
  rw [hx]
  dsimp only
  rw [hb]
  dsimp only
  rw [if_neg (by simp [hh]), if_pos (here _)]
  rfl

/-- A packet carries whole units of 16 bytes (Table 13.5). -/
theorem blockPacket_body_length (core : Nat) (x : Credit) (slot deadline check : Nat) (service : Bool) (body : Bytes) :
    (blockPacket core x slot deadline check service body).body.length = 16 * ceilDiv body.length 16 := length_slice ..

/-- A block of one byte, held for RESEND under SEQ 0. -/
def heldByte : Held := ⟨none, 0, 0, [0], 0, false⟩

/-- Credit entry 0 as it holds that block, for a receiver on this chip. -/
def creditOfByte : Credit := { Credit.idle with state := 1, chip := 16383, held := [heldByte] }

/-- Context 0 runs a bound INVOKE, and core 0 holds a block of one byte that it has sent. -/
def holdsByte : State :=
  ((State.reset.openInvoke 0 ⟨zeros 64, 0, 0, 0, 0⟩).setInv 0 (fun v => { v with bound := true })).setCore 0 (CoreSt.idle.setCred 0 creditOfByte)

/-- The RESEND for it. -/
def resendByte : Culvert := State.message State.reset 16383 0 0x11 0 0 0 0

/-- Refutes O27: its RESEND sends a packet whose body is the held block, byte for byte, and a packet carries whole units of 16 bytes. The credit entry of
`holdsByte` holds a block of one byte, which leaves as 16. With the length of the held block a multiple of 16 among the hypotheses this counterexample is not there. -/
theorem not_tideBlocksComplete : ¬ Obligations.TideBlocksComplete := by
  unfold Obligations.TideBlocksComplete
  intro h
  have received : holdsByte.receives resendByte holdsByte := .inl ⟨rfl, by decide +kernel, rfl⟩
  have entry : (holdsByte.core (0 : CoreId)).creditFrom resendByte = some creditOfByte := by decide +kernel
  have held : creditOfByte.held.find? (fun b => b.seq == bits resendByte.arg 31 8) = some heldByte := by decide +kernel
  have honoured : holdsByte.honours creditOfByte.owner = true := by decide +kernel
  have here : holdsByte.isHere creditOfByte.chip = true := by decide +kernel
  obtain ⟨check, sends⟩ := exec_resend_held received entry held honoured here
  obtain ⟨-, -, -, messages, -⟩ := h holdsByte holdsByte 0
  obtain ⟨t, p, sent, out, body, -⟩ := (messages resendByte creditOfByte received entry).2 heldByte held honoured here
  rw [sends, out] at sent
  obtain rfl : _ = p := by simpa [State.emit] using congrArg State.out (Host.Outcome.next.inj sent)
  have units := (blockPacket_body_length 0 creditOfByte 0 0 check false [0]).symm.trans (congrArg List.length body)
  exact absurd units (by decide)

end Sys2Proof.Machine

/-! PROOFS. O52: blocks that land in a sluice they do not match (R266). -/

namespace Sys2Proof.Machine

/-! ### Landing in an open sluice -/

/-- The block with what strikes it past its header. -/
def struckBlock (p : Packet) (hit : Hit) : Packet := { p with body := slice p.body 0 16 ++ upsetBytes (p.body.drop 16) hit.first }

/-- A block from a core of this chip for one in service lands; where no request waits, that is all (R270, Table 16.3). -/
theorem exec_block_lands {s t : State} {core : CoreId} {p : Packet} {hit : Hit} (htype : p.type = 7) (hs : s.stopped = false) (hr : (s.core core).rst = 0)
    (ht : s.landIn core (struckBlock p hit) = t) (hp : t.parked = []) : exec (.block core none p hit) s = .next t := by
  have lands : s.blockIn core none p hit = t := by
    unfold State.blockIn
    dsimp only
    rw [if_neg (by simp [htype, hs]), if_neg (by simp [hr])]
    exact ht
  show execBlock core none p hit s = _
  unfold execBlock
  rw [lands]
  dsimp only
  rw [if_pos (by simp [hp])]

/-- A block meets a sluice of its own context that is not closing: the polder the handle table lists at its slot (Table 5.8). -/
structure CoreSt.Meets (c : CoreSt) (core : Nat) (p : Packet) (h : Nat) (q : Polder) : Prop where
  above : 0x2000000000000 + core * 0x1000000 ≤ p.offset % 2 ^ 50
  inside : p.offset % 2 ^ 50 - (0x2000000000000 + core * 0x1000000) < spmBytes
  listed : c.polderAt ((p.offset % 2 ^ 50 - (0x2000000000000 + core * 0x1000000)) / granule) = some (h, q)
  owner : q.owner = p.ctxTag
  sluice : q.sluice = true
  opened : q.sluiceState ≠ 2

/-- A block sent again whose header does not belong in the sluice is discarded (R266). -/
theorem State.landIn_again_refused {s : State} {core h : Nat} {p : Packet} {q : Polder} {st : Status} {b : Landed}
    (m : (s.core core).Meets core p h q)
    (hb : q.landed.find? (fun b => b.failed && b.seq % 2 ^ 24 == hdrSeq (slice p.body 0 16)) = some b)
    (hf : ((s.core core).tideRole h).bind (fun (t, r) => s.headerFault q (slice p.body 0 16) t r) = some st) : s.landIn core p = s.faultTag q.owner st := by
  unfold State.landIn
  dsimp only
  rw [if_neg (by have := m.above; have := m.inside; omega), m.listed]
  dsimp only
  rw [if_neg (by simp [m.owner]), if_neg (by simp [m.sluice]), if_neg m.opened, if_neg (by simp [m.owner]), hb]
  dsimp only
  rw [hf]

/-! ### A handle that the table lists twice -/

/-- A tide sluice of context 0, with a block that has failed its check once. -/
def failedSluice : Polder := { Polder.empty with
  valid := true, sluice := true, sluiceState := 1, length := 1, landed := [⟨0, 0, zeros 16, false, true, false, false, false, none⟩] }

/-- The inner ring that handle 2 is the tide of: ring 1, two members. -/
def ringOfTwo : TideBind := ⟨0, 0, 1, false, false, 0, false, 2, 3, none, 1, 1, 0, 0, 2, 0, 2, 0, false, 9, 16383, 9, 16383, 0, 0, 0, 0, 0⟩

/-- Core 0 with two entries under handle 2, the first of them empty and the second the sluice. -/
def listsTwice : State := State.reset.setCore 0 { CoreSt.idle with ht := [(2, Polder.empty), (2, failedSluice)], tides := [ringOfTwo] }

/-- A block for granule 0 of core 0, of ring 0. -/
def blockOfRing0 : Packet := { packetOf 7 16383 0 0 9 (zeros 2064) with offset := 0x2000000000000 }

/-- Refutes O52: the statement reads the sluice it speaks of by its handle, the landing finds it by its slot, and a handle table may list a handle twice. Core 0 of
`listsTwice` has an empty polder and a sluice under handle 2. A block of another ring lands in the sluice, again after a failed check, and is discarded as R266 says; but the
polder that handle 2 names was never the sluice, and shows none of its landed blocks. A table that starts empty and changes by `put` and `del` alone lists no handle twice; where
`polder h` is the sluice the landing finds, which O27 has among its hypotheses, this counterexample is not there. -/
theorem not_mismatchedBlockIsDiscarded : ¬ Obligations.MismatchedBlockIsDiscarded := by
  unfold Obligations.MismatchedBlockIsDiscarded
  intro h
  have fails : failedSluice.landed.any (fun x => x.failed && x.seq % 2 ^ 24 == hdrSeq (slice blockOfRing0.body 0 16)) = true := by decide +kernel
  have ring : hdrRing (slice blockOfRing0.body 0 16) ≠ ringOfTwo.ring := by decide +kernel
  have meets : (listsTwice.core (0 : CoreId)).Meets (0 : CoreId) (struckBlock blockOfRing0 ⟨[], []⟩) 2 failedSluice :=
    ⟨by decide +kernel, by decide +kernel, by decide +kernel, by decide +kernel, rfl, by decide⟩
  obtain ⟨t, lands, -, -, -, landed, -⟩ := h listsTwice listsTwice 0 none blockOfRing0 ⟨[], []⟩ 2 failedSluice ringOfTwo .tide
    (.inl ⟨rfl, rfl⟩) (by decide +kernel) (by decide +kernel) (by decide +kernel) (by simp) (by decide +kernel) meets.above meets.inside meets.listed meets.owner
    meets.sluice meets.opened (.inl fails) (by decide +kernel) (.inl fun ⟨_, _, same, _⟩ => ring same)
  have discards := State.landIn_again_refused (st := .descInvalid) (b := ⟨0, 0, zeros 16, false, true, false, false, false, none⟩) meets
    (by decide +kernel) (by decide +kernel)
  have talk := listsTwice.faultTag_talk failedSluice.owner .descInvalid
  have runs := exec_block_lands (s := listsTwice) (core := 0) (by decide +kernel) (by decide +kernel) (by decide +kernel) discards
    (by rw [talk.rest]; decide +kernel)
  obtain rfl := Host.Outcome.next.inj (runs.symm.trans lands)
  rw [talk.core] at landed
  exact absurd landed (by decide +kernel)

end Sys2Proof.Machine

/-! PROOFS. Sound device memory: reads, merge reads and writes of memory in which no error stands (R298, R300). -/

namespace Sys2Proof.Machine

/-! ### Device memory without errors -/

/-- Device memory in which no error stands and none is on its way. -/
structure State.Sound (s : State) : Prop where
  standing : s.hbmErr = []
  passing : s.hbmPassing = []

section
variable {s : State}

/-- A read of sound memory gives what is stored and changes nothing (R298). -/
theorem State.Sound.readOnce (h : s.Sound) (k sector : Nat) : s.readOnce k sector [] = (some (s.hbm.readN (sector * 32) 32), s) := by
  obtain ⟨he, hp⟩ := h
  have same : { s with hbmPassing := s.hbmPassing.del sector } = s := by
    cases s
    cases hp
    rfl
  unfold State.readOnce State.passing
  dsimp only
  rw [same]
  unfold State.sectorErrs
  rw [he, hp]
  rfl

/-- So does a merge read. -/
theorem State.Sound.mergeSector (h : s.Sound) (sector : Nat) (mirror : Bool) (own : Option (Nat × Bool)) :
    s.mergeSector sector mirror own Noise.none = (some (s.hbm.readN (sector * 32) 32), s) := by
  unfold State.mergeSector
  dsimp only
  rw [show Noise.none.first = [] from rfl, h.readOnce]

theorem Mem.readN_add (m : Mem) (a n k : Nat) : m.readN a (n + k) = m.readN a n ++ m.readN (a + n) k := by
  induction n generalizing a with
  | zero => rw [Nat.zero_add]; rfl
  | succ n ih => rw [Nat.succ_add_eq_add_succ, Nat.add_succ, Mem.readN, ih, Mem.readN, List.cons_append, Nat.add_right_comm, Nat.add_assoc]

theorem Mem.slice_readN (m : Mem) {a n o k : Nat} (h : o + k ≤ n) : slice (m.readN a n) o k = m.readN (a + o) k := by
  obtain ⟨r, rfl⟩ := Nat.exists_eq_add_of_le h
  have cut : ((m.readN a (o + k + r)).drop o).take k = m.readN (a + o) k := by
    rw [Mem.readN_add, Mem.readN_add, List.append_assoc, List.drop_left' (m.readN_length a o), List.take_left' (m.readN_length _ k)]
  unfold slice
  dsimp only
  rw [cut, m.readN_length, Nat.sub_self, List.replicate_zero, List.append_nil]

/-- Sectors of sound memory read through the window. -/
theorem State.Sound.windowSectors (h : s.Sound) (first count : Nat) :
    s.windowSectors first count Noise.none = (some (s.hbm.readN (first * 32) (count * 32)), s) := by
  unfold State.windowSectors
  induction count with
  | zero => rfl
  | succ n ih =>
    have nz : (if n = 0 then Noise.none else Noise.none).first = [] := by split <;> rfl
    rw [List.range_succ, List.foldl_append, ih, List.foldl_cons, List.foldl_nil]
    dsimp only
    rw [nz, h.readOnce, Nat.succ_mul, Mem.readN_add, Nat.add_mul]

/-! ### Bytes laid over bytes -/

theorem overlay_getD {bs xs : Bytes} {o : Nat} (h : o + xs.length ≤ bs.length) (i : Nat) :
    (overlay bs o xs).getD i 0 = if o ≤ i ∧ i < o + xs.length then xs.getD (i - o) 0 else bs.getD i 0 := by
  have front : (bs.take o).length = o := List.length_take_of_le (by omega)
  unfold overlay
  simp only [List.getD_eq_getElem?_getD]
  by_cases h1 : i < o
  · rw [if_neg (by omega), List.append_assoc, List.getElem?_append_left (by omega), List.getElem?_take_of_lt h1]
  by_cases h2 : i < o + xs.length
  · rw [if_pos ⟨by omega, h2⟩, List.getElem?_append_left (by rw [List.length_append]; omega), List.getElem?_append_right (by omega), front]
  · rw [if_neg (by omega), List.getElem?_append_right (by rw [List.length_append]; omega), List.length_append, front, List.getElem?_drop]
    congr 2
    omega

theorem overlay_length {bs xs : Bytes} {o : Nat} (h : o + xs.length ≤ bs.length) : (overlay bs o xs).length = bs.length := by
  unfold overlay
  simp only [List.length_append, List.length_take, List.length_drop]
  omega

theorem slice_length (bs : Bytes) (o n : Nat) : (slice bs o n).length = n := by
  unfold slice
  simp only [List.length_append, List.length_take, List.length_drop, List.length_replicate]
  omega

theorem slice_getD {bs : Bytes} {o n i : Nat} (h : i < n) : (slice bs o n).getD i 0 = bs.getD (o + i) 0 := by
  unfold slice
  dsimp only
  simp only [List.getD_eq_getElem?_getD]
  by_cases hi : i < ((bs.drop o).take n).length
  · rw [List.getElem?_append_left hi, List.getElem?_take_of_lt h, List.getElem?_drop]
  · have beyond : bs[o + i]? = none := List.getElem?_eq_none (by simp only [List.length_take, List.length_drop] at hi; omega)
    rw [List.getElem?_append_right (by omega), beyond, List.getElem?_replicate]
    split <;> rfl

theorem Mem.readN_getD (m : Mem) {a n i : Nat} (h : i < n) : (m.readN a n).getD i 0 = m.read (a + i) := by
  induction n generalizing a i with
  | zero => omega
  | succ n ih =>
    cases i with
    | zero => rfl
    | succ i => rw [Mem.readN, List.getD_cons_succ, ih (by omega), Nat.add_assoc, Nat.add_comm 1]

/-- A read after bytes have been written: theirs at their addresses, the old ones elsewhere. -/
theorem Mem.read_writeN_eq {m : Mem} (h : m.wf = true) (a : Nat) (bs : Bytes) (x : Nat) :
    (m.writeN a bs).read x = if a ≤ x ∧ x < a + bs.length then bs.getD (x - a) 0 else m.read x := by
  split
  next hx =>
    obtain ⟨j, rfl⟩ := Nat.exists_eq_add_of_le hx.1
    have hj : j < bs.length := by omega
    rw [Mem.read_writeN h a bs j hj, Nat.add_sub_cancel_left, List.getD_eq_getElem _ _ hj]
  next hx => exact Mem.read_writeN_outside h a x bs (by omega)

/-- Memory that reads as the bytes written. -/
theorem Mem.readN_eq {m : Mem} {a : Nat} {bs : Bytes} (h : ∀ i < bs.length, m.read (a + i) = bs.getD i 0) : m.readN a bs.length = bs := by
  refine List.ext_getElem (m.readN_length ..) fun i h1 h2 => ?_
  rw [← List.getD_eq_getElem _ 0 h1, ← List.getD_eq_getElem _ 0 h2, m.readN_getD h2, h i h2]

/-! ### Writes to sound memory -/

/-- One sector of a write: replaced when the write covers it, else merged (R300). -/
def State.writeSector (s : State) (dpa : Nat) (bs : Bytes) (mirror : Bool) (own : Option (Nat × Bool)) (noise : Noise) (sector : Nat) : Bool × State :=
  let lo := max dpa (sector * 32)
  let hi := min (dpa + bs.length) (sector * 32 + 32)
  let part := slice bs (lo - dpa) (hi - lo)
  if hi - lo = 32 then (true, s.rewriteBoth sector part mirror)
  else match s.mergeSector sector mirror own noise with
    | (some old, s) => (true, s.rewriteBoth sector (overlay old (lo - sector * 32) part) mirror)
    | (none, s) => (false, s)

/-- A write goes sector by sector until a merge read fails. -/
theorem State.writeOne_sectors (s : State) (dpa : Nat) {bs : Bytes} (h : bs ≠ []) (mirror : Bool) (own : Option (Nat × Bool)) (noise : Noise) :
    s.writeOne dpa bs mirror own noise = (List.range ((dpa + bs.length - 1) / 32 + 1 - dpa / 32)).foldl (fun (acc : Bool × State) j =>
      if !acc.1 then acc else acc.2.writeSector dpa bs mirror own (if j = 0 then noise else Noise.none) (dpa / 32 + j)) (true, s) := by
  unfold State.writeOne
  rw [if_neg (by simpa using h)]
  rfl

/-- Memory after a sector of a write: the bytes of the write that lie in it, and else as before. -/
theorem State.Sound.writeSector (h : s.Sound) (hw : s.hbm.wf = true) {dpa sector : Nat} {bs : Bytes} (own : Option (Nat × Bool))
    (h1 : dpa < sector * 32 + 32) (h2 : sector * 32 < dpa + bs.length) :
    ∃ m : Mem, s.writeSector dpa bs false own Noise.none sector = (true, { s with hbm := m }) ∧ m.wf = true ∧
      ∀ x, m.read x = if dpa ≤ x ∧ x < dpa + bs.length ∧ x / 32 = sector then bs.getD (x - dpa) 0 else s.hbm.read x := by
  have rewrites : ∀ y, s.rewriteBoth sector y false = { s with hbm := s.hbm.writeN (sector * 32) y } := fun y => by
    obtain ⟨he, -⟩ := h
    cases s
    cases he
    rfl
  generalize hlo : max dpa (sector * 32) = lo
  generalize hhi : min (dpa + bs.length) (sector * 32 + 32) = hi
  have fits : lo - sector * 32 + (slice bs (lo - dpa) (hi - lo)).length ≤ (s.hbm.readN (sector * 32) 32).length := by
    rw [slice_length, Mem.readN_length]
    omega
  -- in either case the sector becomes the old one with the write's part laid over it
  have writes : s.writeSector dpa bs false own Noise.none sector =
      (true, { s with hbm := s.hbm.writeN (sector * 32) (overlay (s.hbm.readN (sector * 32) 32) (lo - sector * 32) (slice bs (lo - dpa) (hi - lo))) }) := by
    unfold State.writeSector
    dsimp only
    rw [hlo, hhi, h.mergeSector]
    dsimp only
    rw [rewrites, rewrites]
    split
    next whole =>
      have all : overlay (s.hbm.readN (sector * 32) 32) (lo - sector * 32) (slice bs (lo - dpa) (hi - lo)) = slice bs (lo - dpa) (hi - lo) := by
        have len := slice_length bs (lo - dpa) (hi - lo)
        unfold overlay
        rw [show lo - sector * 32 = 0 by omega, List.take_zero, List.nil_append, List.drop_eq_nil_of_le (by rw [Mem.readN_length]; omega), List.append_nil]
      rw [all]
    · rfl
  refine ⟨_, writes, Mem.writeN_wf _ _ hw, fun x => ?_⟩
  rw [Mem.read_writeN_eq hw, overlay_length fits, Mem.readN_length]
  by_cases inside : sector * 32 ≤ x ∧ x < sector * 32 + 32
  · rw [if_pos inside, overlay_getD fits, slice_length, Mem.readN_getD _ (by omega)]
    by_cases written : dpa ≤ x ∧ x < dpa + bs.length
    · rw [if_pos (by omega), if_pos (by omega), slice_getD (by omega)]
      congr 1
      omega
    · rw [if_neg (by omega), if_neg (by omega)]
      congr 1
      omega
  · rw [if_neg inside, if_neg (by omega)]

/-- A write to sound memory puts its bytes there, leaves every other byte, and changes no more (R300). -/
theorem State.Sound.writeOne (h : s.Sound) (hw : s.hbm.wf = true) (dpa : Nat) {bs : Bytes} (hbs : bs ≠ []) (own : Option (Nat × Bool)) :
    ∃ m : Mem, s.writeOne dpa bs false own Noise.none = (true, { s with hbm := m }) ∧ m.wf = true ∧ m.readN dpa bs.length = bs ∧
      ∀ a, a < dpa ∨ dpa + bs.length ≤ a → m.read a = s.hbm.read a := by
  have len : 0 < bs.length := List.length_pos_iff.2 hbs
  rw [State.writeOne_sectors s dpa hbs]
  have inv : ∀ n, n ≤ (dpa + bs.length - 1) / 32 + 1 - dpa / 32 → ∃ m : Mem, (List.range n).foldl (fun (acc : Bool × State) j =>
      if !acc.1 then acc else acc.2.writeSector dpa bs false own (if j = 0 then Noise.none else Noise.none) (dpa / 32 + j)) (true, s) =
        (true, { s with hbm := m }) ∧ m.wf = true ∧
      ∀ x, m.read x = if dpa ≤ x ∧ x < dpa + bs.length ∧ x / 32 < dpa / 32 + n then bs.getD (x - dpa) 0 else s.hbm.read x := by
    intro n hn
    induction n with
    | zero => exact ⟨s.hbm, rfl, hw, fun x => by rw [if_neg (by omega)]⟩
    | succ n ih =>
      obtain ⟨m, done, wf, reads⟩ := ih (by omega)
      obtain ⟨m', wrote, wf', reads'⟩ := State.Sound.writeSector (s := { s with hbm := m }) ⟨h.standing, h.passing⟩ wf (dpa := dpa) (bs := bs) (sector := dpa / 32 + n) own
        (by omega) (by omega)
      refine ⟨m', ?_, wf', fun x => ?_⟩
      · rw [List.range_succ, List.foldl_append, done, List.foldl_cons, List.foldl_nil, ite_self]
        exact wrote
      · rw [reads', reads]
        split
        · rw [if_pos (by omega)]
        · split
          · rw [if_pos (by omega)]
          · rw [if_neg (by omega)]
  obtain ⟨m, done, wf, reads⟩ := inv _ le_rfl
  refine ⟨m, done, wf, Mem.readN_eq fun i hi => ?_, fun a ha => ?_⟩
  · rw [reads, if_pos (by omega), Nat.add_sub_cancel_left]
  · rw [reads, if_neg (by omega)]

end

end Sys2Proof.Machine

/-! PROOFS. O14: the HBM window (R385, R431, Table 15.3). -/

namespace Sys2Proof.Machine

/-! ### What the window lets through -/

section
variable {s : State} {dpa n : Nat}

/-- The sectors of an access lie between its first one and its end. -/
theorem sector_within {a : Nat} (hn : n ≠ 0) (h : a ∈ (List.range ((dpa + n - 1) / 32 + 1 - dpa / 32)).map (fun j => (dpa / 32 + j) * 32)) :
    dpa / 32 * 32 ≤ a ∧ a < dpa + n := by
  obtain ⟨j, hj, rfl⟩ := List.mem_map.1 h
  have := List.mem_range.1 hj
  omega

/-- The first sector is among them. -/
theorem first_sector_mem (hn : n ≠ 0) : dpa / 32 * 32 ∈ (List.range ((dpa + n - 1) / 32 + 1 - dpa / 32)).map (fun j => (dpa / 32 + j) * 32) :=
  List.mem_map.2 ⟨0, List.mem_range.2 (by omega), by rw [Nat.add_zero]⟩

theorem regionOf_tables {a : Nat} (h1 : 0x13F00000000 ≤ a) (h2 : a < 0x14000000000) : regionOf a = .tables := by
  unfold regionOf
  rw [if_neg (by omega), if_neg (by omega), if_neg (by omega), if_pos h2]

theorem regionOf_firmware {a : Nat} (h1 : 0x13E00000000 ≤ a) (h2 : a < 0x13F00000000) : regionOf a = .firmware := by
  unfold regionOf
  rw [if_neg (by omega), if_neg (by omega), if_pos h2]

/-- Above the dump region lies no context's memory. -/
theorem regionOf_ne_context {a : Nat} (h : 0x13E00000000 ≤ a) : regionOf a ≠ .context := by
  unfold regionOf
  rw [if_neg (by omega), if_neg (by omega)]
  split_ifs <;> decide

/-- The page-table area is open to reads and writes while every stack is up (Table 15.3). -/
theorem State.windowCheck_tables (hn : n ≠ 0) (hh : s.hscs = []) (hf : s.failed = false) (h1 : 0x13F00000000 ≤ dpa) (h2 : dpa + n ≤ 0x14000000000) (write : Bool) :
    s.windowCheck dpa n write = (true, s) := by
  have up : ∀ a, s.stackDown a = false := fun a => by unfold State.stackDown State.hsc; rw [hh]; rfl
  unfold State.windowCheck
  dsimp only
  refine if_pos (List.all_eq_true.2 fun a ha => ?_)
  obtain ⟨lo, hi⟩ := sector_within hn ha
  unfold State.windowAllows
  rw [regionOf_tables (by omega) (by omega), up, hf]
  rfl

/-- The firmware region is closed to the window; that is counted, and the expert gate has no part in it (R385). -/
theorem State.windowCheck_firmware (hn : n ≠ 0) (h1 : 0x13E00000000 ≤ dpa) (h2 : dpa < 0x13F00000000) (write : Bool) :
    s.windowCheck dpa n write = (false, s.bump F.hiuEventsWinRefused) := by
  have closed : ∀ b, ((s.windowAllows (dpa / 32 * 32) write).1 && b) = false := fun b => by
    unfold State.windowAllows
    rw [regionOf_firmware (by omega) (by omega)]
    rfl
  have ungated : ∀ a, regionOf a ≠ .context → ((s.bump F.hiuEventsWinRefused).windowAllows a write).2 = false := fun a ha => by
    unfold State.windowAllows
    split
    next h => exact absurd h ha
    all_goals rfl
  unfold State.windowCheck
  dsimp only
  rw [if_neg, if_neg]
  · intro gated
    obtain ⟨a, ha, e⟩ := List.any_eq_true.1 gated
    have lo := (sector_within hn ha).1
    rw [ungated a (regionOf_ne_context (by omega))] at e
    exact Bool.false_ne_true e
  · intro all
    exact Bool.false_ne_true ((closed _).symm.trans (List.all_eq_true.1 all _ (first_sector_mem hn)))

end

/-! ### WINDOW_READ and WINDOW_WRITE -/

section
variable {s t : State} {off len : Nat} {data : Bytes}

theorem exec_windowRead_warming (h : s.warming = true) (noise : Noise) :
    exec (.windowRead off len noise) s = .next (s.emit (.windowData (some (List.replicate len 0xFF)))) := by
  show execWindowRead off len noise s = _
  unfold execWindowRead
  rw [if_pos h]

/-- A device that takes work has power, and runs neither a warm reset nor its recovery. -/
theorem State.stopped_parts (h : s.stopped = false) : s.warming = false ∧ s.failed = false ∧ s.boot.rom = false ∧ s.power = .on := by
  unfold State.stopped at h
  simp only [Bool.or_eq_false_iff, bne_eq_false_iff_eq] at h
  obtain ⟨⟨⟨warm, failed⟩, rom⟩, power⟩ := h
  exact ⟨warm, failed, rom, power⟩

/-- A read of a running device is checked, and what it may read is read sector by sector (R385). -/
theorem execWindowRead_running (hs : s.stopped = false) (hn : len ≠ 0) (hb : off + len ≤ s.bar4) (noise : Noise) :
    let dpa := s.getF F.hiuWinBaseBase + off
    execWindowRead off len noise s = match s.windowCheck dpa len false with
      | (false, s) => .next (s.emit (.windowData none))
      | (true, s) => match s.windowSectors (dpa / 32) ((dpa + len - 1) / 32 + 1 - dpa / 32) noise with
        | (some bs, s) => .next (s.emit (.windowData (some (slice bs (dpa % 32) len))))
        | (none, s) => .next ((s.bump F.hiuEventsWinUncorr).emit (.windowData none)) := by
  obtain ⟨warm, -, rom, power⟩ := State.stopped_parts hs
  unfold execWindowRead
  refine (if_neg ?_).trans ((if_neg ?_).trans rfl)
  · simp [warm]
  · simp [rom, power, hn, State.inWindow, hb]

/-- A read of an area that the window may not reach is answered with Completer Abort. -/
theorem exec_windowRead_refused (hs : s.stopped = false) (hn : len ≠ 0) (hb : off + len ≤ s.bar4)
    (hc : s.windowCheck (s.getF F.hiuWinBaseBase + off) len false = (false, t)) (noise : Noise) :
    exec (.windowRead off len noise) s = .next (t.emit (.windowData none)) := by
  show execWindowRead off len noise s = _
  rw [execWindowRead_running hs hn hb, hc]

/-- A read of sound memory that the window may reach is answered with the bytes there. -/
theorem exec_windowRead_sound (hs : s.stopped = false) (hn : len ≠ 0) (hb : off + len ≤ s.bar4) (h : s.Sound)
    (hc : s.windowCheck (s.getF F.hiuWinBaseBase + off) len false = (true, s)) :
    exec (.windowRead off len Noise.none) s = .next (s.emit (.windowData (some (s.hbm.readN (s.getF F.hiuWinBaseBase + off) len)))) := by
  show execWindowRead off len Noise.none s = _
  rw [execWindowRead_running hs hn hb, hc]
  generalize s.getF F.hiuWinBaseBase + off = dpa
  dsimp only
  rw [h.windowSectors]
  dsimp only
  rw [Mem.slice_readN _ (by omega), Nat.div_add_mod']

/-- A write of a running device is checked, and kept when no merge read fails (R300, R385). -/
theorem execWindowWrite_running (hs : s.stopped = false) (hd : data ≠ []) (hb : off + data.length ≤ s.bar4) (noise : Noise) :
    let dpa := s.getF F.hiuWinBaseBase + off
    execWindowWrite off data noise s = match s.windowCheck dpa data.length true with
      | (false, s) => .next s
      | (true, s) => match s.writeOne dpa data false none noise with
        | (true, s) => .next s
        | (false, t) => .next ({ t with hbm := s.hbm, hbmErr := s.hbmErr }.bump F.hiuEventsWinUncorr) := by
  unfold execWindowWrite
  refine (if_neg ?_).trans rfl
  simp [hs, hd, State.inWindow, hb]

end

/-- Settles O14: what the window lets through is `State.windowCheck_tables` and `State.windowCheck_firmware`, what it reads and writes there is what sound memory holds
(`State.Sound.windowSectors`, `State.Sound.writeOne`). -/
theorem windowComplete : Obligations.WindowComplete := by
  unfold Obligations.WindowComplete
  intro s off len data dpa
  refine ⟨fun hw => ⟨_, exec_windowRead_warming hw _, rfl, rfl⟩, fun hs hn hb hh he hp h1 h2 => ?reads, fun hs hn hb h1 h2 => ?readRefused,
    fun hs hd hb h1 h2 => ?writeRefused, fun hs hd hb hm hh he hp h1 h2 => ?writes⟩
  case reads =>
    obtain ⟨-, failed, -⟩ := State.stopped_parts hs
    exact ⟨_, exec_windowRead_sound hs hn hb ⟨he, hp⟩ (State.windowCheck_tables hn hh failed h1 h2 false), rfl, rfl, rfl⟩
  case readRefused => exact ⟨_, exec_windowRead_refused hs hn hb (State.windowCheck_firmware hn h1 h2 false) _, rfl⟩
  case writeRefused =>
    have hn : data.length ≠ 0 := by simpa using hd
    show execWindowWrite off data Noise.none s = _
    rw [execWindowWrite_running hs hd hb, State.windowCheck_firmware hn h1 h2]
  case writes =>
    have hn : data.length ≠ 0 := by simpa using hd
    obtain ⟨-, failed, -⟩ := State.stopped_parts hs
    obtain ⟨wf, -⟩ := Bool.and_eq_true_iff.1 hm
    obtain ⟨m, wrote, -, reads, others⟩ := State.Sound.writeOne ⟨he, hp⟩ wf dpa hd none
    refine ⟨{ s with hbm := m }, ?_, reads, others, rfl, rfl, rfl⟩
    show execWindowWrite off data Noise.none s = _
    rw [execWindowWrite_running hs hd hb, State.windowCheck_tables hn hh failed h1 h2]
    dsimp only
    rw [wrote]

end Sys2Proof.Machine

/-! PROOFS. O49: the loss of a reference during a warm reset (R431, R478). -/

namespace Sys2Proof.Machine

/-- While a device warm reset runs, a register read returns all ones (R431). -/
theorem State.view_warming {s : State} (h : s.warming = true) (r : Reg) (i : Nat) : s.view r i = 2 ^ r.info.width - 1 := by
  unfold State.view
  rw [if_pos h]

/-- A device with power whose warm reset runs. -/
def warmResetRunning : State := { State.reset with warmAt := some 0 }

/-- Refutes O49: its clause on the loss of a reference reads the lock bit as a register read does, and asks no more than power. While a warm reset runs (`warmResetRunning`)
every read returns all ones (R431), that of CLK_REF included, whatever lock the device has lost. -/
theorem not_weirAndTemperatureComplete : ¬ Obligations.WeirAndTemperatureComplete := by
  unfold Obligations.WeirAndTemperatureComplete
  intro h
  obtain ⟨-, -, -, -, -, -, -, ⟨t, -, lost, onlyRegs⟩, -, -⟩ := h warmResetRunning rfl
  have warming : t.warming = true := by
    rw [onlyRegs]
    rfl
  rw [State.view_warming warming] at lost
  exact absurd lost (by decide)

end Sys2Proof.Machine

/-! PROOFS. O29: packets served, answered and matched with the requests that wait (R300, R305, R310, R351, R352, R427). -/

namespace Sys2Proof.Machine

section
variable {s u : State} {port : PortId} {p : Packet}

/-! ### Requests served for other chips -/

/-- An answer goes out, and may fault the context of a request from outside its block (R378). -/
theorem State.answer_talk (s : State) (p : Packet) (st : Status) (body : Bytes) : s.Talk faultRegs (s.answer p st body) := by
  have sent := (s.launch_talk (answerPacket p st body)).faulting
  unfold State.answer
  dsimp only
  split
  · exact sent.trans (State.faultTag_talk ..)
  · exact sent

theorem exec_read_delivered (h : s.delivered port p u) (hp : p.type = 1) : exec (.read port p) s = .next (u.serveRead port p) := by
  show execRead port p s = _
  unfold execRead
  rw [h.packetIn]
  exact congrArg _ (if_pos hp)

theorem exec_write_delivered (h : s.delivered port p u) (hp : p.type = 2) : exec (.write port p) s = .next (u.serveWrite port p) := by
  show execWrite port p s = _
  unfold execWrite
  rw [h.packetIn]
  exact congrArg _ (if_pos hp)

/-- Room in the collector for the events of a request: it is served. -/
theorem State.serveOr_room {t : State} (h : u.overfills (tagIndex p.ctxTag) t = false) : u.serveOr port p t = t := by
  unfold State.serveOr
  rw [h]
  exact if_neg Bool.false_ne_true

/-- What a read for another chip comes to: an answer, or a wait for memory under repair (R299). -/
def readAnswer (port : PortId) (p : Packet) : Fetched × State → State
  | (.data bs, x) => x.answer p .ok bs
  | (.failed st, x) => x.answer p st
  | (.wait, x) => x.park port p

theorem State.serveRead_open (h : u.windowDiked (p.offset % 2 ^ 50) = false) : u.serveRead port p =
    u.serveOr port p (readAnswer port p (u.readOffset (.link port) p.ctxTag (p.offset % 2 ^ 50) p.size (packetUnits p))) := by
  unfold State.serveRead
  dsimp only
  rw [h]
  rfl

theorem State.serveRead_diked (h : u.windowDiked (p.offset % 2 ^ 50) = true) : u.serveRead port p = u.answer p .fenced := by
  unfold State.serveRead
  exact if_pos h

/-- No scratchpad window begins below bit 48. -/
theorem State.windowDiked_hbm {off : Nat} (h : off < 2 ^ 48) : u.windowDiked off = false := by
  unfold State.windowDiked windowCore
  rw [if_neg (by omega)]

theorem State.serveWrite_damaged (h : crc32c (slice p.body 0 (writeLen p)) ≠ p.check) : u.serveWrite port p = u.answer p .damagedBlock := by
  unfold State.serveWrite
  exact if_pos h

theorem State.serveWrite_window (h : crc32c (slice p.body 0 (writeLen p)) = p.check) (ho : 2 ^ 48 ≤ p.offset % 2 ^ 50) : u.serveWrite port p =
    u.answer p (if u.windowDiked (p.offset % 2 ^ 50) then .fenced else u.windowWrite p.ctxTag (p.offset % 2 ^ 50)) := by
  unfold State.serveWrite
  dsimp only
  rw [if_neg (not_not_intro h), if_pos ho]
  split <;> rfl

theorem State.serveWrite_hbm {st : Status} {x : State} (h : crc32c (slice p.body 0 (writeLen p)) = p.check) (ho : p.offset % 2 ^ 50 < 2 ^ 48)
    (hw : u.writeVa (.link port) p.ctxTag (p.offset % 2 ^ 50) (slice p.body 0 (writeLen p)) false (packetUnits p) = (st, x)) :
    u.serveWrite port p = u.serveOr port p (x.answer p st) := by
  unfold State.serveWrite
  dsimp only
  rw [hw, State.windowDiked_hbm ho]
  exact (if_neg (not_not_intro h)).trans ((if_neg Bool.false_ne_true).trans (if_neg (Nat.not_le.2 ho)))

/-! ### Responses to this chip's requests -/

/-- An answer to a READ no longer asked is dropped (R427). -/
theorem exec_readData_late (h : s.delivered port p u) (hr : u.requests.find? (fun r => r.txn == p.txn && r.packet.type == 1) = none) :
    exec (.readData port p) s = .next (u.bump F.lnkDropDiked port) := by
  show execReadData port p s = _
  unfold execReadData
  rw [h.packetIn]
  dsimp only
  rw [hr]
  rfl

/-- Data that passes its CHECK goes to the stream block that asked (R352). -/
theorem exec_readData_stream {r : Request} {core j index : Nat} (h : s.delivered port p u)
    (hr : u.requests.find? (fun r => r.txn == p.txn && r.packet.type == 1) = some r) (hst : Status.ofCode p.status = some .ok)
    (hcrc : crc32c (slice p.body 0 r.packet.size) = p.check) (hw : r.who = .stream core j index) (ha : r.again = false) :
    exec (.readData port p) s = .next ((u.dropRequest r.txn).pieceIn core j index r.piece .ok (slice p.body 0 r.packet.size)) := by
  show execReadData port p s = _
  unfold execReadData State.pieceRetried
  rw [h.packetIn]
  dsimp only
  rw [hr, hst]
  dsimp only
  rw [ha, hw, if_neg (not_not_intro hcrc)]
  rfl

/-- An acknowledgement goes to the stream write that waits for it. -/
theorem exec_writeAck_stream {r : Request} {core j index : Nat} (h : s.delivered port p u)
    (hr : u.requests.find? (fun r => r.txn == p.txn && r.packet.type == 2) = some r) (hst : Status.ofCode p.status = some .ok)
    (hw : r.who = .streamWrite core j index) (ha : r.again = false) : exec (.writeAck port p) s = .next ((u.dropRequest r.txn).writeIn core j index .ok) := by
  show execWriteAck port p s = _
  unfold execWriteAck State.pieceRetried State.requestEnds
  rw [h.packetIn]
  dsimp only
  rw [hr, hst]
  dsimp only
  rw [ha, hw]
  rfl

theorem exec_mgmt_delivered (h : s.delivered port p u) (hp : p.type = 9) : exec (.mgmt port p) s = .next (u.emit (.mgmt p.srcChip p.body)) := by
  show execMgmt port p s = _
  unfold execMgmt
  rw [h.packetIn]
  exact congrArg _ (if_pos hp)

/-- A request taken out waits no more. -/
theorem State.dropRequest_ne (s : State) (txn : Nat) : ∀ q ∈ (s.dropRequest txn).requests, q.txn ≠ txn := fun q hq => by
  obtain ⟨-, h⟩ := List.mem_filter.1 hq
  exact fun e => by simp [e] at h

/-- The bytes laid over others are there. -/
theorem slice_overlay {bs xs : Bytes} {o : Nat} (h : o + xs.length ≤ bs.length) : slice (overlay bs o xs) o xs.length = xs := by
  refine List.ext_getElem (slice_length ..) fun i h1 h2 => ?_
  rw [← List.getD_eq_getElem _ 0 h1, ← List.getD_eq_getElem _ 0 h2, slice_getD h2, overlay_getD h, if_pos (by omega), Nat.add_sub_cancel_left]

/-- A block of plain data with a piece of it arrived. -/
def StrmBlock.withPiece (b : StrmBlock) (piece : Nat) (bs : Bytes) : StrmBlock :=
  { b with waiting := b.waiting - 1, data := overlay (slice b.data 0 (max b.data.length (piece + bs.length))) piece bs }

theorem StrmBlock.slice_withPiece (b : StrmBlock) (piece : Nat) (bs : Bytes) : slice (b.withPiece piece bs).data piece bs.length = bs :=
  slice_overlay (by rw [slice_length]; exact Nat.le_max_right ..)

/-- A piece of a block that is read as it is: it fills its place there. -/
theorem State.pieceIn_plain {core j index piece : Nat} {bs : Bytes} {x : Run} {b : StrmBlock} (hrun : ((u.core core).strm j).run = some x)
    (hcmp : x.desc.srcCmp = false) (hb : x.flight.find? (fun b => b.index == index) = some b) (hst : b.status = .ok) :
    u.pieceIn core j index piece .ok bs = u.setRun core j (x.withBlock (b.withPiece piece bs)) := by
  rw [← State.setBlock_eq hrun]
  unfold State.pieceIn
  dsimp only
  rw [hrun]
  dsimp only
  rw [hb, hcmp]
  cases b
  cases hst
  rfl

end

/-- Settles O29: each type of packet by what it is served with (`State.serveRead_open`, `State.serveWrite_hbm`, …) or by the request it ends (`exec_readData_stream`,
`exec_writeAck_stream`). -/
theorem packetsComplete : Obligations.PacketsComplete := by
  unfold Obligations.PacketsComplete
  intro s u port p hin i off got
  refine ⟨fun hp hd => ?reads, fun hp hd => ?readDiked, fun hp hcrc => ?writeDamaged, fun hp hcrc hoff st x hw hroom => ?writes,
    fun hp hcrc hoff => ?writeWindow, fun hr => exec_readData_late hin hr, fun r core j index x b hr hst hcrc hw ha hx hcmp hb hok => ?readData,
    fun r core j index x hr hst hw ha hx hok => ?writeAck, fun hp => ⟨_, exec_mgmt_delivered hin hp, rfl⟩⟩
  case reads =>
    have served : ∀ g, got = g → u.overfills i (readAnswer port p g) = false → exec (.read port p) s = .next (readAnswer port p g) := fun g hg hroom => by
      rw [← hg] at hroom ⊢
      rw [exec_read_delivered hin hp, State.serveRead_open hd]
      exact congrArg _ (State.serveOr_room hroom)
    exact ⟨fun bs x hg hroom => served (.data bs, x) hg hroom, fun st x hg hroom => served (.failed st, x) hg hroom,
      fun x hg hroom => ⟨_, served (.wait, x) hg hroom, rfl, rfl⟩⟩
  case readDiked => rw [exec_read_delivered hin hp, State.serveRead_diked hd]
  case writeDamaged =>
    rw [exec_write_delivered hin hp, State.serveWrite_damaged hcrc]
    exact ⟨_, rfl, rfl, by rw [(u.answer_talk ..).rest]⟩
  case writes =>
    rw [exec_write_delivered hin hp, State.serveWrite_hbm hcrc hoff hw, State.serveOr_room hroom]
    exact ⟨_, rfl, rfl, by rw [(x.answer_talk ..).rest], (x.answer_talk ..).cores⟩
  case writeWindow =>
    rw [exec_write_delivered hin hp, State.serveWrite_window hcrc hoff]
    exact ⟨_, rfl, by rw [(u.answer_talk ..).rest], (u.answer_talk ..).cores, rfl⟩
  case readData =>
    have index_eq : b.index = index := by simpa using List.find?_some hb
    have len := slice_length p.body 0 r.packet.size
    have fills := b.slice_withPiece r.piece (slice p.body 0 r.packet.size)
    rw [len] at fills
    refine ⟨_, x.withBlock (b.withPiece r.piece (slice p.body 0 r.packet.size)),
      (exec_readData_stream hin hr hst hcrc hw ha).trans (congrArg _ (State.pieceIn_plain hx hcmp hb hok)), by simp, u.dropRequest_ne r.txn, rfl, fun z hz hi => ?_⟩
    obtain rfl := mem_withBlock hz (hi.trans index_eq.symm)
    exact ⟨rfl, hok, fills⟩
  case writeAck =>
    refine ⟨_, exec_writeAck_stream hin hr hst hw ha, ?_⟩
    have acked : (u.dropRequest r.txn).writeIn core j index .ok = (u.dropRequest r.txn).setRun core j { x with acks := x.acks.erase index } := by
      unfold State.writeIn
      dsimp only
      rw [show (u.dropRequest r.txn).core core = u.core core from rfl, hx]
      dsimp only
      rw [hok]
      cases x
      cases hok
      rfl
    rw [acked]
    exact ⟨by simp, u.dropRequest_ne r.txn, rfl⟩

end Sys2Proof.Machine

/-! PROOFS. What a write of device memory leaves alone (R300, R301, R305 to R312): a property that stands through each of its steps stands through the write (`SurvivesWrites`). -/

namespace Sys2Proof.Machine

/-! ### What writes of device memory leave alone -/

/-- A property of states that stands whatever a write does beside its bytes: errors found and put right, translations cached, registers, the counts and gauges of the contexts. -/
structure SurvivesWrites (P : State → Prop) : Prop where
  memory : ∀ s m e p, P s → P { s with hbm := m, hbmErr := e, hbmPassing := p }
  caches : ∀ s a b c, P s → P { s with tlb := a, slices := b, nodes := c }
  setF : ∀ s f v i, P s → P (s.setF f v i)
  events : ∀ s l, P s → P { s with events := l }
  tally : ∀ s i f w, P s → P (s.tally i f w)
  gauge : ∀ s i g w, P s → P (s.gauge i g w)

namespace SurvivesWrites

section
variable {P : State → Prop} {s : State}

/-- What a pair of a result and a state came from has the property. -/
theorem of_eq {α : Type} {t : State} {x : α × State} {a : α} (h : P x.2) (e : x = (a, t)) : P t := by
  subst e
  exact h

theorem of_ite {α : Type} {p : Prop} [Decidable p] {x y : α × State} (hx : P x.2) (hy : P y.2) : P (if p then x else y).2 := by
  split
  · exact hx
  · exact hy

variable (hP : SurvivesWrites P)
include hP

theorem bump (h : P s) (f : Fld) (i n : Nat) : P (s.bump f i n) := hP.setF s f _ i h

theorem log (h : P s) (code source tag : Nat) (st : Status) (sev : Nat) (arg : Bytes) : P (s.log code source tag st sev arg) := by
  obtain ⟨l, hl⟩ := s.log_rest code source tag st sev arg
  rw [hl]
  exact hP.events s l h

theorem rewrite (h : P s) (sector : Nat) (bs : Bytes) : P (s.rewrite sector bs) := hP.memory s _ _ s.hbmPassing h

theorem readOnce (h : P s) (k sector : Nat) (noise : Upset) : P (s.readOnce k sector noise).2 := by
  have taken := hP.memory s s.hbm s.hbmErr (s.hbmPassing.del sector) h
  unfold State.readOnce
  dsimp only
  split
  · split
    · exact taken
    · exact hP.rewrite (hP.bump taken ..) ..
  · exact taken

theorem badSector (h : P s) (k dpa : Nat) (scrub : Bool) : P (s.badSector k dpa scrub) := hP.setF _ _ _ _ (hP.setF _ _ _ _ (hP.setF s _ _ _ h))

theorem readBack (h : P s) (k sector : Nat) (noise : Upset) : P (s.readBack k sector noise) := by
  have read := hP.readOnce h k sector noise
  unfold State.readBack
  split
  next e => exact of_eq read e
  next e => exact hP.badSector (of_eq read e) ..

theorem sectorEvent (h : P s) (i k : Nat) (w : Bool) (st : Option Status) (supply : Bool) : P (s.sectorEvent i k w st supply) := hP.gauge _ _ _ _ h

theorem transient (h : P s) (i type source : Nat) (w : Bool) : P (s.transient i type source w) := by
  unfold State.transient
  exact hP.log (hP.bump (hP.tally s _ _ _ h) ..) ..

theorem lastingUnit (h : P s) (i : Nat) (w : Bool) : P (s.lastingUnit i w) := hP.bump (hP.tally _ _ _ _ h) ..

theorem rewriteBoth (h : P s) (sector : Nat) (bs : Bytes) (mirror : Bool) : P (s.rewriteBoth sector bs mirror) := by
  unfold State.rewriteBoth
  dsimp only
  split
  · exact hP.rewrite (hP.rewrite h ..) ..
  · exact hP.rewrite h ..

theorem mergeServed (h : P s) (own : Option (Nat × Bool)) (k : Nat) : P (s.mergeServed own k) := by
  cases own with
  | none => exact h
  | some own => exact hP.sectorEvent (hP.transient h ..) ..

theorem mergeSector (h : P s) (sector : Nat) (mirror : Bool) (own : Option (Nat × Bool)) (noise : Noise) : P (s.mergeSector sector mirror own noise).2 := by
  unfold State.mergeSector
  dsimp only
  generalize stackOf s.key (sector * 32) = k
  have h1 := hP.readOnce h k sector noise.first
  generalize s.readOnce k sector noise.first = x at h1 ⊢
  obtain ⟨_ | bs, s1⟩ := x
  case some => exact h1
  have h2 := hP.readOnce h1 k sector noise.second
  dsimp only at h2 ⊢
  generalize s1.readOnce k sector noise.second = x at h2 ⊢
  obtain ⟨_ | bs, s2⟩ := x
  case some => exact hP.mergeServed h2 ..
  have h3 := hP.bump h2 F.hscStackCorrUncorr k 1
  dsimp only at h3 ⊢
  generalize s2.bump F.hscStackCorrUncorr k = y at h3 ⊢
  have bad : ∀ z, P z → P (match own with
      | some (i, win) => ((z.badSector k (sector * 32) false).lastingUnit i win).sectorEvent i k win (some .uncorrectable)
      | none => z.badSector k (sector * 32) false) := fun z hz => by
    obtain _ | ⟨i, win⟩ := own
    · exact hP.badSector hz ..
    · exact hP.sectorEvent (hP.lastingUnit (hP.badSector hz ..) ..) ..
  split
  · split
    next e => exact hP.mergeServed (hP.readBack (hP.bump (hP.rewrite (of_eq (hP.readOnce h3 ..) e) ..) ..) ..) ..
    next e => exact bad _ (of_eq (hP.readOnce h3 ..) e)
  · exact bad y h3

theorem writeOne (h : P s) (dpa : Nat) (bs : Bytes) (mirror : Bool) (own : Option (Nat × Bool)) (noise : Noise) : P (s.writeOne dpa bs mirror own noise).2 := by
  unfold State.writeOne
  dsimp only
  split
  · exact h
  refine List.foldlRecOn (motive := fun acc : Bool × State => P acc.2) _ _ h fun acc ih j _ => ?_
  split
  · exact ih
  split
  · exact hP.rewriteBoth ih ..
  split
  next e => exact hP.rewriteBoth (of_eq (hP.mergeSector ih ..) e) ..
  next e => exact of_eq (hP.mergeSector ih ..) e

theorem writeDpa (h : P s) (dpa : Nat) (bs : Bytes) (mirror : Bool) (own : Option (Nat × Bool)) (noise : Noise) : P (s.writeDpa dpa bs mirror own noise).2 := by
  have written := hP.writeOne h dpa bs mirror own noise
  unfold State.writeDpa
  split
  · exact h
  split
  next e => exact of_eq written e
  next e => exact of_eq written e

theorem mergeSpan (h : P s) (dpa n : Nat) (mirror : Bool) (own : Option (Nat × Bool)) (noise : Noise) : P (s.mergeSpan dpa n mirror own noise).2 := by
  unfold State.mergeSpan
  dsimp only
  refine List.foldlRecOn (motive := fun acc : Option Bytes × State => P acc.2) _ _ h fun acc ih j _ => ?_
  split
  · exact ih
  split
  · exact ih
  split
  next e => exact of_eq (hP.mergeSector ih ..) e
  · exact hP.mergeSector ih ..

theorem nodeRead (h : P s) (dpa : Nat) (noise : Noise) : P (s.nodeRead dpa noise).2 := by
  have once := hP.readOnce h (stackOf s.key dpa) (dpa / 32) noise.first
  unfold State.nodeRead
  dsimp only
  split
  · exact h
  split
  next e => exact of_eq once e
  next e =>
    have twice := hP.readOnce (of_eq once e) (stackOf s.key dpa) (dpa / 32) noise.second
    split
    next e => exact of_eq twice e
    next e => exact of_eq twice e

theorem nodeEntry (h : P s) (f i dpa : Nat) (noise : Noise) : P (s.nodeEntry f i dpa noise).2 := by
  unfold State.nodeEntry
  split
  · exact h
  · exact hP.nodeRead h ..

theorem keepNode (h : P s) (f i dpa e : Nat) : P (s.keepNode f i dpa e) := hP.caches s s.tlb s.slices _ h

theorem walk (h : P s) (f i va : Nat) (noise : Noise) : P (s.walk f i va noise).2 := by
  unfold State.walk
  dsimp only
  refine of_ite h ?_
  have h1 := hP.nodeEntry h f i (entryDpa (s.getF F.hscPtRootRoot i * 4096) va 3) noise
  generalize s.nodeEntry f i _ noise = x at h1 ⊢
  obtain ⟨r | e1, s1⟩ := x
  case error => exact h1
  dsimp only at h1 ⊢
  refine of_ite h1 (of_ite h1 (of_ite h1 ?_))
  have h2 := hP.nodeEntry (hP.keepNode h1 f i (entryDpa (s.getF F.hscPtRootRoot i * 4096) va 3) e1) f i (entryDpa (bits e1 40 12 * 4096) va 2) Noise.none
  generalize State.nodeEntry _ f i (entryDpa (bits e1 40 12 * 4096) va 2) Noise.none = x at h2 ⊢
  obtain ⟨r | e2, s2⟩ := x
  case error => exact h2
  dsimp only at h2 ⊢
  refine of_ite h2 (of_ite h2 (of_ite h2 ?_))
  have h3 := hP.nodeRead (hP.keepNode h2 f i (entryDpa (bits e1 40 12 * 4096) va 2) e2) (entryDpa (bits e2 40 12 * 4096) va 1) Noise.none
  generalize State.nodeRead _ (entryDpa (bits e2 40 12 * 4096) va 1) Noise.none = x at h3 ⊢
  obtain ⟨r | e3, s3⟩ := x
  case error => exact h3
  dsimp only at h3 ⊢
  exact of_ite h3 (of_ite h3 (of_ite h3 (of_ite h3 h3)))

theorem keepLeaf (h : P s) (u : Translator) (x : Tlb) : P (s.keepLeaf u x) := hP.caches s _ s.slices s.nodes h

theorem leaf (h : P s) (u : Translator) (i va : Nat) (noise : Noise) : P (s.leaf u i va noise).2 := by
  have walked := hP.walk h (unitField u) i va noise
  unfold State.leaf
  dsimp only
  split
  · exact h
  split
  · exact hP.keepLeaf h ..
  split
  next e => exact hP.keepLeaf (hP.caches _ (State.tlb _) _ (State.nodes _) (of_eq walked e)) ..
  · exact walked

theorem ptFault (h : P s) (reason tag va : Nat) : P (s.ptFault reason tag va) := by
  unfold State.ptFault
  split
  · exact h
  · exact hP.setF _ _ _ _ (hP.setF _ _ _ _ (hP.setF _ _ _ _ (hP.setF _ _ _ _ h)))

theorem translate (h : P s) (u : Translator) (tag va : Nat) (write : Bool) (noise : Noise) : P (s.translate u tag va write noise).2 := by
  unfold State.translate
  dsimp only
  refine of_ite (hP.ptFault h ..) (of_ite (hP.ptFault h ..) (of_ite (hP.ptFault h ..) (of_ite h ?_)))
  split
  · exact h
  next w _ =>
    split
    · exact hP.ptFault h ..
    have found := hP.leaf h u (tagIndex tag) w noise
    split
    next e => exact hP.ptFault (of_eq found e) ..
    next e =>
      split
      · exact hP.ptFault (of_eq found e) ..
      · exact of_eq found e

theorem writePiece (h : P s) (q : Place) (bs : Bytes) (u : Units) (i : Nat) (win : Bool) (noise : Noise) : P (s.writePiece q bs u i win noise).2 := by
  unfold State.writePiece
  dsimp only
  split
  · exact hP.writeDpa h ..
  split
  · exact hP.writeDpa h ..
  split
  · exact h
  split
  next e => exact hP.writeDpa (of_eq (hP.mergeSpan h ..) e) ..
  next e => exact of_eq (hP.mergeSpan h ..) e

theorem writeVa (h : P s) (t : Translator) (tag va : Nat) (bs : Bytes) (win : Bool) (u : Units) : P (s.writeVa t tag va bs win u).2 := by
  unfold State.writeVa
  refine List.foldlRecOn (motive := fun acc : Status × State => P acc.2) _ _ h fun acc ih p _ => ?_
  split
  · exact ih
  split
  next e => exact of_eq (hP.translate ih ..) e
  next e => exact hP.writePiece (of_eq (hP.translate ih ..) e) ..

/-- An object put into its place leaves the property standing. -/
theorem placeObject (h : P s) (t : Translator) (tag dst : Nat) (obj : Bytes) : P (s.placeObject t tag dst obj).2 := by
  unfold State.placeObject
  dsimp only
  split
  · exact hP.writeVa h ..
  generalize hx : List.foldl _ (Status.ok, _, s) _ = x
  have blocks : P x.2.2 := by
    rw [← hx]
    refine List.foldlRecOn (motive := fun acc : Status × Nat × State => P acc.2.2) _ _ h fun acc ih b _ => ?_
    split
    · exact ih
    split
    next e =>
      have note := of_eq (hP.writeVa ih ..) e
      split
      · exact note
      · exact hP.writeVa note ..
    next e => exact of_eq (hP.writeVa ih ..) e
  obtain ⟨st, len, y⟩ := x
  dsimp only at blocks ⊢
  split
  · exact blocks
  · exact hP.writeVa blocks ..

end

end SurvivesWrites

end Sys2Proof.Machine

/-! PROOFS. O34: requests to a stack (R296 to R300, R430, R455), and what is left to serve after a write. -/

namespace Sys2Proof.Machine

/-! ### Requests to a stack (R296 to R300, R455) -/

section
variable {s t : State} {stack : StackId} {r : HscReq}

/-- Every byte of a sector lies in its stack (R290). -/
theorem stackOf_sector (key sector : Nat) {o : Nat} (h : o < 32) : stackOf key (32 * sector + o) = stackOf key (32 * sector) := by
  unfold stackOf
  rw [show (32 * sector + o) / 2048 = 32 * sector / 2048 by omega]

/-- A stack in service takes accesses. -/
theorem State.stackDown_up {dpa : Nat} (h : stackOf s.key dpa = stack) (hs : (s.hsc stack).state = 0) : s.stackDown dpa = false := by
  unfold State.stackDown
  rw [h, hs]
  rfl

theorem State.strikeSector_nil (s : State) (sector : Nat) : s.strikeSector sector [] = s := rfl

theorem State.passSector_nil (s : State) (sector : Nat) : s.passSector sector [] = s := rfl

theorem State.strikeSector_failed (s : State) (sector : Nat) (u : Upset) : (s.strikeSector sector u).failed = s.failed := by
  unfold State.strikeSector
  split <;> rfl

theorem State.passSector_failed (s : State) (sector : Nat) (u : Upset) : (s.passSector sector u).failed = s.failed := by
  unfold State.passSector
  split <;> rfl

/-- A device in the failed state serves no request; what strikes the sector strikes it (R430). -/
theorem exec_hscRequest_failed (hk : stackOf s.key (32 * (r.dpa / 32)) = stack) (hr : regionOf r.dpa ≠ .beyond) (hp : s.power = .on) (hf : s.failed = true) :
    exec (.hscRequest stack r) s = .next ((s.strikeSector (r.dpa / 32) r.strike).passSector (r.dpa / 32) r.passing) := by
  show execHscRequest stack r s = _
  unfold execHscRequest
  rw [if_neg (by simp [hk, hr, hp])]
  exact if_pos ((s.strikeSector_failed ..).trans hf)

/-- A request on a context's sector that nothing strikes. -/
theorem exec_hscRequest_context (hk : stackOf s.key (32 * (r.dpa / 32)) = stack) (hr : regionOf r.dpa = .context) (hp : s.power = .on) (hf : s.failed = false)
    (hstrike : r.strike = []) (hpass : r.passing = []) : exec (.hscRequest stack r) s = .next (s.serveContext r) := by
  show execHscRequest stack r s = _
  unfold execHscRequest
  dsimp only
  rw [if_neg (by simp [hk, hr, hp]), hstrike, hpass, s.strikeSector_nil, if_neg (by simp [hf]), if_pos hr]
  rfl

/-- A request outside the context area; an uncorrectable read of the firmware region is fatal (Table 16.10). -/
theorem exec_hscRequest_plain {bad : Bool} (hk : stackOf s.key (32 * (r.dpa / 32)) = stack) (hr : regionOf r.dpa ≠ .beyond) (hc : regionOf r.dpa ≠ .context)
    (hp : s.power = .on) (hf : s.failed = false) (hstrike : r.strike = []) (hserve : s.servePlain stack r = (bad, t)) :
    exec (.hscRequest stack r) s = .next ((if bad = true ∧ regionOf r.dpa = .firmware then t.fatal 3 else t).passSector (r.dpa / 32) r.passing) := by
  show execHscRequest stack r s = _
  unfold execHscRequest
  dsimp only
  rw [if_neg (by simp [hk, hr, hp]), hstrike, s.strikeSector_nil, if_neg (by simp [hf]), if_neg hc, hserve]
  cases bad with
  | false => simp
  | true => simp

/-- A write of a context whose pages can be written is that write. -/
theorem State.serveContext_write (ht : s.tag (tagIndex r.ctxTag) = r.ctxTag) (hw : r.write = true)
    (h : s.writePiece ⟨32 * (r.dpa / 32) + r.off % 32, r.mirror, r.va⟩ (r.data.take (32 - r.off % 32)) .sectors (tagIndex r.ctxTag) false r.noise = (.ok, t)) :
    s.serveContext r = t := by
  unfold State.serveContext
  dsimp only
  rw [if_neg (not_not_intro ht), if_pos hw, h]

/-- A read of a context of sound memory changes nothing. -/
theorem State.serveContext_read (ht : s.tag (tagIndex r.ctxTag) = r.ctxTag) (hw : r.write = false) (hd : s.stackDown (32 * (r.dpa / 32)) = false)
    (hn : r.noise = Noise.none) (h : s.Sound) : s.serveContext r = s := by
  have reads : ∀ i, s.readSector i (r.dpa / 32) r.mirror false r.va r.noise r.mirrorNoise = (.data (s.hbm.readN (r.dpa / 32 * 32) 32), s) := fun i => by
    unfold State.readSector
    dsimp only
    rw [hn, show Noise.none.first = [] from rfl, h.readOnce]
  unfold State.serveContext
  dsimp only
  rw [if_neg (not_not_intro ht), if_neg (by simp [hw]), if_neg (by simp [hd]), reads]

/-- A write outside the context area, to a stack in service. -/
theorem State.servePlain_write (hw : r.write = true) (hd : s.stackDown (32 * (r.dpa / 32)) = false) : s.servePlain stack r =
    (false, (s.writeOne (32 * (r.dpa / 32) + r.off % 32) (r.data.take (32 - r.off % 32)) false none r.noise).2) := by
  unfold State.servePlain
  dsimp only
  rw [if_neg (by simp [hd]), if_pos hw]

/-- A read outside the context area of sound memory finds it good and changes nothing. -/
theorem State.servePlain_read (hw : r.write = false) (hd : s.stackDown (32 * (r.dpa / 32)) = false) (hn : r.noise = Noise.none) (h : s.Sound) :
    s.servePlain stack r = (false, s) := by
  unfold State.servePlain
  dsimp only
  rw [if_neg (by simp [hd]), if_neg (by simp [hw]), hn, show Noise.none.first = [] from rfl, h.readOnce]

/-- A write to the memory of a context without a key, through one page, is the plain write (R301). -/
theorem State.writePiece_plain {q : Place} {bs : Bytes} {i : Nat} {noise : Noise} (hk : s.hbmKey i = none) (hm : q.mirror = false) (hd : s.stackDown q.dpa = false)
    (hw : s.writeOne q.dpa bs false (some (i, false)) noise = (true, t)) : s.writePiece q bs .sectors i false noise = (.ok, t) := by
  have up : s.writeFenced q.dpa q.mirror = false := by
    unfold State.writeFenced
    rw [hm, hd]
    rfl
  unfold State.writePiece
  dsimp only
  rw [hk]
  dsimp only
  unfold State.writeDpa
  rw [up, hm, hw]
  rfl

/-- The context on whose behalf a request comes, in the context area. -/
def requestOwner (r : HscReq) : Option (Nat × Bool) := if regionOf r.dpa = .context then some (tagIndex r.ctxTag, false) else none

/-- A write to a stack in service, of a context without a key or outside the context area, is the plain write of its bytes. -/
theorem exec_hscRequest_writes (hk : stackOf s.key (32 * (r.dpa / 32)) = stack) (hr : regionOf r.dpa ≠ .beyond) (hp : s.power = .on) (hf : s.failed = false)
    (hs : (s.hsc stack).state = 0) (hc : regionOf r.dpa = .context → s.tag (tagIndex r.ctxTag) = r.ctxTag ∧ s.hbmKey (tagIndex r.ctxTag) = none)
    (hm : r.mirror = false) (hstrike : r.strike = []) (hpass : r.passing = []) (hw : r.write = true) (hlen : r.data.length ≤ 32 - r.off % 32)
    (h : s.writeOne (32 * (r.dpa / 32) + r.off % 32) r.data false (requestOwner r) r.noise = (true, t)) : exec (.hscRequest stack r) s = .next t := by
  have whole : r.data.take (32 - r.off % 32) = r.data := List.take_of_length_le hlen
  unfold requestOwner at h
  by_cases hreg : regionOf r.dpa = .context
  · obtain ⟨tag, key⟩ := hc hreg
    rw [if_pos hreg] at h
    rw [exec_hscRequest_context hk hreg hp hf hstrike hpass, State.serveContext_write tag hw (State.writePiece_plain key hm ?_ (by rw [whole]; exact h))]
    exact State.stackDown_up ((stackOf_sector _ _ (Nat.mod_lt _ (by decide))).trans hk) hs
  · rw [if_neg hreg] at h
    rw [exec_hscRequest_plain hk hr hreg hp hf hstrike (State.servePlain_write hw (State.stackDown_up hk hs)), hpass, whole, h]
    rfl

/-- A read of sound memory of a stack in service changes nothing. -/
theorem exec_hscRequest_reads (hk : stackOf s.key (32 * (r.dpa / 32)) = stack) (hr : regionOf r.dpa ≠ .beyond) (hp : s.power = .on) (hf : s.failed = false)
    (hs : (s.hsc stack).state = 0) (hc : regionOf r.dpa = .context → s.tag (tagIndex r.ctxTag) = r.ctxTag) (hn : r.noise = Noise.none)
    (hstrike : r.strike = []) (hpass : r.passing = []) (hw : r.write = false) (h : s.Sound) : exec (.hscRequest stack r) s = .next s := by
  have up := State.stackDown_up hk hs
  by_cases hreg : regionOf r.dpa = .context
  · rw [exec_hscRequest_context hk hreg hp hf hstrike hpass, State.serveContext_read (hc hreg) hw up hn h]
  · rw [exec_hscRequest_plain hk hr hreg hp hf hstrike (State.servePlain_read hw up hn h), hpass]
    rfl

/-- A device that has power and runs no warm reset stays so through accesses of memory. -/
theorem survives_hearing : SurvivesWrites (fun s => s.deaf = false) where
  memory _ _ _ _ h := h
  caches _ _ _ _ h := h
  setF _ _ _ _ h := h
  events _ _ h := h
  tally s i f w h := by
    rw [(s.tally_talk i f w).rest]
    exact h
  gauge s i g w h := by
    rw [(s.gauge_talk i g w).rest]
    exact h

theorem State.servePlain_deaf (h : s.deaf = false) (hserve : s.servePlain stack r = (true, t)) : t.deaf = false := by
  have once := survives_hearing.readOnce h stack (r.dpa / 32) r.noise.first
  unfold State.servePlain at hserve
  dsimp only at hserve
  split_ifs at hserve
  · cases hserve
  · cases hserve
  split at hserve
  · cases hserve
  next e =>
    have twice := survives_hearing.readOnce (SurvivesWrites.of_eq (P := fun s => s.deaf = false) once e) stack (r.dpa / 32) r.noise.second
    split at hserve
    · cases hserve
    next e =>
      cases hserve
      exact SurvivesWrites.of_eq (P := fun s => s.deaf = false) twice e

/-- A fatal error fails a device that runs (R430). -/
theorem State.fatal_failed (h : s.deaf = false) (cause : Nat) : (s.fatal cause).failed = true := by
  unfold State.fatal
  split
  next already => simpa [h] using already
  next => rfl

/-! ### An object read again from storage (R299) -/

/-- No request waits to be served, and no checkpoint is under way. -/
structure State.Idle (s : State) : Prop where
  parked : s.parked = []
  ckpt : ∀ i, (s.ctx i).ckpt = none

theorem State.Idle.of_ctxs (h : s.parked = []) (hc : ∀ p ∈ s.ctxs, p.2.ckpt = none) : s.Idle := ⟨h, fun i => by
  obtain e | ⟨p, hp, e⟩ := s.ctxs.get_eq_or_mem .fresh i
  · exact congrArg CtxSt.ckpt e
  · exact (congrArg CtxSt.ckpt e).symm.trans (hc p hp)⟩

theorem State.tally_ckpt (s : State) (i : Nat) (f : Tally → Tally) (w : Bool) : s.Steady CtxSt.ckpt (s.tally i f w) := by
  unfold State.tally
  dsimp only
  split
  · exact .setCtx s i _
  split
  · exact .refl s
  · exact .setCtx s i _

theorem State.gauge_ckpt (s : State) (i : Nat) (g : Gauge) (w : Bool) : s.Steady CtxSt.ckpt (s.gauge i g w) := by
  have recorded : ∀ (p : Prop) [Decidable p] (l : List Record) (x : CtxSt), x.ckpt = (s.ctx i).ckpt →
      s.Steady CtxSt.ckpt ((if p then { s with collector := l } else s).setCtx i x) := fun p _ l x hx => by
    split
    · exact (State.Steady.collect s l).trans (.setCtx _ i x hx)
    · exact .setCtx s i x hx
  unfold State.gauge
  dsimp only
  split
  · exact recorded _ _ _ rfl
  split
  · exact .refl s
  · exact recorded _ _ _ rfl

/-- A device with nothing to serve has nothing to serve after a write. -/
theorem survives_idle : SurvivesWrites State.Idle where
  memory _ _ _ _ h := ⟨h.parked, h.ckpt⟩
  caches _ _ _ _ h := ⟨h.parked, h.ckpt⟩
  setF _ _ _ _ h := ⟨h.parked, h.ckpt⟩
  events _ _ h := ⟨h.parked, h.ckpt⟩
  tally s i f w h := ⟨by rw [(s.tally_talk i f w).rest]; exact h.parked, fun j => ((s.tally_ckpt i f w).view j).trans (h.ckpt j)⟩
  gauge s i g w h := ⟨by rw [(s.gauge_talk i g w).rest]; exact h.parked, fun j => ((s.gauge_ckpt i g w).view j).trans (h.ckpt j)⟩

/-- With nothing to serve, serving what waited changes nothing. -/
theorem State.Idle.serveParked (h : s.Idle) : s.serveParked = s := by
  obtain ⟨parked, ckpt⟩ := h
  have none : ∀ l : List Nat, l.foldl (fun (s : State) i => s.pumpCkpt i [] ((s.ctx i).ckpt.map (fun j => j.objects.length)).toList.sum) s = s := fun l => by
    induction l with
    | nil => rfl
    | cons i l ih =>
      rw [List.foldl_cons, ckpt i]
      exact ih
  unfold State.serveParked
  dsimp only
  rw [parked, List.foldl_nil, ← parked]
  exact none _

theorem State.Idle.failRefetch (h : s.Idle) (hit : Refetch → Bool) :
    s.failRefetch hit = { s with refetch := s.refetch.map (fun r => if hit r then { r with failed := true } else r) } :=
  State.Idle.serveParked ⟨h.parked, h.ckpt⟩

/-- The report of one sector that its object repaired. -/
def State.repaired (s : State) (i : Nat) (x : Refetch) : State :=
  let k := stackOf s.key (x.sector * 32)
  State.sectorEvent ((s.bump F.hscStackCorrRepaired k).transient i 0x0D (sourceOf 4 k) x.win) i k x.win none x.supply

theorem State.repaired_talk (s : State) (i : Nat) (x : Refetch) : s.Talk (.hscStackCorr :: talkRegs) (s.repaired i x) := by
  unfold State.repaired
  dsimp only
  generalize stackOf s.key (x.sector * 32) = k
  have counted := ((s.bump F.hscStackCorrRepaired k).transient_talk i 0x0D (sourceOf 4 k) x.win).more (List.subset_cons_self .hscStackCorr _)
  exact ((State.Talk.bump s ..).trans counted).trans ((State.gauge_talk ..).more (List.subset_cons_self ..))

theorem State.Idle.repaired (h : s.Idle) (i : Nat) (x : Refetch) : (s.repaired i x).Idle := by
  unfold State.repaired
  exact survives_idle.sectorEvent (survives_idle.transient (survives_idle.bump h ..) ..) ..

theorem State.Asks.idle (h : s.Asks t) (k : s.Idle) : t.Idle := ⟨by rw [h.rest]; exact k.parked, fun i => by rw [h.ctx]; exact k.ckpt i⟩

end

end Sys2Proof.Machine

/-! PROOFS. O34: an object read again, the scrubber, temperature and lost training (R295, R299, R302, Table 16.7). -/

namespace Sys2Proof.Machine

section
variable {s t : State} {stack : StackId}

/-! ### MEMORY_REFETCH_DONE (R299 step 3) -/

/-- Whether a read that waits is covered by the object of a manifest entry. -/
def State.waitsFor (s : State) (ctx : CtxId) (r : Refetch) (e : Bytes) (x : Refetch) : Bool :=
  x.ctx == r.ctx && !x.failed && ((s.ctx ctx).bankAt x.va).bind (fun b => b.covering s.chip x.va) == some e

/-- The branch taken with a bank and an entry of its manifest that were found. The step is taken by this lemma, and what an object's read and placing come to is replaced by a
variable before its branch is taken, because the kernel, left to compare a match with its branch, computes the read of an object of unknown length. -/
theorem match_entry {α : Type} {x : Option (Bank × Bytes)} {b : Bank} {e : Bytes} {y : α} {f : Bank → Bytes → α} : x = some (b, e) →
    (match x with
      | none => y
      | some (b, e) => f b e) = f b e := by
  rintro rfl
  rfl

section
variable {ctx : CtxId} {r : Refetch} {b : Bank} {e wire obj : Bytes} {v u : State}
  (hr : s.refetch.find? (fun r => r.ctx == ctx.val && !r.failed) = some r) (hs : s.stopped = false)
  (hb : (s.ctx ctx).bankAt r.va = some b) (he : b.covering s.chip r.va = some e) (ho : s.objectText e wire = (obj, true, v))
include hr hs hb he ho

/-- An object that is not good fails the reads that wait for it. -/
theorem exec_memoryRefetchDone_bad (h : (!objectBad e obj && decide (r.va < b.base + field e 16 8 + footprint obj)) = false) :
    exec (.memoryRefetchDone ctx wire) s = .next (v.failRefetch (s.waitsFor ctx r e)) := by
  have bad : (objectBad e obj || decide (b.base + field e 16 8 + footprint obj ≤ r.va)) = true := by
    rw [Bool.and_eq_false_iff] at h
    rw [Bool.or_eq_true]
    exact h.imp (fun h => by simpa using h) (fun h => by simpa using h)
  show execMemoryRefetchDone ctx wire s = _
  unfold execMemoryRefetchDone
  rw [hr]
  refine (if_neg (by simp [hs])).trans ?_
  extract_lets bank entry
  have found : entry = some (b, e) := by simp only [entry, bank, hb, he, Option.bind_some, Option.map_some]
  clear_value entry
  refine (match_entry found).trans ?_
  generalize s.objectText e wire = x at ho ⊢
  subst ho
  exact if_pos bad

/-- A good object is written into its place; the reads it covers are reported and wait no more. -/
theorem exec_memoryRefetchDone_good (h : (!objectBad e obj && decide (r.va < b.base + field e 16 8 + footprint obj)) = true)
    (hp : v.placeObject .mp (v.tag ctx) (b.base + field e 16 8) obj = (.ok, u)) :
    let hits := v.refetch.filter (s.waitsFor ctx r e)
    let w := hits.foldl (fun t x => t.repaired ctx x) u
    exec (.memoryRefetchDone ctx wire) s = .next (State.serveParked { w with refetch := w.refetch.filter (fun x => !hits.contains x) }) := by
  have fits : ¬ (objectBad e obj || decide (b.base + field e 16 8 + footprint obj ≤ r.va)) = true := by
    rw [Bool.and_eq_true] at h
    obtain ⟨sound, covers⟩ := h
    simp only [Bool.not_eq_true'] at sound
    rw [sound, Bool.false_or, decide_eq_true_eq]
    exact Nat.not_le.2 (of_decide_eq_true covers)
  show execMemoryRefetchDone ctx wire s = _
  unfold execMemoryRefetchDone
  rw [hr]
  refine (if_neg (by simp [hs])).trans ?_
  extract_lets bank entry
  have found : entry = some (b, e) := by simp only [entry, bank, hb, he, Option.bind_some, Option.map_some]
  clear_value entry
  refine (match_entry found).trans ?_
  generalize s.objectText e wire = x at ho ⊢
  subst ho
  refine (if_neg fits).trans ?_
  extract_lets hits
  generalize v.placeObject .mp (v.tag ctx) _ obj = y at hp ⊢
  subst hp
  rfl

end

/-- The reports of the sectors repaired change no memory and no wait. -/
theorem State.foldl_repaired (i : Nat) (l : List Refetch) (s : State) :
    s.Talk (.hscStackCorr :: talkRegs) (l.foldl (fun t x => t.repaired i x) s) := .foldl (fun s x => s.repaired_talk i x) l s

theorem State.Idle.foldl_repaired (h : s.Idle) (i : Nat) (l : List Refetch) : (l.foldl (fun t x => t.repaired i x) s).Idle :=
  List.foldlRecOn (motive := State.Idle) _ _ h fun _ ih x _ => ih.repaired i x

/-! ### SCRUB_READ (R302) -/

theorem State.scrubNext_fields (s : State) (k : Nat) : s.scrubNext k = { s with hscs := (s.scrubNext k).hscs, regs := (s.scrubNext k).regs } := by
  unfold State.scrubNext
  dsimp only
  split_ifs <;> rfl

theorem State.scrubNext_reg (s : State) (k : Nat) {q : Reg} (h : q ≠ .hscScrub) (j : Nat) : (s.scrubNext k).reg q j = s.reg q j := by
  unfold State.scrubNext
  dsimp only
  split_ifs
  · rfl
  · exact State.reg_bump_ne _ F.hscScrubSweeps 0 1 j h
  · rfl

/-- Before the end of a stack the scrubber's place moves on, and nothing else. -/
theorem State.scrubNext_inside (h : (s.hsc stack).scrubAt + 1 < stackSectors) :
    s.scrubNext stack = s.setHsc stack { s.hsc stack with scrubAt := (s.hsc stack).scrubAt + 1 } := by
  unfold State.scrubNext
  exact if_pos h

/-- A sector recorded as bad shows in HSC_STACK_BAD, with who found it (Table 11.16). -/
theorem State.badSector_flags (s : State) (k dpa : Nat) : (s.badSector k dpa true).flag F.hscStackBadValid k = true ∧ (s.badSector k dpa true).flag F.hscStackBadScrub k = true := by
  unfold State.badSector State.flag
  dsimp only
  rw [State.getF_setF_bits _ _ _ _ (by decide) (by decide), State.getF_setF_bits _ _ _ _ (by decide) (by decide), State.getF_setF_self,
    State.getF_setF_bits _ _ _ _ (by decide) (by decide), State.getF_setF_self]
  decide

/-- An uncorrectable read changes no memory and no context. -/
theorem State.readOnce_lost {k sector : Nat} {noise : Upset} (h : s.readOnce k sector noise = (none, t)) : t = { s with hbmPassing := s.hbmPassing.del sector } := by
  unfold State.readOnce at h
  dsimp only at h
  split at h
  · split_ifs at h
    · cases h
    · cases h
  · cases h
    rfl

theorem exec_scrubRead_sound (hs : s.stopped = false) (hk : (s.hsc stack).state = 0) (h : s.Sound) : exec (.scrubRead stack Noise.none) s = .next (s.scrubNext stack) := by
  show execScrubRead stack Noise.none s = _
  unfold execScrubRead
  dsimp only
  rw [if_neg (by simp [hs, hk]), show Noise.none.first = [] from rfl, h.readOnce]

theorem exec_scrubRead_lost {noise : Noise} {u1 u2 : State} (hs : s.stopped = false) (hk : (s.hsc stack).state = 0)
    (h1 : s.readOnce stack (scrubDpa s.key stack (s.hsc stack).scrubAt / 32) noise.first = (none, u1))
    (h2 : u1.readOnce stack (scrubDpa s.key stack (s.hsc stack).scrubAt / 32) noise.second = (none, u2)) : exec (.scrubRead stack noise) s =
      .next (((u2.bump F.hscStackCorrUncorr stack).badSector stack (scrubDpa s.key stack (s.hsc stack).scrubAt) true).scrubNext stack) := by
  show execScrubRead stack noise s = _
  unfold execScrubRead
  dsimp only
  rw [if_neg (by simp [hs, hk]), h1]
  dsimp only
  rw [h2]

/-! ### HBM_TEMP_CHANGE and HBM_TRAINING_LOSS -/

theorem exec_hbmTempChange_cool {temp : Nat} (hp : s.power = .on) (h : temp < 105) : exec (.hbmTempChange stack temp) s =
    .next (s.setHsc stack { s.hsc stack with temp := temp, throttle := if 95 ≤ temp then true else if temp ≤ 90 then false else (s.hsc stack).throttle }) := by
  show execHbmTempChange stack temp s = _
  unfold execHbmTempChange
  rw [if_neg (not_not_intro hp), if_neg (by omega)]

theorem exec_hbmTempChange_hot {temp : Nat} (hp : s.power = .on) (h : 105 ≤ temp) : exec (.hbmTempChange stack temp) s = .next (s.powerOff .tripped) := by
  show execHbmTempChange stack temp s = _
  unfold execHbmTempChange State.shutdown
  rw [if_neg (not_not_intro hp), if_pos h, if_pos hp]

theorem exec_hbmTrainingLoss_loses {parity : Nat} {dataTimeout : Bool} (hs : s.stopped = false) (h : 16 ≤ parity ∨ dataTimeout = true) :
    exec (.hbmTrainingLoss stack parity dataTimeout) s = .next (s.dikeStack stack) := by
  show execHbmTrainingLoss stack parity dataTimeout s = _
  unfold execHbmTrainingLoss
  exact if_neg (by simpa [hs, or_iff_not_imp_left] using h)

theorem exec_hbmTrainingLoss_bears {parity : Nat} {dataTimeout : Bool} (h : parity < 16) (ht : dataTimeout = false) :
    exec (.hbmTrainingLoss stack parity dataTimeout) s = .next s := by
  show execHbmTrainingLoss stack parity dataTimeout s = _
  unfold execHbmTrainingLoss
  exact if_pos (by simp [ht, h])

/-- The dike of a stack in service: its state and the time it began, recorded as event 0x0020 (R417). -/
theorem State.dikeStack_up (h : (s.hsc stack).state = 0) : s.dikeStack stack =
    (s.setHsc stack { s.hsc stack with state := 1, dikeAt := some s.time, dikeFor := s.dikeNs }).log 0x0020 (sourceOf 4 stack) 0 .ok 0 := by
  unfold State.dikeStack
  exact if_neg (not_not_intro h)

end

/-- Settles O34: requests by `exec_hscRequest_writes` and `exec_hscRequest_reads` on sound memory, an object come again by what a write leaves alone (`survives_idle`), and each
other step by its equation. -/
theorem deviceMemoryComplete : Obligations.DeviceMemoryComplete := by
  unfold Obligations.DeviceMemoryComplete
  intro s stack
  refine ⟨?requests, ?encrypted, fun r hk hr hp hf => exec_hscRequest_failed hk hr hp hf, ?fatal, ?refetch, ?scrub, ?temperature, ?training⟩
  case requests =>
    intro r hk hr hp hf hs hc hm hn hstrike hpass he hpassing hwf a
    have sound : s.Sound := ⟨he, hpassing⟩
    refine ⟨fun hw hd hlen => ?_, fun hw => ?_⟩
    · obtain ⟨wf, -⟩ := Bool.and_eq_true_iff.1 hwf
      obtain ⟨m, written, -, reads, others⟩ := sound.writeOne wf a hd (requestOwner r)
      exact ⟨{ s with hbm := m }, exec_hscRequest_writes hk hr hp hf hs hc hm hstrike hpass hw hlen (by rw [hn]; exact written), reads, others, rfl, rfl⟩
    · exact ⟨s, exec_hscRequest_reads hk hr hp hf hs (fun h => (hc h).left) hn hstrike hpass hw sound, rfl, rfl, rfl, rfl⟩
  case encrypted =>
    intro r k u hk hr hp hf ht _ hw hstrike hpass hwrites
    rw [exec_hscRequest_context hk hr hp hf hstrike hpass, State.serveContext_write ht hw hwrites]
  case fatal =>
    intro r u hk hr hp hd hstrike hserve
    have inside : regionOf r.dpa ≠ .beyond := by rw [hr]; decide
    by_cases hf : s.failed = true
    · exact ⟨_, exec_hscRequest_failed hk inside hp hf, (State.passSector_failed ..).trans ((s.strikeSector_failed ..).trans hf)⟩
    · refine ⟨_, exec_hscRequest_plain hk inside (by rw [hr]; decide) hp (by simpa using hf) hstrike hserve, ?_⟩
      rw [State.passSector_failed, if_pos ⟨rfl, hr⟩]
      exact State.fatal_failed (State.servePlain_deaf hd hserve) 3
  case refetch =>
    intro ctx r b e wire obj v hr hs hb he hparked hckpt ho same good
    have asks : s.Asks v := State.readText_asks ho
    have waits : v.refetch = s.refetch := by rw [asks.rest]
    have idle : v.Idle := asks.idle (.of_ctxs hparked hckpt)
    refine ⟨fun hbad => ?_, fun u hgood hp => ?_⟩
    · rw [exec_memoryRefetchDone_bad hr hs hb he ho hbad, idle.failRefetch]
      exact ⟨_, rfl, asks.hbm, congrArg _ waits⟩
    · have placed : u.Idle := SurvivesWrites.of_eq (survives_idle.placeObject idle ..) hp
      have reports := State.foldl_repaired ctx.val (v.refetch.filter (s.waitsFor ctx r e)) u
      have served := placed.foldl_repaired ctx.val (v.refetch.filter (s.waitsFor ctx r e))
      have runs := exec_memoryRefetchDone_good hr hs hb he ho hgood hp
      dsimp only at runs
      generalize List.foldl _ u _ = w at reports served runs
      have still : ∀ l, State.Idle { w with refetch := l } := fun _ => ⟨served.parked, served.ckpt⟩
      rw [(still _).serveParked] at runs
      have memory : w.hbm = u.hbm := by rw [reports.rest]
      have waiting : w.refetch = u.refetch := by rw [reports.rest]
      refine ⟨_, runs, memory, ?_⟩
      rw [waiting, waits]
      rfl
  case scrub =>
    intro noise hs hk sector
    refine ⟨fun he hpassing hn hin => ?_, fun u1 u2 h1 h2 => ?_⟩
    · rw [hn, exec_scrubRead_sound hs hk ⟨he, hpassing⟩, State.scrubNext_inside hin]
      exact ⟨_, rfl, by rw [State.hsc_setHsc_self], rfl, rfl⟩
    · obtain ⟨valid, scrub⟩ := (u2.bump F.hscStackCorrUncorr stack).badSector_flags stack (scrubDpa s.key stack (s.hsc stack).scrubAt)
      refine ⟨_, exec_scrubRead_lost hs hk h1 h2, ?_, ?_, ?_, ?_⟩
      · unfold State.flag State.getF at valid ⊢
        rw [State.scrubNext_reg _ _ (by decide)]
        exact valid
      · unfold State.flag State.getF at scrub ⊢
        rw [State.scrubNext_reg _ _ (by decide)]
        exact scrub
      · rw [State.scrubNext_fields, State.readOnce_lost h2, State.readOnce_lost h1]
        rfl
      · rw [State.scrubNext_fields, State.readOnce_lost h2, State.readOnce_lost h1]
        rfl
  case temperature =>
    intro temp hp
    refine ⟨fun h => ⟨_, exec_hbmTempChange_cool hp h, ?_⟩, fun h => ⟨_, exec_hbmTempChange_hot hp h, rfl⟩⟩
    rw [State.hsc_setHsc_self]
    exact ⟨rfl, rfl, fun h => if_pos h, fun h => by rw [if_neg (by omega), if_pos h], fun h1 h2 => by rw [if_neg (by omega), if_neg (by omega)]⟩
  case training =>
    intro parity dataTimeout hs
    refine ⟨fun h hk => ⟨_, (exec_hbmTrainingLoss_loses hs h).trans (congrArg _ (State.dikeStack_up hk)), ?_⟩, exec_hbmTrainingLoss_bears⟩
    refine ⟨?_, ?_, State.log_records .., rfl⟩
    · simp
    · simp

end Sys2Proof.Machine

/-! PROOFS. What ends in a port leaves the dikes alone (R343, R346): no state of a port, no dike of one and no stack is written (`State.KeepsDikes`). -/

namespace Sys2Proof.Machine

/-! ### What the packets that a port loses leave alone -/

/-- Between two states the stacks, the states of the ports and the times of their dikes have stayed. -/
structure State.KeepsDikes (s t : State) : Prop where
  hscs : t.hscs = s.hscs
  status : ∀ n, t.reg .lnkStatus n = s.reg .lnkStatus n
  dikes : ∀ n, (t.port n).dikeAt = (s.port n).dikeAt ∧ (t.port n).dikeFor = (s.port n).dikeFor

namespace State.KeepsDikes

section
variable {s t u : State}

theorem refl (s : State) : s.KeepsDikes s := ⟨rfl, fun _ => rfl, fun _ => ⟨rfl, rfl⟩⟩

theorem trans (h : s.KeepsDikes t) (k : t.KeepsDikes u) : s.KeepsDikes u :=
  ⟨k.hscs.trans h.hscs, fun n => (k.status n).trans (h.status n), fun n => ⟨(k.dikes n).left.trans (h.dikes n).left, (k.dikes n).right.trans (h.dikes n).right⟩⟩

theorem foldl {α : Type} {f : State → α → State} (hf : ∀ s a, State.KeepsDikes s (f s a)) (l : List α) (s : State) : s.KeepsDikes (l.foldl f s) :=
  List.foldlRecOn (motive := fun t => s.KeepsDikes t) l f (.refl s) fun t ht a _ => ht.trans (hf t a)

/-- A change of anything but the stacks, the registers and the ports. -/
theorem of_same (hs : t.hscs = s.hscs := by rfl) (hr : t.regs = s.regs := by rfl) (hp : t.ports = s.ports := by rfl) : s.KeepsDikes t where
  hscs := hs
  status n := by
    unfold State.reg
    rw [hr]
  dikes n := by
    unfold State.port
    rw [hp]
    exact ⟨rfl, rfl⟩

/-- Reports and completions that touch no port. -/
theorem of_talk (h : s.Talk faultRegs t) (hp : t.ports = s.ports) : s.KeepsDikes t where
  hscs := by rw [h.rest]
  status n := h.regs _ (by decide) n
  dikes n := by
    unfold State.port
    rw [hp]
    exact ⟨rfl, rfl⟩

theorem setF (s : State) (f : Fld) (v i : Nat) (h : Reg.lnkStatus ≠ f.reg := by decide) : s.KeepsDikes (s.setF f v i) :=
  ⟨rfl, fun n => s.reg_setF_ne f v i n h, fun _ => ⟨rfl, rfl⟩⟩

theorem bump (s : State) (f : Fld) (i n : Nat) (h : Reg.lnkStatus ≠ f.reg := by decide) : s.KeepsDikes (s.bump f i n) := .setF _ _ _ _ h

theorem setCtx (s : State) (i : Nat) (x : CtxSt) : s.KeepsDikes (s.setCtx i x) := .of_same

theorem setCore (s : State) (c : Nat) (x : CoreSt) : s.KeepsDikes (s.setCore c x) := .of_same

theorem emit (s : State) (o : Out) : s.KeepsDikes (s.emit o) := .of_same

theorem log (s : State) (code source tag : Nat) (st : Status) (sev : Nat) (arg : Bytes) : s.KeepsDikes (s.log code source tag st sev arg) := by
  obtain ⟨e, he⟩ := s.log_rest code source tag st sev arg
  rw [he]
  exact .of_same

theorem ite {p : Prop} [Decidable p] (h : s.KeepsDikes t) (k : s.KeepsDikes u) : s.KeepsDikes (if p then t else u) := by
  split
  · exact h
  · exact k

theorem asks (h : s.Asks t) : s.KeepsDikes t := .of_same (by rw [h.rest]) (by rw [h.rest]) (by rw [h.rest])

end

end State.KeepsDikes

/-! ### Completions and check events -/

theorem State.complete_ports (s : State) (i : Nat) (d : Desc) (st : Status) (b : Bool) (info : Nat) : (s.complete i d st b info).ports = s.ports := by
  have put : ∀ bs, (s.putCompletion i bs).ports = s.ports := fun bs => by
    unfold State.putCompletion State.writeCompletion
    dsimp only
    split_ifs <;> rfl
  have covers : ∀ u : State, (u.covered i d st).ports = u.ports := fun u => by
    unfold State.covered
    dsimp only
    split <;> rfl
  exact (covers _).trans (put _)

theorem State.complete_keepsDikes (s : State) (i : Nat) (d : Desc) (st : Status) (b : Bool) (info : Nat) : s.KeepsDikes (s.complete i d st b info) :=
  .of_talk (s.complete_talk ..).faulting (s.complete_ports ..)

theorem State.gauge_keepsDikes (s : State) (i : Nat) (g : Gauge) (w : Bool) : s.KeepsDikes (s.gauge i g w) := by
  have recorded : ∀ (p : Prop) [Decidable p] (l : List Record) (x : CtxSt), s.KeepsDikes ((if p then { s with collector := l } else s).setCtx i x) := fun p _ l x =>
    (State.KeepsDikes.ite (t := { s with collector := l }) .of_same (.refl s)).trans (.setCtx ..)
  unfold State.gauge
  dsimp only
  split
  · exact recorded ..
  split
  · exact .refl s
  · exact recorded ..

theorem State.copyEarly_keepsDikes (s : State) (i : Nat) (j : Job) : s.KeepsDikes (s.copyEarly i j) := .ite (.refl s) (s.gauge_keepsDikes ..)

/-! ### Packets and messages -/

/-- A port that takes a packet puts it in its queue, and no more. -/
theorem State.enqueue_keepsDikes (s : State) (n : Nat) (p : Packet) (dateline : Bool) : s.KeepsDikes (s.enqueue n p dateline) := by
  refine ⟨rfl, fun _ => rfl, fun m => ?_⟩
  unfold State.enqueue
  by_cases h : m = n
  · subst h
    rw [State.port_setPort_self]
    exact ⟨rfl, rfl⟩
  · rw [State.port_setPort_ne _ _ h]
    exact ⟨rfl, rfl⟩

theorem State.egress_keepsDikes (s : State) (n : Nat) (p : Packet) (came : Option (Nat × Bool)) : s.KeepsDikes (s.egress n p came).2 := by
  unfold State.egress
  dsimp only
  split_ifs
  · exact s.enqueue_keepsDikes ..
  · exact .refl s
  · exact .bump ..
  · exact .bump ..

theorem State.launch_keepsDikes (s : State) (p : Packet) : s.KeepsDikes (s.launch p).2 := by
  unfold State.launch
  dsimp only
  split
  · exact .bump ..
  split
  · exact s.egress_keepsDikes ..
  split
  · exact .bump ..
  split
  · exact .refl s
  · exact s.egress_keepsDikes ..

theorem State.send_keepsDikes (s : State) (dstChip dstCore type tag srcCore gen arg : Nat) (payload : Bytes) :
    s.KeepsDikes (s.send dstChip dstCore type tag srcCore gen arg payload) := .ite (.emit ..) (s.launch_keepsDikes _)

theorem State.sendMembers_keepsDikes (s : State) (tag : Nat) (members : List Nat) (type arg : Nat) (payload : Bytes) :
    s.KeepsDikes (s.sendMembers tag members type arg payload) := .foldl (fun s _ => .ite (.refl s) (s.send_keepsDikes ..)) members s

/-! ### Ending descriptors and faulting contexts -/

theorem State.endInvoke_keepsDikes (s : State) (i : Nat) (st : Status) : s.KeepsDikes (s.endInvoke i st) := by
  unfold State.endInvoke
  dsimp only
  split
  · exact .refl s
  · exact .setCtx ..

theorem State.endSwitch_keepsDikes (s : State) (i : Nat) (st : Status) : s.KeepsDikes (s.endSwitch i st) := by
  unfold State.endSwitch
  dsimp only
  split
  · exact .setCtx ..
  · exact .ite (.refl s) (((State.KeepsDikes.setCtx ..).trans (.setF ..)).trans (State.complete_keepsDikes ..))

theorem State.withdraw_keepsDikes (s : State) (i : Nat) (st : Option Status) : s.KeepsDikes (s.withdraw i st) := by
  unfold State.withdraw
  dsimp only
  split
  · exact .ite ((State.KeepsDikes.setCtx ..).trans (State.send_keepsDikes ..)) (.refl s)
  · refine .ite (.refl s) (.ite ((s.sendMembers_keepsDikes ..).trans (State.endSwitch_keepsDikes ..)) ?_)
    split
    · exact (s.send_keepsDikes ..).trans (State.endSwitch_keepsDikes ..)
    · exact s.send_keepsDikes ..

theorem State.forgetReads_keepsDikes (s : State) (j : Job) : s.KeepsDikes (s.forgetReads j) :=
  .asks ((State.Asks.ask s _).trans (.foldl (fun s t => s.pumpReads_asks t) _ _))

theorem State.endOthers_keepsDikes (s : State) (i : Nat) (st inv : Status) (before : Option Nat) (run : Status) :
    s.KeepsDikes (s.endOthers i st inv before run).2 := by
  unfold State.endOthers
  dsimp only
  refine State.KeepsDikes.trans ?_ (State.withdraw_keepsDikes ..)
  generalize hx : State.completeAll _ _ _ _ = x
  have ended : s.KeepsDikes x := by
    rw [← hx]
    refine State.KeepsDikes.trans ?_ (State.KeepsDikes.foldl (fun s d => s.complete_keepsDikes i d st false 0) _ _)
    refine State.KeepsDikes.trans ?_ (State.KeepsDikes.foldl (fun s j => s.forgetReads_keepsDikes j) _ _)
    refine State.KeepsDikes.trans ?_ (State.KeepsDikes.foldl (fun s j => State.complete_keepsDikes ..) _ _)
    exact (State.KeepsDikes.setCtx ..).trans (State.KeepsDikes.foldl (fun s j => s.copyEarly_keepsDikes i j) _ _)
  generalize (match (s.ctx i).inv with | some v => _ | none => false) = running
  exact .ite (ended.trans (State.endInvoke_keepsDikes ..)) ended

theorem State.faultWith_keepsDikes (s : State) (i : Nat) (st inv : Status) (d : Nat) : s.KeepsDikes (s.faultWith i st inv d) := by
  have told := s.endInvoke_keepsDikes i inv
  unfold State.faultWith
  dsimp only
  split
  · generalize hx : State.log _ 0x0001 _ _ st 2 _ = x
    have shown : s.KeepsDikes x := by
      rw [← hx]
      exact (((told.trans (.setF ..)).trans (.setF ..)).trans (.setF ..)).trans (.log ..)
    have ended := (shown.trans (.setCtx x i { x.ctx i with inflight := 0, faultOf := d })).trans (State.endOthers_keepsDikes _ i .cancelled .cancelled none .cancelled)
    unfold State.setCtx at ended
    generalize (State.endOthers _ i .cancelled .cancelled none .cancelled).2 = y at ended
    split
    · exact .ite ((ended.trans (State.sendMembers_keepsDikes ..)).trans (.setCtx ..)) ended
    · exact ended
  split
  · split
    · exact told.trans (.setF ..)
    · exact told
  · exact told

theorem State.faultTag_keepsDikes (s : State) (tag : Nat) (st : Status) : s.KeepsDikes (s.faultTag tag st) :=
  .ite (s.faultWith_keepsDikes ..) (.ite (s.endInvoke_keepsDikes ..) (.refl s))

theorem State.answer_keepsDikes (s : State) (p : Packet) (st : Status) (body : Bytes) : s.KeepsDikes (s.answer p st body) :=
  .ite ((s.launch_keepsDikes _).trans (State.faultTag_keepsDikes ..)) (s.launch_keepsDikes _)

theorem State.tryCancel_keepsDikes (s : State) (i : Nat) : s.KeepsDikes (s.tryCancel i) := by
  unfold State.tryCancel
  dsimp only
  split
  · exact .refl s
  · exact .ite (.refl s) ((State.KeepsDikes.setCtx ..).trans (State.complete_keepsDikes ..))

/-! ### Requests that end (R346, R402) -/

theorem State.failCopy_keepsDikes (s : State) (i : Nat) (j : Job) (st : Status) : s.KeepsDikes (s.failCopy i j st) := by
  have fails : ∀ (u : State) info, u.KeepsDikes (u.jobFails i j st info) := fun u info => by
    unfold State.jobFails
    split
    · exact (u.complete_keepsDikes ..).trans (State.faultWith_keepsDikes ..)
    next e _ =>
      have done := (u.complete_keepsDikes i j.desc (standing (some e) st) false info).trans (State.tryCancel_keepsDikes _ i)
      exact .ite (done.trans (State.faultWith_keepsDikes ..)) done
  have event : s.KeepsDikes (if st == .damagedBlock then s.copyEvent i j (j.done % 4096 + 1) (some st) else s.copyEarly i j) :=
    .ite (s.gauge_keepsDikes ..) (s.copyEarly_keepsDikes ..)
  exact (event.trans .of_same).trans (fails _ _)

theorem State.copyOver_keepsDikes (s : State) (i : Nat) : s.KeepsDikes (s.copyOver i) := by
  unfold State.copyOver
  split
  · exact .refl s
  split
  · exact .ite (.refl s) (s.failCopy_keepsDikes ..)
  · exact .refl s

theorem State.setRun_keepsDikes (s : State) (core j : Nat) (r : Run) : s.KeepsDikes (s.setRun core j r) := .setCore ..

theorem State.setBlock_keepsDikes (s : State) (core j : Nat) (b : StrmBlock) : s.KeepsDikes (s.setBlock core j b) := by
  unfold State.setBlock
  split
  · exact s.setRun_keepsDikes ..
  · exact .refl s

/-- The end of a request with a status, whoever issued it. -/
theorem State.requestEnds_keepsDikes (s : State) (r : Request) (st : Status) : s.KeepsDikes (s.requestEnds r st) := by
  unfold State.requestEnds
  split
  · unfold State.pieceIn
    dsimp only
    split
    · exact .refl s
    split
    · exact .refl s
    · exact .ite (s.setBlock_keepsDikes ..) (s.setBlock_keepsDikes ..)
  · unfold State.writeIn
    dsimp only
    split
    · exact .refl s
    · exact .setCore ..
  · unfold State.tableIn
    split
    · exact .refl s
    · refine .ite (s.setRun_keepsDikes ..) ?_
      split
      · exact .refl s
      · exact s.setRun_keepsDikes ..
  · exact .refl s
  · refine .ite ?_ ?_
    · unfold State.copyPiece
      split
      · exact .refl s
      · exact .ite (.refl s) (.ite (s.failCopy_keepsDikes ..) ((State.KeepsDikes.setCtx ..).trans (State.copyOver_keepsDikes ..)))
    · unfold State.copyWritten
      split
      · exact .refl s
      · exact .ite (.refl s) (.ite (s.failCopy_keepsDikes ..) ((State.KeepsDikes.setCtx ..).trans (State.copyOver_keepsDikes ..)))

theorem State.stopGather_keepsDikes (s : State) (e : Nat) (g : GRun) : s.KeepsDikes (s.stopGather e g) := by
  have closes : ∀ g : GRun, s.KeepsDikes (s.closeGather e g) := fun g => by
    have events : s.KeepsDikes (if gMode g.entry.desc = 4 then s else (s.gauge (tagIndex g.entry.tag) (g.rowEvent e)).gauge (tagIndex g.entry.tag) (g.bagEvent e)) :=
      .ite (.refl s) ((s.gauge_keepsDikes ..).trans (State.gauge_keepsDikes ..))
    exact events.trans .of_same
  exact .ite (closes _) .of_same

/-- A row that could not be fetched ends its run. -/
theorem State.rowIn_error_keepsDikes (s : State) (e : Nat) (f : RowFetch) (st : Status) (hit : Upset) (pool : Hit) (rails : Rails) :
    s.KeepsDikes (s.rowIn e f (.error st) hit pool rails) := by
  unfold State.rowIn
  split
  · exact .refl s
  · exact .ite (s.stopGather_keepsDikes ..) ((s.stopGather_keepsDikes ..).trans (State.faultTag_keepsDikes ..))

theorem State.requestEnded_keepsDikes (s : State) (r : Request) (st : Status) : s.KeepsDikes (s.requestEnded r st) := by
  have dropped : s.KeepsDikes (s.dropRequest r.txn) := .of_same
  unfold State.requestEnded
  dsimp only
  split
  · split
    · exact dropped
    · exact dropped.trans (State.rowIn_error_keepsDikes ..)
  · exact dropped.trans (State.requestEnds_keepsDikes ..)

theorem State.endRequest_keepsDikes (s : State) (r : Request) (st : Status) : s.KeepsDikes (s.endRequest r st) := .ite .of_same (s.requestEnded_keepsDikes r st)

/-! ### A port that is flushed -/

theorem State.discard_keepsDikes (s : State) (n : Nat) (st : Status) (p : Packet) : s.KeepsDikes (s.discard n st p) := by
  have counted : s.KeepsDikes (if st == .partitioned then s.bump F.topoUnreachCount else s.bump F.lnkDropDiked n) := .ite (.bump ..) (.bump ..)
  unfold State.discard
  dsimp only
  generalize (if (st == .partitioned) = true then s.bump F.topoUnreachCount else s.bump F.lnkDropDiked n) = u at counted ⊢
  refine .ite (.ite ?_ (counted.trans (u.answer_keepsDikes ..))) counted
  split
  · exact counted.trans (u.endRequest_keepsDikes ..)
  · exact counted

/-- A port that is flushed keeps what its dike counts from; every other port and every stack its own. -/
theorem State.flushPort_keepsDikes (s : State) (n : Nat) (st : Status) : s.KeepsDikes (s.flushPort n st) := by
  unfold State.flushPort
  dsimp only
  refine State.KeepsDikes.trans ?_ (.foldl (fun s (p : Nat × Packet) => s.discard_keepsDikes n st p.2) _ _)
  refine ⟨rfl, fun _ => rfl, fun m => ?_⟩
  by_cases h : m = n
  · subst h
    rw [State.port_setPort_self]
    exact ⟨rfl, rfl⟩
  · rw [State.port_setPort_ne _ _ h]
    exact ⟨rfl, rfl⟩

end Sys2Proof.Machine

/-! PROOFS. O45: the steps of the dikes of ports and stacks (R294, R346, R379, R417 to R421, R429, Table 16.7). -/

namespace Sys2Proof.Machine

/-! ### The state of a port -/

section
variable {s t : State} {n v : Nat}

theorem State.KeepsDikes.portState (h : s.KeepsDikes t) (n : Nat) : t.portState n = s.portState n := congrArg (bits · _ _) (h.status n)

theorem State.ringTimers_rest (s : State) (n : Nat) : s.ringTimers n = { s with ctxs := (s.ringTimers n).ctxs } := by
  unfold State.ringTimers
  refine List.foldlRecOn (motive := fun t : State => t = { s with ctxs := t.ctxs }) _ _ rfl fun t ht i _ => ?_
  dsimp only
  split
  · exact ht
  split
  · exact ht
  · rw [ht]
    rfl

theorem State.ringTimers_portState (s : State) (n m : Nat) : (s.ringTimers n).portState m = s.portState m := by
  rw [s.ringTimers_rest n]
  rfl

/-- A port whose state changes: its register takes the value, that is an event, and the break timers of ring links follow. -/
theorem State.setPortState_changes (s : State) (differs : s.portState n ≠ v) : ∃ z : State, z = { s with regs := z.regs } ∧ (v < 8 → z.portState n = v) ∧
    s.setPortState n v = (z.log 0x0040 (sourceOf 2 n) 0 .ok (if v = 3 then 0 else 1) (natLe 1 v)).ringTimers n := by
  refine ⟨if v = 3 then s.setF F.lnkStatusState v n else (s.setF F.lnkStatusState v n).setF F.lnkStatusWidth 0 n, ?_, fun h => ?_, ?_⟩
  · split
    · rfl
    · rfl
  · have width : v % 2 ^ (F.lnkStatusState.hi + 1 - F.lnkStatusState.lo) = v := Nat.mod_eq_of_lt h
    have written : (s.setF F.lnkStatusState v n).getF F.lnkStatusState n = v := (State.getF_setF_self ..).trans width
    split
    · exact written
    · exact (State.getF_setF_bits _ _ _ _ (by decide) (by decide)).trans written
  · unfold State.setPortState
    exact if_neg differs

/-- Setting the state of a port writes its register, the event of the change and the break timers of ring links. -/
theorem State.setPortState_rest (s : State) (n v : Nat) : s.setPortState n v =
    { s with regs := (s.setPortState n v).regs, ctxs := (s.setPortState n v).ctxs, events := (s.setPortState n v).events } := by
  by_cases same : s.portState n = v
  · have stays : s.setPortState n v = s := by
      unfold State.setPortState
      exact if_pos same
    rw [stays]
  · obtain ⟨z, hz, -, set⟩ := s.setPortState_changes same
    obtain ⟨e, logged⟩ := z.log_rest 0x0040 (sourceOf 2 n) 0 .ok (if v = 3 then 0 else 1) (natLe 1 v)
    rw [set, State.ringTimers_rest, logged, hz]

theorem State.setPortState_port (s : State) (n v m : Nat) : (s.setPortState n v).port m = s.port m := by
  rw [s.setPortState_rest n v]
  rfl

theorem State.setPortState_hscs (s : State) (n v : Nat) : (s.setPortState n v).hscs = s.hscs := by
  rw [s.setPortState_rest n v]

theorem State.setPortState_portState (s : State) (n : Nat) (h : v < 8) : (s.setPortState n v).portState n = v := by
  by_cases same : s.portState n = v
  · unfold State.setPortState
    rw [if_pos same, same]
  · obtain ⟨z, -, written, set⟩ := s.setPortState_changes same
    rw [set, State.ringTimers_portState, State.log_portState, written h]

/-! ### The dike of a port -/

theorem State.resetPortPage_keepsDikes (s : State) (n : Nat) : s.KeepsDikes (s.resetPortPage n) :=
  (((State.KeepsDikes.setF s F.lnkCtlLaneLimit _ n).trans (.setF _ F.lnkCtlForceWidth _ n)).trans (.setF _ F.lnkLanesForceLanes _ n)).trans (.setF _ F.lnkLanesActive _ n)

/-- The page of a port that is reset forces no lane and no width (R495). -/
theorem State.resetPortPage_forces (s : State) (n : Nat) : (s.resetPortPage n).getF F.lnkLanesForceLanes n = 0 ∧ (s.resetPortPage n).getF F.lnkCtlForceWidth n = 0 := by
  unfold State.resetPortPage
  simp only [List.foldl_cons, List.foldl_nil]
  refine ⟨?_, ?_⟩
  · rw [State.getF_setF_bits _ _ _ _ (by decide) (by decide), State.getF_setF_self]
    rfl
  · rw [State.getF_setF_reg _ _ _ _ (by decide), State.getF_setF_reg _ _ _ _ (by decide), State.getF_setF_self]
    rfl

/-- A port that is on and whose reset does not run is diked: diked from now, for the dike timeout, and its page is reset (R346, R420). -/
theorem State.dikePort_dikes (hs : s.portState n ≠ 0) (hr : s.portResets n = false) : (s.dikePort n).portState n = 5 ∧
    ((s.dikePort n).port n).dikeAt = some s.time ∧ ((s.dikePort n).port n).dikeFor = s.dikeNs ∧
    (s.dikePort n).getF F.lnkLanesForceLanes n = 0 ∧ (s.dikePort n).getF F.lnkCtlForceWidth n = 0 := by
  unfold State.dikePort
  dsimp only
  rw [if_neg (by simp [hs, hr])]
  generalize hx : State.log (s.setPort n _) 0x0020 _ _ _ _ _ = x
  have begun : (x.port n).dikeAt = some s.time ∧ (x.port n).dikeFor = s.dikeNs := by
    rw [← hx]
    obtain ⟨e, he⟩ := State.log_rest (s.setPort n { s.port n with dikeAt := some s.time, dikeFor := s.dikeNs, trainAt := none, locked := none, degrade := false, overdue := false })
      0x0020 (sourceOf 2 n) 0 .ok 1 []
    rw [he]
    show (State.port (State.setPort s n _) n).dikeAt = _ ∧ (State.port (State.setPort s n _) n).dikeFor = _
    rw [State.port_setPort_self]
    exact ⟨rfl, rfl⟩
  have keeps := ((x.setPortState n 5).flushPort_keepsDikes n .fencedAbort).trans (State.resetPortPage_keepsDikes _ n)
  obtain ⟨since, lasts⟩ := keeps.dikes n
  rw [State.setPortState_port] at since lasts
  exact ⟨(keeps.portState n).trans (State.setPortState_portState _ n (by decide)), since.trans begun.left, lasts.trans begun.right, State.resetPortPage_forces _ n⟩

theorem State.dikePort_hscs (s : State) (n : Nat) : (s.dikePort n).hscs = s.hscs := by
  unfold State.dikePort
  dsimp only
  split
  · rfl
  generalize hx : State.log (s.setPort n _) 0x0020 _ _ _ _ _ = x
  have begun : x.hscs = s.hscs := by rw [← hx, State.log_hscs]; rfl
  exact (((x.setPortState n 5).flushPort_keepsDikes n .fencedAbort).trans (State.resetPortPage_keepsDikes _ n)).hscs.trans ((State.setPortState_hscs ..).trans begun)

theorem State.trainPort_trains (s : State) (n : Nat) : (s.trainPort n).portState n = 2 := State.setPortState_portState _ n (by decide)

/-- A port whose dike's timeout passes is down, or quarantined again, and trains on if it trained (R379). -/
theorem State.portLost_low (s : State) (n : Nat) : (s.portLost n).portState n = (if (s.port n).quarantined then 4 else 1) ∧
    (s.portState n = 2 → (s.portLost n).trains n = true) := by
  unfold State.portLost
  dsimp only
  refine ⟨State.setPortState_portState _ n (by split <;> decide), fun h => ?_⟩
  unfold State.trains
  rw [State.setPortState_port, State.port_setPort_self]
  dsimp only
  rw [h]
  simp

/-- A port that gives up is down, or quarantined again; a dike that is overdue holds it no longer (R343, R379). -/
theorem State.portDown_low (s : State) (n : Nat) (h : (s.port n).diked = false) : (s.portDown n).portState n = (if (s.port n).quarantined then 4 else 1) := by
  unfold State.portDown
  dsimp only
  rw [h, Bool.false_and]
  refine ((State.flushPort_keepsDikes _ n _).portState n).trans (State.setPortState_portState _ n ?_)
  split <;> decide

end

/-! ### The steps of a port's dike -/

section
variable {s t : State} {port : PortId} {a : Nat}

theorem exec_portReset_quiet (hs : s.stopped = false) (hq : s.barQuiet = true) (hr : s.portResets port = false) (hst : s.portState port ≠ 0) :
    exec (.portReset .pf port) s = .next ((s.dikePort port).setPort port { (s.dikePort port).port port with resetBy := true }) := by
  show takePortReset .pf port (s.flushed .pf) = _
  rw [s.flushed_quiet _ hq]
  unfold takePortReset
  exact if_neg (by simp [hs, hr, hst])

/-- While the reset of a port runs another has no effect (R421). -/
theorem exec_portReset_again (hq : s.barQuiet = true) (hr : s.portResets port = true) : exec (.portReset .pf port) s = .next s := by
  show takePortReset .pf port (s.flushed .pf) = _
  rw [s.flushed_quiet _ hq]
  unfold takePortReset
  exact if_pos (by simp [hr])

theorem exec_dikeDrained_port (hs : s.stopped = false) (h5 : s.portState port = 5) (ht : (s.port port).trainAt = none) :
    exec (.dikeDrained (.port port)) s = .next (s.trainPort port) := by
  show execDikeDrained (.port port) s = _
  unfold execDikeDrained
  rw [if_neg (by simp [hs])]
  exact congrArg _ (if_pos ⟨h5, by rw [ht]; rfl⟩)

theorem exec_dikeTimeout_port (hs : s.stopped = false) (ha : (s.port port).dikeAt = some a) (hd : a + (s.port port).dikeFor ≤ s.time) (ho : (s.port port).overdue = false)
    (hst : s.portState port = 5 ∨ s.portState port = 2) : exec (.dikeTimeout (.port port)) s = .next (s.portLost port) := by
  show execDikeTimeout (.port port) s = _
  unfold execDikeTimeout
  rw [if_neg (by simp [hs])]
  exact (if_neg (by simp [ho, State.passed_some ha, hd])).trans (if_pos hst)

theorem exec_dikeLifted_port (hs : s.stopped = false) (h3 : s.portState port = 3) (hd : (s.port port).dikeAt.isSome = true) : exec (.dikeLifted (.port port)) s =
    .next ((s.setPort port { s.port port with dikeAt := none, resetBy := false, overdue := false }).log 0x0022 (sourceOf 2 port) 0 .ok 0) := by
  show execDikeLifted (.port port) s = _
  unfold execDikeLifted
  rw [if_neg (by simp [hs])]
  exact if_pos ⟨.inl h3, hd⟩

/-- A port that has not come up 150 ms after its dike, or its training, began gives up (Table 16.7). -/
theorem exec_escalationTimeout_port (hs : s.stopped = false) (ha : (s.port port).dikeAt.or (s.port port).trainAt = some a) (hd : a + 150000000 ≤ s.time)
    (hst : s.portState port = 5 ∨ s.portState port = 2) : exec (.escalationTimeout (.port port)) s =
      .next ((s.setPort port { s.port port with overdue := (s.port port).dikeAt.isSome }).portDown port) := by
  have runs : s.portState port = 5 ∨ s.trains port = true := hst.imp_right fun h => by
    unfold State.trains
    rw [h]
    rfl
  show execEscalationTimeout (.port port) s = _
  unfold execEscalationTimeout
  dsimp only
  rw [if_neg (by rcases hst with h | h <;> simp [hs, h]), if_pos ⟨by rw [State.passed_some ha]; exact decide_eq_true hd, runs⟩]

end

/-! ### Stacks -/

section
variable {s t : State} {stack : StackId} {a : Nat}

theorem exec_stackReset_quiet (hs : s.stopped = false) (hq : s.barQuiet = true) : exec (.stackReset .pf stack) s = .next (s.dikeStack stack) := by
  show takeStackReset .pf stack (s.flushed .pf) = _
  rw [s.flushed_quiet _ hq]
  unfold takeStackReset
  exact if_neg (by simp [hs])

theorem exec_dikeDrained_stack (hs : s.stopped = false) (hk : (s.hsc stack).state = 1) : exec (.dikeDrained (.stack stack)) s = .next (s.resetStack stack) := by
  show execDikeDrained (.stack stack) s = _
  unfold execDikeDrained
  rw [if_neg (by simp [hs])]
  exact congrArg _ (if_pos hk)

theorem exec_dikeTimeout_stack (hs : s.stopped = false) (hk : (s.hsc stack).state = 1) (ha : (s.hsc stack).dikeAt = some a) (hd : a + (s.hsc stack).dikeFor ≤ s.time) :
    exec (.dikeTimeout (.stack stack)) s = .next (s.resetStack stack) := by
  show execDikeTimeout (.stack stack) s = _
  unfold execDikeTimeout
  rw [if_neg (by simp [hs])]
  exact congrArg _ (if_pos ⟨hk, by rw [State.passed_some ha]; exact decide_eq_true hd⟩)

theorem exec_dikeLifted_stack (hs : s.stopped = false) (hk : (s.hsc stack).state = 2) : exec (.dikeLifted (.stack stack)) s = .next (s.liftStack stack) := by
  show execDikeLifted (.stack stack) s = _
  unfold execDikeLifted
  rw [if_neg (by simp [hs])]
  exact congrArg _ (if_pos hk)

/-- The reset of a stack: its contents stay, its recovery time starts, and no event is logged (R417, R419). -/
theorem State.resetStack_resets (s : State) (k : Nat) : ((s.resetStack k).hsc k).state = 2 ∧ ((s.resetStack k).hsc k).resetAt = some s.time ∧
    (s.resetStack k).hbm = s.hbm ∧ (s.resetStack k).events = s.events := by
  unfold State.resetStack
  rw [State.bump_hsc, State.hsc_setHsc_self]
  exact ⟨rfl, rfl, rfl, rfl⟩

/-- A stack whose dike is lifted is in service, and that is an event; an HBM_RETRAIN may be ready by it. -/
theorem State.liftStack_rest (s : State) (k : Nat) : ∃ m, s.liftStack k =
    { (s.setHsc k { s.hsc k with state := 0, dikeAt := none, resetAt := none }).log 0x0022 (sourceOf 4 k) 0 .ok 0 with mbx := m } := by
  unfold State.liftStack
  dsimp only
  generalize State.log _ 0x0022 _ _ _ _ _ = y
  split
  · split
    · exact ⟨_, rfl⟩
    · exact ⟨y.mbx, rfl⟩
  · exact ⟨y.mbx, rfl⟩

theorem State.liftStack_lifts (s : State) (k : Nat) : (s.liftStack k).hsc k = { s.hsc k with state := 0, dikeAt := none, resetAt := none } ∧
    (s.liftStack k).hbm = s.hbm ∧ s.records (s.liftStack k) 0x0022 (sourceOf 4 k) 0 .ok 0 [] := by
  obtain ⟨m, lifts⟩ := s.liftStack_rest k
  rw [lifts]
  generalize hy : State.log _ 0x0022 _ _ _ _ _ = y
  have lifted : y.hsc k = { s.hsc k with state := 0, dikeAt := none, resetAt := none } := by rw [← hy, State.log_hsc, State.hsc_setHsc_self]
  have kept : y.hbm = s.hbm := by rw [← hy, State.log_hbm, State.setHsc_hbm]
  have logged : s.records y 0x0022 (sourceOf 4 k) 0 .ok 0 [] := by
    rw [← hy]
    exact State.log_records (s.setHsc k _) ..
  exact ⟨lifted, kept, logged⟩

/-! ### A stack that fails is fatal (R429, R430) -/

theorem State.Talk.hscs {rs : List Reg} (h : s.Talk rs t) : t.hscs = s.hscs := by rw [h.rest]

theorem State.closeNow_hscs (s : State) (i : Nat) (st : Status) : (s.closeNow i st).hscs = s.hscs := by
  unfold State.closeNow
  split
  · rfl
  next v _ =>
    dsimp only
    have digested : (v.cores.foldl (fun (s : State) k => s.coreDigests k v.desc.ctxTag) s).hscs = s.hscs :=
      (State.Talk.foldl (rs := []) (fun s k => s.coreDigests_talk k v.desc.ctxTag) v.cores s).hscs
    generalize v.cores.foldl (fun (s : State) k => s.coreDigests k v.desc.ctxTag) s = x at digested ⊢
    generalize hy : x.setCtx i _ = y
    have begun : y.hscs = s.hscs := by rw [← hy]; exact digested
    generalize ((y.ctx i).inv).getD v = w
    split
    · obtain ⟨_, talk, -⟩ := y.closeInvoke_spec i w (standing v.ending st)
      exact talk.hscs.trans begun
    · have held : (if y.healthAt.isSome = true then y.holdDraw else y).hscs = s.hscs := by
        split
        · exact begun
        · exact begun
      generalize (if y.healthAt.isSome = true then y.holdDraw else y) = z at held ⊢
      have flushed := (z.flushRecords_talk i).hscs.trans held
      generalize z.flushRecords i = z' at flushed ⊢
      have completed : ∀ c, ((z'.setCtx i c).complete i w.desc (standing v.ending st)).hscs = s.hscs := fun c =>
        (State.complete_talk ..).hscs.trans flushed
      split
      · exact (State.complete_talk ..).hscs.trans (completed _)
      · exact completed _

theorem State.endRunning_hscs (s : State) (i : Nat) (st : Status) : (s.endRunning i st).hscs = s.hscs := by
  unfold State.endRunning
  dsimp only
  refine (State.closeNow_hscs ..).trans ?_
  have withdrawn := (s.withdraw_talk i (some st)).hscs
  generalize s.withdraw i (some st) = x at withdrawn ⊢
  have copies : ∀ y : State, y.hscs = s.hscs → (match (x.ctx i).copy with | some j => y.copyEarly i j | none => y).hscs = s.hscs := fun y hy => by
    split
    · exact (y.copyEarly_talk ..).hscs.trans hy
    · exact hy
  have jobs : ∀ (l : List Job) (y : State), y.hscs = s.hscs → (l.foldl (fun (s : State) j => s.endJob i st j) y).hscs = s.hscs := fun l y hy =>
    List.foldlRecOn (motive := fun t : State => t.hscs = s.hscs) _ _ hy fun z hz j _ => (z.complete_talk ..).hscs.trans hz
  split
  · exact (State.complete_talk ..).hscs.trans (jobs _ _ (copies _ withdrawn))
  · exact jobs _ _ (copies _ withdrawn)

theorem State.writeDump_hscs (s : State) (cause : Nat) : (s.writeDump cause).hscs = s.hscs := by
  unfold State.writeDump
  extract_lets host buf
  split
  next => rfl
  next secs placed length count complete headAs head body bytes src written counted described _ =>
    have kept : written.hscs = s.hscs := by
      unfold written src
      clear_value placed head body length headAs
      split
      · exact List.foldlRecOn (motive := fun t : State => t.hscs = s.hscs) _ _ rfl fun _ ht _ _ => ht
      · rfl
    have told : described.hscs = written.hscs := by
      unfold described counted
      clear_value written
      simp only [List.foldl_cons, List.foldl_nil, State.setF_hscs]
    rw [State.emit_hscs, State.setF_hscs, told, kept]

/-- A fatal error moves no stack: the dikes of the ports, the ends of what runs and the dump leave them. -/
theorem State.fatal_hscs (s : State) (cause : Nat) : (s.fatal cause).hscs = s.hscs := by
  unfold State.fatal
  split
  · rfl
  have diked : ∀ (l : List Nat) (x : State), x.hscs = s.hscs → (l.foldl (fun (s : State) n => s.dikePort n) x).hscs = s.hscs := fun l x hx =>
    List.foldlRecOn (motive := fun t : State => t.hscs = s.hscs) _ _ hx fun t ht n _ => (t.dikePort_hscs n).trans ht
  have ended : ∀ (l : List Nat) (x : State), x.hscs = s.hscs → (l.foldl (fun (s : State) i => s.endRunning i .fencedAbort) x).hscs = s.hscs := fun l x hx =>
    List.foldlRecOn (motive := fun t : State => t.hscs = s.hscs) _ _ hx fun t ht i _ => (t.endRunning_hscs i _).trans ht
  exact (State.writeDump_hscs ..).trans (ended _ _ (diked _ _ (State.log_hscs ..)))

theorem exec_escalationTimeout_stack (hs : s.stopped = false) (hk : (s.hsc stack).state = 2) (ha : (s.hsc stack).resetAt = some a) (hd : a + 1800000000 ≤ s.time) :
    exec (.escalationTimeout (.stack stack)) s = .next ((s.setHsc stack { s.hsc stack with state := 3 }).fatal 2) := by
  show execEscalationTimeout (.stack stack) s = _
  unfold execEscalationTimeout
  exact congrArg _ (if_pos ⟨hs, hk, by rw [State.passed_some ha]; exact decide_eq_true hd⟩)

theorem exec_escalationTimeout_stack_early (ha : (s.hsc stack).resetAt = some a) (hd : s.time < a + 1800000000) :
    exec (.escalationTimeout (.stack stack)) s = .next s := by
  show execEscalationTimeout (.stack stack) s = _
  unfold execEscalationTimeout
  refine congrArg _ (if_neg fun ⟨_, _, passed⟩ => ?_)
  rw [State.passed_some ha] at passed
  exact absurd (of_decide_eq_true passed) (Nat.not_le.2 hd)

end

end Sys2Proof.Machine

/-! PROOFS. O45: a port and a stack diked, reset and lifted. -/

namespace Sys2Proof.Machine

section
variable {s : State} {port : PortId} {stack : StackId} {a : Nat}

theorem portReset_dikes (hs : s.stopped = false) (hq : s.barQuiet = true) (hr : s.portResets port = false) (hst : s.portState port ≠ 0) :
    ∃ t, exec (.portReset .pf port) s = .next t ∧ t.portState port = 5 ∧ (t.port port).dikeAt = some s.time ∧ (t.port port).dikeFor = s.dikeNs ∧
      (t.port port).resetBy = true ∧ t.getF F.lnkLanesForceLanes port = 0 ∧ t.getF F.lnkCtlForceWidth port = 0 := by
  obtain ⟨diked, since, lasts, lanes, width⟩ := State.dikePort_dikes hst hr
  refine ⟨_, exec_portReset_quiet hs hq hr hst, ?_⟩
  simp only [State.port_setPort_self]
  exact ⟨diked, since, lasts, trivial, lanes, width⟩

theorem dikeLifted_opens_port (hs : s.stopped = false) (h3 : s.portState port = 3) (hd : (s.port port).dikeAt.isSome = true) :
    ∃ t, exec (.dikeLifted (.port port)) s = .next t ∧ t.port port = { s.port port with dikeAt := none, resetBy := false, overdue := false } ∧
      t.portState port = 3 ∧ s.records t 0x0022 (sourceOf 2 port) 0 .ok 0 [] := by
  refine ⟨_, exec_dikeLifted_port hs h3 hd, ?_, ?_, ?_⟩
  · rw [State.log_port, State.port_setPort_self]
  · rw [State.log_portState]
    exact h3
  · exact State.log_records (s.setPort port _) ..

/-- The dike of a port that gives up is overdue, and so holds nothing: the port goes down all the same (Table 16.7). -/
theorem escalationTimeout_downs_port (hs : s.stopped = false) (ha : (s.port port).dikeAt.or (s.port port).trainAt = some a) (hd : a + 150000000 ≤ s.time)
    (hst : s.portState port = 5 ∨ s.portState port = 2) :
    ∃ t, exec (.escalationTimeout (.port port)) s = .next t ∧ t.portState port = (if (s.port port).quarantined then 4 else 1) := by
  refine ⟨_, exec_escalationTimeout_port hs ha hd hst, ?_⟩
  have overdue : ((s.setPort port { s.port port with overdue := (s.port port).dikeAt.isSome }).port port).diked = false := by
    rw [State.port_setPort_self]
    exact Bool.and_not_self _
  rw [State.portDown_low _ _ overdue, State.port_setPort_self]

/-- A stack in service is diked by a reset and by lost training alike (R294). -/
theorem stack_dikes (hs : s.stopped = false) (hk : (s.hsc stack).state = 0) (hq : s.barQuiet = true) {parity : Nat} {lost : Bool} (worn : 16 ≤ parity ∨ lost = true)
    {c : Instr} (hc : c ∈ [Instr.stackReset .pf stack, .hbmTrainingLoss stack parity lost]) : ∃ t, exec c s = .next t ∧
      t.hsc stack = { s.hsc stack with state := 1, dikeAt := some s.time, dikeFor := s.dikeNs } ∧ t.hbm = s.hbm ∧ s.records t 0x0020 (sourceOf 4 stack) 0 .ok 0 [] := by
  have runs : exec c s = .next (s.dikeStack stack) := by
    obtain rfl | rfl : c = Instr.stackReset .pf stack ∨ c = .hbmTrainingLoss stack parity lost := by simpa using hc
    · exact exec_stackReset_quiet hs hq
    · exact exec_hbmTrainingLoss_loses hs worn
  refine ⟨_, runs.trans (congrArg _ (State.dikeStack_up hk)), ?_, ?_, State.log_records ..⟩
  · rw [State.log_hsc, State.hsc_setHsc_self]
  · rw [State.log_hbm, State.setHsc_hbm]

theorem escalationTimeout_fails_stack (hs : s.stopped = false) (hk : (s.hsc stack).state = 2) (ha : (s.hsc stack).resetAt = some a) (hd : a + 1800000000 ≤ s.time)
    (awake : s.deaf = false) : ∃ t, exec (.escalationTimeout (.stack stack)) s = .next t ∧ t.failed = true ∧ (t.hsc stack).state = 3 := by
  refine ⟨_, exec_escalationTimeout_stack hs hk ha hd, ?_⟩
  have failing : ((s.setHsc stack { s.hsc stack with state := 3 }).hsc stack).state = 3 := congrArg StackSt.state (State.hsc_setHsc_self ..)
  have listens : (s.setHsc stack { s.hsc stack with state := 3 }).deaf = false := awake
  generalize s.setHsc stack { s.hsc stack with state := 3 } = x at failing listens
  exact ⟨State.fatal_failed listens 2, (congrArg (fun k : Table StackSt => (k.get .up stack.val).state) (x.fatal_hscs 2)).trans failing⟩

end

/-- Settles O45: each step is the model's own on a port or a stack (its exec equation above); the dike of a port stands because what ends in it writes no port's
state and no dike (`State.KeepsDikes`), and a fatal error leaves the stacks as they are (`State.fatal_hscs`). -/
theorem portAndStackResetComplete : Obligations.PortAndStackResetComplete := by
  unfold Obligations.PortAndStackResetComplete
  intro s hs
  refine ⟨fun port hq hr hst => portReset_dikes hs hq hr hst, fun port hq hr => exec_portReset_again hq hr,
    fun port h5 ht => ⟨_, exec_dikeDrained_port hs h5 ht, s.trainPort_trains port⟩,
    fun port a ha hd ho hst => ⟨_, exec_dikeTimeout_port hs ha hd ho hst, s.portLost_low port⟩,
    fun port h3 hd => dikeLifted_opens_port hs h3 hd, fun port a ha hd hst => escalationTimeout_downs_port hs ha hd hst,
    fun stack hk hq parity lost worn c hc => stack_dikes hs hk hq worn hc, fun stack hk => ?_,
    fun stack hk => ⟨_, exec_dikeLifted_stack hs hk, s.liftStack_lifts stack⟩,
    fun stack a hk ha => ⟨fun hd awake => escalationTimeout_fails_stack hs hk ha hd awake, exec_escalationTimeout_stack_early ha⟩⟩
  obtain ⟨reset, since, contents, silent⟩ := s.resetStack_resets stack
  exact ⟨⟨_, exec_dikeDrained_stack hs hk, reset, since, contents⟩, fun a ha hd => ⟨_, exec_dikeTimeout_stack hs hk ha hd, reset, since, contents, silent⟩⟩

end Sys2Proof.Machine

/-! PROOFS. What reads of device memory and of scratchpads leave alone (R123, R289 to R312). As for writes (`SurvivesWrites`), a property that stands through each step of a
read stands through the read; but a read writes few registers (`readRegs`), so the property may speak of the others. -/

namespace Sys2Proof.Machine

/-! ### Reads of device memory -/

/-- Registers that reads of device memory write: the counts and places of errors, the first fault of translation, the counts of retries. -/
def readRegs : List Reg := [.hscStackCorr, .hscStackBad, .hscPtFault, .ckuTransient, .ckuLasting]

/-- A property of states that stands whatever a read does: errors met, put right or asked of storage, translations cached, those registers, the counts and gauges of
the contexts. -/
structure SurvivesReads (P : State → Prop) : Prop where
  memory : ∀ s m e p, P s → P { s with hbm := m, hbmErr := e, hbmPassing := p }
  caches : ∀ s a b c, P s → P { s with tlb := a, slices := b, nodes := c }
  setF : ∀ s f v i, f.reg ∈ readRegs → P s → P (s.setF f v i)
  events : ∀ s l, P s → P { s with events := l }
  tally : ∀ s i f w, P s → P (s.tally i f w)
  gauge : ∀ s i g w, P s → P (s.gauge i g w)
  refetch : ∀ s l, P s → P { s with refetch := l }
  asks : ∀ s t, s.Asks t → P s → P t

namespace SurvivesReads

open SurvivesWrites (of_eq of_ite)

section
variable {P : State → Prop} {s : State} (hP : SurvivesReads P)
include hP

theorem bump (h : P s) (f : Fld) (i n : Nat) (hf : f.reg ∈ readRegs := by decide) : P (s.bump f i n) := hP.setF s f _ i hf h

theorem log (h : P s) (code source tag : Nat) (st : Status) (sev : Nat) (arg : Bytes) : P (s.log code source tag st sev arg) := by
  obtain ⟨l, hl⟩ := s.log_rest code source tag st sev arg
  rw [hl]
  exact hP.events s l h

theorem transient (h : P s) (i type source : Nat) (w : Bool) : P (s.transient i type source w) := by
  unfold State.transient
  exact hP.log (hP.bump (hP.tally s _ _ _ h) ..) ..

theorem lastingUnit (h : P s) (i : Nat) (w : Bool) : P (s.lastingUnit i w) := hP.bump (hP.tally s i _ w h) ..

theorem readOnce (h : P s) (k sector : Nat) (noise : Upset) : P (s.readOnce k sector noise).2 := by
  have taken := hP.memory s s.hbm s.hbmErr (s.hbmPassing.del sector) h
  unfold State.readOnce
  dsimp only
  split
  · split
    · exact taken
    · exact hP.memory _ _ _ (s.hbmPassing.del sector) (hP.bump taken ..)
  · exact taken

theorem badSector (h : P s) (k dpa : Nat) (scrub : Bool) : P (s.badSector k dpa scrub) :=
  hP.setF _ _ _ _ (by decide) (hP.setF _ _ _ _ (by decide) (hP.setF s _ _ _ (by decide) h))

theorem readBack (h : P s) (k sector : Nat) (noise : Upset) : P (s.readBack k sector noise) := by
  have read := hP.readOnce h k sector noise
  unfold State.readBack
  split
  next e => exact of_eq read e
  next e => exact hP.badSector (of_eq read e) ..

/-- A retry that served a sector, and one that did not, report. -/
theorem servedSector (h : P s) (i k : Nat) (w : Bool) : P ((s.transient i 0x0D (sourceOf 4 k) w).sectorEvent i k w none) :=
  hP.gauge _ _ _ _ (hP.transient h ..)

theorem lostSector (h : P s) (i k dpa : Nat) (w supply : Bool) :
    P (((s.badSector k dpa false).lastingUnit i w).sectorEvent i k w (some .uncorrectable) supply) :=
  hP.gauge _ _ _ _ (hP.lastingUnit (hP.badSector h ..) ..)

theorem readSector (h : P s) (i sector : Nat) (mirror win : Bool) (va : Nat) (noise partner : Noise) (spare : Bool) :
    P (s.readSector i sector mirror win va noise partner spare).2 := by
  unfold State.readSector
  dsimp only
  generalize stackOf s.key (sector * 32) = k
  have h1 := hP.readOnce h k sector noise.first
  generalize s.readOnce k sector noise.first = x at h1 ⊢
  obtain ⟨_ | bs, s1⟩ := x
  case some => exact h1
  have h2 := hP.readOnce h1 k sector noise.second
  dsimp only at h2 ⊢
  generalize s1.readOnce k sector noise.second = x at h2 ⊢
  obtain ⟨_ | bs, s2⟩ := x
  case some => exact hP.servedSector h2 ..
  dsimp only
  generalize hy : (if (s2.refetch.find? fun r => r.ctx == i && r.sector == sector).isSome = true then s2 else s2.bump F.hscStackCorrUncorr k) = y
  have hy : P y := by
    rw [← hy]
    split
    · exact h2
    · exact hP.bump h2 ..
  generalize hz : (if (mirror && !spare && _) = true then _ else (none, y)) = z
  have hz : P z.2 := hz ▸ of_ite (hP.readOnce hy ..) hy
  obtain ⟨_ | bs, s4⟩ := z
  case some => exact hP.servedSector (hP.readBack (hP.bump (hP.memory s4 _ _ s4.hbmPassing hz) ..) ..) ..
  dsimp only at hz ⊢
  split
  · split
    · exact hP.refetch _ _ (hP.lostSector hz ..)
    · exact hz
  split
  · split
    · exact hP.asks _ _ (State.askObject_asks ..) (hP.refetch _ _ hz)
    · exact hP.refetch _ _ (hP.lostSector hz ..)
  · exact hP.refetch _ _ (hP.lostSector hz ..)

theorem readDpa (h : P s) (i dpa n : Nat) (mirror win : Bool) (va : Nat) (noise : Noise) : P (s.readDpa i dpa n mirror win va noise).2 := by
  unfold State.readDpa
  dsimp only
  refine of_ite h (of_ite h (of_ite h ?_))
  generalize (if s.stackDown dpa = true then _ else _) = base
  generalize hx : List.foldl _ (Fetched.data [], s) _ = x
  have read : P x.2 := by
    rw [← hx]
    refine List.foldlRecOn (motive := fun acc : Fetched × State => P acc.2) _ _ h fun acc ih j _ => ?_
    generalize (if j = 0 then noise else Noise.none) = nz
    split
    · split
      · exact ih
      split
      next e => exact of_eq (hP.readSector ih ..) e
      · exact hP.readSector ih ..
    · exact ih
  obtain ⟨r, t⟩ := x
  cases r <;> exact read

theorem nodeRead (h : P s) (dpa : Nat) (noise : Noise) : P (s.nodeRead dpa noise).2 := by
  have once := hP.readOnce h (stackOf s.key dpa) (dpa / 32) noise.first
  unfold State.nodeRead
  dsimp only
  refine of_ite h ?_
  split
  next e => exact of_eq once e
  next e =>
    have twice := hP.readOnce (of_eq once e) (stackOf s.key dpa) (dpa / 32) noise.second
    split
    next e => exact of_eq twice e
    next e => exact of_eq twice e

theorem nodeEntry (h : P s) (f i dpa : Nat) (noise : Noise) : P (s.nodeEntry f i dpa noise).2 := by
  unfold State.nodeEntry
  split
  · exact h
  · exact hP.nodeRead h ..

theorem walk (h : P s) (f i va : Nat) (noise : Noise) : P (s.walk f i va noise).2 := by
  have keep : ∀ {t : State} (d e : Nat), P t → P (t.keepNode f i d e) := fun {t} _ _ ht => hP.caches t t.tlb t.slices _ ht
  unfold State.walk
  dsimp only
  refine of_ite h ?_
  split
  next e => exact of_eq (hP.nodeEntry h ..) e
  next e1 s1 e =>
    have root := of_eq (hP.nodeEntry h ..) e
    refine of_ite root (of_ite root (of_ite root ?_))
    split
    next e => exact of_eq (hP.nodeEntry (keep _ _ root) ..) e
    next e2 s2 e =>
      have middle := of_eq (hP.nodeEntry (keep _ _ root) ..) e
      refine of_ite middle (of_ite middle (of_ite middle ?_))
      split
      next e => exact of_eq (hP.nodeRead (keep _ _ middle) ..) e
      next e =>
        have last := of_eq (hP.nodeRead (keep _ _ middle) ..) e
        exact of_ite last (of_ite last (of_ite last (of_ite last last)))

theorem leaf (h : P s) (u : Translator) (i va : Nat) (noise : Noise) : P (s.leaf u i va noise).2 := by
  unfold State.leaf
  dsimp only
  split
  · exact h
  split
  · exact hP.caches s _ s.slices s.nodes h
  split
  next t e =>
    have walked := of_eq (hP.walk h ..) e
    exact hP.caches t _ _ t.nodes walked
  · exact hP.walk h ..

theorem ptFault (h : P s) (reason tag va : Nat) : P (s.ptFault reason tag va) := by
  unfold State.ptFault
  split
  · exact h
  · exact hP.setF _ _ _ _ (by decide) (hP.setF _ _ _ _ (by decide) (hP.setF _ _ _ _ (by decide) (hP.setF _ _ _ _ (by decide) h)))

theorem translate (h : P s) (u : Translator) (tag va : Nat) (write : Bool) (noise : Noise) : P (s.translate u tag va write noise).2 := by
  unfold State.translate
  dsimp only
  refine of_ite (hP.ptFault h ..) (of_ite (hP.ptFault h ..) (of_ite (hP.ptFault h ..) (of_ite h ?_)))
  split
  · exact h
  refine of_ite (hP.ptFault h ..) ?_
  split
  next e => exact hP.ptFault (of_eq (hP.leaf h ..) e) ..
  next e =>
    have found := of_eq (hP.leaf h ..) e
    split
    · exact hP.ptFault found ..
    · exact found

/-- A property that stands through the steps of reads stands through a read of device memory by a context's addresses. -/
theorem readVa (h : P s) (t : Translator) (tag va n : Nat) (win : Bool) (u : Units) (noise : Noise) : P (s.readVa t tag va n win u noise).2 := by
  unfold State.readVa
  dsimp only
  refine List.foldlRecOn (motive := fun acc : Fetched × State => P acc.2) _ _ h fun acc ih p _ => ?_
  split
  · split
    next e => exact of_eq (hP.translate ih ..) e
    next e =>
      have placed := of_eq (hP.translate ih ..) e
      split
      next e => exact of_eq (hP.readDpa placed ..) e
      · exact hP.readDpa placed ..
  · exact ih

end

end SurvivesReads

/-! ### What a gather engine looks at besides the rows it reads -/

/-- The INVOKE of a context is bound, and nothing ends it yet (R233). -/
def CtxSt.active (c : CtxSt) : Bool :=
  match c.inv with
  | some v => v.bound && v.ending.isNone
  | none => false

/-- What decides about runs stays: the engines, tags of contexts, the plan, and whether INVOKEs are bound and go on. -/
structure State.Spares (s t : State) : Prop where
  engines : t.engines = s.engines
  tags : t.reg .hiuCtxCtl = s.reg .hiuCtxCtl
  plan : t.reg .topoPlanStatus = s.reg .topoPlanStatus
  active : s.Steady CtxSt.active t

section
variable {s t u : State}

theorem State.Spares.refl (s : State) : s.Spares s := ⟨rfl, rfl, rfl, .refl s⟩

theorem State.Spares.trans (h : s.Spares t) (k : t.Spares u) : s.Spares u :=
  ⟨k.engines.trans h.engines, k.tags.trans h.tags, k.plan.trans h.plan, h.active.trans k.active⟩

theorem State.Spares.engine (h : s.Spares t) (e : Nat) : t.engine e = s.engine e := by rw [State.engine, h.engines]; rfl

theorem State.Spares.isHere (h : s.Spares t) (n : Nat) : t.isHere n = s.isHere n := State.isHere_of_reg h.plan n

theorem State.live_active (s : State) (tag : Nat) : s.live tag = (s.tag (tagIndex tag) == tag && (s.ctx (tagIndex tag)).active) := rfl

theorem State.Spares.live (h : s.Spares t) (tag : Nat) : t.live tag = s.live tag := by
  have tags : t.tag (tagIndex tag) = s.tag (tagIndex tag) := congrArg (fun r : Nat → Nat => tagOf _ (bits (r _) _ _)) h.tags
  rw [State.live_active, State.live_active, tags, h.active.view]

theorem State.Spares.of_talk (h : s.Talk talkRegs t) (k : s.Steady CtxSt.active t) : s.Spares t :=
  ⟨by rw [h.rest], funext (h.regs _ (by decide)), funext (h.regs _ (by decide)), k⟩

theorem State.tally_active (s : State) (i : Nat) (f : Tally → Tally) (w : Bool) : s.Steady CtxSt.active (s.tally i f w) := by
  unfold State.tally
  dsimp only
  split
  · exact .setCtx s i _
  split
  · exact .refl s
  next hv => exact .setCtx s i _ (by simp [CtxSt.active, hv])

theorem State.gauge_active (s : State) (i : Nat) (g : Gauge) (w : Bool) : s.Steady CtxSt.active (s.gauge i g w) := by
  have recorded : ∀ (p : Prop) [Decidable p] (l : List Record) (x : CtxSt), x.active = (s.ctx i).active →
      s.Steady CtxSt.active ((if p then { s with collector := l } else s).setCtx i x) := fun p _ l x hx => by
    split
    · exact (State.Steady.collect s l).trans (.setCtx _ i x hx)
    · exact .setCtx s i x hx
  unfold State.gauge
  dsimp only
  split
  · exact recorded _ _ _ rfl
  split
  · exact .refl s
  next hv => exact recorded _ _ _ (by simp [CtxSt.active, hv])

/-- Reads of device memory spare the engines. -/
theorem survives_spares (s : State) : SurvivesReads s.Spares where
  memory _ _ _ _ h := h.trans ⟨rfl, rfl, rfl, .of_ctxs rfl⟩
  caches _ _ _ _ h := h.trans ⟨rfl, rfl, rfl, .of_ctxs rfl⟩
  setF t f v i hf h := h.trans ⟨rfl, funext fun j => t.reg_setF_ne f v i j (by rintro e; rw [← e] at hf; exact absurd hf (by decide)),
    funext fun j => t.reg_setF_ne f v i j (by rintro e; rw [← e] at hf; exact absurd hf (by decide)), .of_ctxs rfl⟩
  events _ _ h := h.trans ⟨rfl, rfl, rfl, .of_ctxs rfl⟩
  tally t i f w h := h.trans (.of_talk (t.tally_talk i f w) (t.tally_active i f w))
  gauge t i g w h := h.trans (.of_talk (t.gauge_talk i g w) (t.gauge_active i g w))
  refetch _ _ h := h.trans ⟨rfl, rfl, rfl, .of_ctxs rfl⟩
  asks _ _ k h := h.trans ⟨by rw [k.rest], by rw [k.rest]; rfl, by rw [k.rest]; rfl, .of_ctxs (by rw [k.rest])⟩

theorem State.readVa_spares (s : State) (t : Translator) (tag va n : Nat) (win : Bool) (u : Units) (noise : Noise) :
    s.Spares (s.readVa t tag va n win u noise).2 := (survives_spares s).readVa (.refl s) ..

theorem State.Fetches.spares {core : Nat} (h : s.Fetches core t) : s.Spares t :=
  ⟨by rw [h.read.rest], h.regs _ (by decide), h.regs _ (by decide), .of_ctxs (by rw [h.read.rest])⟩

theorem State.gRead_spares (s : State) (g : GRun) (h off len : Nat) : s.Spares (s.gRead g h off len).2 := by
  unfold State.gRead
  dsimp only
  split
  · exact .refl s
  split
  next e => exact ((s.spmRead_fetches ..).of_eq e).spares
  next e => exact ((s.spmRead_fetches ..).of_eq e).spares

end

end Sys2Proof.Machine

/-! PROOFS. O30: runs of gather engines (R314 to R333). A run that waits, opens a bag, issues what is due or ends has one equation each (`State.advanceGather_…`); a row that
comes in is refetched or passes (`State.rowIn_…`); what closes a run only talks and sets its engine free (`State.closeGather_closes`). -/

namespace Sys2Proof.Machine

section
variable {s t u x : State} {e : EngineId} {g : GRun} {f : RowFetch}

/-! ### A run in its engine -/

@[simp] theorem State.setGRun_run (s : State) (e : Nat) (r : Option GRun) : ((s.setGRun e r).engine e).run = r := by
  unfold State.setGRun
  rw [State.engine_setEngine_self]

theorem State.Talk.engine {rs : List Reg} (h : s.Talk rs t) (e : Nat) : t.engine e = s.engine e := by rw [h.rest]; rfl

theorem State.Talk.hbm {rs : List Reg} (h : s.Talk rs t) : t.hbm = s.hbm := by rw [h.rest]

theorem State.progress_talk {rs : List Reg} (s : State) (i : Nat) : s.Talk rs (s.progress i) := .setCtx_same ..

/-! ### Closing a run (R324, R331, R333) -/

/-- A run makes its events and leaves its engine. -/
theorem State.closeGather_closes (s : State) (e : Nat) (g : GRun) : ∃ x, s.Talk talkRegs x ∧ s.closeGather e g = x.setGRun e none := by
  unfold State.closeGather
  dsimp only
  split
  · exact ⟨s, .refl s, rfl⟩
  · exact ⟨_, (s.gauge_talk ..).trans (State.gauge_talk ..), rfl⟩

theorem State.gDone_talk (s : State) (g : GRun) : s.Talk faultRegs (s.gDone g) := by
  unfold State.gDone
  dsimp only
  split
  · exact s.sendNamed_talk ..
  · exact .refl s

/-- What a run leaves that has left its engine, sends DONE and counts as progress. -/
theorem State.finished_spec (s : State) (e : Nat) (g : GRun) (i : Nat) : let t := ((s.setGRun e none).gDone g).progress i
    (t.engine e).run = none ∧ t.cores = s.cores ∧ t.hbm = s.hbm := by
  have talk := ((s.setGRun e none).gDone_talk g).trans (State.progress_talk _ i)
  exact ⟨by rw [talk.engine, State.setGRun_run], talk.cores, talk.hbm⟩

theorem State.completeGather_spec (s : State) (e : Nat) (g : GRun) :
    ((s.completeGather e g).engine e).run = none ∧ (s.completeGather e g).cores = s.cores ∧ (s.completeGather e g).hbm = s.hbm := by
  obtain ⟨x, talk, hx⟩ := s.closeGather_closes e g
  obtain ⟨free, cores, hbm⟩ := x.finished_spec e g (tagIndex g.entry.tag)
  unfold State.completeGather
  rw [hx]
  exact ⟨free, cores.trans talk.cores, hbm.trans talk.hbm⟩

/-- A run without fetches in flight that stops leaves its engine. -/
theorem State.stopGather_closes (s : State) (e : Nat) (h : g.fetches = []) : ∃ x, s.Talk talkRegs x ∧ s.stopGather e g = x.setGRun e none := by
  unfold State.stopGather
  simp only [h, List.isEmpty_nil, if_true]
  exact s.closeGather_closes ..

/-- A run without fetches in flight that meets a lasting breach leaves its engine, and its context faults (R329). -/
theorem State.lastingGather_spec (s : State) (e : Nat) (st : Status) (h : g.fetches = []) : let t := s.lastingGather e g st
    (t.engine e).run = none ∧ t.hbm = s.hbm ∧ s.faults t g.entry.tag st ∧ ∀ q, q ∉ .geEvents :: faultRegs → t.reg q = s.reg q := by
  have counted := s.lastingUnit_talk (tagIndex g.entry.tag) false
  unfold State.lastingGather State.failGather
  dsimp only
  generalize s.lastingUnit (tagIndex g.entry.tag) = y at counted
  generalize hz : (if g.failed then y else y.bump F.geEventsLasting e) = z
  have noted : y.Talk [.geEvents] z := by
    rw [← hz]
    split
    · exact .refl y
    · exact .bump ..
  obtain ⟨x, closed, hx⟩ := z.stopGather_closes (g := { g with failed := true }) e h
  rw [hx]
  have fault := (x.setGRun e none).faultTag_talk g.entry.tag st
  have before : ∀ q, q ∉ .geEvents :: talkRegs → x.reg q = s.reg q := fun q hq => by
    rw [List.mem_cons, not_or] at hq
    funext j
    rw [closed.regs q hq.2, noted.regs q (by simpa using hq.1), counted.regs q hq.2]
  refine ⟨by rw [fault.engine, State.setGRun_run], ?_, ?_, fun q hq => ?_⟩
  · exact fault.hbm.trans (closed.hbm.trans (noted.hbm.trans counted.hbm))
  · exact State.faults_before (t := x.setGRun e none) (before _ (by decide)) (before _ (by decide)) (State.faultTag_faults _ _ st)
  · funext j
    rw [fault.regs q fun m => hq (List.mem_cons_of_mem _ m)]
    exact congrFun (before q fun m => hq (List.cons_subset_cons _ (List.subset_cons_self _ _) m)) j

/-! ### Rows that are due (R316, R325) -/

theorem State.isHere_bump (s : State) (f : Fld) (i m n : Nat) (h : Reg.topoPlanStatus ≠ f.reg := by decide) : (s.bump f i m).isHere n = s.isHere n :=
  State.isHere_of_reg (funext fun j => s.reg_bump_ne f i m j h) n

/-- A row of this chip is fetched without a request. -/
theorem State.issueRow_here (h : s.isHere f.chip = true) :
    s.issueRow e g f = (none, { g with fetches := g.fetches ++ [{ f with txn := none }] }, s.bump F.geRowsCount e) := by
  unfold State.issueRow
  dsimp only
  rw [if_pos ((s.isHere_bump ..).trans h)]

theorem State.issueDue_nothing (h : g.todo = []) : s.issueDue e g = (none, g, s) := by
  unfold State.issueDue
  rw [h]
  rfl

theorem State.issueDue_single (h : g.todo = [f]) (hroom : g.room = true) :
    s.issueDue e g = s.issueRow e { g with todo := [], rowCount := g.rowCount + 1 } f := by
  unfold State.issueDue
  simp [h, hroom]

theorem leNat_lt (bs : Bytes) : leNat bs < 256 ^ bs.length := by
  induction bs with
  | nil => exact Nat.one_pos
  | cons b bs ih =>
    have byte := b.isLt
    rw [leNat, List.length_cons, Nat.pow_succ]
    omega

/-- A row fits into an engine that holds none (R314). -/
theorem GRun.room_empty (hf : g.fetches = []) (hr : g.rows = []) : g.room = true := by
  have row : gRowBytes g.entry.desc < 256 ^ 2 := (leNat_lt _).trans_eq (congrArg _ (slice_length ..))
  unfold GRun.room
  simp only [hf, hr, List.length_nil, Bool.and_eq_true, decide_eq_true_eq]
  omega

/-! ### Going on with a run (R325, R331) -/

/-- With its last bag open and nothing to issue, a run waits for its rows. -/
theorem State.advanceGather_waits (ht : g.todo = []) (hb : gBags g.entry.desc ≤ g.nextBag) (h : g.fetches ≠ [] ∨ g.bags ≠ []) {n : Nat} (hn : 0 < n) :
    s.advanceGather e g n = s.setGRun e (some g) := by
  obtain ⟨k, rfl⟩ := Nat.exists_eq_succ_of_ne_zero hn.ne'
  unfold State.advanceGather
  rw [State.issueDue_nothing ht]
  dsimp only
  rw [ht, if_neg (by simp), if_neg (Nat.not_lt.2 hb), if_neg (by simpa [or_iff_not_imp_left] using h)]

/-- With its last bag committed and no row in flight, a run completes. -/
theorem State.advanceGather_completes (ht : g.todo = []) (hb : gBags g.entry.desc ≤ g.nextBag) (hf : g.fetches = []) (hbags : g.bags = []) {n : Nat} (hn : 0 < n) :
    s.advanceGather e g n = s.completeGather e g := by
  obtain ⟨k, rfl⟩ := Nat.exists_eq_succ_of_ne_zero hn.ne'
  unfold State.advanceGather
  rw [State.issueDue_nothing ht]
  dsimp only
  rw [ht, if_neg (by simp), if_neg (Nat.not_lt.2 hb), if_pos (by simp [hf, hbags])]

/-- A run opens its next bag and goes on with its rows. -/
theorem State.advanceGather_opens {l : List RowFetch} (ht : g.todo = []) (hb : g.nextBag < gBags g.entry.desc) (h : s.openBag e g g.nextBag = (.rows (f :: l), x)) (k : Nat) :
    s.advanceGather e g (k + 1) =
      x.advanceGather e { g with nextBag := g.nextBag + 1, todo := f :: l, bags := g.bags ++ [(g.nextBag, (f :: l).length)] } k := by
  rw [State.advanceGather, State.issueDue_nothing ht]
  dsimp only
  rw [ht, if_neg (by simp), if_pos hb, h]

/-- A run of one due row of this chip, its last bag open, fetches it and waits. -/
theorem State.advanceGather_fetches (ht : g.todo = [f]) (hroom : g.room = true) (hb : gBags g.entry.desc ≤ g.nextBag) (hh : s.isHere f.chip = true) (k : Nat) :
    s.advanceGather e g (k + 1) = (s.bump F.geRowsCount e).setGRun e
      (some { g with todo := [], rowCount := g.rowCount + 1, fetches := g.fetches ++ [{ f with txn := none }] }) := by
  unfold State.advanceGather
  rw [State.issueDue_single ht hroom, State.issueRow_here hh]
  dsimp only
  rw [if_neg (by simp), if_neg (Nat.not_lt.2 hb), if_neg (by simp)]

theorem gatherFuel_pos (g : GRun) : 0 < gatherFuel g := Nat.succ_pos _

/-! ### Bags opened (Table 12.3) -/

theorem State.resolve_spares (s : State) (e : Nat) (g : GRun) (b x weight : Nat) : s.Spares (s.resolve e g b x weight).2 := by
  unfold State.resolve
  dsimp only
  split
  · exact .refl s
  split
  · exact .refl s
  have read := fun va => s.readVa_spares (geOf e) g.entry.tag va 2 false .sectors Noise.none
  split
  next h => exact SurvivesWrites.of_eq (read _) h
  next h => exact SurvivesWrites.of_eq (read _) h
  next h => exact SurvivesWrites.of_eq (read _) h

/-- Opening a bag reads its lists and places its rows, and spares the engines. -/
theorem State.openBag_spares (s : State) (e : Nat) (g : GRun) (b : Nat) : s.Spares (s.openBag e g b).2 := by
  unfold State.openBag
  dsimp only
  split
  next h => exact SurvivesWrites.of_eq (s.gRead_spares ..) h
  next ob y h =>
  have offsets : s.Spares y := SurvivesWrites.of_eq (s.gRead_spares ..) h
  split
  · exact offsets
  split
  next h => exact offsets.trans (SurvivesWrites.of_eq (y.gRead_spares ..) h)
  next xs z h =>
  have indices : s.Spares z := offsets.trans (SurvivesWrites.of_eq (y.gRead_spares ..) h)
  have weights : ∀ (p : Prop) [Decidable p] (h off len : Nat), z.Spares (if p then z.gRead g h off len else (.ok [], z)).2 := fun p _ h off len =>
    SurvivesWrites.of_ite (z.gRead_spares ..) (.refl z)
  split
  next h => exact indices.trans (SurvivesWrites.of_eq (weights ..) h)
  next h =>
  have read := indices.trans (SurvivesWrites.of_eq (weights ..) h)
  split
  · exact read
  refine List.foldlRecOn (motive := fun acc : Opened × State => s.Spares acc.2) _ _ read fun acc ih p _ => ?_
  split
  · split
    next h => exact ih.trans (SurvivesWrites.of_eq (State.resolve_spares ..) h)
    · exact ih.trans (State.resolve_spares ..)
  · exact ih

/-! ### Rows that come in (R99, R329, R330) -/

theorem State.localRow_spares (s : State) (e : Nat) (g : GRun) (f : RowFetch) : s.Spares (s.localRow e g f).2 := by
  unfold State.localRow
  split
  next h =>
    have row := SurvivesWrites.of_eq (P := s.Spares) (s.readVa_spares ..) h
    split
    next h => exact row.trans (SurvivesWrites.of_eq (State.readVa_spares ..) h)
    · exact row.trans (State.readVa_spares ..)
  · exact s.readVa_spares ..

theorem goodRow_passes {d bs : Bytes} {hit : Upset} (h : crc32c (upsetBytes (slice bs 0 (gRowBytes d)) hit) = field bs (gRowBytes d) 4) :
    goodRow d bs true hit = some (upsetBytes (slice bs 0 (gRowBytes d)) hit) := by
  unfold goodRow
  simp [h]

theorem goodRow_fails {d bs : Bytes} {hit : Upset} (h : crc32c (upsetBytes (slice bs 0 (gRowBytes d)) hit) ≠ field bs (gRowBytes d) 4) : goodRow d bs true hit = none := by
  unfold goodRow
  simp [h]

section
variable {bs row : Bytes} {hit : Upset} {pool : Hit} {rails : Rails} (hr : (u.engine e).run = some g) (hs : g.stopped = false) (hl : u.live g.entry.tag = true)
include hr hs hl

/-- A good row of a run that goes on passes. -/
theorem State.rowIn_passes (hg : goodRow g.entry.desc bs true hit = some row) : u.rowIn e f (.ok (bs, true)) hit pool rails =
    u.rowPassed e { g with fetches := g.fetches.erase f } f row (field bs (gRowBytes g.entry.desc + 4) 4) pool rails := by
  unfold State.rowIn
  rw [hr]
  simp only [hs, hl, hg]
  rfl

/-- A damaged row of this chip is fetched again, once. -/
theorem State.rowIn_refetches (hg : goodRow g.entry.desc bs true hit = none) (ha : f.again = false) (hh : u.isHere f.chip = true) :
    u.rowIn e f (.ok (bs, true)) hit pool rails = ((u.bump F.geEventsRefetch e).bump F.geRowsCount e).setGRun e
      (some { g with fetches := g.fetches.erase f ++ [{ f with txn := none, again := true }], rowSupply := g.rowSupply || u.inSupply }) := by
  have here : (u.bump F.geEventsRefetch e).isHere f.chip = true := (u.isHere_bump ..).trans hh
  unfold State.rowIn
  rw [hr]
  simp only [hs, hl, hg, ha, State.issueRow_here (f := { f with again := true }) here]
  rfl

end

/-- The run with one more row in its buffer. -/
def GRun.holding (g : GRun) (f : RowFetch) (row : Bytes) (sum : Nat) : GRun := { g with rows := g.rows ++ [⟨f.bag, row, sum, f.weight⟩] }

/-- The rows that a bag under way counts are all in the buffer. -/
def GRun.full (g : GRun) (bag : Nat) : Bool := g.bags.any (fun b => b.1 == bag && b.2 == (g.rows.filter (fun r => r.bag == bag)).length)

section
variable {row : Bytes} {sum : Nat} {pool : Hit} {rails : Rails} (ha : f.again = false)
include ha

/-- A row of a bag that still misses some is held, and the run goes on. -/
theorem State.rowPassed_held (h : (g.holding f row sum).full f.bag = false) : s.rowPassed e g f row sum pool rails =
    (s.progress (tagIndex g.entry.tag)).advanceGather e (g.holding f row sum) (gatherFuel (g.holding f row sum)) := by
  unfold GRun.full GRun.holding at h
  unfold State.rowPassed
  simp only [ha, h]
  rfl

/-- The last row of a bag has the bag pooled, and the run goes on with what that leaves. -/
theorem State.rowPassed_pools {g2 : GRun} (ht : g.todo = []) (h : (g.holding f row sum).full f.bag = true)
    (hp : (s.progress (tagIndex g.entry.tag)).poolBag e (g.holding f row sum) f.bag pool rails = (some g2, x)) :
    s.rowPassed e g f row sum pool rails = x.advanceGather e g2 (gatherFuel g2) := by
  have cond : ((g.holding f row sum).full f.bag && !g.todo.any (fun x => x.bag == f.bag)) = true := by rw [h, ht]; rfl
  unfold State.rowPassed
  rw [ha]
  refine (if_pos cond).trans ?_
  split
  next e => cases e.symm.trans hp
  next e =>
    cases e.symm.trans hp
    rfl

end

/-! ### Bags pooled (R326 to R330) -/

/-- Committing a bag leaves the run's entry, its next bag and what is due. -/
theorem State.commitBag_keeps {b : Nat} {out : Bytes} {empty unchecked retried : Bool} {st : Option Status} {g2 : GRun}
    (h : s.commitBag e g b out empty unchecked retried = (st, g2, x)) : g2.entry = g.entry ∧ g2.nextBag = g.nextBag ∧ g2.todo = g.todo := by
  revert h
  unfold State.commitBag
  dsimp only
  split
  · rintro ⟨⟩
    exact ⟨rfl, rfl, rfl⟩
  · rintro ⟨⟩
    exact ⟨rfl, rfl, rfl⟩

theorem State.poolBag_keeps {b : Nat} {pool : Hit} {rails : Rails} {g2 : GRun} (h : s.poolBag e g b pool rails = (some g2, x)) :
    g2.entry = g.entry ∧ g2.nextBag = g.nextBag ∧ g2.todo = g.todo := by
  revert h
  unfold State.poolBag
  extract_lets d i rows kappa mode dual pools
  clear_value pools
  obtain ⟨c1, bad1, un1, q1⟩ := pools pool.first (rails != .agree)
  obtain ⟨c2, bad2, un2, q2⟩ := pools pool.second (rails == .lasting)
  dsimp only
  split
  · simp
  generalize (if bad1 = true then (c2, un2, q2) else (c1, un1, q1)) = r
  obtain ⟨c, un, q⟩ := r
  dsimp only
  split
  · simp
  next hc =>
    have kept := State.commitBag_keeps hc
    intro h
    cases h
    exact kept

/-! ### GATHER_RUN_START -/

theorem exec_gatherRunStart_picks {y y' : GEntry} {g : GRun} (hr : (s.engine e).run = none) (hp : pickEntry ((s.engine e).entries.filter (fun y => s.live y.tag)) = some y)
    (hy : y' = { y with runs := y.runs + 1, met := y.met.drop 1 }) (hg : g = GRun.fresh y' y.runs)
    (hu : u = s.setEngine e { s.engine e with entries := (s.engine e).entries.map (fun z => if z.order == y.order && z.tag == y.tag then y' else z) })
    (ho : s.overfills (tagIndex y.tag) (if gMode y.desc = 4 then u.setGRun e (some g) else u.advanceGather e g (gatherFuel g)) = false) :
    exec (.gatherRunStart e) s = .next (if gMode y.desc = 4 then u.setGRun e (some g) else u.advanceGather e g (gatherFuel g)) := by
  subst hg hy hu
  show execGatherRunStart e s = _
  unfold execGatherRunStart
  dsimp only
  split
  next h => cases h.symm.trans hr
  rw [hp]
  exact congrArg Host.Outcome.next (State.unlessFull_room ho)

/-- A run of one bag with one row of this chip fetches it. -/
theorem State.advanceGather_fresh {y : GEntry} {r : Nat} (hb : gBags y.desc = 1) (ho : u.openBag e (.fresh y r) 0 = (.rows [f], x)) (hh : u.isHere f.chip = true) :
    let g := GRun.fresh y r
    u.advanceGather e g (gatherFuel g) = (x.bump F.geRowsCount e).setGRun e
      (some { g with nextBag := 1, bags := [(0, 1)], rowCount := 1, fetches := [{ f with txn := none }] }) := by
  have here : x.isHere f.chip = true := ((SurvivesWrites.of_eq (P := u.Spares) (u.openBag_spares ..) ho).isHere _).trans hh
  have fuel : gatherFuel (GRun.fresh y r) = 3 + 1 := by
    show 2 * gBags y.desc + 2 = 4
    rw [hb]
  dsimp only
  rw [fuel, State.advanceGather_opens (g := GRun.fresh y r) rfl (by show 0 < gBags y.desc; omega) ho]
  exact State.advanceGather_fetches (g := { GRun.fresh y r with nextBag := 1, todo := [f], bags := [(0, 1)] }) rfl (GRun.room_empty rfl rfl) hb.le here 2

/-! ### GATHER_DATA of a local row -/

theorem exec_gatherData_local {k : Nat} {hit : Upset} {pool : Hit} {rails : Rails} {bs : Bytes} (hr : (s.engine e).run = some g) (hk : g.fetches[k]? = some f)
    (ht : f.txn = none) (hl : s.localRow e g f = (.data bs, u)) (ho : s.overfills (tagIndex g.entry.tag) (u.rowIn e f (.ok (bs, true)) hit pool rails) = false) :
    exec (.gatherData e k none hit pool rails) s = .next (u.rowIn e f (.ok (bs, true)) hit pool rails) := by
  show execGatherData e k none hit pool rails s = _
  unfold execGatherData
  dsimp only
  rw [hr]
  dsimp only
  rw [hk]
  dsimp only
  rw [ht, hl]
  exact (if_neg Bool.false_ne_true).trans (congrArg Host.Outcome.next (State.unlessFull_room ho))

/-! ### GATHER -/

theorem State.serveGather_answers {port : PortId} {p : Packet} {y : State} {row tag : Bytes}
    (hrow : u.readVa (.link port) p.ctxTag (p.offset % 2 ^ 50) p.size false = (.data row, x))
    (htag : x.readVa (.link port) p.ctxTag (field p.body 0 8 % 2 ^ 50) 8 false = (.data tag, y))
    (ho : u.overfills (tagIndex p.ctxTag) (y.answer p .ok (row ++ tag)) = false) : u.serveGather port p = y.answer p .ok (row ++ tag) := by
  unfold State.serveGather
  rw [hrow]
  dsimp only
  rw [htag]
  exact State.serveOr_room ho

theorem exec_gather_delivered {port : PortId} {p : Packet} (h : s.delivered port p u) (hp : p.type = 5) :
    exec (.gather port p) s = .next (u.serveGather port p) := by
  show execGather port p s = _
  unfold execGather
  rw [h.packetIn]
  exact congrArg _ (if_pos hp)

/-! ### SEAL (R319) -/

/-- An engine marked suspect: what follows the mark itself only talks. -/
theorem State.suspectEngine_talk (s : State) (i e type : Nat) : (s.setF F.geStatusSuspect 1 e).Talk [] (s.suspectEngine i e type) := by
  unfold State.suspectEngine
  dsimp only
  refine State.Talk.trans (State.Talk.trans ?_ (.log ..)) (State.markWindows_talk ..)
  split
  · exact .refl _
  · exact .setCtx_same ..

section
variable {rails : Rails} {row : Bytes} {v : State} (h0 : field g.entry.desc 60 4 ≠ 0)
  (hfit : field g.entry.desc 56 4 + field g.entry.desc 60 4 ≤ gShardRows g.entry.desc) (hw : s.inTideWindow (tagIndex g.entry.tag) (gTags g.entry.desc) = false)
  (hread : s.sealRead e g (field g.entry.desc 56 4 + g.rowCount) = (.data row, v))
include h0 hfit hw hread

/-- Rails that disagree twice make the engine suspect, and the run ends with a lasting breach. -/
theorem State.sealNext_lasting : s.sealNext e g .lasting = (v.suspectEngine (tagIndex g.entry.tag) e 0x0C).lastingGather e g .breachLasting := by
  unfold State.sealNext
  dsimp only
  rw [if_neg h0, if_neg (Nat.not_lt.2 hfit), hw, if_neg (by decide), hread]
  exact if_pos rfl

/-- Otherwise the tag is written, and the run goes on to the next row or ends. -/
theorem State.sealNext_writes (hl : rails ≠ .lasting)
    (hrow : (if rails = .transient then v.transient (tagIndex g.entry.tag) 0x0C (sourceOf 1 e) else v).sealRow e g (field g.entry.desc 56 4 + g.rowCount) row = (.ok, u)) :
    s.sealNext e g rails = if g.rowCount + 1 < field g.entry.desc 60 4 then (u.setGRun e (some { g with rowCount := g.rowCount + 1 })).progress (tagIndex g.entry.tag)
      else ((u.setGRun e none).gDone g).progress (tagIndex g.entry.tag) := by
  unfold State.sealNext
  dsimp only
  rw [if_neg h0, if_neg (Nat.not_lt.2 hfit), hw, if_neg (by decide), hread]
  simp only [beq_iff_eq, if_neg hl, hrow]

end

theorem exec_seal_runs {rails : Rails} (hr : (s.engine e).run = some g) (hm : gMode g.entry.desc = 4) (hs : g.stopped = false) (hl : s.live g.entry.tag = true)
    (ho : s.overfills (tagIndex g.entry.tag) (s.sealNext e g rails) = false) : exec (.seal e rails) s = .next (s.sealNext e g rails) := by
  show execSeal e rails s = _
  unfold execSeal
  rw [hr]
  simp only [hm, hs, hl, ne_eq, not_true, if_false, Bool.not_true, Bool.or_self, Bool.false_eq_true]
  exact congrArg _ (State.unlessFull_room ho)

/-- A seal that ends with a lasting breach frees its engine, marks it suspect and faults its context. -/
theorem State.suspectSeal_spec (v : State) (e : EngineId) (i type : Nat) (st : Status) (hf : g.fetches = []) : let t := (v.suspectEngine i e type).lastingGather e g st
    (t.engine e).run = none ∧ t.flag F.geStatusSuspect e = true ∧ v.faults t g.entry.tag st ∧ t.hbm = v.hbm := by
  have marked := v.suspectEngine_talk i e type
  obtain ⟨free, hbm, faults, regs⟩ := (v.suspectEngine i e type).lastingGather_spec e st hf
  have before : ∀ q, q ≠ .geStatus → (v.suspectEngine i e type).reg q = v.reg q := fun q hq => funext fun j =>
    (marked.regs q List.not_mem_nil j).trans (v.reg_setF_ne F.geStatusSuspect 1 e j hq)
  refine ⟨free, ?_, State.faults_before (before _ (by decide)) (before _ (by decide)) faults, hbm.trans marked.hbm⟩
  have suspect : (v.suspectEngine i e type).getF F.geStatusSuspect e = 1 := (marked.getF F.geStatusSuspect e).trans (State.getF_setF_self ..)
  unfold State.flag State.getF at *
  rw [regs F.geStatusSuspect.reg (by decide), suspect]
  rfl

end

/-! ### All of it together -/

/-- Settles O30: each command is the model's own on an engine (its exec equation above); what a row or a list is read by spares the engine and whether its run is live
(`State.Spares`), and a run that ends only talks and leaves its engine (`State.completeGather_spec`, `State.suspectSeal_spec`). -/
theorem gatherComplete : Obligations.GatherComplete := by
  unfold Obligations.GatherComplete
  intro s e
  refine ⟨?start, ?data, ?serve, ?sealing⟩
  case start =>
    intro y u hr hp y' g hu ho
    have taken := exec_gatherRunStart_picks hr hp rfl rfl hu ho
    refine ⟨fun h4 => ?_, fun f x h4 hb hopen hh => ?_⟩
    · rw [if_pos h4] at taken
      exact ⟨_, taken, State.setGRun_run .., by rw [hu]; rfl⟩
    · rw [if_neg h4] at taken
      have fetched := State.advanceGather_fresh (y := y') hb hopen hh
      exact ⟨_, _, taken.trans (congrArg _ fetched), State.setGRun_run .., rfl, rfl, rfl, rfl, rfl⟩
  case data =>
    intro g k f hit pool rails bs u hr hk ht ha hs hl hrow ho d row rest held g1 full
    have taken := exec_gatherData_local hr hk ht hrow ho
    have spared := SurvivesWrites.of_eq (P := s.Spares) (s.localRow_spares e g f) hrow
    have run : (u.engine e).run = some g := (congrArg GeSt.run (spared.engine e)).trans hr
    have live : u.live g.entry.tag = true := (spared.live _).trans hl
    refine ⟨fun bad hh => ?_, fun good todo last hfull more => ?_, fun g2 x good todo last hfull hp hf hb => ?_⟩
    · rw [State.rowIn_refetches run hs live (goodRow_fails bad) ha hh] at taken
      exact ⟨_, _, taken, State.setGRun_run .., rfl, rfl, rfl⟩
    · have passes := State.rowIn_passes (f := f) (pool := pool) (rails := rails) run hs live (goodRow_passes good)
      have holds := State.rowPassed_held (s := u) (e := e) (g := { g with fetches := rest }) (pool := pool) (rails := rails) ha hfull
      have waits := State.advanceGather_waits (s := u.progress (tagIndex g.entry.tag)) (e := e) (g := g1) todo last more (gatherFuel_pos g1)
      exact ⟨_, _, taken.trans (congrArg _ (passes.trans (holds.trans waits))), State.setGRun_run .., rfl, rfl, rfl⟩
    · have passes := State.rowIn_passes (f := f) (pool := pool) (rails := rails) run hs live (goodRow_passes good)
      have pools := State.rowPassed_pools (s := u) (e := e) (g := { g with fetches := rest }) ha todo hfull hp
      obtain ⟨entry, next, due⟩ := State.poolBag_keeps hp
      have ends := State.advanceGather_completes (s := x) (e := e) (due.trans todo) (by rw [entry, next]; exact last) hf hb (gatherFuel_pos g2)
      obtain ⟨free, cores, hbm⟩ := x.completeGather_spec e g2
      exact ⟨_, taken.trans (congrArg _ (passes.trans (pools.trans ends))), free, congrArg CoreSt.spm (State.core_of_cores cores _), hbm⟩
  case serve =>
    intro port p u x y row tag hd hp hrow htag ho
    exact (exec_gather_delivered hd hp).trans (congrArg _ (State.serveGather_answers hrow htag ho))
  case sealing =>
    intro g rails hr hm hs hl hf h0 hfit hw ho
    have taken := exec_seal_runs hr hm hs hl ho
    refine ⟨fun row v u hrails hread hrow => ?_, fun row v hrails hread => ?_⟩
    · rw [State.sealNext_writes h0 hfit hw hread hrails hrow] at taken
      refine ⟨_, taken, ?_⟩
      by_cases more : g.rowCount + 1 < field g.entry.desc 60 4
      · rw [if_pos more]
        exact ⟨rfl, rfl, fun _ => State.setGRun_run .., fun last => absurd more (Nat.not_lt.2 last)⟩
      · rw [if_neg more]
        obtain ⟨free, cores, hbm⟩ := u.finished_spec e g (tagIndex g.entry.tag)
        exact ⟨hbm, cores, fun k => absurd k more, fun _ => free⟩
    · subst hrails
      rw [State.sealNext_lasting h0 hfit hw hread] at taken
      exact ⟨_, taken, v.suspectSeal_spec e _ _ _ hf⟩

end Sys2Proof.Machine
